-- ==== Sys2Proof/Word.lean ====
section
/-! DEFINITION. The plain number types of the model: bytes, words, instants and the fixed-size bank.
Nothing here computes a spec rule: bit fields, checks and number formats stand in Machine/Bits.lean and Machine/Float.lean. -/

namespace Sys2Proof

/-- One byte of any frame, descriptor, record or image (R8, R9). -/
abbrev Byte := BitVec 8

/-- One 32-bit word: a register, a tag value, a CSW (R213, R558). -/
abbrev Word := BitVec 32

/-- An instant or a span, in half-nanoseconds of the device's own elapsed time (2.5 ns is 5 units, R64, R252). -/
abbrev Time := Nat

/-- `n` microseconds. -/
def us (n : Nat) : Time := n * 2000

/-- `n` milliseconds. -/
def ms (n : Nat) : Time := n * 2000000

/-- `n` seconds. -/
def sec (n : Nat) : Time := n * 2000000000

/-- A fixed number of like things, numbered from 0: tiles, channels, rings, lanes. -/
structure Bank (α : Type) (n : Nat) where
  list : List α
  size : list.length = n
deriving DecidableEq, Repr

/-- Element `i` of a bank. -/
def Bank.get {α : Type} {n : Nat} (b : Bank α n) (i : Fin n) : α :=
  b.list[i.val]'(by rw [b.size]; exact i.isLt)

/-- The bank with element `i` replaced. -/
def Bank.set {α : Type} {n : Nat} (b : Bank α n) (i : Fin n) (x : α) : Bank α n :=
  ⟨b.list.set i.val x, by rw [List.length_set]; exact b.size⟩

/-- The bank with `f` applied to element `i`. -/
def Bank.upd {α : Type} {n : Nat} (b : Bank α n) (i : Fin n) (f : α → α) : Bank α n :=
  b.set i (f (b.get i))

/-- The bank with `f` applied to every element. -/
def Bank.all {α : Type} {n : Nat} (b : Bank α n) (f : α → α) : Bank α n :=
  ⟨b.list.map f, by rw [List.length_map]; exact b.size⟩

/-- A list with `f` applied to each element and its index, counted from `i`. -/
def mapFrom {α : Type} (f : Nat → α → α) : Nat → List α → List α
  | _, [] => []
  | i, x :: xs => f i x :: mapFrom f (i + 1) xs

theorem mapFrom_length {α : Type} (f : Nat → α → α) (xs : List α) :
    ∀ i : Nat, (mapFrom f i xs).length = xs.length := by
  induction xs with
  | nil => intro i; rfl
  | cons x xs ih => intro i; simp [mapFrom, ih]

/-- The bank with `f` applied to each index and element. -/
def Bank.allIdx {α : Type} {n : Nat} (b : Bank α n) (f : Nat → α → α) : Bank α n :=
  ⟨mapFrom f 0 b.list, by rw [mapFrom_length]; exact b.size⟩

/-- A bank of `n` equal elements. -/
def Bank.fill {α : Type} (n : Nat) (x : α) : Bank α n :=
  ⟨List.replicate n x, List.length_replicate⟩

end Sys2Proof
end

