-- ==== Sys2Proof/Syntax.lean ====
section
/-! DEFINITION. The commands and events of the YS96 block: one constructor of `Instr` per row of spec/opcode_table.json.
The first operand `t` of every row is the instant of the event in half-nanoseconds of the device's elapsed time (log entry 2).
Voltages are in millivolts, currents in milliamperes, energies in microjoules and temperatures in tenths of a degree Celsius,
except where a row's meaning says otherwise; `held` is how long the row's condition has stood without a break; `bytes` are the
bytes of a frame or descriptor in offset order (R8, R9). -/

namespace Sys2Proof

/-- What a CFG frame carries (R56): one record of the tile's configuration, named by what it configures. The spec lists the
kinds and prints no byte layout, so the record comes decoded (log entry 6). -/
inductive CfgItem where
  /-- No CFG content (every slot but 9 and 10). -/
  | none
  /-- The 64-byte channel record of channel-in-tile `c` (Table 14-3). -/
  | chan (c : Fin 8) (rec : List Byte)
  /-- The 64-byte tile record, which holds the partition sizes (Table 14-5). -/
  | tile (rec : List Byte)
  /-- The 16-byte fallback record of channel-in-tile `c` (Table 14-11). -/
  | safe (c : Fin 8) (rec : List Byte)
  /-- One 64-byte profile or user envelope (Table 14-6). -/
  | prof (rec : List Byte)
  /-- One 48-byte tile reflex record (Table 14-9). -/
  | tref (rec : List Byte)
  /-- The 64-byte hub reflex record whose action is preloaded for channel-in-tile `c` (R280, Table 14-10). -/
  | hact (c : Fin 8) (rec : List Byte)
  /-- MGT: a stamped level-5 command or release, or a stamped level-6 release (Table 02-9, R68, R247). -/
  | cmd (op : Nat) (c : Fin 8) (handle : Byte) (stamp : Word) (value : BitVec 16)
  /-- MGT: the restore acknowledgement of channel-in-tile `c` (R44). -/
  | ack (c : Fin 8)
  /-- MGT: a partition reset, by the slot that feeds the partition. -/
  | partReset (slot : Nat)
  /-- MGT: configuration commit. -/
  | commit
  /-- MGT: a stamped role change (R366). -/
  | role (standby partnered : Bool) (stamp : Word)
  /-- MGT: LOCK (R485), or the clearing of its latch (R487). -/
  | lock (on : Bool)
  /-- MGT: trim arming of channel-in-tile `c` (R119). -/
  | trim (c : Fin 8) (on : Bool)
deriving DecidableEq, Repr

/-- One event of an EVT frame (R57): 0 edge, 1 comparator decision, 2 reflex firing, 3 reflex release, 4 diagnostic result; the channel-in-tile,
comparator bit or entry; its new level; whether it is an epoch edge report (R162); its instant in ticks of tile time. -/
structure UpEvt where
  kind : Nat
  idx : Nat
  on : Bool
  report : Bool := false
  ticks : Nat
deriving DecidableEq, Repr

/-- What an upstream frame reports beyond its printed bytes (R57): the kinds whose layouts the spec does not print come
decoded (log entry 6). -/
inductive UpReport where
  /-- No decoded content (EPV, LVAL, TACK and HART slots are read from their bytes or by rows of their own). -/
  | none
  /-- STATUS: tile state code of Table 19-10, LPt, die temperature, buffer fill per partition (the epoch-commit partition, then
  those of slots 3 to 8), dropped events, whether the tile finds its downstream direction silent, and per channel the latch
  nibble of TILEt_LATCH and the clamp window in millijoules (R57, R62, R198). -/
  | status (state : Nat) (lpt : Nat) (temp : Int) (fill : List Nat) (evDrop : Nat) (silent : Bool)
      (latches : List Nat) (windows : List Nat)
  /-- EVT: up to two events. -/
  | events (evts : List UpEvt)
  /-- SENSE: number of conversions, mean and peak code of four channels (R78). -/
  | sense (vals : List (Nat × Nat × Nat))
  /-- TECHO: tile time in 2.5 ns ticks at receipt of the last TIME frame and at this comma. -/
  | techo (atTime atComma : Nat)
  /-- The full 32-bit count of a channel-in-tile from a state report (R168). -/
  | count (c : Fin 8) (n : Word)
deriving DecidableEq, Repr

/-- Names one descriptor at the executing device (R387): origin device number, ring and SEQ. -/
structure WorkRef where
  origin : Nat
  ring : Nat
  seq : Word
deriving DecidableEq, Repr

/-- How a read of host memory ended (R396). -/
inductive HostRead where
  /-- The bytes came back. -/
  | good
  /-- The read of the ring entry failed with HOST_ERR bit `bit` (0 timeout, 1 Unsupported Request, 2 Completer Abort,
  3 poisoned data). -/
  | ringFail (bit : Fin 4)
  /-- The entry was read, and the read of the indirect payload failed. -/
  | payloadFail (bit : Fin 4)
deriving DecidableEq, Repr

/-- One insulation measurement (R228): source potentials in millivolts, currents in nanoamperes per plateau, the charge moved
at the plateau step in picocoulombs, and the largest variation of U over a plateau in hundredths of a percent. -/
structure IsoMeas where
  uPlus : Int
  uMinus : Int
  ipePlus : Int
  ipeMinus : Int
  /-- For each channel of the tile or group: its number k, its current at each plateau, and whether its switch was on
  throughout (DO). -/
  chans : List (Nat × Int × Int × Bool)
  charge : Nat
  variation : Nat
deriving DecidableEq, Repr

/-- A press: how long the button has been held low, and how long both buttons had been released before (R117). -/
structure HeldFor where
  held : Time
  rested : Time
deriving DecidableEq, Repr

/-- One line of an encoder input as the hub's receiver samples it every 5 ns (R254): its level, for how many consecutive samples it has had it, and,
where its detector has found the line good again since the last command of this input, the level that it had then (R258). -/
structure EncLine where
  level : Bool
  samples : Nat
  back : Option Bool
deriving DecidableEq, Repr

/-- The end of a received frame: whether it ends in /V/, and how many invalid code groups the port has met since its last frame (R328, R335). With
no bytes the row reports such code groups alone. -/
structure FrameEnd where
  v : Bool
  codes : Nat
deriving DecidableEq, Repr

/-- The Z line of an encoder input at a high level: the input, and for how many consecutive samples it has been high (R254). -/
structure ZLine where
  enc : Fin 4
  samples : Nat
deriving DecidableEq, Repr

/-- The three quantities that a fast sense conversion may convert, as 12-bit codes: load current, terminal voltage to LMt, tracking-supply rail
(R77). -/
structure SenseIn where
  current : BitVec 12
  terminal : BitVec 12
  rail : BitVec 12
deriving DecidableEq, Repr

/-- The level that a digital input's comparator takes, and what it takes it at: millivolts at IOB_k, or microamperes of a NAMUR sensor (Tables 05-3
and 05-4). -/
structure CompIn where
  level : Bool
  input : Int
deriving DecidableEq, Repr

/-- The voltage at a terminal and the present LPt of its tile, in millivolts (R188, R189, R186, R211). -/
structure AtSupply where
  term : Int
  lpt : Nat
deriving DecidableEq, Repr

/-- A verdict code and the terminal, IOA_k to IOC_k, at which REVERSE is judged (R224). -/
structure CodeAt where
  code : Nat
  pin : Fin 3
deriving DecidableEq, Repr

/-- A reset pin, PERST_N or else RESET_N, and whether it still is low (R504). -/
structure PinIs where
  perst : Bool
  low : Bool
deriving DecidableEq, Repr

/-- The straps as sampled (R510, R587): 0 low, 1 high, 2 open. -/
structure Straps where
  pairId : Fin 3
  almDef : Fin 3
  testMode : Fin 3
deriving DecidableEq, Repr

/-- A fault request of Studio through the gate (R520): a configuration field of a source, or a C1 PEND clear. -/
inductive FltReq where
  | config (src : Nat) (field : Fin 3) (value : Nat)
  | clear (src : Nat)
deriving DecidableEq, Repr

/-- One command or event of the block: a row of spec/opcode_table.json with its operands. -/
inductive Instr where
  /-- TILE_SUPPLY_LOW (R41): LPt falls through the full-performance threshold, so the tile sets SUPPLY on every channel and sends the SUPPLYLOW notice. -/
  | tileSupplyLow (t : Time) (tile : Fin 12) (lpt : Nat)
  /-- TILE_SUPPLY_GOOD (R41): LPt has stood above the rising full-performance threshold for 10 ms, so the tile clears SUPPLY. -/
  | tileSupplyGood (t : Time) (tile : Fin 12) (lpt : Nat) (held : Time)
  /-- BROWNOUT (R41): LPt falls through the brownout threshold, so the tile sends a BROWNOUT notice flash. -/
  | brownout (t : Time) (tile : Fin 12) (lpt : Nat)
  /-- RIDE_THROUGH_END (R43): LPt falls through the ride-through end, so the tile de-energises every output and enters QUIET. -/
  | rideThroughEnd (t : Time) (tile : Fin 12) (lpt : Nat)
  /-- TILE_STOP (R41): LPt falls through the stop threshold, so the tile stops, goes OFF and loses its configuration. -/
  | tileStop (t : Time) (tile : Fin 12) (lpt : Nat)
  /-- TILE_START (R41): LPt has stood at or above 8.0 V for 10 ms, so the tile starts and enters QUIET. -/
  | tileStart (t : Time) (tile : Fin 12) (lpt : Nat) (held : Time)
  /-- DIEWARN (R191): A tile die reaches 150 °C and the tile sends the DIEWARN notice flash; no switch opens. -/
  | diewarn (t : Time) (tile : Fin 12) (temp : Int)
  /-- TILE_DOWNSTREAM_FRAME (R55): A tile receives a downstream tile-link frame, judges it good or bad and acts on the payload of its slot. -/
  | tileDownstreamFrame (t : Time) (tile : Fin 12) (ok : Bool) (dev : Nat) (bytes : List Byte) (item : CfgItem)
  /-- HUB_UPSTREAM_FRAME (R57): The hub receives an upstream tile-link frame (status, values, events, sense, reports, HART or echo) and judges it. -/
  | hubUpstreamFrame (t : Time) (tile : Fin 12) (ok : Bool) (dev : Nat) (bytes : List Byte) (rep : UpReport)
  /-- COMPARATOR_FLASH (R59): The hub receives an upstream K28.1 flash carrying a comparator decision for the hub reflex. -/
  | comparatorFlash (t : Time) (tile : Fin 12) (d0 : Byte) (d1 : Byte)
  /-- HUB_REFLEX_FLASH (R59): A tile receives a downstream K28.1 flash and applies or releases a channel's preloaded hub-reflex action. -/
  | hubReflexFlash (t : Time) (tile : Fin 12) (d0 : Byte) (d1 : Byte)
  /-- NOTICE_FLASH (R59): The hub receives an upstream K28.2 notice flash (BROWNOUT, DIEWARN or SUPPLYLOW). -/
  | noticeFlash (t : Time) (tile : Fin 12) (d0 : Byte) (d1 : Byte)
  /-- TILE_LINK_SILENT (R61): After eight consecutive bad or missing frames, the tile declares its downstream direction silent. -/
  | tileLinkSilent (t : Time) (tile : Fin 12)
  /-- HUB_LINK_SILENT (R62): The hub declares a tile link silent, stops downstream frames within 1.0 µs and raises the tile-link fault source. -/
  | hubLinkSilent (t : Time) (tile : Fin 12)
  /-- HUB_LINK_RESUME (R62): 100 µs after it stopped them, the hub resumes sending downstream frames on its own period grid. -/
  | hubLinkResume (t : Time) (tile : Fin 12)
  /-- LINK_GOOD (R61): After 64 consecutive good frames, a receiver declares its link direction good again. -/
  | linkGood (t : Time) (tile : Fin 12) (up : Bool)
  /-- FCLK_LOCK (R75): FCLK_t locks to the link character rate after the link is declared good. -/
  | fclkLock (t : Time) (tile : Fin 12)
  /-- HOLDWIN_EXPIRY (R47): A channel's HOLDWIN runs out during link silence, so the channel applies its fallback and sets FALLBACK. -/
  | holdwinExpiry (t : Time) (k : Fin 96)
  /-- TILE_RESTORE (R49): The hub compares the tile's reported outputs with the journal, records mismatches and restores the tile to LIVE at an allowed epoch boundary. -/
  | tileRestore (t : Time) (tile : Fin 12)
  /-- TCMD_NOP (R64): The tile receives a timed command with OP NOP and ignores it. -/
  | tcmdNop (t : Time) (tile : Fin 12) (slot : Nat) (c : Fin 8) (handle : Byte) (stamp : Word) (value : BitVec 16)
  /-- TCMD_SET (R65): The tile receives a SET timed command and holds it pending, or executes it at once as LATE. -/
  | tcmdSet (t : Time) (tile : Fin 12) (slot : Nat) (c : Fin 8) (handle : Byte) (stamp : Word) (value : BitVec 16)
  /-- TCMD_DUTY (R65): The tile receives a DUTY timed command and holds it pending, or executes it at once as LATE. -/
  | tcmdDuty (t : Time) (tile : Fin 12) (slot : Nat) (c : Fin 8) (handle : Byte) (stamp : Word) (value : BitVec 16)
  /-- TCMD_REPLACE (R65): The tile receives a REPLACE and re-stamps a pending entry, or reports TOOLATE. -/
  | tcmdReplace (t : Time) (tile : Fin 12) (slot : Nat) (c : Fin 8) (handle : Byte) (stamp : Word) (value : BitVec 16)
  /-- TCMD_CANCEL (R70): The tile receives a CANCEL and cancels a pending entry, or reports TOOLATE. -/
  | tcmdCancel (t : Time) (tile : Fin 12) (slot : Nat) (c : Fin 8) (handle : Byte) (stamp : Word) (value : BitVec 16)
  /-- TCMD_RELEASE (R68): The tile receives a RELEASE in the MGT slot for level 5 or for a partition's level 6 of a channel. -/
  | tcmdRelease (t : Time) (tile : Fin 12) (slot : Nat) (c : Fin 8) (handle : Byte) (stamp : Word) (value : BitVec 16)
  /-- TCMD_RESERVED_OP (R64): The tile receives a timed command with a reserved OP and rejects it with REJ_OP. -/
  | tcmdReservedOp (t : Time) (tile : Fin 12) (slot : Nat) (c : Fin 8) (op : BitVec 5) (handle : Byte) (stamp : Word) (value : BitVec 16)
  /-- TCMD_EXECUTE (R67): At the FCLK cycle equal to an entry's STAMP, the tile passes the entry's value to its priority level. -/
  | tcmdExecute (t : Time) (tile : Fin 12) (stamp : Word)
  /-- TACK_REPORT (R70): The hub receives a timed-command report (EXEC, LATE, REPLACED, CANCELLED, TOOLATE, DISCARDED or a rejection). -/
  | tackReport (t : Time) (tile : Fin 12) (c : Fin 8) (handle : Byte) (code : Nat) (ticks : Word) (slot : Nat)
  /-- MGT_RESTORE_ACK (R44): A tile receives a restore acknowledgement, so a waiting RESTORE = ACK channel leaves level 3. -/
  | mgtRestoreAck (t : Time) (tile : Fin 12) (c : Fin 8)
  /-- MGT_PARTITION_RESET (R56): A tile receives a partition reset in its MGT slot. -/
  | mgtPartitionReset (t : Time) (tile : Fin 12) (slot : Nat)
  /-- MGT_CONFIG_COMMIT (R56): A tile receives a configuration commit in its MGT slot and completes its configuration. -/
  | mgtConfigCommit (t : Time) (tile : Fin 12)
  /-- ROLE_CHANGE (R366): A tile receives a stamped role change or PARTNERED setting from its hub. -/
  | roleChange (t : Time) (tile : Fin 12) (standby : Bool) (partnered : Bool) (stamp : Word)
  /-- ROLE_CHANGE_APPLY (R366): At the stamp of a role change, every tile of the member takes the new role. -/
  | roleChangeApply (t : Time) (stamp : Word)
  /-- TILE_LOCK (R486): A tile receives LOCK, applies fallback (or STANDBY if PARTNERED) to every output and latches it. -/
  | tileLock (t : Time) (tile : Fin 12)
  /-- COMPARATOR_DECISION (R71): A channel comparator changes state and the tile reflex entries that use it are evaluated. `value` is what its
  source gives, binary32 in the source's unit (R454). -/
  | comparatorDecision (t : Time) (k : Fin 96) (cmpB : Bool) (value : Word)
  /-- TILE_REFLEX_QUAL_EXPIRY (R72): A tile reflex condition has held for its qualifying count of cycles, so the entry fires. -/
  | tileReflexQualExpiry (t : Time) (tile : Fin 12) (entry : Nat)
  /-- FAST_SENSE_CONVERSION (R77): The tile's fast sense converter completes one conversion for the channel in turn. -/
  | fastSenseConversion (t : Time) (tile : Fin 12) (code : SenseIn)
  /-- ADC_CONVERSION (R86): A channel's ΣΔ conversion completes at its SYSTIME-locked instant and is calibrated, filtered and judged. -/
  | adcConversion (t : Time) (k : Fin 96) (x : Word) (aux : Word)
  /-- COMPL_SET (R94): Headroom has stayed below 0.4 V for more than 2 ms, so COMPL is set and COMPLACT applies. -/
  | complSet (t : Time) (k : Fin 96) (headroom : Int) (held : Time)
  /-- COMPL_CLEAR (R94): Headroom has stayed at or above 0.6 V for 2 ms, so COMPL is cleared. -/
  | complClear (t : Time) (k : Fin 96) (headroom : Int) (held : Time)
  /-- COMPLACT_LOW_RETURN (R95): The predicted headroom has stood at or above 0.6 V for 1 s, so a COMPLACT = LOW channel returns to its command. -/
  | complactLowReturn (t : Time) (k : Fin 96) (predicted : Int) (held : Time)
  /-- SINK_OPEN (R100): The burden has exceeded 2.5 V for 1 ms while the sink limits, so the sink opens for 1 s and VALID is cleared. -/
  | sinkOpen (t : Time) (k : Fin 96) (burden : Nat) (held : Time)
  /-- SINK_RETRY (R100): After 1 s open, the AII sink tries again. -/
  | sinkRetry (t : Time) (k : Fin 96)
  /-- TRIM_PRESS (R117): TRZ_N or TRS_N has been held low for 20 ms, and the press is taken, ignored or refused. -/
  | trimPress (t : Time) (span : Bool) (both : Bool) (trdHigh : Bool) (held : HeldFor)
  /-- TRIM_PRESS_REPEAT (R117): A press held for 1 s on an output channel repeats every 200 ms. -/
  | trimPressRepeat (t : Time) (held : Time)
  /-- TRIM_TIMEOUT (R121): An armed channel's 600 s runs out and it is disarmed. -/
  | trimTimeout (t : Time)
  /-- HART_REPLY_RECEIVED (R138): A HART reply ends at the hub and is checked, mapped to tags and judged as success or a failed attempt. -/
  | hartReplyReceived (t : Time) (k : Fin 96) (bytes : List Byte) (perr : Bool)
  /-- HART_TREPLY_EXPIRY (R138): No reply has begun within TREPLY, so the attempt fails and is retried or the turn ends. -/
  | hartTreplyExpiry (t : Time) (k : Fin 96)
  /-- HART_BUDGET_EXPIRY (R137): A turn's budget leaves no room for another attempt, so the turn ends and the drop goes to FAULT. -/
  | hartBudgetExpiry (t : Time) (k : Fin 96)
  /-- HART_LOOP_SILENCE (R139): The loop has been silent for 8 τ after a foreign frame (or 41 τ), so the scheduler may start a request. -/
  | hartLoopSilence (t : Time) (k : Fin 96)
  /-- HART_BURST_FRAME (R142): A burst frame from a planned drop is received and mapped as a fresh update. -/
  | hartBurstFrame (t : Time) (k : Fin 96) (bytes : List Byte) (perr : Bool)
  /-- HART_STALE (R141): A HART tag's last good update becomes older than STALE, so VALID is cleared and HART set. -/
  | hartStale (t : Time) (item : Nat)
  /-- HART_MODEM_START (R129): The tile modem receives START and clears its buffer to begin a new request frame. -/
  | hartModemStart (t : Time) (k : Fin 96) (bytes : List Byte)
  /-- HART_MODEM_END (R130): The tile modem receives END and begins its carrier and transmission within 833 µs. -/
  | hartModemEnd (t : Time) (k : Fin 96) (bytes : List Byte)
  /-- HART_MODEM_ABORT (R129): The tile modem receives ABORT, stops transmitting and clears its buffer. -/
  | hartModemAbort (t : Time) (k : Fin 96)
  /-- HART_RX_BYTE (R130): The modem receives a byte on the loop and forwards it in the upstream HART slot. -/
  | hartRxByte (t : Time) (k : Fin 96) (byte : Byte) (perr : Bool) (eom : Bool)
  /-- HART_QTIME_EXPIRY (R147): A queued host transaction has not begun within QTIME and completes as NOTSENT. -/
  | hartQtimeExpiry (t : Time) (w : WorkRef)
  /-- HART_STARTED_DURABLE (R150): The STARTED mark of a write-class request becomes durable, so its transmission begins. -/
  | hartStartedDurable (t : Time) (w : WorkRef)
  /-- INPUT_RAW_CHANGE (R159): A DI, NAM or CNT comparator's raw state changes and the filter run starts. -/
  | inputRawChange (t : Time) (k : Fin 96) (x : CompIn)
  /-- EDGE_ACCEPT (R159): A raw level has held for FILT, so the filtered state changes and the edge is timestamped, counted and reported. -/
  | edgeAccept (t : Time) (k : Fin 96)
  /-- DIVMIN_LOW (R164): LPt falls below DIVMIN, so the DI and CNT channels with that DIVMIN clear VALID. -/
  | divminLow (t : Time) (tile : Fin 12) (lpt : Nat)
  /-- DIVMIN_RECOVER (R164): LPt has stood at or above DIVMIN + 0.4 V for 10 ms, so VALID returns. -/
  | divminRecover (t : Time) (tile : Fin 12) (lpt : Nat) (held : Time)
  /-- NAM_LINE_FAULT (R166): NAMUR current has stayed outside its open or short limit for 5 ms, so a line fault is declared. -/
  | namLineFault (t : Time) (k : Fin 96) (current : Nat) (held : Time)
  /-- NAM_LINE_FAULT_CLEAR (R166): NAMUR current has stayed within both limits for 5 ms, so the line fault clears. -/
  | namLineFaultClear (t : Time) (k : Fin 96) (current : Nat) (held : Time)
  /-- PWM_PERIOD_START (R174): A PWM generator reaches a period start and applies pending ON or duty changes from levels 5 to 7. -/
  | pwmPeriodStart (t : Time) (k : Fin 96)
  /-- PWM_ON_TIME_END (R174): A PWM period's on time ends and the terminal switches off. -/
  | pwmOnTimeEnd (t : Time) (k : Fin 96)
  /-- TRAIN_PULSE (R176): A pulse train reaches its next pulse instant, or ends after PCOUNT pulses. -/
  | trainPulse (t : Time) (k : Fin 96)
  /-- CURRENT_LIMIT (R187): A switch's current would exceed its ceiling, so it regulates at the ceiling and sets LIMIT. -/
  | currentLimit (t : Time) (k : Fin 96) (current : Nat)
  /-- SHORT_VERDICT (R188): The terminal has stayed below LPt − 3 V while limiting for 20 µs, so SHORT_M is set and the switch opens. -/
  | shortVerdict (t : Time) (k : Fin 96) (v : AtSupply) (held : Time)
  /-- OVERLOAD_VERDICT (R189): A switch has limited for 100 ms with the terminal high, so it is cut off. -/
  | overloadVerdict (t : Time) (k : Fin 96) (v : AtSupply) (held : Time)
  /-- RETRYT_EXPIRY (R190): RETRYT has passed after a cut-off, so the cut-off ends and the switch may retry. -/
  | retrytExpiry (t : Time) (k : Fin 96)
  /-- THERMAL_SHUTDOWN (R191): A switch junction reaches 175 °C, so the switch opens and THERMAL is set, latching at the sixteenth in 60 s. -/
  | thermalShutdown (t : Time) (k : Fin 96) (temp : Int)
  /-- THERMAL_COOLED (R191): A shut-down switch cools below 155 °C, so THERMAL clears and the terminal takes its source's value. -/
  | thermalCooled (t : Time) (k : Fin 96) (temp : Int)
  /-- VALVE_TPEAK_END (R185): A VALVE channel's TPEAK ends and it starts regulating at IHOLD. -/
  | valveTpeakEnd (t : Time) (k : Fin 96)
  /-- CAP_RAMP_END (R186): A CAP switch-on brings the terminal within 0.5 V of LPt and the switch closes fully. -/
  | capRampEnd (t : Time) (k : Fin 96) (v : AtSupply)
  /-- CLAMP_EVENT_END (R193): A clamp event ends when the load current has decayed, and its energy is added to the windows. -/
  | clampEventEnd (t : Time) (k : Fin 96) (energy : Nat)
  /-- CLAMP_ENERGY_LIMIT (R225): A single clamp event passes 1.0 J, so the tile ends it and disables the clamp stage. -/
  | clampEnergyLimit (t : Time) (k : Fin 96) (energy : Nat)
  /-- CLAMP_BIN_ROLL (R193): A 100 ms clamp-energy bin ends and the oldest bin drops out of the windows. -/
  | clampBinRoll (t : Time) (tile : Fin 12)
  /-- TILE_TRIP (R204): Total switch current has stayed above 20 A for 10 ms, so the tile opens the offending switches. -/
  | tileTrip (t : Time) (tile : Fin 12) (currents : List Nat) (held : Time)
  /-- SSEL_CODE_TAKEN (R209): A new SSEL_t code has been stable for 1 µs and SNS_t follows the newly selected channel. -/
  | sselCodeTaken (t : Time) (tile : Fin 12) (code : Fin 8) (held : Time)
  /-- MIRROR_CHECK (R210): Every 10 ms the tile compares the SNS mirror with the switch current sense. -/
  | mirrorCheck (t : Time) (tile : Fin 12) (mirror : Nat) (sense : Nat)
  /-- VERDICT_QUALIFIED (R220): A continuously judged verdict's set or clear condition has held for its qualifying time. -/
  | verdictQualified (t : Time) (k : Fin 96) (c : CodeAt) (set : Bool) (held : Time)
  /-- OPEN_LOAD_ON (R222): 100 ms of counted on time pass without current above OPENI, so OPEN_LOAD_ON is set. -/
  | openLoadOn (t : Time) (k : Fin 96) (counted : Time) (maxCurrent : Nat)
  /-- VERDICT_RECORD (R241): The hub records a verdict change that has stood for 16 µs. -/
  | verdictRecord (t : Time) (k : Fin 96)
  /-- DIAG_SLOT_START (R236): A diagnostic slot's window begins on its period and phase and the test or measurement starts. -/
  | diagSlotStart (t : Time) (slot : Nat)
  /-- DIAG_SLOT_END (R607): A diagnostic window ends, its results take effect and a waiting manual test completes. -/
  | diagSlotEnd (t : Time) (slot : Nat) (v1 : Int) (v2 : Int)
  /-- DIAG_WINDOW_ABORT (R609): A condition of R239 stops holding during a window, so the stimulus is withdrawn and the result SKIPPED. -/
  | diagWindowAbort (t : Time) (slot : Nat)
  /-- PARTEST_TRANSITION (R226): During a PARTEST window a covered switch transitions and other off channels are checked for following. -/
  | partestTransition (t : Time) (slot : Nat) (a : Fin 96) (followers : List Nat)
  /-- ISO_MEASUREMENT_END (R228): A 1,000 ms insulation measurement ends and R_T and R_c are computed and judged. -/
  | isoMeasurementEnd (t : Time) (slot : Nat) (meas : IsoMeas)
  /-- INSULATION_HOURLY (R233): Each hour the tile stores every channel's lowest R_c in the patina history and judges ISO_DRIFT. -/
  | insulationHourly (t : Time)
  /-- EDGECAL_MEASUREMENT (R234): During an EDGECAL window a commanded switch edge crosses LPt/2 and its delay is accepted or discarded. -/
  | edgecalMeasurement (t : Time) (k : Fin 96) (on : Bool) (ticks : Nat) (level1 : Bool)
  /-- AXIS_TICK (R259): At each 10 µs axis tick each context computes velocity and acceleration and the engine predicts and issues cam commands. -/
  | axisTick (t : Time)
  /-- ENCODER_EDGE (R255): An encoder A or B level is accepted, counted with a timestamp, or judged a quadrature error. -/
  | encoderEdge (t : Time) (x : Fin 4) (a : EncLine) (b : EncLine)
  /-- Z_EDGE (R257): An accepted rising edge of Z latches p and its timestamp with ZMODE = LATCH. -/
  | zEdge (t : Time) (z : ZLine)
  /-- ENCODER_LINE_FAULT (R258): A line fault on A or B lasts 1 µs, so the context goes LOST and NOREF. -/
  | encoderLineFault (t : Time) (x : Fin 4) (line : Fin 3) (held : Time)
  /-- LOST_CLEAR (R258): The lines have been good with no QERR for 100 ms, so LOST clears. -/
  | lostClear (t : Time) (x : Fin 4) (a : Bool) (b : Bool) (held : Time)
  /-- AXS_FRAME_RECEIVED (R261): A follower context takes its source's state from a good AXS frame. -/
  | axsFrameReceived (t : Time) (src : Nat) (bytes : List Byte)
  /-- AXS_SILENCE (R261): A follower receives no good AXS frame for 50 µs and goes LOST. -/
  | axsSilence (t : Time) (x : Fin 8)
  /-- TIME_LANE_ISSUE (R252): A TIME lane entry's stamp comes within ISSUE, so the engine issues its command. -/
  | timeLaneIssue (t : Time) (lane : Fin 96)
  /-- TRDMAX_EXPIRY (R276): Run-down lasts TRDMAX, so it ends and RDTIMEOUT is recorded. -/
  | trdmaxExpiry (t : Time) (x : Fin 8)
  /-- HUB_REFLEX_QUAL_EXPIRY (R281): A hub reflex condition has held for QUAL, so the entry fires. -/
  | hubReflexQualExpiry (t : Time) (entry : Nat)
  /-- LOOP_SAMPLE (R285): A loop block reaches its sample instant, computes its output and stamps it s_n + 50 µs. -/
  | loopSample (t : Time) (block : Fin 48)
  /-- TOTALISER_INCREMENT (R294): Once a source's epoch value is in, the totaliser adds its increment and judges its limit. -/
  | totaliserIncrement (t : Time) (n : Fin 96)
  /-- EPOCH_BOUNDARY (R18): At T_E each device latches inputs and then applies the committed outputs for the epoch. -/
  | epochBoundary (t : Time)
  /-- COMMIT_SET_CLOSE (R313): At T_(E−1) − GUARD the commit set of E closes. -/
  | commitSetClose (t : Time)
  /-- COMMIT_LOAD (R315): At T_E − 84 µs the hub begins loading the committed set into the tiles as timed commands. -/
  | commitLoad (t : Time)
  /-- TOK_FRAME (R355): A member receives the TOK token, writes its ready bits and passes it on; the leader decides the verdict on return. -/
  | tokFrame (t : Time) (bytes : List Byte)
  /-- TOK_VERDICT (R355): A member receives the TOK verdict with COMMIT, SILENT, EXCLUDE or RDDONE. -/
  | tokVerdict (t : Time) (src : Nat) (bytes : List Byte)
  /-- TOKEN_DEADLINE (R316): A member holding no verdict at T_E − 100 µs defers E and records NOVERDICT. -/
  | tokenDeadline (t : Time)
  /-- EPOCH_JOIN (R298): A locked device joins epochs at the first T_E at least 2 × P after lock. -/
  | epochJoin (t : Time)
  /-- IMG_FRAME_RECEIVED (R300): An IMG frame of a read-set member is received and adds to the cut or last-good records. -/
  | imgFrameReceived (t : Time) (src : Nat) (bytes : List Byte)
  /-- CUT_DEADLINE (R301): At T_E + CUTDL, members still missing are late and the cut is delivered. -/
  | cutDeadline (t : Time) (iq : Fin 16)
  /-- MEMBER_DEPART (R312): A member unvisited for three epochs and unheard for 5 ms departs at the next token. -/
  | memberDepart (t : Time) (group : Nat) (member : Nat)
  /-- PORT_UP (R328): Clause 36 synchronisation has held for 1 ms, so the port is UP. -/
  | portUp (t : Time) (port : Fin 5) (held : Time)
  /-- PORT_DOWN (R328): A port loses synchronisation and goes DOWN. -/
  | portDown (t : Time) (port : Fin 5)
  /-- PELRUN_FRAME (R339): A good frame header arrives on a ring port and is removed, taken, forwarded or bridged. -/
  | pelrunFrame (t : Time) (port : Fin 5) (bytes : List Byte) (fin : FrameEnd)
  /-- SOURCE_FORGOTTEN (R342): A source with nothing accepted for 10 ms is forgotten. -/
  | sourceForgotten (t : Time) (src : Nat)
  /-- TIM_SEND (R346): Every 125 µs a JOINED device sends a TIM frame on each ring port. -/
  | timSend (t : Time)
  /-- TIM_RECEIVED (R347): A TIM frame yields delay and offset, updates upstream choice and steers time. -/
  | timReceived (t : Time) (port : Fin 4) (src : Nat) (bytes : List Byte)
  /-- UPSTREAM_LOSS (R347): The upstream gives no valid TIM for 250 µs, so the device chooses again. -/
  | upstreamLoss (t : Time)
  /-- NO_UPSTREAM_UNLOCK (R348): A locked device without an upstream for 10 ms becomes unlocked. -/
  | noUpstreamUnlock (t : Time)
  /-- CANDIDATE_FORGOTTEN (R345): A master candidate whose MSEQ has not advanced for 1 ms is forgotten. -/
  | candidateForgotten (t : Time) (port : Fin 4)
  /-- PRIO_RESTORE (R513): After 1 s locked, or 10 ms without TIM, a restarted device advertises its own PRIO. -/
  | prioRestore (t : Time)
  /-- HBT_SEND (R351): Every 1 ms a device sends an HBT frame. -/
  | hbtSend (t : Time)
  /-- HBT_RECEIVED (R332): An HBT frame is received and may reveal a number conflict. -/
  | hbtReceived (t : Time) (src : Nat) (bytes : List Byte)
  /-- LISTEN_END (R353): 10 ms in LISTEN without a conflicting HBT make the device JOINED. -/
  | listenEnd (t : Time)
  /-- ALL_PORTS_DOWN (R353): Every ring port has been DOWN for 10 ms, so a JOINED device returns to DOWN. -/
  | allPortsDown (t : Time)
  /-- IMG_SEND (R354): Once its epoch image is complete, a device sends its IMG frames. -/
  | imgSend (t : Time)
  /-- REQ_RECEIVED (R357): A target receives a forwarded descriptor in a REQ frame and applies the remaining checks. -/
  | reqReceived (t : Time) (src : Nat) (bytes : List Byte)
  /-- REQ_HOLD_EXPIRY (R357): A held REQ whose predecessor has not arrived in 2 ms is discarded. -/
  | reqHoldExpiry (t : Time) (src : Nat) (ring : Nat) (seq : Word)
  /-- RSP_RECEIVED (R358): The attached device receives an RSP and posts the completion to the ring's CQ. -/
  | rspReceived (t : Time) (src : Nat) (bytes : List Byte)
  /-- REQ_RESEND (R358): A REQ without RSP for 2 ms is resent, and after the third it completes OUTCOME_UNKNOWN. -/
  | reqResend (t : Time) (ring : Fin 64) (seq : Word)
  /-- MGT_FRAME_READ (R359): A device receives an MGT READ and returns BAR0 words. -/
  | mgtFrameRead (t : Time) (src : Nat) (bytes : List Byte)
  /-- MGT_FRAME_WRITE (R359): A device receives an MGT WRITE and applies or refuses it. -/
  | mgtFrameWrite (t : Time) (src : Nat) (bytes : List Byte)
  /-- MGT_FRAME_SETNUM (R331): A device receives SETNUM naming its serial and takes the new number. -/
  | mgtFrameSetnum (t : Time) (src : Nat) (bytes : List Byte)
  /-- MGT_REPLY (R576): The origin receives an MGT reply and completes the descriptor. -/
  | mgtReply (t : Time) (src : Nat) (bytes : List Byte)
  /-- MGT_RESEND (R576): An MGT request without reply for 2 ms is resent, and after the third it completes TIMEOUT. -/
  | mgtResend (t : Time) (mtag : BitVec 16)
  /-- SHD_SEND (R369): Every 10 µs each member sends an SHD frame on PRT. -/
  | shdSend (t : Time)
  /-- SHD_RECEIVED (R365): A member receives its partner's SHD frame and updates role, arming and JACKED. -/
  | shdReceived (t : Time) (bytes : List Byte)
  /-- ORPHWAIT_EXPIRY (R367): An ORPHAN's conditions have held for ORPHWAIT, so it becomes ACTIVE. -/
  | orphwaitExpiry (t : Time)
  /-- ARMED_LINK_LOSS (R371): An ARMED STANDBY that lost the link sees no takeover in 1 ms and becomes ORPHAN. -/
  | armedLinkLoss (t : Time)
  /-- PARTNERED_LINK_LOSS (R371): An ACTIVE member that lost the partner link clears PARTNERED after 2 ms. -/
  | partneredLinkLoss (t : Time)
  /-- JNL_ENTRY (R372): The STANDBY receives journal bytes and writes them at the same offset. -/
  | jnlEntry (t : Time) (joff : Word) (bytes : List Byte)
  /-- JNL_STATE (R373): The STANDBY receives shadow items and compares or adopts them. -/
  | jnlState (t : Time) (bytes : List Byte)
  /-- JNL_IMAGE (R375): The STANDBY receives maquette bytes from the ACTIVE member. -/
  | jnlImage (t : Time) (off : Word) (bytes : List Byte) (last : Bool)
  /-- JNL_FWD (R374): The ACTIVE member receives a descriptor forwarded from the STANDBY's rings. -/
  | jnlFwd (t : Time) (bytes : List Byte)
  /-- JNL_CPL (R374): The STANDBY receives a completion to post for a forwarded descriptor. -/
  | jnlCpl (t : Time) (bytes : List Byte)
  /-- CCH_COUCHSET (R377): A member receives COUCHSET for a committed couch. -/
  | cchCouchset (t : Time) (epoch : Nat) (seat : Nat)
  /-- CCH_COUCHGO (R377): A member receives COUCHGO naming t_C. -/
  | cchCouchgo (t : Time) (epoch : Nat) (stamp : Nat)
  /-- COUCH_STEP (R377): At each 25 µs couch step the shares move by one eighth. -/
  | couchStep (t : Time)
  /-- CCH_COUCHEND (R377): A member receives COUCHEND naming the role-exchange epoch. -/
  | cchCouchend (t : Time) (epoch : Nat)
  /-- CCH_COUCHABORT (R378): A member receives COUCHABORT and both return to their former states. -/
  | cchCouchabort (t : Time) (epoch : Nat)
  /-- CCH_YIELD (R379): A member receives YIELD and its tiles take the ACTIVE role at the stamp. -/
  | cchYield (t : Time) (epoch : Nat) (stamp : Nat) (reason : Nat)
  /-- CCH_TAKEN (R381): A member receives TAKEN from the new ACTIVE. -/
  | cchTaken (t : Time) (epoch : Nat) (stamp : Nat)
  /-- WITNESS_ASSERT (R380): A witness asserts after its time, and with two asserting an ARMED STANDBY decides to take over. The operands are what
  its pins show: for how long PERRA = PERRB, for how long the quieter of the two has made no transition, and of some channels the terminal voltage
  in mV with the time for which it has stood on its side of the undriven limit. -/
  | witnessAssert (t : Time) (equal : Time) (still : Time) (field : List (Fin 96 × Int × Time))
  /-- CR_TAIL_DOORBELL (R398): A write to a CR tail doorbell moves the tail and starts fetching. -/
  | crTailDoorbell (t : Time) (n : Nat) (off : Nat) (size : Nat) (value : Word)
  /-- CQ_HEAD_UPDATE (R398): The host releases CQ entries. -/
  | cqHeadUpdate (t : Time) (n : Nat) (off : Nat) (size : Nat) (value : Word)
  /-- IQ_HEAD_UPDATE (R418): The host releases IQ entries. -/
  | iqHeadUpdate (t : Time) (n : Nat) (off : Nat) (size : Nat) (value : Word)
  /-- EQ0_HEAD_UPDATE (R419): The host returns EQ0 space and delivery may resume. -/
  | eq0HeadUpdate (t : Time) (n : Nat) (off : Nat) (size : Nat) (value : Word)
  /-- WDH_HEARTBEAT (R501): A write of a key to the WDH heartbeat is judged good, EARLY or SEQUENCE. -/
  | wdhHeartbeat (t : Time) (n : Nat) (off : Nat) (size : Nat) (value : Word)
  /-- CR_ENABLE (R396): The host sets CRn_CTL.EN; the ring is enabled, GEN raised and reposts follow, or the enable is refused. -/
  | crEnable (t : Time) (n : Fin 64)
  /-- CR_DISABLE (R396): The host clears EN and the ring goes DRAINING, or from ERROR to DISABLED. -/
  | crDisable (t : Time) (n : Fin 64)
  /-- DRAIN_COMPLETE (R396): Every fetched descriptor has its first completion, so the ring becomes DISABLED. -/
  | drainComplete (t : Time) (n : Fin 64)
  /-- RING_ERROR (R396): A ring or payload read fails and the ring goes to ERROR. -/
  | ringError (t : Time) (n : Fin 64) (kind : Fin 4)
  /-- FORGET (R409): Setting CRn_CTL.FORGET clears H and the record, or is refused. -/
  | forget (t : Time) (n : Fin 64)
  /-- CQ_ENABLE (R396): The host enables or disables a CQ. -/
  | cqEnable (t : Time) (n : Fin 64) (on : Bool)
  /-- IQ_ENABLE (R417): The host enables an IQ and the device reads its tag list. -/
  | iqEnable (t : Time) (n : Fin 16) (readOk : Bool) (tags : List Word)
  /-- EQ0_ENABLE (R550): The host enables EQ0 and delivery starts per REC_EQSTART. -/
  | eq0Enable (t : Time) (on : Bool)
  /-- DESCRIPTOR_FETCH (R407): The device fetches a descriptor into the fetch buffer and checks it. -/
  | descriptorFetch (t : Time) (ring : Fin 64) (bytes : List Byte) (payload : List Byte) (rd : HostRead)
  /-- STORE_ACCEPT (R29): The store write of a journal entry completes and ACCEPT is posted. -/
  | storeAccept (t : Time) (w : WorkRef)
  /-- COMPLETION_POST (R415): A completion held for a full CQ is posted once there is room. -/
  | completionPost (t : Time) (cq : Fin 64)
  /-- CQ_MODERATION_TIMER (R393): CQn_CTIME passes since the first unsignalled completion and the vector is signalled. -/
  | cqModerationTimer (t : Time) (cq : Fin 64)
  /-- FENCE_RELEASE (R413): Earlier descriptors draw their final completions and a fenced descriptor takes effect. -/
  | fenceRelease (t : Time) (w : WorkRef)
  /-- NOP (R404): NOP descriptor completes DONE. -/
  | nop (t : Time) (w : WorkRef)
  /-- FENCE (R414): FENCE completes DONE after the named rings finish earlier work. -/
  | fence (t : Time) (w : WorkRef)
  /-- TAGWRITE (R411): TAGWRITE joins a value to its group's commit set. -/
  | tagwrite (t : Time) (w : WorkRef)
  /-- TAGWRITEN (R404): TAGWRITEN joins a list of tag values of one device and group to a commit set. -/
  | tagwriten (t : Time) (w : WorkRef)
  /-- TAGREAD (R404): TAGREAD returns latest cut records of tags. -/
  | tagread (t : Time) (w : WorkRef)
  /-- RESTOREACK (R44): RESTOREACK releases level 3 of waiting channels at its epoch. -/
  | restoreack (t : Time) (w : WorkRef)
  /-- HARTTX (R147): HARTTX queues one HART transaction for the channel's ad hoc window. -/
  | harttx (t : Time) (w : WorkRef)
  /-- IMGLOAD (R438): IMGLOAD writes payload into the maquette partition. -/
  | imgload (t : Time) (w : WorkRef)
  /-- IMGSTAGE (R436): IMGSTAGE begins staging the maquette. -/
  | imgstage (t : Time) (w : WorkRef)
  /-- STAGING_END (R436): Staging ends, the maquette becomes STAGED or LOADED and IMGSTAGE completes with findings. -/
  | stagingEnd (t : Time)
  /-- IMGREHEARSE (R440): IMGREHEARSE starts rehearsal of the maquette for N epochs. -/
  | imgrehearse (t : Time) (w : WorkRef)
  /-- REHEARSAL_END (R441): Rehearsal completes its N epochs or ends early, and the report is written. `counts` repeats what the rehearsal in State
  has counted; the report is made from State. -/
  | rehearsalEnd (t : Time) (counts : List Word)
  /-- IMGACTIVATE (R442): IMGACTIVATE arms the maquette to become the cast at E_A through a commit group. -/
  | imgactivate (t : Time) (w : WorkRef)
  /-- SHADOW_BANK_LOADED (R443): A tile's shadow bank holds the complete checked incoming configuration. -/
  | shadowBankLoaded (t : Time) (tile : Fin 12)
  /-- ROLE_RECORD_WRITTEN (R447): Armature writes the image role record after activation and DONE follows. -/
  | roleRecordWritten (t : Time)
  /-- IMGREVERT (R449): IMGREVERT makes the last-good image the cast at its epoch, or is refused. -/
  | imgrevert (t : Time) (w : WorkRef)
  /-- IMGDISCARD (R439): IMGDISCARD empties the maquette. -/
  | imgdiscard (t : Time) (w : WorkRef)
  /-- TRIMARM (R116): TRIMARM arms one channel for trimming. -/
  | trimarm (t : Time) (w : WorkRef)
  /-- TRIMDISARM (R121): TRIMDISARM disarms the channel. -/
  | trimdisarm (t : Time) (w : WorkRef)
  /-- TRIMCLEAR (R120): TRIMCLEAR returns a trim-store key to the identity line. -/
  | trimclear (t : Time) (w : WorkRef)
  /-- OVERRIDE (R68): OVERRIDE sets level 5 of a channel at its epoch through the override slot. -/
  | override (t : Time) (w : WorkRef)
  /-- OVRELEASE (R27): OVRELEASE releases level 5 at its epoch. -/
  | ovrelease (t : Time) (w : WorkRef)
  /-- RELEASE (R199): RELEASE clears named latches of a channel or refuses with a result code. -/
  | release (t : Time) (w : WorkRef)
  /-- TEST (R240): TEST asks for one test of a kind on a channel in the next covering window. -/
  | test (t : Time) (w : WorkRef)
  /-- REFLEXREL (R73): REFLEXREL releases a LATCH reflex entry. -/
  | reflexrel (t : Time) (w : WorkRef)
  /-- RECREAD (R551): RECREAD copies sealed recorder records to host memory. -/
  | recread (t : Time) (w : WorkRef)
  /-- RECNOTE (R552): RECNOTE records a HOSTNOTE. -/
  | recnote (t : Time) (w : WorkRef)
  /-- CUJOB (R556): CUJOB runs a CRC job on a check unit and writes the result. -/
  | cujob (t : Time) (w : WorkRef)
  /-- COUCH (R376): COUCH orders a make-before-break handover to the named seat at E0. -/
  | couch (t : Time) (w : WorkRef)
  /-- SEIZE (R367): SEIZE makes an ORPHAN ACTIVE, or is refused. -/
  | seize (t : Time) (w : WorkRef)
  /-- YIELD (R379): YIELD makes the ACTIVE member yield to its partner. -/
  | yield (t : Time) (w : WorkRef)
  /-- MGTREAD (R359): MGTREAD reads words of a remote BAR0 through MGT frames. -/
  | mgtread (t : Time) (w : WorkRef)
  /-- MGTWRITE (R359): MGTWRITE writes words of a remote BAR0 through MGT frames. -/
  | mgtwrite (t : Time) (w : WorkRef)
  /-- SETNUM (R331): SETNUM sends a number to the device with the named serial. -/
  | setnum (t : Time) (w : WorkRef)
  /-- FAULT_EVENT (R473): A healthy fault source asserts for two cycles and the collector escalates, records and reacts. -/
  | faultEvent (t : Time) (srcs : List Nat) (inj : Bool)
  /-- WIRE_FAULT (R472): A source's rails are invalid for two cycles, giving a wire fault at WCLASS. -/
  | wireFault (t : Time) (src : Nat) (inj : Bool)
  /-- BLOCK_RECOVERY (R476): A block's recovery time passes and Armature acknowledges or re-raises. -/
  | blockRecovery (t : Time) (src : Nat) (back : Bool)
  /-- TRAP_ACK_TIMEOUT (R482): A C2 PEND still set 2 ms after the event raises source 0x006. -/
  | trapAckTimeout (t : Time) (src : Nat)
  /-- C4_PEND_AUTO_CLEAR (R482): Armature clears C4 PEND 60 s after the first committed epoch. -/
  | c4PendAutoClear (t : Time) (src : Nat)
  /-- PEND_CLEAR (R482): A write of 1 to PEND clears it for C1 or C4, else is refused. -/
  | pendClear (t : Time) (src : Nat)
  /-- FLT_CONFIG_REQUEST (R479): A write to CLASS, WCLASS or ERRDRV is applied by Armature or refused. -/
  | fltConfigRequest (t : Time) (src : Nat) (field : Fin 3) (value : Nat)
  /-- INJ_WRITE (R490): A write to INJ forces or releases a source's rails when INJEN is set. -/
  | injWrite (t : Time) (src : Nat) (value : Fin 4)
  /-- CLOCK_MONITOR (R495): The plinth monitor finds CCLK out of range and holds the hub in reset. -/
  | clockMonitor (t : Time) (count : Nat)
  /-- KCLK_CHECK (R496): The hub finds KCLK missing or off by 1 % and raises source 0x005. -/
  | kclkCheck (t : Time) (period : Time)
  /-- CCLK_PLL_LOCK (R494): The CCLK PLL locks and the hub reset may be released. -/
  | cclkPllLock (t : Time)
  /-- WDA_KEY (R498): Armature's write to WDA_KEY is judged good, EARLY or SEQUENCE. -/
  | wdaKey (t : Time) (key : Byte) (byHost : Bool)
  /-- WDA_EXPIRE (R499): WDA's count reaches CLOSE + OPEN and EXPIRE is raised. -/
  | wdaExpire (t : Time)
  /-- WDH_EXPIRE (R501): WDH's epoch count reaches CLOSE + OPEN and EXPIRE is raised. -/
  | wdhExpire (t : Time)
  /-- RESET_PIN (R504): RESET_N or PERST_N low for 1 µs asserts the hub reset. -/
  | resetPin (t : Time) (pin : PinIs) (held : Time)
  /-- DEVRST (R504): A write of 1 to GLB_CTL.DEVRST asserts the hub reset for 100 µs. -/
  | devrst (t : Time)
  /-- HUB_RESET_RELEASE (R512): The hub reset is released and the warm restart proceeds. -/
  | hubResetRelease (t : Time)
  /-- VLOG_GOOD (R506): VHOLD has stood above 19.8 V for 10 ms and POR is released. -/
  | vlogGood (t : Time) (vhold : Nat) (held : Time)
  /-- POR_RELEASE (R510): POR is released and the cold start begins with strap sampling. -/
  | porRelease (t : Time) (straps : Straps)
  /-- POWER_FAIL (R506): VHOLD falls below 18.0 V and the power-fail sequence begins. -/
  | powerFail (t : Time) (vhold : Nat)
  /-- FLUSH_DONE (R507): The journal flush ends and POR is asserted. -/
  | flushDone (t : Time)
  /-- FLUSH_FLOOR (R506): VHOLD reaches 14.0 V and POR is asserted whatever the flush. -/
  | flushFloor (t : Time) (vhold : Nat)
  /-- PLINTH_LOSS (R503): VKEEP falls below 1.6 V while VLOG is absent and plinth state is lost. -/
  | plinthLoss (t : Time) (vkeep : Nat)
  /-- HOLDUP_TEST (R509): The hold-up test starts at cold start or every 24 h. -/
  | holdupTest (t : Time) (vhold : Nat)
  /-- HOLDUP_TEST_END (R509): VHOLD falls 1.00 V or 5 ms pass and the capacitance is judged. -/
  | holdupTestEnd (t : Time) (current : Nat) (dt : Time) (fell : Bool)
  /-- TSET_UPDATE (R516): Once per second while locked the hub writes TSET to the plinth. -/
  | tsetUpdate (t : Time)
  /-- INTRUSION (R517): The intrusion mesh breaks or shorts and INTRUSION is set. -/
  | intrusion (t : Time)
  /-- GATE_JOURNAL (R520): Studio asks Armature to journal a parsed descriptor. -/
  | gateJournal (t : Time) (w : WorkRef)
  /-- GATE_MODEMSET (R520): Studio asks to open or close a channel's HART path. -/
  | gateModemset (t : Time) (k : Nat) (opened : Bool)
  /-- GATE_STAGE (R520): Studio asks to begin or end a staging class. -/
  | gateStage (t : Time) (begins : Bool) (cls : Nat)
  /-- GATE_STOREREC (R545): Studio asks to write sealed recorder records to the store. -/
  | gateStorerec (t : Time) (n : Nat)
  /-- GATE_FLTREQ (R520): Studio asks for a fault configuration change or C1 PEND clear. -/
  | gateFltreq (t : Time) (req : FltReq)
  /-- GATE_PATINARD (R520): Studio asks to read patina or identity data. -/
  | gatePatinard (t : Time) (area : Nat) (index : Nat)
  /-- GATE_STARTED (R520): Studio asks to make a HART STARTED mark durable. -/
  | gateStarted (t : Time) (w : WorkRef)
  /-- FW_GO (R528): NVS_FWCTL.GO starts or finishes a firmware load. -/
  | fwGo (t : Time)
  /-- FW_OPEN (R569): NVS_FWCTL.OPEN opens a window load and erases the target slot. -/
  | fwOpen (t : Time)
  /-- FW_CHUNK (R569): The 256th word to NVS_FWWIN writes the chunk into the slot. -/
  | fwChunk (t : Time) (word : Word)
  /-- FW_LOAD_END (R528): A firmware load finishes with a result code. -/
  | fwLoadEnd (t : Time) (image : List Byte) (readOk : Bool)
  /-- FW_APPLY (R529): NVS_FWCTL.APPLY restarts Studio on the loaded slot. -/
  | fwApply (t : Time)
  /-- GOOD_MARK (R527): A trial slot has run its time without faults and is confirmed. -/
  | goodMark (t : Time) (studio : Bool)
  /-- STORE_ERASE_DONE (R532): A block erase completes and the done record is written. -/
  | storeEraseDone (t : Time) (block : Nat) (failed : Bool)
  /-- STORE_WRITE_DONE (R531): A store program completes and the next queued request is served. -/
  | storeWriteDone (t : Time) (failed : Bool)
  /-- PATINA_WRITE (R535): Each hour Armature writes the patina counters to the store. -/
  | patinaWrite (t : Time)
  /-- STOREWEAR (R536): Once a day with fewer than 32 reserve blocks, STOREWEAR is recorded. -/
  | storewear (t : Time)
  /-- REC_EVENT_TAKE (R542): The REC block takes a queued event and opens or repeats a record. -/
  | recEventTake (t : Time)
  /-- RECORD_SEAL_TIME (R543): The open record's time limit passes and it is sealed. -/
  | recordSealTime (t : Time)
  /-- RECORDER_STALL (R544): The event queue stays full for 100 ms and source 0x0A9 is raised. -/
  | recorderStall (t : Time)
  /-- THRIFT_EVALUATION (R547): Every hour the REC block evaluates its 24 h means and enters or leaves thrift. The four means repeat what the
  recorder in State has counted; they are judged from State. -/
  | thriftEvaluation (t : Time) (rate24 : Nat) (bytes24 : Nat) (rate1 : Nat) (bytes1 : Nat)
  /-- EQ0_DELIVER (R550): A sealed record is written to EQ0 with its write offset. -/
  | eq0Deliver (t : Time)
  /-- REC_RDSEQ_WRITE (R553): A write to REC_RDSEQ loads the record into REC_RDWIN. -/
  | recRdseqWrite (t : Time) (seq : Word)
  /-- CU_START (R556): CUn_CTL.START begins a register job. -/
  | cuStart (t : Time) (n : Fin 4)
  /-- CU_DATA (R556): A write to CUn_DATA feeds a word. -/
  | cuData (t : Time) (n : Fin 4) (word : Word)
  /-- CU_LAST (R556): CUn_CTL.LAST feeds the final word and ends the job. -/
  | cuLast (t : Time) (n : Fin 4) (nbytes : Fin 8) (word : Word)
  /-- CU_ABORT (R556): A register job waited on by a CUJOB is idle for 10 ms and aborted. -/
  | cuAbort (t : Time) (n : Fin 4)
  /-- TIME_SUBMIT (R297): TIME_PCTL.SUBMIT submits PN and EC, or is refused. -/
  | timeSubmit (t : Time)
  /-- TIME_CMD_STEP (R350): TIME_CMD.STEP sets the master's SYSTIME to TIME_SET. -/
  | timeCmdStep (t : Time)
  /-- PEL_NUM_WRITE (R563): A write to PEL_NUM returns the device to LISTEN or UNNUM. -/
  | pelNumWrite (t : Time) (value : Word)
  /-- PEL_COUPLER_WRITE (R563): A write to PEL_CFG.COUPLER retrains PEL2 and PEL3. -/
  | pelCouplerWrite (t : Time) (coupler : Bool)
  /-- NVS_RDSEL_WRITE (R570): A write to NVS_RDSEL loads the selected record into NVS_RDWIN. -/
  | nvsRdselWrite (t : Time) (value : Word)
  /-- SEC_PROGRAM (R573): SEC_CMD PROGRAM writes a key digest into an IKEY slot. -/
  | secProgram (t : Time) (slot : Fin 4) (confirm : BitVec 16)
  /-- SEC_REVOKE (R573): SEC_CMD REVOKE blows the revocation fuse of an IKEY slot. -/
  | secRevoke (t : Time) (slot : Fin 4) (confirm : BitVec 16)
  /-- SEC_TOKEN (R573): SEC_CMD TOKEN verifies the factory token. -/
  | secToken (t : Time) (confirm : BitVec 16)
  /-- SEC_CLRINTR (R573): SEC_CMD CLRINTR clears INTRUSION. -/
  | secClrintr (t : Time) (confirm : BitVec 16)
  /-- REGISTER_WRITE (R558): A BAR0 write to a register without a row of its own is stored, ignored or refused. -/
  | registerWrite (t : Time) (off : Nat) (size : Nat) (value : BitVec 64) (requester : Nat)
  /-- STUDIO_RUNNING (R524): Studio, once verified and started, runs, so GLB_STAT.READY is set at start-up and HART service resumes after a Studio restart. -/
  | studioRunning (t : Time)
  /-- TRAP_HANDLER_END (R482): Armature's trap handler ends and clears PEND of the C2 event. -/
  | trapHandlerEnd (t : Time) (src : Nat)
  /-- HART_TXDONE (R129): The tile modem finishes sending its buffered request frame, stops its carrier and reports TXDONE. -/
  | hartTxdone (t : Time) (k : Fin 96)
  /-- COUCH_HART_WINDOW_END (R154): 1 ms after the last couch step ends, HART may transmit again and the incoming member continues its cycle list. -/
  | couchHartWindowEnd (t : Time)
  /-- YIELD_HOLDOFF_END (R379): 25 µs after a YIELD, the held-off C4 or C5 reaction or hub reset of the yielding member takes effect. -/
  | yieldHoldoffEnd (t : Time)
  /-- TILE_LINK_MASTERS_STOP (R485): 20 µs after LOCK has been sent, the hub stops every tile-link master. -/
  | tileLinkMastersStop (t : Time)
  /-- CLAMP_STAGE_REENABLE (R225): IOA_k has stood at or above LMt − 1.0 V for 100 ms after a clamp event was ended at 1.0 J, so the clamp stage is enabled again. -/
  | clampStageReenable (t : Time) (k : Fin 96) (term : Int) (held : Time)
  /-- CURRENT_BELOW_CEILING (R187): A limiting switch's current falls below its ceiling, so regulation stops and LIMIT clears. -/
  | currentBelowCeiling (t : Time) (k : Fin 96)
  /-- ANALOG_CURRENT_LIMIT (R100): The AII loop supply or sink, or an AOV output, starts or stops limiting its current, so LIMIT is set or cleared. -/
  | analogCurrentLimit (t : Time) (k : Fin 96) (limiting : Bool)
  /-- NAMUR_LPT_BELOW_10V (R165): LPt crosses 10.0 V, so NAM channels clear or regain VALID. -/
  | namurLptBelow10v (t : Time) (tile : Fin 12) (lpt : Nat)
  /-- NEVER_OFF_HOURLY_RECORD (R238): Once per hour, the hub records each OFFTEST channel that has never been off for TOFF. -/
  | neverOffHourlyRecord (t : Time) (k : Fin 96)
  /-- REC_RDWIN_LOADED (R571): The record selected by REC_RDSEQ is in REC_RDWIN, so BUSY clears and VALID or MISSING is set. -/
  | recRdwinLoaded (t : Time)
  /-- NVS_RDWIN_LOADED (R570): The record selected by NVS_RDSEL is in NVS_RDWIN, so BUSY clears and VALID is set. -/
  | nvsRdwinLoaded (t : Time)
  /-- SEC_CMD_DONE (R573): Armature finishes a SEC command, so BUSY clears, ERR is set or cleared, and SEC_KEYDATA and SEC_TOKEN are zeroed. -/
  | secCmdDone (t : Time)
  /-- CUJOB_DONE (R556): A CUJOB finishes its run over LEN bytes, writes its 8 B result to RADDR, clears CUn_STAT.BUSY and completes. -/
  | cujobDone (t : Time) (n : Fin 4)
deriving DecidableEq, Repr

end Sys2Proof
end

