-- ==== Sys2Proof/Config.lean ====
section
/-! DEFINITION. What one implementation of the YS96 fixes, and the free values.
Every constant here that is `opaque` has no body: no proof can see its value, so a claim that mentions it holds for
every value (log entry 3). -/

namespace Sys2Proof.Config

/-- Device ID and Vendor ID as GLB_ID reads them (R6, Table 19-2). -/
def glbId : Word := 0x00961C5A

/-- Revision ID of stepping B (R6, R537). -/
def revId : Nat := 0x02

/-- What the Type 0 header of function 0 shows beside its BARs, by its offset: the IDs, class code 0x118000 with the revision, the subsystem IDs, and
an Interrupt Pin of 0 (Table 12-1). -/
def pcieHeader : List (Nat × Word) := [(0x00, glbId), (0x08, 0x11800002), (0x2C, glbId), (0x3C, 0)]

/-- The commit lead `k` (R308, section "Closing a commit set"). -/
def commitLead : Nat := 2

/-- Free value: a 32-bit result whose number the spec leaves open, drawn with the counter `State.free` (log entry 3). -/
opaque freeWord : Nat → Word

/-- Free value: one byte that the spec leaves open, drawn with the counter `State.free` (log entry 3). -/
opaque freeByte : Nat → Byte

/-- Free value: a yes or no that the spec leaves open, drawn with the counter `State.free` (log entry 3). -/
opaque freeBool : Nat → Bool

/-- What the hops of a token's longest path exceed one for each member by, for the members of a group: the paths of the network are in no rule
and in no image (R315, log entry 3). -/
opaque pathHops : List Nat → Nat

/-- The fixed receiver delay of the encoder inputs in nanoseconds: R256 names it and gives no number (log entry 3). -/
opaque receiverDelay : Nat

/-- IEC 60584-1 reference function: the emf in millivolts at a temperature, both binary32, for a RANGE code 0 to 7. R105 names the standard
and prints no tables (log entry 4). -/
opaque tcEmf : Nat → Word → Word

/-- IEC 60584-1 temperature in binary32 degrees Celsius at an emf in millivolts, for a RANGE code 0 to 7 (R105, log entry 4). -/
opaque tcInverse : Nat → Word → Word

/-- The 24-bit converter code of a calibrated conversion: the calibration between them is not in the spec (R58, log entry 128). -/
opaque adcCode : Word → Nat

/-- Length of the instruction register of the test access port, at least 2 in IEEE 1149.1: the spec gives none (R591, log entry 147). -/
opaque tapIrExtra : Nat

/-- The instruction that the bits of the instruction register name, by its place in the list of R591, other than all ones: the spec gives no codes
(log entry 147). -/
opaque tapCode : List Bool → Nat

/-- Length of the boundary-scan chain: the spec names its pins and not its cells (R591, log entry 147). -/
opaque boundaryLength : Nat

/-- The factory public key `(QX, QY)` that the ROM holds (R490, R537): its number is not in the spec (log entry 5). -/
opaque factoryKey : Nat × Nat

/-- The two firmware key digests FK0 and FK1 that the ROM holds, as the 32-byte big-endian number SHA-256 gives (R523, log entry 5). -/
opaque firmwareKey : Fin 2 → Nat

/-- The part is a YS96-IC: the order code of its identity record (Table 17-11; log entry 31). -/
opaque orderC : Bool

/-- MFGDATE of the identity record (Table 17-11; log entry 31). -/
opaque mfgDate : Word

/-- CALVER of the identity record (Table 17-11; log entry 31). -/
opaque calVersion : Word

/-- The calibration record at an INDEX of NVS area 0 from 1 upwards: the spec gives neither its layout nor its numbers (R537; log entry 31). -/
opaque calRecord : Nat → List Byte

/-- An insulation history record as the NVS window shows it, from the day and the hourly minima, newest first: the spec gives no layout (Table 17-10;
log entry 31). -/
opaque insRecord : Nat → List (Option Nat) → List Byte

end Sys2Proof.Config
end

