-- ==== Sys2Proof/Machine/Bits.lean ====
section
/-! DEFINITION. Bit fields, byte order and the CRC procedure of R555, with the fixed checks of Table 18-6. -/

namespace Sys2Proof.Machine

open Sys2Proof

/-- Bits `[lo + w - 1 : lo]` of a number. -/
def bits (n lo w : Nat) : Nat := n / 2 ^ lo % 2 ^ w

/-- Bit `i` of a number. -/
def bitOf (n i : Nat) : Bool := bits n i 1 == 1

/-- 1 for true. -/
def b2n (b : Bool) : Nat := if b then 1 else 0

/-- A number as `w`-bit two's complement, read as an integer. -/
def signed (n w : Nat) : Int := if n % 2 ^ w < 2 ^ (w - 1) then (n % 2 ^ w : Nat) else (n % 2 ^ w : Nat) - (2 ^ w : Nat)

/-- An integer as its `w`-bit two's complement. -/
def unsigned (i : Int) (w : Nat) : Nat := (i % (2 ^ w : Nat)).toNat

/-- An integer as a 32-bit word, modulo 2^32. -/
def word32 (i : Int) : Word := BitVec.ofNat 32 (unsigned i 32)

/-- A 32-bit word as a signed integer. -/
def int32 (w : Word) : Int := signed w.toNat 32

/-- The `k` little-endian bytes of a number (R8). -/
def leBytes : Nat → Nat → List Byte
  | 0, _ => []
  | k + 1, n => BitVec.ofNat 8 n :: leBytes k (n / 256)

/-- The number that bytes spell in little-endian order (R8). -/
def ofLe : List Byte → Nat
  | [] => 0
  | b :: bs => b.toNat + 256 * ofLe bs

/-- The `k` big-endian bytes of a number. -/
def beBytes (k n : Nat) : List Byte := (leBytes k n).reverse

/-- The number that bytes spell in big-endian order. -/
def ofBe (l : List Byte) : Nat := ofLe l.reverse

/-- Byte `i` of a record; a byte beyond its end reads 0. -/
def u8 (r : List Byte) (i : Nat) : Nat := (r.getD i 0).toNat

/-- `k` bytes of a record from offset `i`, little-endian. -/
def uN (r : List Byte) (i k : Nat) : Nat := ofLe ((r.drop i).take k)

/-- Two bytes from offset `i`. -/
def u16 (r : List Byte) (i : Nat) : Nat := uN r i 2

/-- Four bytes from offset `i`. -/
def u32 (r : List Byte) (i : Nat) : Nat := uN r i 4

/-- Four bytes from offset `i`, as a word. -/
def w32 (r : List Byte) (i : Nat) : Word := BitVec.ofNat 32 (uN r i 4)

/-- Eight bytes from offset `i`. -/
def u64 (r : List Byte) (i : Nat) : Nat := uN r i 8

/-- `n` bytes from offset `i`. -/
def slice (r : List Byte) (i n : Nat) : List Byte := (r.drop i).take n

/-- Every byte of a list is 0. -/
def allZero (r : List Byte) : Bool := r.all (· == 0)

/-- The bits of one byte in the order in which R555 takes them. -/
def crcBits (refin : Bool) (b : Byte) : List Bool :=
  (List.range 8).map fun i => bitOf b.toNat (if refin then i else 7 - i)

/-- One bit of R555. -/
def crcBit (width poly r : Nat) (d : Bool) : Nat :=
  let shifted := r * 2 % 2 ^ width
  if (bitOf r (width - 1)) != d then shifted ^^^ poly else shifted

/-- `w` bits reversed. -/
def revBits (w n : Nat) : Nat :=
  (List.range w).foldl (fun a i => 2 * a + b2n (bitOf n i)) 0

/-- The register after feeding bytes to a CRC (R555). -/
def crcFeed (width poly : Nat) (refin : Bool) (r : Nat) (bs : List Byte) : Nat :=
  bs.foldl (fun r b => (crcBits refin b).foldl (crcBit width poly) r) r

/-- The end of R555: reflection and final XOR. -/
def crcEnd (width : Nat) (refout : Bool) (xorout r : Nat) : Nat :=
  (if refout then revBits width r else r) ^^^ xorout

/-- The procedure of R555 over a fold and then data. -/
def crc (width poly init : Nat) (refin refout : Bool) (xorout : Nat) (fold data : List Byte) : Nat :=
  crcEnd width refout xorout (crcFeed width poly refin init (fold ++ data))

/-- Tile-link check over bytes 0 to 17 (R54, Table 18-6): fold of tile, direction (true: upstream) and SEQ. -/
def tileCheck (tile : Nat) (up : Bool) (data : List Byte) : Nat :=
  crc 16 0x1021 0xFFFF false false 0
    [BitVec.ofNat 8 (tile + 16 * b2n up), data.getD 0 0] (data.take 18)

/-- Pelrun frame check (R335, Table 18-6) over the given bytes. -/
def pelrunCheck (dst fseq : Nat) (data : List Byte) : Nat :=
  crc 32 0x04C11DB7 0xFFFFFFFF true true 0xFFFFFFFF (leBytes 4 (dst % 1024 + 1024 * (fseq % 2 ^ 22))) data

/-- Descriptor CHECK and PCHECK (R400, Table 18-6): fold of ring and SEQ. -/
def descCheck (ring seq : Nat) (data : List Byte) : Nat :=
  crc 32 0x1EDC6F41 0xFFFFFFFF true true 0xFFFFFFFF (leBytes 8 (ring % 65536 + seq % 2 ^ 32 * 2 ^ 32)) data

/-- Store RCHECK (R525, R534, Table 18-6): fold of 64 zero bits. -/
def storeCheck (data : List Byte) : Nat := descCheck 0 0 data

/-- GHASH of a GRP record (R309, R464, Table 18-6). -/
def ghash (r : List Byte) : Nat :=
  crc 32 0x1EDC6F41 0xFFFFFFFF true true 0xFFFFFFFF [] (slice r 0 24 ++ slice r 64 128)

end Sys2Proof.Machine
end

