-- ==== Sys2Proof/Machine/Float.lean ====
section
/-! DEFINITION. IEEE 754 binary32 and binary64 (R8) as exact rationals, rounded to nearest, ties to even.
A zero result is +0 (log entry 7). -/

namespace Sys2Proof.Machine

open Sys2Proof

/-- What a floating-point datum is. -/
inductive FVal where
  | nan
  | inf (neg : Bool)
  | fin (q : Rat)
deriving DecidableEq, Repr

/-- 2 to an integer power. -/
def pow2 (e : Int) : Rat := if 0 ≤ e then ((2 ^ e.toNat : Nat) : Rat) else 1 / ((2 ^ (-e).toNat : Nat) : Rat)

/-- The value that `n` encodes with `p` fraction bits and `x` exponent bits. -/
def fDecode (p x n : Nat) : FVal :=
  let frac := n % 2 ^ p
  let e := bits n p x
  let neg := bitOf n (p + x)
  let bias : Int := 2 ^ (x - 1) - 1
  if e = 2 ^ x - 1 then (if frac = 0 then .inf neg else .nan)
  else
    let m : Nat := if e = 0 then frac else frac + 2 ^ p
    let q : Rat := (m : Rat) * pow2 ((max e 1 : Nat) - bias - p)
    .fin (if neg then -q else q)

/-- Nearest natural number to a non-negative rational, ties to even. -/
def roundEven (q : Rat) : Nat :=
  let f := q.num.toNat / q.den
  let r := q.num.toNat % q.den
  if 2 * r < q.den then f else if q.den < 2 * r then f + 1 else f + f % 2

/-- Nearest integer to a rational, ties to even. -/
def roundInt (q : Rat) : Int := if q < 0 then -(roundEven (-q) : Int) else (roundEven q : Int)

/-- The exponent `e` with `2^e ≤ q < 2^(e+1)` for a positive rational. -/
def log2Rat (q : Rat) : Int :=
  let g : Int := (Nat.log2 q.num.toNat : Int) - (Nat.log2 q.den : Int)
  if q < pow2 g then g - 1 else g

/-- The encoding of the nearest datum to a rational. -/
def fEncode (p x : Nat) (q : Rat) : Nat :=
  if q = 0 then 0
  else
    let a := if q < 0 then -q else q
    let bias : Int := 2 ^ (x - 1) - 1
    let e := max (log2Rat a) (1 - bias)
    let m := roundEven (a * pow2 (p - e))
    -- A mantissa of 2^(p+1) carries into the exponent by plain addition.
    let body : Int := if m < 2 ^ p then (m : Int) else (e + bias - 1) * 2 ^ p + m
    let top : Int := (2 ^ x - 1) * 2 ^ p
    (if body < top then body.toNat else top.toNat) + (if q < 0 then 2 ^ (p + x) else 0)

/-- A binary32 word's value. -/
def f32 (w : Word) : FVal := fDecode 23 8 w.toNat

/-- The quiet NaN of binary32. -/
def qnan : Word := 0x7FC00000

/-- A value as binary32. -/
def toF32 : FVal → Word
  | .nan => qnan
  | .inf false => 0x7F800000
  | .inf true => 0xFF800000
  | .fin q => BitVec.ofNat 32 (fEncode 23 8 q)

/-- A rational as binary32. -/
def f32OfRat (q : Rat) : Word := toF32 (.fin q)

/-- A binary64 number's value, from its 64 bits. -/
def f64 (n : Nat) : FVal := fDecode 52 11 n

/-- A rational rounded to binary64 and read back. -/
def round64 (q : Rat) : FVal := fDecode 52 11 (fEncode 52 11 q)

/-- The finite value of a binary32 word; 0 for NaN and infinities. -/
def f32Rat (w : Word) : Rat := match f32 w with | .fin q => q | _ => 0

/-- The word encodes a NaN. -/
def isNan (w : Word) : Bool := f32 w == .nan

/-- The word encodes a finite number. -/
def isFin (w : Word) : Bool := match f32 w with | .fin _ => true | _ => false

/-- Sum of two values. -/
def fAdd : FVal → FVal → FVal
  | .nan, _ => .nan
  | _, .nan => .nan
  | .inf a, .inf b => if a = b then .inf a else .nan
  | .inf a, .fin _ => .inf a
  | .fin _, .inf b => .inf b
  | .fin a, .fin b => .fin (a + b)

/-- Negation of a value. -/
def fNeg : FVal → FVal
  | .nan => .nan
  | .inf a => .inf (!a)
  | .fin q => .fin (-q)

/-- Product of two values. -/
def fMul : FVal → FVal → FVal
  | .nan, _ => .nan
  | _, .nan => .nan
  | .inf a, .inf b => .inf (a != b)
  | .inf a, .fin q => if q = 0 then .nan else .inf (a != decide (q < 0))
  | .fin q, .inf b => if q = 0 then .nan else .inf (b != decide (q < 0))
  | .fin a, .fin b => .fin (a * b)

/-- `a < b` on values; false when either is a NaN. -/
def fLt : FVal → FVal → Bool
  | .nan, _ => false
  | _, .nan => false
  | .inf a, .inf b => a && !b
  | .inf a, .fin _ => a
  | .fin _, .inf b => !b
  | .fin a, .fin b => decide (a < b)

/-- binary32 sum. -/
def addF (a b : Word) : Word := toF32 (fAdd (f32 a) (f32 b))

/-- binary32 difference. -/
def subF (a b : Word) : Word := toF32 (fAdd (f32 a) (fNeg (f32 b)))

/-- binary32 product. -/
def mulF (a b : Word) : Word := toF32 (fMul (f32 a) (f32 b))

/-- `a < b` on binary32. -/
def ltF (a b : Word) : Bool := fLt (f32 a) (f32 b)

/-- Integer square root, rounded down. -/
def isqrt (n : Nat) : Nat :=
  if n = 0 then 0
  else (List.range (Nat.log2 n / 2 + 1)).reverse.foldl (fun r i => if (r + 2 ^ i) * (r + 2 ^ i) ≤ n then r + 2 ^ i else r) 0

/-- Square root of a non-negative rational, to 2^-60 relative below (used where a square root is rounded to binary32). -/
def sqrtRat (q : Rat) : Rat :=
  if q ≤ 0 then 0
  else
    let e := (log2Rat q - 160) / 2
    ((isqrt (q * pow2 (-(2 * e))).floor.toNat : Nat) : Rat) * pow2 e

end Sys2Proof.Machine
end

