-- ==== Sys2Proof/Machine/State.lean ====
section
/-! DEFINITION. What the YS96 block holds, as plain data, and its state right after power-on reset.
Each structure names the chapter whose state it is; each field's default is its value at reset. A reset value that the spec does
not give is named in log entry 10. -/

namespace Sys2Proof.Machine

open Sys2Proof

/-- Why the machine stops with a fault. Raised by no command whose behaviour the spec gives: the spec describes an effect, an
ignored write or a rejection for each (safe). -/
inductive Fault where
  /-- R7: an integrator or host failed a "must" for which the spec states no response. No command of the table needs it, and none
  raises it (safe). -/
  | unspecified (rule : Nat)
deriving DecidableEq, Repr

/-- Why a command has no meaning. -/
inductive Refusal where
  /-- The command's row has no meaning in this model yet. Raised by Dispatch alone (safe). -/
  | notModelled (mnemonic : String)
deriving DecidableEq, Repr

/-- The bytes of one image record (R450): read through the accessors of Machine/Records.lean. -/
abbrev Rec := List Byte

/-! ## Tiles (chapter "Field tiles") -/

/-- Table 02-4. -/
inductive TileState where
  | off | quiet | live | hold | fallback
deriving DecidableEq, Repr

/-- A value that a source of Table 01-3 gives a terminal: a static level (reflex switch on or off), a DO command word
(R172), a DAC code (R109), or "keep the present output" (R111, R112, holds of level 3). -/
inductive Drive where
  | force (on : Bool)
  | word (on : Bool) (duty : Nat)
  | dac (code : Nat)
  | keep
deriving DecidableEq, Repr

/-- What a terminal does: high impedance, the switch on or off, a regulated DAC code, or a share, in eighths, of the load
current that the partner measured (AOV in couch, Table 11-11). -/
inductive Term where
  | hiZ
  | sw (on : Bool)
  | dac (code : Nat)
  | current (eighths : Nat)
deriving DecidableEq, Repr

/-- The use of one terminal of a channel (Tables 03-1, 03-13, 05-1 and 05-6): high impedance, a measured input, the output that
`Levels.term` describes, the return, the loop supply and the current sink with their share in eighths, RTD excitation, the DI and CNT
sink, and the NAMUR source. -/
inductive Pin where
  | hiZ | input | output | ret
  | loop (eighths : Nat)
  | sink (eighths : Nat)
  | excite | digSink | namur
deriving DecidableEq, Repr

/-- The three terminals IOA, IOB and IOC of a channel. -/
structure Pins where
  a : Pin := .hiZ
  b : Pin := .hiZ
  c : Pin := .hiZ
deriving DecidableEq, Repr

/-- One configuration bank of a tile (R43, R56, R443): the image's records for it. An empty record means "none". -/
structure TileBank where
  chan : Bank Rec 8 := Bank.fill 8 []
  tile : Rec := []
  safe : Bank Rec 8 := Bank.fill 8 []
  prof : List Rec := []
  tref : List Rec := []
  hact : Bank Rec 8 := Bank.fill 8 []
deriving DecidableEq, Repr

/-- Where a pending timed command stands (R66, R68, R247): a buffer entry with the slot that fed it, the one level-5 place of
its channel, a level-5 release, or a release of level 6 as held by a slot's partition. -/
inductive TKind where
  | buf (handle : Nat) (slot : Nat)
  | l5
  | l5rel
  | l6rel (handle : Nat) (slot : Nat)
  /-- The release of a LATCH entry of the tile reflex (R73). -/
  | refRel (entry : Nat)
deriving DecidableEq, Repr

/-- A pending timed command (R64). -/
structure TEntry where
  kind : TKind
  c : Fin 8
  /-- OP is DUTY (otherwise SET). -/
  duty : Bool
  stamp : Word
  value : BitVec 16
deriving DecidableEq, Repr

/-- One timed-command report (R70, Table 02-11). -/
structure Tack where
  handle : Byte
  code : Nat
  ticks : Word
deriving DecidableEq, Repr

/-- One queued EVT event (R57, R58): 0 edge, 1 comparator, 2 reflex firing, 3 reflex release, 4 diagnostic result; the channel or
entry; its new level; its instant in half-nanoseconds of tile time. -/
structure Evt where
  kind : Nat
  idx : Nat
  on : Bool
  time : Time
deriving DecidableEq, Repr

/-- A tile reflex entry's run-time state (R72, R73). -/
structure TrefSt where
  entry : Nat
  fired : Bool
  since : Option Time
deriving DecidableEq, Repr

/-- A role change waiting for its stamp (R366). -/
structure RoleAt where
  stamp : Word
  standby : Bool
  partnered : Bool
deriving DecidableEq, Repr

/-- One tile as such (R41 to R80). -/
structure Tile where
  state : TileState := .off
  /-- Active configuration bank; none until the configuration is complete. -/
  bank : Option TileBank := none
  /-- The bank that CFG frames are filling. -/
  loading : TileBank := {}
  /-- The shadow bank once complete and checked (R443). -/
  shadow : Option TileBank := none
  supplyLow : Bool := false
  /-- Measured LPt in mV (Table 19-10). -/
  lpt : Nat := 0
  /-- Die temperature in 0.1 °C. -/
  temp : Int := 0
  dieWarn : Bool := false
  pend : List TEntry := []
  tacks : List Tack := []
  /-- DISCARDED reports kept until the link returns (R48). -/
  discarded : List Tack := []
  evq : List Evt := []
  /-- Epoch edge reports waiting for an EVT slot, ahead of every other event (R162). -/
  edgeReps : List Evt := []
  evDrop : Nat := 0
  /-- Handles whose last entry has executed (R69). -/
  ran : List Nat := []
  standby : Bool := false
  partnered : Bool := false
  lockLatch : Bool := false
  roleAt : Option RoleAt := none
  tref : List TrefSt := []
  /-- Tile time less the device's elapsed time, in half-nanoseconds (R76). -/
  timeOff : Int := 0
  /-- De-energised at the ride-through end; cleared once LPt has been at or above 8.0 V for 10 ms (R43). -/
  sunk : Bool := false
  /-- Committed values as STATE frames brought them (R56). -/
  com : Bank Word 8 := Bank.fill 8 0
  /-- The channel that MGT has armed for trimming (R56). -/
  trim : Option (Fin 8) := none
deriving DecidableEq, Repr

/-- Both ends of one tile link (R51 to R63, R75, R76). -/
structure TLink where
  downSilent : Bool := true
  downBad : Nat := 0
  downGood : Nat := 0
  downSeq : Option Byte := none
  downMiss : Nat := 0
  /-- Instants of the last good frames of each direction (R61). -/
  downLast : Option Time := none
  upLast : Option Time := none
  /-- Instants of the last judged frames of each direction, good or bad: the whole periods since are bad (R55). -/
  downSeen : Option Time := none
  upSeen : Option Time := none
  upSilent : Bool := true
  upBad : Nat := 0
  upGood : Nat := 0
  upSeq : Option Byte := none
  upMiss : Nat := 0
  badChars : Nat := 0
  badFrames : Nat := 0
  silences : Nat := 0
  /-- STATUS reports that the tile finds its downstream direction silent (R62). -/
  tileSays : Bool := true
  /-- Dropped events that STATUS last reported (R58). -/
  evSeen : Nat := 0
  /-- The hub has declared the link silent (R62). -/
  hubSilent : Bool := true
  /-- When the hub stopped downstream frames (R62). -/
  stoppedAt : Option Time := none
  fclk : Bool := false
  /-- The next TIME frame steps tile time (R76). -/
  stepDue : Bool := false
  techo : Nat × Nat := (0, 0)
  /-- SYSTIME in ns and epoch number of the last TIME frame, and tile time in ticks at its receipt (R56, R57). -/
  timeRx : Nat × Nat := (0, 0)
  timeAt : Nat := 0
  /-- Link delay that the hub measured from TIME and TECHO frames, in half-nanoseconds (R76). -/
  delay : Int := 0
  /-- Buffer fill per partition as STATUS last reported it: entries 0 to 15, then the partitions of slots 3 to 8 (R57). -/
  fill : List Nat := []
  /-- Epoch in which the hub last declared the link good (R49). -/
  goodEpoch : Nat := 0
  /-- The last event of each kind and place that EVT frames brought (R57). -/
  evts : List UpEvt := []
deriving DecidableEq, Repr

/-- The sense equipment of one tile: fast sense converter, SNS_t and its self-check (R77 to R79, R207 to R210). -/
structure TSns where
  next : Fin 8 := 0
  /-- Conversions of the running epoch per channel: count, sum, peak. -/
  acc : Bank (Nat × Nat × Nat) 8 := Bank.fill 8 (0, 0, 0)
  /-- The epoch of those conversions. -/
  accE : Nat := 0
  /-- Count, sum and peak of the last epoch per channel (R78). -/
  report : Bank (Nat × Nat × Nat) 8 := Bank.fill 8 (0, 0, 0)
  /-- The channel for which a diagnostic slot claims the converter, and the end of the claimed time (R79). -/
  claimed : Option (Fin 8 × Time) := none
  /-- Conversions, mean and peak code per channel as SENSE frames reported them to the hub (R78). -/
  hub : Bank (Nat × Nat × Nat) 8 := Bank.fill 8 (0, 0, 0)
  ssel : Fin 8 := 0
  mirrorBad : Nat := 0
  senseFail : Bool := false
deriving DecidableEq, Repr

/-- What SNS_t gives (Table 06-7): nothing, the fault level of 3.30 mA, or a level in millivolts. -/
inductive SnsPin where
  | undriven
  | fault
  | level (mv : Rat)
deriving DecidableEq, Repr

/-- Insulation history in ohms (R233, Table 17-10): lowest result of the running hour, the hourly minima of the last 90 days, newest first
(none for an hour without a result), hours of the running day, and the daily minima. -/
structure InsHist where
  hourMin : Option Nat := none
  hours : List (Option Nat) := []
  day : Nat := 0
  daily : List (Option Nat) := []
deriving DecidableEq, Repr

/-- Insulation watch of one tile (R228 to R233). -/
structure TIso where
  /-- R_T, binary32 in ohms; none until a measurement gave one. -/
  rT : Option Word := none
  bondLow : Nat := 0
  bondHigh : Nat := 0
  disturbedRun : Nat := 0
  disturbed : Nat := 0
  ins : InsHist := {}
deriving DecidableEq, Repr

/-! ## Channels -/

/-- The two poles of an AOI channel's shaping filter at an instant, in 2^-16 of a DAC step (R128). -/
structure Shape where
  y1 : Int
  y2 : Int
  at_ : Time
deriving DecidableEq, Repr

/-- The priority levels of one terminal (Table 01-3) and what they give it. Level 4 comes from the tile's role. -/
structure Levels where
  tileReflex : Option Drive := none
  hubReflex : Option Drive := none
  l3 : Option Drive := none
  /-- RESTORE = ACK and waiting for the acknowledgement (R44). -/
  ackWait : Bool := false
  /-- HOLDWIN's end (R47); none when no window runs. -/
  holdEnd : Option Time := none
  /-- CSW.HOLD: the tile is in HOLD and the channel within its window. -/
  holding : Bool := false
  /-- CSW.FALLBACK. -/
  fell : Bool := false
  l5 : Option Drive := none
  /-- Level 6 with the TCMD slot whose partition holds it (R247). -/
  l6 : Option (Nat × Drive) := none
  /-- Level 7: the epoch-committed value. -/
  l7 : Drive := .word false 0
  /-- FBVAL stands at level 7 in place of the group's committed value (R319, R321). -/
  l7fb : Bool := false
  /-- Fallback of the channel's group stands: FALLBACK shows (R319, R321). -/
  grpFb : Bool := false
  /-- Couch share of this member in eighths (R377); none outside couch. -/
  share : Option Nat := none
  /-- The terminal, and the level of Table 01-3 that decides it. -/
  term : Term := .hiZ
  /-- The same before the couch share. -/
  base : Term := .hiZ
  /-- What the deciding source commands, apart from COMPLACT = LOW: a kept output goes back to it (R95, R112). -/
  cmd : Term := .hiZ
  /-- AOI with HART on: the 25 Hz shaping filter while it settles after a change from levels 5 to 7 (R128). -/
  shape : Option Shape := none
  deciding : Nat := 7
deriving DecidableEq, Repr

/-- The pulse generator of one channel (R174 to R176). -/
structure PGen where
  on : Bool := false
  duty : Nat := 0
  /-- A change of levels 5 to 7 waiting for a period start (R175). -/
  next : Option (Bool × Nat) := none
  /-- The level the generator gives now. -/
  out : Bool := false
  /-- Instant at which the on time ends. -/
  offAt : Option Time := none
  /-- TRAIN: pulses still to start, the next pulse instant, and whether the word's ON was seen as 1. -/
  left : Nat := 0
  nextAt : Option Time := none
  armed : Bool := false
deriving DecidableEq, Repr

/-- Cut-off kinds (R188, R189, R204). -/
inductive CutKind where
  | short | overload | trip
deriving DecidableEq, Repr

/-- A standing cut-off: latched, or waiting until RETRYT has passed (R190). -/
structure Cut where
  kind : CutKind
  latched : Bool
  ends : Time
deriving DecidableEq, Repr

/-- The protected switch of one channel (chapter "Protected load switching"). -/
structure Sw where
  on : Bool := false
  changed : Time := 0
  /-- Start of the running envelope (R182). -/
  envAt : Option Time := none
  /-- LIMIT: the switch regulates at its ceiling (R187), or an analog limit acts (R100, R112). -/
  limiting : Bool := false
  cut : Option Cut := none
  /-- Instants of the cut-offs of the last 60 s, newest first (R190). -/
  cutTimes : List Time := []
  thermal : Bool := false
  thermLatch : Bool := false
  thermTimes : List Time := []
  clampLock : Bool := false
  /-- Clamp energy in µJ per 100 ms bin, newest first, at most 100 bins (R193). -/
  bins : List Nat := []
  /-- The clamp stage is disabled (R225). -/
  clampOff : Bool := false
  /-- End of the last clamp event: REVERSE is not judged at IOA_k for 1 ms after it (R224). -/
  clampEnd : Option Time := none
  /-- VALVE: end of TPEAK; none when regulating IHOLD or off (R185). -/
  peakEnd : Option Time := none
  /-- VALVE: the current in mA at which the switch regulates after TPEAK (R185). -/
  hold : Option Nat := none
  /-- CAP: the terminal is still rising, at `slew` in 0.1 V/ms (R186). -/
  ramping : Bool := false
  slew : Nat := 0
  /-- Latches or windows were lost with the power of tile and hub and the loss is still to be recorded (R198). -/
  lost : Bool := false
  /-- Junction temperature in 0.1 °C, as last measured. -/
  junction : Int := 0
  /-- The same two for the second switch of a paired output: each switch has its own sensor (R191, R201). -/
  thermal2 : Bool := false
  junction2 : Int := 0
deriving DecidableEq, Repr

/-- The analog front end of one channel (chapter "Analog functions"). -/
structure Ana where
  /-- Index n of the last conversion (R86). -/
  n : Nat := 0
  /-- Its SYSTIME instant in ns; none until a first conversion is kept. -/
  inst : Option Nat := none
  /-- Calibrated and trimmed conversion, and the filtered value y (R90), binary32. -/
  raw : Word := 0
  y : Word := 0
  /-- Instant and value of the conversion before it (R285). -/
  prev : Option (Nat × Word) := none
  filtOn : Bool := false
  valid : Bool := false
  underR : Bool := false
  overR : Bool := false
  compl : Bool := false
  /-- COMPLACT = LOW drives ALMLO, with its DAC code (R95). -/
  complLow : Bool := false
  almlo : Nat := 0
  /-- Tile time in half-ns at which the configuration was complete, or the last step of tile time: conversions count from there (R86,
  R87). -/
  startAt : Nat := 0
  /-- No conversion has been kept since. -/
  restart : Bool := true
  /-- VALID of the channel at its last conversion (R90). -/
  wasValid : Bool := false
  /-- The AII sink is open until this instant (R100). -/
  sinkOpen : Option Time := none
  /-- Last lead resistance, binary32 ohms (R103). -/
  lead : Word := 0
  /-- The last 16 calibrated conversions, newest first (R118). -/
  last : List Word := []
  /-- Consecutive conversions towards OPEN_WIRE and SHORT_M (R220, R221). -/
  openRun : Nat := 0
  shortRun : Nat := 0
  /-- Since when the total of a MULTI loop has stood beyond its OVER or UNDER limit, or back within it (R133). -/
  overAt : Option Time := none
  underAt : Option Time := none
  /-- Cold-junction sensor of the tile as last sampled for this channel, binary32 °C (R106). -/
  cj : Word := 0
deriving DecidableEq, Repr

/-- A digital input or counter (chapter "Digital inputs, counters and pulse outputs"). -/
structure Dig where
  raw : Bool := false
  filt : Bool := false
  runStart : Time := 0
  count : Word := 0
  edges : Word := 0
  /-- Instant (SYSTIME half-ns) of the latest accepted rising and falling edge. -/
  lastRise : Option Nat := none
  lastFall : Option Nat := none
  /-- Counted edges, newest first: acceptance instant and timestamp, SYSTIME half-ns (R169). -/
  hist : List (Nat × Nat) := []
  /-- Epoch edge reports waiting (R162): rising, falling. -/
  riseRep : Option Nat := none
  fallRep : Option Nat := none
  divLow : Bool := false
  /-- NAMUR line fault: none, open (false) or short (true). -/
  line : Option Bool := none
  /-- The line state was judged since the last change of role (R215). -/
  lineJudged : Bool := false
  /-- NAMUR: LPt below 10.0 V (R165). -/
  namLow : Bool := false
  freq : Word := 0
  freqOver : Bool := false
  /-- Hub's published count, as the last T_E or value frame gave it, and its offset across a tile stop (R168). -/
  pub : Word := 0
  offset : Word := 0
  /-- Own count, as the hub last had it, and edge count at the last epoch boundary (R291, R373). -/
  countE : Word := 0
  edgesE : Word := 0
  /-- Edges counted in the running thrift minute: rising, falling (R548). -/
  thrift : Nat × Nat := (0, 0)
deriving DecidableEq, Repr

/-- Diagnostics of one channel (chapter "Channel diagnostics and miswiring"). -/
structure Diag where
  /-- Standing verdict codes of Table 07-2 that come from judgements (0x10 to 0x23, 0x40 to 0x61). -/
  stand : List Nat := []
  judged : Bool := false
  /-- Channels with which PARALLEL stands (R226, R227). -/
  par : List Nat := []
  /-- CSW latched at T_E. -/
  csw : Word := 0
  /-- VERDICT last recorded and since when the present one stands (R241). -/
  recorded : Nat := 0
  changed : Time := 0
  /-- PARALLEL: for each other channel, followed run and failed run (R226, R227). -/
  follow : List (Nat × Nat × Nat) := []
  rc : Option Word := none
  leakLow : Nat := 0
  leakHigh : Nat := 0
  ins : InsHist := {}
  /-- Since when R_c has been below 4 × ISOLO without returning, and above 10 × ISOLO (R233). -/
  lowSince : Option Time := none
  highSince : Option Time := none
  /-- Edge calibration: consecutive discarded measurements, on and off (R235). -/
  discOn : Nat := 0
  discOff : Nat := 0
  skipped : Nat := 0
  everOff : Bool := false
deriving DecidableEq, Repr

/-- HART outcome of an attempt or transaction (Table 04-7). -/
abbrev HartOutcome := Nat

/-- One drop of a channel's plan (R130, Table 04-6). -/
structure Drop where
  addr : Nat
  /-- 0 NEW, 1 LIVE, 2 FAULT, 3 IDFAULT, 4 NOLINK. -/
  state : Nat := 0
  longAddr : List Byte := []
  revision : Nat := 0
  fieldStatus : Byte := 0
  respCode : Byte := 0
  /-- "More status available" asks for command 48 in the next turn (R145). -/
  more48 : Bool := false
  /-- The present turn sends command 48 in place of its entry (R145). -/
  now48 : Bool := false
  /-- Identification is to be repeated, the long address being known (R134). -/
  reident : Bool := false
deriving DecidableEq, Repr

/-- The HART modem and the scheduler of one channel (chapter "HART on every channel"). -/
structure Hart where
  /-- Modem: request buffer, transmitting, carrier detected, the path opened by the gate. -/
  buf : List Byte := []
  tx : Bool := false
  carrier : Bool := false
  path : Bool := false
  /-- Preamble characters received in a row, and a message recognised after at least two (R130). -/
  pre : Nat := 0
  rxOn : Bool := false
  /-- Bytes received of the present message. -/
  rx : List Byte := []
  rxErr : Bool := false
  /-- Transmission was stopped; STAT of the next upstream HART payload says so (Table 04-5). -/
  txAbort : Bool := false
  /-- Hub: HART payloads still to be sent to the modem (Table 04-4), the message being received from it (Table 04-5), whether one is under way, and
  SYSTIME in half-nanoseconds of the last byte received (R151). -/
  out : List (List Byte) := []
  hubRx : List Byte := []
  hubErr : Bool := false
  hubOn : Bool := false
  heardAt : Option Time := none
  /-- The plan and items under which the present turn completes after an activation of a new plan (Table 04-9). -/
  old : Option (Rec × List Rec) := none
  drops : List Drop := []
  /-- Index of the present turn in the cycle list; none between turns. The ad hoc window is turn 255. -/
  turn : Option Nat := none
  turnEnd : Time := 0
  /-- The request frame last handed to the modem, preamble included. -/
  frame : List Byte := []
  /-- The request under way: polling address, command, the instant by which a reply must begin, attempts made. -/
  request : Option (Nat × Nat) := none
  replyBy : Option Time := none
  tries : Nat := 0
  nextTurn : Nat := 0
  quietUntil : Time := 0
  /-- Until this instant a request may follow a burst frame (R142). -/
  burstBy : Option Time := none
  /-- Queued host transactions and the one under way (R147). -/
  queue : List WorkRef := []
  host : Option WorkRef := none
  burstLost : Nat := 0
  /-- How the last attempt failed: 0 none, 1 no good reply, 2 communication error, 3 busy (Table 04-7). -/
  lastFail : Nat := 0
  /-- No frame is transmitted while set (R154). -/
  couchHold : Bool := false
  hartFault : Bool := false
deriving DecidableEq, Repr

/-- One channel. -/
structure Chan where
  lev : Levels := {}
  pg : PGen := {}
  sw : Sw := {}
  ana : Ana := {}
  dig : Dig := {}
  dg : Diag := {}
  hart : Hart := {}
  /-- The hub's last committed value; none stands for FBVAL (R445). -/
  com : Option Word := none
  /-- The host override that stands, as the hub holds it (Table 01-3, level 5). -/
  ovr : Option Word := none
  /-- Comparators CMPA and CMPB of the front end (R71). -/
  cmpA : Bool := false
  cmpB : Bool := false
  /-- What the three terminals are used for. -/
  pins : Pins := {}
  /-- The 8-byte entry that the tile formed at the last T_E (R58, R177). -/
  epv : List Byte := []
  /-- The 8-byte entry of the last EPV or LVAL frame at the hub (R58). -/
  hubVal : List Byte := []
  /-- Latch nibble and clamp window in millijoules as STATUS last reported them: the hub's copy (R198). -/
  hubLatch : Nat := 0
  hubWindow : Nat := 0
deriving DecidableEq, Repr

/-! ## Schedules, axes, loops (chapter "Schedules, web axes and loop service") -/

/-- A command a lane has issued: entry index (65,535 for a value sent on its own), handle, issued stamp in ticks of SYSTIME, its
value, and for a cam entry the direction and the position just after its crossing. `done` once the tile has reported it: it then
stays listed until its crossing has passed (R268, R270). -/
structure LaneCmd where
  entry : Nat
  handle : Nat
  stamp : Nat
  value : Word := 0
  /-- VALUE as sent to the tile (R64). -/
  val : Nat := 0
  rev : Bool := false
  cross : Int := 0
  done : Bool := false
  /-- A CANCEL has been sent for it (R270). -/
  cancelled : Bool := false
  /-- REPLACEs and CANCELs sent for it and not yet reported (R270). -/
  asks : Nat := 0
  /-- A REPLACE or CANCEL for it is still unsent (R268). -/
  want : Bool := false
  /-- Of a run that a STOP has ended; its report is still to come (R269). -/
  old : Bool := false
deriving DecidableEq, Repr

/-- One lane (Table 08-1). -/
structure Lane where
  /-- 0 IDLE, 1 RUN, 2 RUNDOWN, 3 SAFE. -/
  state : Nat := 0
  /-- Value of the last executed command. -/
  value : Word := 0
  /-- Value of the last command sent; none since the lane was last IDLE. -/
  sent : Option Word := none
  /-- The value that level 6 of the target will hold once the commands sent have run; none where that is not known, as after a cancelled or
  discarded command, and the next command is then a SET (R245). -/
  known : Option Word := none
  /-- Index and stamp of the last executed entry (Table 11-8). -/
  lastEntry : Nat := 0
  lastStamp : Nat := 0
  /-- Stamp of the lane's previous command, in ticks (R250). -/
  last : Nat := 0
  late : Nat := 0
  tooLate : Nat := 0
  clipped : Nat := 0
  uncorrected : Nat := 0
  /-- T_E at which RUN took effect, in ticks (R252). -/
  startAt : Nat := 0
  /-- TIME: number of the next entry instant to issue, counted from the start of cycle 0 or of the run. -/
  nextEntry : Nat := 0
  cmds : List LaneCmd := []
  /-- RDVAL stamp awaited (R276). -/
  rdAt : Option Nat := none
deriving DecidableEq, Repr

/-- The flags of an axis context, as in its status tag (Table 08-4). -/
structure AxFlags where
  lost : Bool := false
  noref : Bool := true
  still : Bool := false
  stopReq : Bool := false
  rundown : Bool := false
  rdEnd : Bool := false
  qerr : Bool := false
  zfault : Bool := false
deriving DecidableEq, Repr

/-- One axis context (R253 to R263, R275 to R277). -/
structure Axis where
  flags : AxFlags := {}
  /-- Position p (48 bits), and OFFSET. -/
  p : BitVec 48 := 0
  offset : Word := 0
  /-- p and OFFSET as the present epoch's tags hold them (R263). -/
  pE : BitVec 48 := 0
  offsetE : Word := 0
  a : Bool := false
  b : Bool := false
  /-- Counted edges, newest first: timestamp in ns and p after the edge. -/
  edges : List (Nat × BitVec 48) := []
  /-- v_w and 2 × t_m (ns) of past ticks, newest first: tick instant in ns, v_w, 2 t_m. -/
  hist : List (Nat × BitVec 64 × Nat) := []
  ta : Nat := 0
  pa : BitVec 48 := 0
  vw : BitVec 64 := 0
  tm2 : Nat := 0
  acc : BitVec 64 := 0
  qerrTimes : List Time := []
  qerrCount : Nat := 0
  zlatch : Option (Nat × BitVec 48) := none
  line : Fin 8 := 0
  stopAt : Time := 0
  /-- A reflex STOPAXIS entry, a RUNDOWN host silence or the source's RUNDOWN still asserts (R277). -/
  stopHeld : Bool := false
  slowTicks : Nat := 0
  lastAxs : Option Time := none
  shadowDiff : Nat := 0
deriving DecidableEq, Repr

/-- A hub reflex entry's run-time state (R281, R283). -/
structure HrefSt where
  entry : Nat
  fired : Bool := false
  since : Option Time := none
  /-- Fired by ONSILENT = FIRE and held until the link returns. -/
  bySilence : Bool := false
deriving DecidableEq, Repr

/-- One loop block (R284 to R290); fixed-point values as exact integers of their formats (Table 08-7). -/
structure Loop where
  mode : Nat := 3
  want : Nat := 0
  u : Int := 0
  i : Int := 0
  d : Int := 0
  pvPrev : Int := 0
  sp : Word := 0
  mv : Word := 0
  pv : Word := 0
  out : Word := 0
  status : Word := 0
  n : Nat := 0
  /-- The next AUTO sample is the first after MAN or TRACK. -/
  fresh : Bool := true
  /-- The block's first sample after start or activation runs in TRACK. -/
  first : Bool := true
  /-- The block has had a sample since the hub started (R302). -/
  ran : Bool := false
  /-- Handle of the output command under way. -/
  hnd : Option Nat := none
  /-- Its stamp, in ticks. -/
  sentAt : Nat := 0
  /-- Output to a tag that changes at s_n + 50 µs: instant in SYSTIME half-ns and value (R285). -/
  outAt : Option (Nat × Word) := none
deriving DecidableEq, Repr

/-- One totaliser (R291 to R294). -/
structure Tot where
  acc : BitVec 64 := 0
  limit : Bool := false
  srcBad : Bool := false
  sat : Bool := false
  gap : Bool := false
  gapN : Nat := 0
  lastRate : Option (Word × Time) := none
  lastCount : Option Word := none
  lastEpoch : Option Nat := none
  preset : Option Word := none
  /-- Epoch, accumulator and count of the journal entries that may not be in the store yet, newest first (R293, R507). -/
  past : List (Nat × BitVec 64 × Option Word) := []
deriving DecidableEq, Repr

/-- The newest frame that the engines fill in one TCMD slot of one tile: its instant and how many commands it carries (R56, R268). -/
structure SlotUse where
  tile : Nat
  slot : Nat
  at_ : Nat
  used : Nat
deriving DecidableEq, Repr

/-- The hub engines. -/
structure Engines where
  lane : Bank Lane 96 := Bank.fill 96 {}
  axis : Bank Axis 8 := Bank.fill 8 {}
  loop : Bank Loop 48 := Bank.fill 48 {}
  tot : Bank Tot 96 := Bank.fill 96 {}
  slots : List SlotUse := []
  href : List HrefSt := []
  /-- Comparator states the hub knows, numbered 2k + j (R281, R461). -/
  comp : Bank Bool 192 := Bank.fill 192 false
deriving DecidableEq, Repr

/-! ## Epochs, cuts and commit groups -/

/-- What a descriptor does when its commit set applies. A tag write carries the tag record against which it was checked (R446). -/
inductive SetAct where
  | tag (r : Rec) (value : Word)
  | ack (k : Fin 96)
  | ovr (k : Fin 96) (value : Word)
  | ovrel (k : Fin 96)
  | activate
  | revert
  | couch (seat : Nat)
deriving DecidableEq, Repr

/-- One item of a commit set, with the descriptor it came from; items stand in the order of R411 and R412. -/
structure SetItem where
  w : WorkRef
  act : SetAct
deriving DecidableEq, Repr

/-- The commit set of one group for one epoch (R308, R313). Group 0xFFFF is the own group. -/
structure CSet where
  group : Nat
  epoch : Nat
  items : List SetItem
deriving DecidableEq, Repr

/-- A verdict held for an epoch (R315, R355). -/
structure Verdict where
  epoch : Nat
  commit : Bool
  silent : Bool
  exclude : Bool
  rdDone : Bool
deriving DecidableEq, Repr

/-- This device's membership of one group (R308 to R323). -/
structure Group where
  num : Nat
  /-- 0 OUT, 1 JOINING, 2 IN, 3 LAGGING (Table 09-3). -/
  state : Nat := 0
  /-- Sender of the verdicts it receives, and the epoch of the last one. -/
  leader : Option (Nat × Nat) := none
  consec : Nat := 0
  total : Nat := 0
  /-- Consecutive ready epochs while LAGGING (R320). -/
  readyRun : Nat := 0
  /-- Readiness fixed at T_(E−1): the epoch and the bit (R314). -/
  ready : Option (Nat × Bool) := none
  verdict : Option Verdict := none
  /-- The token of an epoch this member launched is under way. -/
  launched : Option Nat := none
  /-- Host silence has begun for CTLDEV = this device or a departed CTLDEV; the leader announces it (R321). -/
  silence : Bool := false
  /-- HSPOL has been applied (status bit 2). -/
  applied : Bool := false
  /-- SAFE stands on the group's channels (SAFE, or RUNDOWN once RDDONE came). -/
  safe : Bool := false
  /-- A good WDH service of CTLDEV since the fault (R323). -/
  served : Bool := false
  /-- Last epoch whose token visited each member. -/
  visits : List (Nat × Nat) := []
  noVerdict : Option Nat := none
  /-- The token bound does not fit the period that a change of period brought (R297). -/
  tight : Bool := false
  /-- IN again from the next epoch; its channels restore at that epoch's T_E (R320). -/
  rejoin : Bool := false
  /-- Members whose departure takes effect at the next token (R312). -/
  leaving : List Nat := []
deriving DecidableEq, Repr

/-- A cut or tag record: VALUE, CSW and EPOCH (R304). -/
structure TagRec where
  value : Word
  csw : Word
  epoch : Nat
deriving DecidableEq, Repr

/-- The epoch image received from a remote device (R300): parts seen, the last part's number once known, its records. -/
structure RImage where
  dev : Nat
  epoch : Nat
  parts : List Nat
  last : Option Nat
  unlocked : Bool
  recs : List (Nat × Word × Word)
deriving DecidableEq, Repr

/-- One image queue (R299 to R307, R417, R418). -/
structure IQ where
  en : Bool := false
  tags : List Word := []
  enRef : Bool := false
  tlErr : Bool := false
  head : Nat := 0
  wr : Nat := 0
  /-- Entries delivered and not yet released (R307). -/
  used : Nat := 0
  phase : Bool := true
  skips : Nat := 0
  skipNow : Bool := false
  /-- The last cut delivered or skipped. -/
  done : Nat := 0
  lastGood : List (Word × TagRec) := []
  subst : List (Word × Nat) := []
deriving DecidableEq, Repr

/-- The epoch grid and the commit logic. -/
structure Epochs where
  t0 : Int := 0
  p : Nat := 1000
  pn : Nat := 0
  ec : Nat := 0
  pchg : Bool := false
  /-- The present epoch E; none until the device counts epochs. -/
  e : Nat := 0
  counting : Bool := false
  joined : Bool := false
  /-- The device joins at the first T_E not before this SYSTIME instant (R298). -/
  joinAt : Option Nat := none
  /-- It has joined since the last hub or power-on reset (R604). -/
  everJoined : Bool := false
  /-- Highest E whose commit set has closed. -/
  closed : Nat := 0
  loaded : Nat := 0
  sets : List CSet := []
  /-- Deferred sets waiting, in order (R21, R22). -/
  held : List CSet := []
  groups : List Group := []
  /-- Latest records of this device's tags, by local index (R574). -/
  tags : List (Nat × TagRec) := []
  /-- Committed values of this device's writable tags that are not channel values, by local index. -/
  ctl : List (Nat × Word) := []
  rimg : List RImage := []
  rlast : List (Word × TagRec) := []
  /-- What `rlast` held of each tag before (R285). -/
  rprev : List (Word × TagRec) := []
  iq : Bank IQ 16 := Bank.fill 16 {}
  /-- The own image of this epoch is complete. -/
  ownDone : Nat := 0
  /-- Frames of own images dropped because they were not sent by the next T_E (R354). -/
  imgDropped : Nat := 0
  /-- Local indices of the image of the present epoch (R354, R444). -/
  published : List Nat := []
  imgSent : Nat := 0
deriving DecidableEq, Repr

/-! ## Work: descriptors, journal, rings -/

/-- A completion (Table 12-8). -/
structure Cpl where
  seq : Word
  ring : Nat
  /-- 1 ACCEPT, 2 FINAL, 3 NOTICE. -/
  stage : Nat
  status : Nat
  epoch : Nat
  opcode : Nat
  result : Nat
  gen : Nat
  detail : Word
  rlen : Nat
  srcdev : Nat
  cflags : Nat
deriving DecidableEq, Repr

/-- A descriptor that has passed its checks, until and after its final completion (R387, R404, R408). -/
structure Work where
  ref : WorkRef
  opcode : Nat
  bytes : List Byte
  payload : List Byte
  check : Word
  classJ : Bool
  accepted : Bool := false
  /-- The journal entry is in the store (R29). -/
  stored : Bool := false
  started : Bool := false
  /-- The commit set joined: group and epoch; none when not epoch-bound. -/
  set : Option (Nat × Nat) := none
  /-- A deferral counts and its NOTICE has been posted (R318). -/
  deferred : Bool := false
  noticed : Bool := false
  /-- Waits for earlier work of its ring (R413, R414). -/
  fenced : Bool := false
  final : Option Cpl := none
  /-- Copies waiting for the final completion (R408). -/
  copies : Nat := 0
  gen : Nat := 0
  masked : Bool := false
  /-- JHEAD just after its DESC entry (R372). -/
  jend : Nat := 0
  acceptedAt : Time := 0
  /-- The epoch that its ACCEPT named, which a replay repeats (R408). -/
  accEpoch : Nat := 0
  /-- The opcode's own row has taken it up. -/
  taken : Bool := false
  /-- HART: an attempt of the request itself has begun (R147). -/
  begun : Bool := false
  /-- The STARTED entry is in the journal (R150). -/
  marked : Bool := false
  /-- HART: reissues after a delayed response (R149). -/
  delayed : Nat := 0
  /-- Accepted before a hub reset (R153). -/
  again : Bool := false
  /-- A MASKED write-class transaction that ended UNKNOWN waits for its verify read (Table 04-8). -/
  verifying : Bool := false
  /-- Earlier work that it waits for: of its ring (R413, R414), or of the rings that a FENCE names. -/
  waits : List WorkRef := []
  /-- What an epoch-bound descriptor puts into its commit set, as checked (R446). -/
  acts : List SetAct := []
deriving DecidableEq, Repr

/-- A fetched descriptor in the fetch buffer, unjournaled and without ACCEPT (R521, R604). -/
structure Fetched where
  ref : WorkRef
  bytes : List Byte
  payload : List Byte
  payloadOk : Bool
  gen : Nat
  waits : List WorkRef := []
deriving DecidableEq, Repr

/-- A completion on its way: with the data it returns, the mode of its ring, FLAGS.IRQ, and whether its descriptor named this device by its physical
number, under which the answer then goes (R374). -/
structure Answer where
  cpl : Cpl
  data : List Byte := []
  masked : Bool
  irq : Bool
  own : Bool := false
deriving DecidableEq, Repr

/-- A fetched descriptor without its first completion, in fetch order (R410), with the completions that wait behind an earlier one's
first. -/
structure First where
  ref : WorkRef
  /-- The executing device where it is remote; 1,024 here. -/
  target : Nat := 1024
  outs : List Answer := []
deriving DecidableEq, Repr

/-- One journal entry (Table 11-16), by its type, its reference and its body bytes. -/
structure JEntry where
  etype : Nat
  eseq : Nat
  epoch : Nat
  body : List Byte
  off : Nat
  /-- EFLAGS MIRRORED: written from a partner's JNL ENTRY (Table 11-15). -/
  mirrored : Bool := false
deriving DecidableEq, Repr

/-- The journal (R386, R387). -/
structure Journal where
  head : Nat := 0
  acked : Nat := 0
  eseq : Nat := 0
  log : List JEntry := []
  /-- Bytes not yet in the journal spill. -/
  unspilled : Nat := 0
  /-- Bytes of the partner's log received here, by offset order (R372). -/
  mirror : List Byte := []
deriving DecidableEq, Repr

/-- One command ring (Tables 12-4 and 19-4). -/
structure CR where
  /-- 0 DISABLED, 1 ENABLED, 2 DRAINING, 3 ERROR. -/
  state : Nat := 0
  gen : Nat := 0
  fetch : Nat := 0
  tail : Nat := 0
  reposted : Bool := false
  enRef : Bool := false
  forgetRef : Bool := false
  /-- High marks H per origin device for this ring number (R408). -/
  high : List (Nat × Word) := []
  /-- SEQ of the last descriptor from this ring to each remote target (R357). -/
  prev : List (Nat × Word) := []
deriving DecidableEq, Repr

/-- One completion queue. -/
structure CQ where
  en : Bool := false
  /-- SIZE as the enable took it: log2 of the entries (R396). -/
  log2 : Nat := 6
  enRef : Bool := false
  gen : Nat := 0
  head : Nat := 0
  wr : Nat := 0
  phase : Bool := true
  held : List (Cpl × Bool) := []
  /-- Completions since the last message, and the instant of the first of them (R393). -/
  unsignalled : Nat := 0
  firstAt : Option Time := none
deriving DecidableEq, Repr

/-- A host memory write the device made, oldest first. -/
structure HostWrite where
  addr : Nat
  bytes : List Byte
deriving DecidableEq, Repr

/-- A forwarded REQ without RSP (R358): the work, its target and frame, when it was sent and how often resent. -/
structure ReqOut where
  ring : Nat
  seq : Word
  target : Nat
  frame : List Byte
  sent : Time
  resends : Nat
  gen : Nat
  masked : Bool
  opcode : Nat
  answered : Bool
  /-- Sent to the partner in a JNL FWD item (R374). -/
  fwd : Bool := false
deriving DecidableEq, Repr

/-- An MGT request without reply (R576). -/
structure MgtOut where
  mtag : BitVec 16
  w : WorkRef
  target : Nat
  frame : List Byte
  sent : Time
  resends : Nat
deriving DecidableEq, Repr

/-- The PCI Express function (Table 12-1): its header, Max_Payload_Size and Max_Read_Request_Size as programmed, in bytes, and the uncorrectable and
correctable status of Advanced Error Reporting. No row reaches configuration space (log entry 109). The
two sizes at reset are those of the PCI Express base specification (PRESUMED, log entry 181). -/
structure Pcie where
  header : List (Nat × Word) := Config.pcieHeader
  mps : Nat := 128
  mrrs : Nat := 512
  aerUncor : Word := 0
  aerCor : Word := 0
deriving DecidableEq, Repr

/-- One entry of the MSI-X table in BAR4: message address and data, and whether the vector is masked. No row writes BAR4: every vector stands unmasked,
as R392's bring-up leaves the ones in use (DESIGN CHOICE, log entry 109). -/
structure Msix where
  addr : Nat := 0
  data : Word := 0
  masked : Bool := false
deriving DecidableEq, Repr

/-- The host interface. -/
structure HostIf where
  pcie : Pcie := {}
  msix : Bank Msix 64 := Bank.fill 64 {}
  /-- The pending-bit array. -/
  msixPend : BitVec 64 := 0
  cr : Bank CR 64 := Bank.fill 64 {}
  cq : Bank CQ 64 := Bank.fill 64 {}
  buf : List Fetched := []
  firsts : List First := []
  work : List Work := []
  jnl : Journal := {}
  reqs : List ReqOut := []
  /-- REQ frames held for a predecessor: source, payload, arrival (R357). -/
  reqHeld : List (Nat × List Byte × Time) := []
  /-- SEQ of the last REQ taken of each origin and ring (R357). -/
  reqLast : List (Nat × Nat × Word) := []
  mgts : List MgtOut := []
  nextMtag : BitVec 16 := 0
  /-- Replies kept per requester (R576): requester, MTAG, reply payload. -/
  mgtReplies : List (Nat × BitVec 16 × List Byte) := []
  /-- GLB_TAGWPAGE copies: requester (1,024 for the local host) and page, most recently used first (R561). -/
  pages : List (Nat × Nat) := []
  /-- Halves of 64-bit writes held, and of reads latched: requester, offset, value (R559). -/
  loHeld : List (Nat × Nat × Word) := []
  hiLatch : List (Nat × Nat × Word) := []
  writes : List HostWrite := []
  vectors : List Nat := []
  /-- When the source of a write-1-to-clear bit last set it, by 32 × register offset + bit (R12). -/
  w1cAt : List (Nat × Time) := []
  err : BitVec 5 := 0
  dbIgn : Nat := 0
  genIgn : Nat := 0
  locked : Bool := false
  d3 : Bool := false
  eq0On : Bool := false
  eq0Ref : Bool := false
  eq0Paused : Bool := false
  eq0Wr : Nat := 0
  eq0Head : Nat := 0
deriving DecidableEq, Repr

/-! ## Pelrun and the partner pair -/

/-- A time-master candidate as a neighbour advertises it (R345): PRIO, number, DIST, LOCKED, MSEQ, when MSEQ last advanced, and when it
was last advertised. -/
structure Cand where
  prio : Nat
  num : Nat
  dist : Nat
  locked : Bool
  mseq : Nat
  adv : Option Time
  seen : Time
deriving DecidableEq, Repr

/-- One serial port (R325 to R328, R340, R345, R347, R360); port 4 is PRT. -/
structure Port where
  /-- 0 DOWN, 1 UP, 2 DEGRADED, 3 disabled. -/
  state : Nat := 0
  downAt : Time := 0
  errs : List Time := []
  bad : Nat := 0
  drops : Nat := 0
  /-- When the last normal frame put on the output has left it, and the last express frame (R340). -/
  busy : Time := 0
  xbusy : Time := 0
  /-- Drops of the device's own frames that its source has not yet been raised for (DESIGN CHOICE, log entry 171). -/
  dropPend : Bool := false
  /-- Delay and offset of the neighbour by its last TIM with a matching ECHO_TX, in 1/256 ns (R347). -/
  delay : Int := 0
  offset : Int := 0
  bytes : Nat := 0
  load : Nat := 0
  /-- TX fields of the TIM frames sent: SYSTIME in 1/256 ns, and when. -/
  txs : List (Nat × Time) := []
  /-- TX of the neighbour's last TIM and its arrival here, in 1/256 ns. -/
  echo : Option (Nat × Nat) := none
  cand : Option Cand := none
  /-- The last TIM frame heard, and the last one with a matching ECHO_TX (R347). -/
  lastTim : Option Time := none
  lastValid : Option Time := none
deriving DecidableEq, Repr

/-- Sequence window of one source (R342). -/
structure Src where
  num : Nat
  high : Nat
  seen : List Nat
  last : Time
deriving DecidableEq, Repr

/-- A frame the device put on a port: whether it ended in /V/ (R341), when its first code group leaves, and whether it is the device's own (R340). -/
structure Sent where
  port : Nat
  bytes : List Byte
  v : Bool := false
  start : Time := 0
  own : Bool := false
deriving DecidableEq, Repr

/-- The Pelrun network side. -/
structure Net where
  port : Bank Port 5 := Bank.fill 5 {}
  /-- 0 DOWN, 1 UNNUM, 2 LISTEN, 3 JOINED, 4 DUPNUM (Table 10-7). -/
  state : Nat := 0
  num : Nat := 0
  numValid : Bool := false
  coupler : Bool := false
  mgtPol : Nat := 0
  mgtDev : Nat := 0
  listenAt : Time := 0
  fseq : Nat := 0
  lseq : Nat := 0
  srcs : List Src := []
  /-- Instant at which a frame of the device's own number last came back on a ring port (R312). -/
  ownBack : Option Time := none
  /-- PMAP of couplers: source, map and when (R352). -/
  pmaps : List (Nat × Word × Time) := []
  /-- HSTATE of each device's last HBT, and when (Table 10-6). -/
  hbts : List (Nat × Byte × Time) := []
  sent : List Sent := []
  /-- AXS frames not sent within 5 µs of their tick (R356). -/
  axsDropped : Nat := 0
  mseq : Nat := 0
  locked : Bool := false
  lockedAt : Time := 0
  holdover : Bool := false
  upPort : Option (Fin 4) := none
  upLostAt : Option Time := none
  goodRun : Nat := 0
  badRun : Nat := 0
  offset : Int := 0
  /-- Link delay to the upstream as last computed (R347), in 1/256 ns. -/
  delay : Int := 0
  /-- The export lists in force (R343, R563): IMG sources, and AXS sources with their contexts. -/
  imgExp : List Nat := []
  axsExp : List (Nat × Nat) := []
  /-- Advertises PRIO 255 after a restart (R513). -/
  prioHeld : Bool := true
  startedAt : Time := 0
deriving DecidableEq, Repr

/-- Pair states (Table 11-3). -/
inductive PairState where
  | solo | orphan | active | standby | couch
deriving DecidableEq, Repr

/-- The partner's last SHD frame (Table 11-4). -/
structure Shd where
  pstate : Nat := 0
  synced : Bool := false
  partnered : Bool := false
  armed : Bool := false
  yielding : Bool := false
  castId : Word := 0
  jhead : Nat := 0
  jacked : Nat := 0
  actSince : Nat := 0
  jfmt : Nat := 0
  lfseq : Nat := 0
  epoch : Nat := 0
  at_ : Time := 0
deriving DecidableEq, Repr

/-- A couch under way (R376 to R378). -/
structure Couch where
  e0 : Nat
  ec : Option Nat := none
  /-- t_C in SYSTIME half-ns. -/
  tc : Option Nat := none
  step : Nat := 0
  incoming : Bool
  w : Option WorkRef := none
deriving DecidableEq, Repr

/-- The partner pair (chapter "Partner pairs and replacement under way"). -/
structure Pair where
  state : PairState := .orphan
  synced : Bool := false
  partnered : Bool := false
  armed : Bool := false
  yielding : Bool := false
  actSince : Nat := 0
  takeovers : Nat := 0
  /-- `takeovers` at the last start (R384). -/
  takeBase : Nat := 0
  partner : Option Shd := none
  wit : Bool × Bool × Bool := (false, false, false)
  orphanSince : Option Time := none
  linkLostAt : Option Time := none
  couch : Option Couch := none
  /-- End of the hold-off after a YIELD, and what was held off: a C4 source, a C5 source, or a reset cause (R379). -/
  holdOff : Option (Time × Nat × Nat) := none
  /-- When the last YIELD was sent (R379). -/
  yieldAt : Option Time := none
  /-- Shadow items received at least once, by code (R370). -/
  items : List Nat := []
  /-- PROT items: channel and the partner's CSW (R380). -/
  prot : List (Nat × Word) := []
  /-- CCH operations sent, oldest first: OP, EPOCH, STAMP, ARG. -/
  cch : List (Nat × Nat × Nat × Nat) := []
  hartWindow : Option Time := none
  image : List Host.Cell := []
  /-- The conflict of two ACTIVE members that stands is recorded (R368). -/
  dualSeen : Bool := false
  /-- Low 32 bits of the identities sent whole to the STANDBY partner: of the cast, and of the maquette (R375). -/
  castSent : Option Nat := none
  maqSent : Option Nat := none
deriving DecidableEq, Repr

/-! ## Images -/

/-- A decoded image: its identity, header bytes and the records of its sections (R422 to R425, R450). -/
structure Image where
  id : List Byte := []
  hdr : Rec := []
  claim : List Rec := []
  chan : List Rec := []
  tile : List Rec := []
  prof : List Rec := []
  tlane : List Rec := []
  tent : List Rec := []
  clane : List Rec := []
  cent : List Rec := []
  tref : List Rec := []
  href : List Rec := []
  safe : List Rec := []
  grp : List Rec := []
  tag : List Rec := []
  plan : List Rec := []
  item : List Rec := []
  axis : List Rec := []
  loop : List Rec := []
  diag : List Rec := []
  pair : Rec := []
deriving DecidableEq, Repr

/-- Maquette states (Table 13-10). -/
inductive MaqState where
  | empty | loaded | staging | staged | rehearsing | armed
deriving DecidableEq, Repr

/-- A staging finding (Table 13-9). -/
structure Finding where
  code : Nat
  cls : Nat
  res : Nat := 0
  ownerA : Nat := 0
  ownerB : Nat := 0
  offset : Nat := 0xFFFFFFFF
  arg1 : Nat := 0
  arg2 : Nat := 0
deriving DecidableEq, Repr

/-- Images and their roles (chapters "Cirel images"). -/
structure Images where
  /-- The three image partitions as sparse bytes; an unlisted byte reads 0 (R438). -/
  part : Bank (List Host.Cell) 3 := Bank.fill 3 []
  castPart : Fin 3 := 0
  maqPart : Fin 3 := 1
  lgPart : Fin 3 := 2
  cast : Option Image := none
  maq : Option Image := none
  lastGood : Option Image := none
  maqState : MaqState := .empty
  floor : Nat := 0
  castEpoch : Nat := 0
  /-- The descriptor staging, rehearsing or activating. -/
  stager : Option WorkRef := none
  stageCls : Nat := 0
  rehearser : Option WorkRef := none
  rehearseFirst : Nat := 0
  rehearseLeft : Nat := 0
  /-- A rehearsal waits for its report: result code. -/
  rehearseEnd : Option Nat := none
  /-- The activation or revert under way, and whether it is a revert. -/
  activator : Option (WorkRef × Bool) := none
  /-- Role record still to write after an activation: epoch, work and instant of T_(E_A). -/
  roleDue : Option (Nat × WorkRef × Time) := none
deriving DecidableEq, Repr

/-! ## Faults, watchdogs, resets -/

/-- One source entry (Table 19-6), with the instant of its last event. -/
structure FltSt where
  cls : Nat
  wcls : Nat
  min : Nat
  errdrv : Bool := false
  asserted : Bool := false
  pend : Bool := false
  wire : Bool := false
  esc : Bool := false
  ecls : Nat := 0
  count : Nat := 0
  inj : Fin 4 := 0
  since : Time := 0
deriving DecidableEq, Repr

/-- Whether Table 15-1 lists a source ID. -/
def faultListed (id : Nat) : Bool :=
  id ≤ 0x008 || (0x010 ≤ id && id ≤ 0x016) || (0x018 ≤ id && id ≤ 0x01D) || (0x020 ≤ id && id ≤ 0x022)
    || ((0x030 ≤ id && id < 0x0A0) && (id % 16 < 12 && id < 0x090 || (0x090 ≤ id && id ≤ 0x097)))
    || (0x0A0 ≤ id && id ≤ 0x0AA) || (0x0B0 ≤ id && id ≤ 0x0B8)

/-- Minimum class of a source (Table 15-1). -/
def faultMin (id : Nat) : Nat :=
  if !faultListed id then 0
  else if id ≤ 0x007 || id = 0x018 || id = 0x01A then 4
  else if (0x010 ≤ id && id ≤ 0x014) || id = 0x0A8 then 2
  else 1

/-- Default class of a source (Table 15-1). -/
def faultDefault (id : Nat) : Nat :=
  if (0x0A0 ≤ id && id ≤ 0x0A3) || id = 0x0A8 || id = 0x0A9 then 3 else faultMin id

/-- The entry of a source at power-on reset (Table 15-1, R480). -/
def faultReset (id : Nat) : FltSt :=
  if faultListed id then { cls := faultDefault id, wcls := max 3 (faultMin id), min := faultMin id }
  else { cls := 0, wcls := 0, min := 0 }

/-- The fault collector (chapter "Fault collection and reaction"). -/
structure Flt where
  src : Bank FltSt 512 := ⟨(List.range 512).map faultReset, by simp⟩
  cfgLock : Bool := false
  /-- FLT_CTL has been written since the reset: CFGLOCK is RWL (R11). -/
  cfgWritten : Bool := false
  injEn : Bool := false
  /-- The applied configuration has been loaded since the reset (R480, R488). -/
  loaded : Bool := false
  loadedAt : Time := 0
  lock : Bool := false
  lockAt : Time := 0
  lastSrc : Nat := 0
  lastCls : Nat := 0
  /-- Latest event of class C2 or higher, and of a STUDIO source (R527). -/
  highAt : Option Time := none
  studioEvt : Option Time := none
  /-- Applied CLASS, WCLASS and ERRDRV in the store: source, class, wire class, driver (R480). -/
  store : List (Nat × Nat × Nat × Bool) := []
  /-- Blocks held in reset by a C3 reaction: source and instant (R476). -/
  blocks : List (Nat × Time) := []
  studioUp : Bool := false
  studioAt : Time := 0
  /-- First committed epoch since the reset, as an instant (R482). -/
  firstCommit : Option Time := none
  mastersStop : Option Time := none
deriving DecidableEq, Repr

/-- A key watchdog (R497 to R502). -/
structure Wdg where
  en : Bool := false
  close : Nat := 0
  open_ : Nat := 0
  /-- WDA: instant of the last good service or of EN. WDH: epochs counted since. -/
  from_ : Time := 0
  t : Nat := 0
  key : Byte := 0x5C
  /-- 0 none, 1 good, 2 EARLY, 3 SEQUENCE, 4 EXPIRE. -/
  last : Nat := 0
  expired : Bool := false
  good : Nat := 0
  faults : Nat := 0
deriving DecidableEq, Repr

/-- The phase of the hub's resets. -/
inductive Phase where
  /-- POR asserted, or VLOG absent. -/
  | por
  /-- POR released; the cold start has not yet sampled its straps. -/
  | cold
  /-- Hub reset asserted. -/
  | reset
  /-- Out of reset. -/
  | run
deriving DecidableEq, Repr

/-- Resets, supplies, clocks and the plinth (chapter "Watchdogs, clocks, resets and start-up"). -/
structure Pwr where
  phase : Phase := .cold
  resetAt : Time := 0
  /-- PERST_N and RESET_N stand low (R504). -/
  low : Bool × Bool := (false, false)
  startAt : Time := 0
  cause : Nat := 0
  causeSrc : Nat := 0
  ready : Bool := false
  /-- Instant at which READY was set (R527). -/
  readyAt : Time := 0
  straps : Straps := { pairId := 2, almDef := 0, testMode := 0 }
  pllLocked : Bool := false
  /-- Clock monitor: consecutive periods out of and in range (R495). -/
  clkBad : Nat := 0
  /-- No edge of CCLK in the last KCLK period (Table 15-5, FROZEN). -/
  clkStopped : Bool := false
  clkGood : Nat := 0
  holdOk : Bool := false
  holdRun : Bool := false
  /-- End of the last hold-up test (R509). -/
  holdAt : Time := 0
  testing : Bool := false
  /-- The power-fail sequence runs; its flush has ended. -/
  failing : Bool := false
  wda : Wdg := {}
  wdh : Wdg := { close := 1, open_ := 1000 }
  /-- Epoch of the own grid that WDH has counted, before the device first joins epochs (R298, R501). -/
  wdhGrid : Nat := 0
  endpointReset : Nat := 0
deriving DecidableEq, Repr

/-! ## Rehearsal (R440) -/

/-- The run model of the hub engines on the maquette's tables, with what the report of Table 13-11 counts. -/
structure Reh where
  eng : Engines
  /-- The maquette's tags as latched at the last epoch. -/
  tags : List (Nat × TagRec) := []
  late : Nat := 0
  clipped : Nat := 0
  /-- Highest number of stamps in any 64 µs on a slot, and the TCSLOT instance of that peak. -/
  peak : Nat := 0
  peakSlot : Nat := 0
  loopSat : Nat := 0
  firings : Nat := 0
  /-- Channels that differ, and inputs counted absent. -/
  differ : List Nat := []
  absent : Nat := 0
  /-- Slots and stamps of the commands that would have run in the last 64 µs. -/
  stamps : List (Nat × Nat) := []
  /-- Would-be level 6 values: channel, stamp and VALUE, newest first. -/
  l6 : List (Nat × Nat × Nat) := []
deriving DecidableEq, Repr

/-! ## The test access port (R591) -/

/-- Instructions of the port. -/
inductive TapInstr where
  | bypass | idcode | sample | extest | clamp | highz
deriving DecidableEq, Repr

/-- Controller states of IEEE 1149.1, which the port follows. -/
inductive TapCtl where
  | testReset | idle
  | selectDr | captureDr | shiftDr | exit1Dr | pauseDr | exit2Dr | updateDr
  | selectIr | captureIr | shiftIr | exit1Ir | pauseIr | exit2Ir | updateIr
deriving DecidableEq, Repr

/-- What reaches the port from outside: a TCK cycle with TMS and TDI, or TRST_N low. -/
inductive TapEdge where
  | clock (tms : Bool) (tdi : Bool)
  | trst
deriving DecidableEq, Repr

/-- The test access port: its controller, its registers, and the port's own input that still waits. -/
structure Tap where
  edges : List TapEdge := []
  ctl : TapCtl := .testReset
  instr : TapInstr := .idcode
  /-- The instruction and the data shift register; the first bit leaves next at TDO. -/
  irShift : List Bool := []
  dr : List Bool := []
  /-- The boundary cells as the last update left them. -/
  cells : List Bool := []
  /-- TDO; none while it does not drive. -/
  tdo : Option Bool := none
deriving DecidableEq, Repr

/-- What the plinth keeps (Table 16-9). -/
structure Plinth where
  valid : Bool := false
  clkFail : Bool := false
  intrusion : Bool := false
  pfail : Bool := false
  pfailShort : Bool := false
  kcount : BitVec 48 := 0
  tset : Option (Nat × Nat) := none
  /-- Source 0x008 has been raised for the present intrusion (R517). -/
  told : Bool := false
  lastEpoch : Nat := 0
  recTail : Word := 0
deriving DecidableEq, Repr

/-! ## Firmware and the store -/

/-- One firmware slot (R522): what it holds, as loaded. -/
structure Slot where
  present : Bool := false
  svn : Nat := 0
  jfmt : Nat := 0
  wdaClose : Nat := 0
  wdaOpen : Nat := 0
  verifies : Bool := false
deriving DecidableEq, Repr

/-- The slots and selector record of one KIND (R525 to R527). -/
structure Fw where
  slot : Bank Slot 2 := Bank.fill 2 {}
  /-- 0 A, 1 B, 2 none. -/
  conf : Fin 3 := 2
  trial : Fin 3 := 2
  bootCnt : Nat := 0
  running : Option (Fin 2) := none
  otp : Nat := 0
deriving DecidableEq, Repr

/-- A store request waiting (Table 18-8... R531): rank, what it is, and the work or block concerned. -/
inductive StoreJob where
  | journal (w : Option WorkRef)
  | record (n : Nat)
  | trim
  | role
  | patina
  | image
  | erase (block : Nat) (purpose : Nat)
deriving DecidableEq, Repr

/-- The store as Armature keeps it (R530 to R536). -/
structure Store where
  jobs : List StoreJob := []
  /-- Intent records without their done record: block and purpose (R532). -/
  intents : List (Nat × Nat) := []
  erases : List (Nat × Nat) := []
  reserve : Nat := 390
  wear : Bool := false
  dayWear : Option Time := none
  map : List (Nat × Nat) := []
  idBad : Bool := false
  serial : BitVec 64 := 1
  hours : Nat := 0
  /-- 64-byte records in the active intent log and in the active control log, and whether log B is the active one (R530, R532). -/
  intUsed : Nat := 0
  intB : Bool := false
  ctlUsed : Nat := 0
  ctlB : Bool := false
  /-- RSEQ of the last record of the control log (Table 17-4). -/
  rseq : Word := 0
  /-- 64-byte records in the active half of the trim store, and whether the second half is the active one (R534). -/
  trimUsed : Nat := 0
  trimB : Bool := false
  /-- Write position in the spill ring, in bytes (R531). -/
  spillAt : Nat := 0
deriving DecidableEq, Repr

/-- Firmware loading (Table 17-5, R569). -/
structure FwLoad where
  code : Nat := 0
  done : Nat := 0
  kind : Nat := 0
  /-- SRC = WINDOW of the load under way, and its window still open. -/
  window : Bool := false
  windowOpen : Bool := false
  /-- The slot of the load under way; none when no load runs. -/
  target : Option (Fin 2) := none
  word : List Word := []
  chunks : List (Nat × List Word) := []
deriving DecidableEq, Repr

/-- One trim-store key (R120, R534): channel, FUNC, RANGE, and the points (x, ref) of zero and span, binary32. -/
structure Trim where
  k : Nat
  func : Nat
  range : Nat
  zx : Word
  zref : Word
  sx : Word
  sref : Word
deriving DecidableEq, Repr

/-- An edge calibration record (R235, R534): channel and LCLASS, and the last 16 accepted delays of each direction in ticks, newest first. -/
structure EdgeCal where
  k : Nat
  lclass : Nat
  on : List Nat := []
  off : List Nat := []
deriving DecidableEq, Repr

/-- The armed channel (R116, R119). -/
structure Armed where
  k : Fin 96
  zref : Word
  sref : Word
  step : Word
  ends : Time
  /-- Output channels: the span point is shown. -/
  span : Bool := false
deriving DecidableEq, Repr

/-- Patina counters of one channel (Table 17-10). -/
structure Patina where
  cycles : BitVec 64 := 0
  /-- Clamp energy in µJ; read out in mJ. -/
  clampUj : BitVec 64 := 0
  thermals : Word := 0
  cuts : Word := 0
  latches : Word := 0
deriving DecidableEq, Repr

/-- Firmware, store, trims and patina. -/
structure Nvs where
  patch : Fw := {}
  studio : Fw := {}
  load : FwLoad := {}
  store : Store := {}
  trims : List Trim := []
  edge : List EdgeCal := []
  armed : Option Armed := none
  /-- The last press, for its repeats: span button, when it next repeats. -/
  press : Option (Bool × Bool × Time) := none
  /-- When a trim button was last known to be low (R117). -/
  low : Option Time := none
  /-- Running patina counters (R535), and what the store last took of them. -/
  pat : Bank Patina 96 := Bank.fill 96 {}
  tileCycles : Bank Nat 12 := Bank.fill 12 0
  tileStops : Bank Nat 12 := Bank.fill 12 0
  patKept : Bank Patina 96 := Bank.fill 96 {}
  cyclesKept : Bank Nat 12 := Bank.fill 12 0
  stopsKept : Bank Nat 12 := Bank.fill 12 0
  tileLow : Bank (Option (Int × Time)) 12 := Bank.fill 12 none
  rdSel : Word := 0
  rdBusy : Bool := false
  rdValid : Bool := false
  rdBytes : List Byte := []
deriving DecidableEq, Repr

/-! ## Recorder, check units, security -/

/-- A recorder event before it is taken (R541). -/
structure RecEvt where
  type : Nat
  source : Nat
  cls : Nat := 0
  flags : Nat := 0
  args : List Word := []
  text : List Byte := []
  time : Nat
  /-- The instant at which it reaches the event queue (R544). -/
  came : Time := 0
deriving DecidableEq, Repr

/-- A record, open or sealed (R539). -/
structure RecRec where
  evt : RecEvt
  seq : Word
  rep : Nat := 0
  trail : Option Nat := none
  aggr : Bool := false
deriving DecidableEq, Repr

/-- The recorder (chapter "Event recorder and check units"). -/
structure Recorder where
  queue : List RecEvt := []
  dropped : Nat := 0
  tileDrops : Nat := 0
  fullSince : Option Time := none
  opened : Option RecRec := none
  seq : Word := 0
  /-- Sealed and not yet in the store, oldest first. -/
  sealed_ : List RecRec := []
  /-- In the store, oldest first. -/
  stored : List RecRec := []
  thrift : Bool := false
  capped : Bool := false
  /-- The thrift minute that the channels' edge counts belong to (R548). -/
  minute : Nat := 0
  /-- SEQ ranges lost to the cap in the running hour, and the first SEQ that the cap in force keeps from the store (R549). -/
  lost : Option (Word × Word) := none
  capFrom : Option Word := none
  /-- Records sealed and bytes written to the store since the last hourly evaluation, its instant, and the same counts of the hours before,
  newest first (R547). -/
  hourRecs : Nat := 0
  hourBytes : Nat := 0
  hourAt : Time := 0
  hist : List (Nat × Nat) := []
  eqNext : Word := 0
  rdSeq : Word := 0
  rdBusy : Bool := false
  rdValid : Bool := false
  rdMissing : Bool := false
  rdBytes : List Byte := []
deriving DecidableEq, Repr

/-- One check unit (R554 to R556). -/
structure CU where
  /-- A register job is open: its register value. -/
  job : Option (BitVec 64) := none
  lastAt : Time := 0
  busy : Bool := false
  aborted : Bool := false
  busyRef : Bool := false
  done : Bool := false
  result : BitVec 64 := 0
  /-- CUJOBs waiting or running, in fetch order. -/
  queue : List WorkRef := []
deriving DecidableEq, Repr

/-- One image-key slot (R427). -/
structure IKey where
  digest : Option (List Byte) := none
  revoked : Bool := false
deriving DecidableEq, Repr

/-- The security block (R573). -/
structure Sec where
  ikey : Bank IKey 4 := Bank.fill 4 {}
  fkRev : Bool × Bool := (false, false)
  fieldLock : Bool := true
  tokenOk : Bool := false
  /-- The command under way: OP and SLOT. -/
  cmd : Option (Nat × Fin 4) := none
  err : Bool := false
  keyData : List Byte := List.replicate 32 0
  token : List Byte := List.replicate 96 0
deriving DecidableEq, Repr

/-- One running diagnostic window (R236). -/
structure DiagRun where
  slot : Nat
  start : Time
  stop : Time
  eligible : Bool
  skipped : Bool := false
  /-- Channels-in-tile with an accepted edge measurement, as a mask (R607). -/
  accepted : Nat := 0
  /-- Channels to which the insulation measurement gave a result (R607). -/
  gave : List Nat := []
deriving DecidableEq, Repr

/-- A manual test waiting for its window (R607). -/
structure TestWait where
  w : WorkRef
  k : Fin 96
  kind : Nat
  since : Time
deriving DecidableEq, Repr

/-- A command the hub sends to a tile (R64, R68): what the TCMD and MGT slots carry. -/
structure TSend where
  tile : Fin 12
  slot : Nat
  c : Nat
  op : Nat
  handle : Nat
  stamp : Nat
  value : Nat
deriving DecidableEq, Repr

/-- A flash (R59): its tile, K character (1 for K28.1, 2 for K28.2), D0, and the 1.0 µs period that carries it. -/
structure Flash where
  tile : Nat
  kind : Nat
  d0 : Byte
  period : Nat
deriving DecidableEq, Repr

/-- A HART tag by its MAP item's index in the image (R141, R143, R146). -/
structure HartTag where
  item : Nat
  value : Word
  /-- Its last good update. -/
  at_ : Time
  valid : Bool
  under : Bool := false
  above : Bool := false
  stale : Bool := false
  /-- HART of its CSW: stale, or a unit mismatch. -/
  hart : Bool := false
deriving DecidableEq, Repr

/-- Small state of the hub that belongs to no engine. -/
structure Misc where
  diag : List DiagRun := []
  tests : List TestWait := []
  /-- Commands sent to tiles, oldest first. -/
  tsent : List TSend := []
  /-- Configurations that the hub has pushed to tiles as CFG frames with their commit (R34, R43), oldest first. -/
  cfgSent : List (Nat × TileBank) := []
  /-- Downstream and upstream flashes, sent or waiting for their period (R59, R60). -/
  flashes : List Flash := []
  upFlashes : List Flash := []
  hartTags : List HartTag := []
deriving DecidableEq, Repr

/-! ## The whole -/

/-- The state of one YS96 block. -/
structure State where
  /-- Commands waiting, first in, first out. -/
  pending : List Instr := []
  /-- The device's elapsed time in half-nanoseconds (log entry 2). -/
  now : Time := 0
  /-- SYSTIME less `now`, in half-nanoseconds. -/
  sysOff : Int := 0
  /-- The model's own counter for free values (log entry 3). -/
  free : Nat := 0
  tile : Bank Tile 12 := Bank.fill 12 {}
  link : Bank TLink 12 := Bank.fill 12 {}
  sns : Bank TSns 12 := Bank.fill 12 {}
  iso : Bank TIso 12 := Bank.fill 12 {}
  chan : Bank Chan 96 := Bank.fill 96 {}
  eng : Engines := {}
  ep : Epochs := {}
  host : HostIf := {}
  net : Net := {}
  pair : Pair := {}
  img : Images := {}
  flt : Flt := {}
  pwr : Pwr := {}
  plinth : Plinth := {}
  nvs : Nvs := {}
  recd : Recorder := {}
  cu : Bank CU 4 := Bank.fill 4 {}
  sec : Sec := {}
  misc : Misc := {}
  tap : Tap := {}
  /-- The run model of the maquette, from the first rehearsed epoch until its report (R440). -/
  reh : Option Reh := none
  /-- The plain read/write registers of BAR0 that differ from their reset value, by offset (R558, R560). -/
  regs : List (Nat × Word) := []
deriving DecidableEq, Repr

/-- The block right after power-on reset: every register at the Reset column of chapter "Setup register map", tiles OFF, the queue
empty (R503, R510). -/
def State.reset : State := {}

end Sys2Proof.Machine
end

