-- ==== Sys2Proof/Machine/Records.lean ====
section
/-! DEFINITION. The fields of the image records, by their byte offsets (Tables 14-2 to 14-20). -/

namespace Sys2Proof.Machine

open Sys2Proof

/-! ## Channel records (Tables 14-2, 14-3, 14-4) -/

/-- Channel functions (Table 14-2). -/
inductive Func where
  | off | aiv | aii | rtd | tc | aoi | aov | di | nam | cnt | dout
deriving DecidableEq, Repr

/-- FUNC of a channel record; a reserved code reads as OFF (no staged image carries one). -/
def chFunc (r : Rec) : Func :=
  match u8 r 2 with
  | 1 => .aiv | 2 => .aii | 3 => .rtd | 4 => .tc | 5 => .aoi | 6 => .aov
  | 7 => .di | 8 => .nam | 9 => .cnt | 10 => .dout | _ => .off

/-- DO, AOI and AOV are the output functions (R46, Table 02-4). -/
def isOutF : Func → Bool
  | .aoi | .aov | .dout => true
  | _ => false

/-- The six analog functions. -/
def isAnalogF : Func → Bool
  | .aiv | .aii | .rtd | .tc | .aoi | .aov => true
  | _ => false

def chRange (r : Rec) : Nat := u8 r 3
/-- Table 03-3 by row. -/
def rateTable : List Nat := [10, 20, 50, 60, 100, 200, 400, 1200, 2400, 4800, 9600, 19200]
/-- RATE in samples per second. -/
def chRate (r : Rec) : Nat := rateTable.getD (u8 r 4) 10
def chItype (r : Rec) : Nat := u8 r 4
def chLoopPwr (r : Rec) : Bool := bitOf (u8 r 5) 0
def chSpwr (r : Rec) : Bool := bitOf (u8 r 5) 1
def chPairw (r : Rec) : Bool := bitOf (u8 r 5) 2
def chOvr (r : Rec) : Bool := bitOf (u8 r 5) 3
def chHartm (r : Rec) : Nat := u8 r 6
/-- Fast-sense quantity: 0 load current, 1 terminal voltage, 2 tracking rail (R77). -/
def chSense (r : Rec) : Nat := bits (u8 r 7) 0 2
def chFilt (r : Rec) : Nat := u16 r 8
def chOpendet (r : Rec) : Bool := bitOf (u16 r 10) 0
def chOfftest (r : Rec) : Bool := bitOf (u16 r 10) 1
def chPartest (r : Rec) : Bool := bitOf (u16 r 10) 2
def chEdgecal (r : Rec) : Bool := bitOf (u16 r 10) 3
def chIso (r : Rec) : Bool := bitOf (u16 r 10) 4
def chFilta (r : Rec) : Word := w32 r 12
def chWires (r : Rec) : Nat := u8 r 16
def chLeadr (r : Rec) : Nat := u16 r 20
def chCjsrc (r : Rec) : Nat := u16 r 18
def chAlmdir (r : Rec) : Nat := u8 r 16
def chComplact (r : Rec) : Nat := u8 r 17
def chAlmlo (r : Rec) : Nat := u16 r 18
def chAlmhi (r : Rec) : Nat := u16 r 20
def chEdgerec (r : Rec) : Nat := u8 r 16
/-- DIVMIN in 0.1 V. -/
def chDivmin (r : Rec) : Nat := u16 r 18
def chFgate (r : Rec) : Nat := u32 r 20
def chFtimeo (r : Rec) : Nat := u32 r 24
def chPgmode (r : Rec) : Nat := u8 r 16
def chLclass (r : Rec) : Nat := if chFunc r = .dout then u8 r 17 else 5
def chProfile (r : Rec) : Nat := if chFunc r = .dout then u8 r 18 else 0
def chRetryn (r : Rec) : Nat := if chFunc r = .dout then u8 r 19 else u8 r 34
/-- ILIM in milliamperes. -/
def chIlim (r : Rec) : Nat := 10 * (if chFunc r = .dout then u16 r 20 else u16 r 28)
/-- INOM in milliamperes. -/
def chInom (r : Rec) : Nat := 10 * (if chFunc r = .dout then u16 r 22 else u16 r 30)
/-- RETRYT in milliseconds. -/
def chRetryt (r : Rec) : Nat := if chFunc r = .dout then u16 r 24 else u16 r 32
def chPcount (r : Rec) : Nat := u16 r 26
/-- PWMP in microseconds. -/
def chPwmp (r : Rec) : Nat := u32 r 28
def chPwmd (r : Rec) : Nat := u16 r 32
def chOpeni (r : Rec) : Nat := u16 r 34
/-- PHASE in ticks of 2.5 ns; 0xFFFF_FFFF means c × PWMP / 8 (Table 14-4). -/
def chPhase (r : Rec) (c : Nat) : Nat :=
  if u32 r 36 = 0xFFFFFFFF then c * chPwmp r * 400 / 8 else u32 r 36
def chToff (r : Rec) : Nat := u16 r 40
/-- ISOLO in ohms. -/
def chIsolo (r : Rec) : Nat := 1000 * u16 r 44
/-- ISORECOV in minutes. -/
def chIsorecov (r : Rec) : Nat := u16 r 46
def chCmpSrc (r : Rec) (b : Bool) : Nat := bits (u8 r 7) (if b then 4 else 2) 2

/-- A channel with a protected switch: DO, or DI and CNT with SPWR = ON (R163, R202). -/
def switching (r : Rec) : Bool :=
  match chFunc r with
  | .dout => true
  | .di | .cnt => chSpwr r
  | _ => false

/-! ## Tile, profile and fallback records (Tables 14-5, 14-6, 14-11) -/

/-- The buffer partition of slot `s` (3 to 8): its first entry and its size (R66). -/
def partOf (tileRec : Rec) (s : Nat) : Nat × Nat :=
  if 3 ≤ s && s ≤ 8 then (u8 tileRec (4 + 2 * (s - 3)), u8 tileRec (5 + 2 * (s - 3)))
  else if s = 1 || s = 2 then (0, 16) else (0, 0)

/-- Lowest tile of a tile record's isolation group. -/
def isoGroup (tileRec : Rec) : Nat := u8 tileRec 3

/-- The profile with index `n` among PROF records. -/
def profile (prof : List Rec) (n : Nat) : Rec := (prof.find? fun r => u8 r 0 = 0 && u8 r 1 = n).getD []

/-- User envelope `m`. -/
def userEnv (prof : List Rec) (m : Nat) : Rec := (prof.find? fun r => u8 r 0 = 1 && u8 r 1 = m).getD []

/-- TREARM of a channel in ms (Table 06-2, R183, R184, Table 14-6). -/
def trearm (prof : List Rec) (r : Rec) : Nat :=
  let cls := chLclass r
  let dflt := if cls = 1 then 100 else if cls = 2 || cls = 3 then 1000 else 0
  if 16 ≤ cls then u16 (userEnv prof (cls - 16)) 4
  else if chProfile r = 0 || cls = 0 || 4 ≤ cls then dflt
  else let v := u16 (profile prof (chProfile r)) 4; if v = 0xFFFF then dflt else v

/-- TPEAK of a VALVE channel in ms. -/
def tpeak (prof : List Rec) (r : Rec) : Nat :=
  let v := if chProfile r = 0 then 0 else u16 (profile prof (chProfile r)) 6
  if v = 0 then 50 else v

/-- IHOLD of a VALVE channel in mA (Table 06-2, Table 14-6). -/
def ihold (prof : List Rec) (r : Rec) : Nat :=
  let v := if chProfile r = 0 then 0 else u16 (profile prof (chProfile r)) 8
  if v = 0 then 300 else 10 * v

/-- SLEW of a CAP channel in 0.1 V/ms (Table 06-2, Table 14-6); a sensor supply is always CAP. -/
def slewOf (prof : List Rec) (r : Rec) : Nat :=
  let v := if chProfile r = 0 then 0 else u16 (profile prof (chProfile r)) 10
  if v = 0 then 10 else v

/-- Breakpoints (time in 10 µs, multiplier in 0.01) of a channel's envelope (Table 06-2, Table 14-6). -/
def envPoints (prof : List Rec) (r : Rec) : List (Nat × Nat) :=
  match chLclass r with
  | 1 => [(0, 1000), (500, 1000), (2000, 400), (6000, 200), (10000, 100)]
  | 2 => [(0, 600), (20000, 600), (50000, 300), (100000, 100)]
  | 3 => [(0, 150), (200000, 100)]
  | n =>
    if 16 ≤ n then
      let e := userEnv prof (n - 16)
      (List.range (u8 e 2)).map fun i => (u32 e (12 + 6 * i), u16 e (16 + 6 * i))
    else [(0, 100)]

/-- m(t) of an envelope at `t` in 10 µs, linear between breakpoints (R181). -/
def envAt : List (Nat × Nat) → Rat → Rat
  | [], _ => 1
  | [(_, m)], _ => (m : Rat) / 100
  | (t0, m0) :: (t1, m1) :: rest, t =>
    if t < (t1 : Rat) then ((m0 : Rat) + ((m1 : Rat) - m0) * (t - t0) / ((t1 : Rat) - t0)) / 100
    else envAt ((t1, m1) :: rest) t

/-- FBACK = SAFE (Table 14-11); a channel without a record takes SAFE (R463). -/
def fbSafe (r : Rec) : Bool := r.isEmpty || u8 r 2 = 1

/-- RESTORE = ACK. -/
def restoreAck (r : Rec) : Bool := !r.isEmpty && u8 r 3 = 1

/-- HOLDWIN in ms; none for unlimited. -/
def holdwin (r : Rec) : Option Nat :=
  if r.isEmpty then some 2000 else if u32 r 4 = 0xFFFFFFFF then none else some (u32 r 4)

/-- FBVAL (R463: the default of the function, NaN for AOI, 0 for AOV and DO). -/
def fbval (f : Func) (r : Rec) : Word :=
  if r.isEmpty then (if f = .aoi then 0x7FC00000 else 0) else w32 r 8

/-! ## Lanes and entries (Tables 14-7, 14-8) -/

def laneNo (r : Rec) : Nat := u8 r 0
def laneCam (r : Rec) : Bool := u8 r 1 = 1
def laneTarget (r : Rec) : Nat := u16 r 2
def laneSlot (r : Rec) : Nat := u8 r 4
/-- TIME: ONESHOT. -/
def laneOneshot (r : Rec) : Bool := u8 r 5 = 1
def laneCtx (r : Rec) : Nat := u8 r 5
def laneRdHold (r : Rec) : Bool := u8 r 6 = 1
def laneFirst (r : Rec) : Nat := u16 r 8
def laneCount (r : Rec) : Nat := u16 r 10
def laneIssue (r : Rec) : Nat := u32 r 12
def laneTcyc (r : Rec) : Nat := u64 r 16
def laneTphase (r : Rec) : Nat := u64 r 24
def laneTol (r : Rec) : Nat := u32 r 32
def laneDactOn (r : Rec) : Nat := u32 r 36
def laneDactOff (r : Rec) : Nat := u32 r 40
def laneInit (r : Rec) : Word := w32 r 44
def laneRdVal (r : Rec) : Word := w32 r 48
def laneRdDelay (r : Rec) : Nat := u32 r 52
def entOffset (e : Rec) : Nat := u64 e 0
def entX (e : Rec) : Int := signed (u64 e 0) 64
def entValue (e : Rec) : Word := w32 e 8
def entDir (e : Rec) : Nat := u8 e 12

/-! ## Reflexes (Tables 14-9, 14-10) -/

def trTile (r : Rec) : Nat := u8 r 0
def trEntry (r : Rec) : Nat := u8 r 1
def trTgt (r : Rec) : Nat := u8 r 2
def trAction (r : Rec) : Nat := u8 r 3
def trLatch (r : Rec) : Bool := u8 r 4 = 1
def trDac (r : Rec) : Nat := u16 r 6
def trQual (r : Rec) : Nat := u16 r 8

/-- The terms of a condition at offset `off`: those with a mask, met by the comparator bits `cmp` (R460). -/
def trHolds (r : Rec) (off : Nat) (cmp : Nat) : Bool :=
  (List.range 4).any fun i =>
    let m := u16 r (off + 4 * i)
    m != 0 && (cmp &&& m) == (u16 r (off + 4 * i + 2))

/-- A condition with no term: release by command only. -/
def trNoTerm (r : Rec) (off : Nat) : Bool := (List.range 4).all fun i => u16 r (off + 4 * i) == 0

def hrEntry (r : Rec) : Nat := u16 r 0
def hrStop (r : Rec) : Bool := u8 r 2 = 1
def hrAction (r : Rec) : Nat := u8 r 3
def hrTarget (r : Rec) : Nat := u16 r 4
def hrDac (r : Rec) : Nat := u16 r 6
def hrQual (r : Rec) : Nat := u16 r 8
def hrLatch (r : Rec) : Bool := u8 r 10 = 1
def hrFireSilent (r : Rec) : Bool := u8 r 11 = 1

/-- The used literals of the term at `off`: number and inversion (R461). -/
def hrTerm (r : Rec) (off : Nat) : List (Nat × Bool) :=
  ((List.range 4).map fun i => u16 r (off + 2 * i)).filterMap fun l =>
    if bitOf l 15 then some (bits l 0 10, bitOf l 14) else none

/-- The four terms of COND. -/
def hrCond (r : Rec) : List (List (Nat × Bool)) := (List.range 4).map fun i => hrTerm r (16 + 8 * i)

/-! ## Groups, tags, plans, contexts, loops, diagnostics, pair -/

def grpNum (r : Rec) : Nat := u16 r 0
def grpDefermax (r : Rec) : Nat := u8 r 2
def grpExclude (r : Rec) : Bool := u8 r 3 = 1
def grpHspol (r : Rec) : Nat := u8 r 4
def grpCtldev (r : Rec) : Option Nat := if u16 r 6 = 0xFFFF then none else some (u16 r 6)
def grpRdctx (r : Rec) : List (Nat × Nat) :=
  ((List.range 8).map fun i => u16 r (8 + 2 * i)).filterMap fun e =>
    if bitOf e 15 then some (bits e 0 10, bits e 10 3) else none
def grpChans (r : Rec) : List Nat := (List.range 96).filter fun k => bitOf (u8 r (24 + k / 8)) (k % 8)
def grpMembers (r : Rec) : List Nat := (List.range 1024).filter fun d => bitOf (u8 r (64 + d / 8)) (d % 8)
def grpHas (r : Rec) (d : Nat) : Bool := d < 1024 && bitOf (u8 r (64 + d / 8)) (d % 8)

/-- The hops of a group's token (R315): the paths of the network are not in the image, so the number is free between one hop for each
member and 128 of them, and the same whenever it is asked; a group of one has none (log entry 3). -/
def groupHops (members : List Nat) : Nat :=
  if members.length ≤ 1 then 0 else members.length + Config.pathHops members % (127 * members.length + 1)

/-- A group's token bound leaves 100 µs of a period of `p` microseconds (R297, R315); in units of 0.1 µs. -/
def boundFits (p : Nat) (members : List Nat) : Bool := decide (1050 + 4 * groupHops members + 20 * members.length ≤ 10 * p)

def tagIndex (r : Rec) : Nat := u16 r 0
def tagKind (r : Rec) : Nat := u8 r 2
def tagSub (r : Rec) : Nat := u8 r 3
def tagNum (r : Rec) : Nat := u16 r 4
def tagFloat (r : Rec) : Bool := u8 r 6 = 1
def tagPublished (r : Rec) : Bool := bitOf (u8 r 7) 0
def tagWritable (r : Rec) : Bool := bitOf (u8 r 7) 1
def tagGroup (r : Rec) : Nat := u16 r 8

def planK (r : Rec) : Nat := u16 r 0
def planPre (r : Rec) : Nat := u8 r 2
def planTreply (r : Rec) : Nat := u8 r 3
def planRetries (r : Rec) : Nat := u8 r 4
def planDrmax (r : Rec) : Nat := u8 r 5
def planQtime (r : Rec) : Nat := u16 r 6
def planAdhoc (r : Rec) : Nat := u32 r 8
def planFirst (r : Rec) : Nat := u16 r 12
def planCount (r : Rec) : Nat := u16 r 14

def axCtx (r : Rec) : Nat := u8 r 0
def axDecode (r : Rec) : Nat := u8 r 1
def axEfilt (r : Rec) : Nat := u8 r 2
def axDirinv (r : Rec) : Bool := bitOf (u8 r 3) 0
def axZlatch (r : Rec) : Bool := bitOf (u8 r 3) 1
def axPub (r : Rec) : Bool := bitOf (u8 r 3) 2
def axQerrmax (r : Rec) : Nat := u8 r 4
def axSrcctx (r : Rec) : Nat := u8 r 5
def axSrcdev (r : Rec) : Nat := u16 r 6
def axModlen (r : Rec) : Nat := u32 r 8
def axVmax (r : Rec) : Nat := u32 r 12
def axVend (r : Rec) : Nat := u32 r 16
def axVwin (r : Rec) : Nat := u32 r 20
def axAwin (r : Rec) : Nat := u32 r 24
def axVtmo (r : Rec) : Nat := u32 r 28
def axTrdmax (r : Rec) : Nat := u32 r 32

def lpRtype (r : Rec) : Nat := u8 r 0
def lpIndex (r : Rec) : Nat := u8 r 1

def dgKind (r : Rec) : Nat := u8 r 0
def dgTile (r : Rec) : Nat := u8 r 1
def dgChans (r : Rec) : List Nat := (List.range 8).filter fun c => bitOf (u8 r 2) c
def dgLslot (r : Rec) : Nat := u8 r 3
def dgWindow (r : Rec) : Nat := u32 r 4
def dgPeriod (r : Rec) : Nat := u64 r 8
def dgPhase (r : Rec) : Nat := u64 r 16

def prLogical (r : Rec) : Nat := u16 r 0
def prPhysA (r : Rec) : Nat := u16 r 2
def prPhysB (r : Rec) : Nat := u16 r 4
def prPrefB (r : Rec) : Bool := u8 r 6 = 1
def prOrphwait (r : Rec) : Nat := u32 r 8
def prWitness (r : Rec) : List Nat := (List.range 96).filter fun k => bitOf (u8 r (12 + k / 8)) (k % 8)

/-- DEVNUM of an image header (Table 13-1). -/
def hdrDevnum (h : Rec) : Nat := u16 h 12

/-- IMGVER of an image header (Table 13-1). -/
def hdrImgver (h : Rec) : Nat := u32 h 16

end Sys2Proof.Machine
end

