-- ==== Sys2Proof/Machine/Ops.lean ====
section
/-! DEFINITION. The shared operations: time, elements of the state, free values, plain registers and recorder events. -/

namespace Sys2Proof.Machine

open Sys2Proof

/-- What a command answers. -/
abbrev Out := Host.Outcome State Fault Refusal

/-! ## Numbers -/

/-- `x` as an index below `n`, when it is one. -/
def asFin (n x : Nat) : Option (Fin n) := if h : x < n then some ⟨x, h⟩ else none

/-- Tile of a channel: k = 8t + c (R11). -/
def tileOf (k : Fin 96) : Fin 12 := ⟨k.val / 8, by omega⟩

/-- Channel-in-tile of a channel. -/
def chanIn (k : Fin 96) : Fin 8 := ⟨k.val % 8, by omega⟩

/-- Channel c of tile t. -/
def chanAt (t : Fin 12) (c : Fin 8) : Fin 96 := ⟨8 * t.val + c.val, by omega⟩

/-- The eight channels of a tile. -/
def tileChans (t : Fin 12) : List (Fin 96) := (List.finRange 8).map (chanAt t)

/-- All channels. -/
def allChans : List (Fin 96) := List.finRange 96

/-- A count that stays at its largest value. -/
def satInc (n lim : Nat) : Nat := if n < lim then n + 1 else lim

/-! ## Lists keyed by a number -/

/-- The value stored under a key. -/
def lookupD {α : Type} (l : List (Nat × α)) (k : Nat) (d : α) : α :=
  match l.find? (fun e => e.1 == k) with
  | some e => e.2
  | none => d

/-- The value stored under a key, if any. -/
def lookupO {α : Type} (l : List (Nat × α)) (k : Nat) : Option α := (l.find? (fun e => e.1 == k)).map (·.2)

/-- The list with a value stored under a key, in ascending order of keys. -/
def insertK {α : Type} (k : Nat) (v : α) : List (Nat × α) → List (Nat × α)
  | [] => [(k, v)]
  | (j, w) :: rest => if k < j then (k, v) :: (j, w) :: rest else if k = j then (k, v) :: rest else (j, w) :: insertK k v rest

/-- The list without a key. -/
def eraseK {α : Type} (k : Nat) (l : List (Nat × α)) : List (Nat × α) := l.filter (fun e => e.1 != k)

/-! ## Sparse bytes -/

/-- The byte at an address of a sparse partition; an unlisted byte reads 0 (log entry 9). -/
def cellRead (m : List Host.Cell) (a : Nat) : Byte := lookupD m a 0

/-- One byte written: the listing stays strictly rising and lists no 0. -/
def cellWrite (a : Nat) (b : Byte) (m : List Host.Cell) : List Host.Cell :=
  if b = 0 then eraseK a m else insertK a b m

/-- Bytes written from an address upwards. -/
def cellWrites : Nat → List Byte → List Host.Cell → List Host.Cell
  | _, [], m => m
  | a, b :: bs, m => cellWrites (a + 1) bs (cellWrite a b m)

/-- `n` bytes read from address `a`. -/
def cellReads (m : List Host.Cell) (a n : Nat) : List Byte := (List.range n).map fun i => cellRead m (a + i)

/-! ## Time -/

/-- The state at instant `t` (log entry 2): elapsed time never runs backwards. -/
def State.at_ (s : State) (t : Time) : State := { s with now := max s.now t }

/-- SYSTIME in half-nanoseconds. -/
def sysHalf (s : State) : Nat := ((s.now : Int) + s.sysOff).toNat

/-- SYSTIME in nanoseconds, 64 bits. -/
def sysNs (s : State) : Nat := sysHalf s / 2 % 2 ^ 64

/-- Tile time in half-nanoseconds. -/
def tileHalf (s : State) (t : Fin 12) : Nat := ((s.now : Int) + (s.tile.get t).timeOff).toNat

/-- Tile time in 2.5 ns ticks, low 32 bits (R76). -/
def tileTick (s : State) (t : Fin 12) : Nat := tileHalf s t / 5 % 2 ^ 32

/-- T_E of an epoch, in SYSTIME half-nanoseconds (section "One epoch, end to end"). -/
def epochHalf (s : State) (e : Nat) : Int := 2 * s.ep.t0 + (e : Int) * (s.ep.p : Int) * 2000

/-- The span since an instant. -/
def since (s : State) (t : Time) : Time := s.now - t

/-! ## Elements of the state -/

/-- One tile changed. -/
def modTile (t : Fin 12) (f : Tile → Tile) (s : State) : State := { s with tile := s.tile.upd t f }

/-- One tile link changed. -/
def modLink (t : Fin 12) (f : TLink → TLink) (s : State) : State := { s with link := s.link.upd t f }

/-- One channel changed. -/
def modChan (k : Fin 96) (f : Chan → Chan) (s : State) : State := { s with chan := s.chan.upd k f }

/-- A channel's levels changed. -/
def modLev (k : Fin 96) (f : Levels → Levels) (s : State) : State := modChan k (fun c => { c with lev := f c.lev }) s

/-- A channel's switch changed. -/
def modSw (k : Fin 96) (f : Sw → Sw) (s : State) : State := modChan k (fun c => { c with sw := f c.sw }) s

/-- A channel's generator changed. -/
def modPg (k : Fin 96) (f : PGen → PGen) (s : State) : State := modChan k (fun c => { c with pg := f c.pg }) s

/-- A channel's analog part changed. -/
def modAna (k : Fin 96) (f : Ana → Ana) (s : State) : State := modChan k (fun c => { c with ana := f c.ana }) s

/-- A channel's digital part changed. -/
def modDig (k : Fin 96) (f : Dig → Dig) (s : State) : State := modChan k (fun c => { c with dig := f c.dig }) s

/-- A channel's diagnostics changed. -/
def modDg (k : Fin 96) (f : Diag → Diag) (s : State) : State := modChan k (fun c => { c with dg := f c.dg }) s

/-- A channel's HART part changed. -/
def modHart (k : Fin 96) (f : Hart → Hart) (s : State) : State := modChan k (fun c => { c with hart := f c.hart }) s

/-- A command applied to each of a list in turn. -/
def forEach {α : Type} (l : List α) (f : α → State → State) (s : State) : State := l.foldl (fun s x => f x s) s

/-! ## Configuration -/

/-- The record that configures a channel in its tile: none reads as FUNC = OFF (Table 02-4). -/
def tileRec (s : State) (k : Fin 96) : Rec :=
  match (s.tile.get (tileOf k)).bank with
  | some b => b.chan.get (chanIn k)
  | none => []

/-- The fallback record that the tile holds for a channel. -/
def safeRec (s : State) (k : Fin 96) : Rec :=
  match (s.tile.get (tileOf k)).bank with
  | some b => b.safe.get (chanIn k)
  | none => []

/-- The profiles that a tile holds. -/
def profRecs (s : State) (k : Fin 96) : List Rec :=
  match (s.tile.get (tileOf k)).bank with
  | some b => b.prof
  | none => []

/-- The cast's record of a channel. -/
def castRec (s : State) (k : Nat) : Rec :=
  match s.img.cast with
  | some i => i.chan.getD k []
  | none => []

/-- The records of the cast that `f` names. -/
def castAll (s : State) (f : Image → List Rec) : List Rec :=
  match s.img.cast with
  | some i => f i
  | none => []

/-- The cast holds a PAIR record: the device is a member of a pair (R361). -/
def paired (s : State) : Bool :=
  match s.img.cast with
  | some i => !i.pair.isEmpty
  | none => false

/-! ## Plain registers (R558, R560) -/

/-- Reset value of a plain read/write register (Tables 19-2 to 19-11). -/
def regReset (off : Nat) : Nat :=
  if off = 0x0824 then 100
  else if off = 0x0828 then 128
  else if 0x1000 ≤ off && off < 0x1800 && off % 32 = 0x10 then 6
  else if 0x1800 ≤ off && off < 0x1C00 && off % 16 = 0x8 then 0x100
  else if 0x1800 ≤ off && off < 0x1C00 && off % 16 = 0xC then 0x60
  else if 0x1C00 ≤ off && off < 0x1F00 then
    match (off - 0x1C00) % 48 with
    | 0x10 => 1 | 0x14 => 1 | 0x18 => 250 | 0x1C => 1000 | _ => 0
  else if off = 0x1F10 then 16
  else 0

/-- Present value of a plain register. -/
def reg (s : State) (off : Nat) : Nat := (lookupD s.regs off (BitVec.ofNat 32 (regReset off))).toNat

/-- A register pair (R559). -/
def reg64 (s : State) (off : Nat) : Nat := reg s off + 2 ^ 32 * reg s (off + 4)

/-- A plain register written; a register at its reset value is not listed. -/
def setReg (off v : Nat) (s : State) : State :=
  let w := BitVec.ofNat 32 v
  { s with regs := if w = BitVec.ofNat 32 (regReset off) then eraseK off s.regs else insertK off w s.regs }

/-! ## Free values -/

/-- The next free word (log entry 3). -/
def freeW (s : State) : Word × State := (Config.freeWord s.free, { s with free := s.free + 1 })

/-- The next free yes or no (log entry 3). -/
def freeB (s : State) : Bool × State := (Config.freeBool s.free, { s with free := s.free + 1 })

/-- The CCLK cycle of an instant, at 600 MHz (Table 16-1). -/
def cclkCycle (t : Time) : Nat := t * 3 / 10

/-! ## Erases and logs of the store (R530 to R534) -/

/-- The store changed. -/
def modStore (f : Store → Store) (s : State) : State := { s with nvs := { s.nvs with store := f s.nvs.store } }

/-- Purposes of an intent record (R532). -/
def purposeLog : Nat := 0
def purposeSpill : Nat := 1
def purposeImage : Nat := 2
def purposeSlot : Nat := 3
def purposeCompact : Nat := 4

/-- 64-byte records that one block holds. -/
def blockRecs : Nat := 4096

/-- Erases asked for: each has its intent record in the active intent log and waits at its rank (R531, R532). A log that is full hands over to the
other, and its own erase is recorded there (log entry 146). -/
def queueErases (purpose : Nat) (blocks : List Nat) (s : State) : State :=
  modStore (fun x =>
    let n := x.intUsed + 2 * blocks.length
    let turn := decide (blockRecs < n)
    let own := if turn then [(b2n x.intB, purposeLog)] else []
    let l := own ++ blocks.map fun b => (b, purpose)
    { x with
      intents := x.intents ++ l
      jobs := x.jobs ++ l.map fun i => .erase i.1 i.2
      intUsed := if turn then 2 * l.length else n
      intB := x.intB != turn }) s

/-- One record more in the active control log; a full log hands over to the other, erased before, with the newest record of its four types: two
selectors, the image roles with the floor, the FLT configuration (R525, R530; how they are packed: DESIGN CHOICE, log entry 146). -/
def controlNote (s : State) : State :=
  let x := s.nvs.store
  let s1 := if x.ctlUsed < blockRecs then modStore (fun x => { x with ctlUsed := x.ctlUsed + 1 }) s
    else modStore (fun x => { x with ctlUsed := 5, ctlB := !x.ctlB }) (queueErases purposeLog [if x.ctlB then 2 else 3] s)
  modStore (fun x => { x with rseq := x.rseq + 1 }) s1

/-- A control-log record that waits for its place in the store's order (Table 17-8). -/
def controlWrite (s : State) : State := modStore (fun x => { x with jobs := x.jobs ++ [.role] }) (controlNote s)

/-- Blocks of an image partition (Table 17-7). -/
def imageBlocks (p : Nat) : List Nat := (List.range 128).map (· + (138 + 128 * p))

/-- The block after the write position of a ring of `size` blocks from `base`, when `n` more bytes carry the position `pos` into another block: it
is erased before the ring reaches it (R531, R546). -/
def ringErase (base size pos n : Nat) : List Nat :=
  if pos / 262144 = (pos + n) / 262144 then [] else [base + ((pos + n) / 262144 + 1) % size]

/-- Bytes of the journal written into the spill ring (R531). -/
def spill (n : Nat) (s : State) : State :=
  let at_ := s.nvs.store.spillAt
  let s1 := match ringErase 1546 64 at_ n with
    | [] => s
    | l => queueErases purposeSpill l s
  modStore (fun x => { x with spillAt := (at_ + n) % 16777216 }) s1

/-! ## Recorder events (R539 to R544) -/

/-- Capacity of the event queue, and the entries kept for FAULT and START (R544). -/
def recQueueMax : Nat := 1024
def recQueueKept : Nat := 64

/-- An event behind those before it; within one CCLK cycle the events stand in ascending SOURCE order (R544). -/
def intoQueue (e : RecEvt) : List RecEvt → List RecEvt
  | [] => [e]
  | x :: rest => if cclkCycle x.came = cclkCycle e.came && e.source < x.source then e :: x :: rest else x :: intoQueue e rest

/-- An event enters the event queue, or is dropped and counted (R544). The block records nothing while POR or the hub reset holds
it. -/
def recordEvt (e : RecEvt) (s : State) : State :=
  if s.pwr.phase = .por || s.pwr.phase = .reset && e.type != 0x0101 then s
  else
    let n := s.recd.queue.length
    let kept := e.type = 0x0101 || e.type = 0x0201
    if n < (if kept then recQueueMax else recQueueMax - recQueueKept) then
      let full := recQueueMax - recQueueKept ≤ n + 1
      { s with recd := { s.recd with
          queue := intoQueue { e with came := s.now } s.recd.queue
          fullSince := if full then (match s.recd.fullSince with | some t => some t | none => some s.now) else none } }
    else { s with recd := { s.recd with dropped := s.recd.dropped + 1 } }

/-- SOURCE of a kind and instance (Table 18-2). -/
def srcOf (kind inst : Nat) : Nat := kind * 4096 + inst % 4096

/-- FLAGS bit 5: SYSTIME is unlocked (Table 18-1). -/
def unlockedFlag (s : State) : Nat := if s.net.locked then 0 else 32

/-- An event with the given argument words at the present instant. -/
def recordArgs (type source : Nat) (args : List Nat) (s : State) : State :=
  recordEvt { type := type, source := source, flags := unlockedFlag s, args := args.map (BitVec.ofNat 32), time := sysNs s } s

/-- An event of a row that lists its events: ARG0 carries the event code and `hi` above it (R541). -/
def record (type source ev hi : Nat) (rest : List Nat) (s : State) : State :=
  recordArgs type source ((ev + 256 * hi) :: rest) s

/-- An event that no row names: the GENERIC code of the SOURCE's family (R541). -/
def recordGeneric (kind inst : Nat) (s : State) : State :=
  let family := match kind with
    | 0x0 => 0x01 | 0x1 => 0x03 | 0x2 => 0x03 | 0x3 => 0x04 | 0x4 => 0x04 | 0x5 => 0x04 | 0x6 => 0x05 | 0x7 => 0x08
    | 0x8 => 0x06 | 0x9 => 0x09 | 0xA => 0x07 | 0xB => 0x09 | 0xC => 0x02 | _ => 0x0A
  recordArgs (family * 256) (srcOf kind inst) [0] s

/-- A refused setup or management write (Table 18-3, REFUSED): the BAR0 offset and the requester, 1,024 for the local host. -/
def recordRefused (off requester : Nat) (s : State) : State :=
  record 0x0803 (srcOf 7 0x400) 1 0 [off, if requester = 1024 then 0xFFFFFFFF else requester] s

/-! ## Registers and vectors the host sees -/

/-- The source of a write-1-to-clear bit sets it at the present instant (R12). -/
def sourceSets (off bit : Nat) (s : State) : State := { s with host := { s.host with w1cAt := insertK (32 * off + bit) s.now s.host.w1cAt } }

/-- A write clears a write-1-to-clear bit: it carries 1, and the source does not set the bit in the same CCLK cycle (R12). -/
def clears (s : State) (off v bit : Nat) : Bool :=
  bitOf v bit && (match lookupO s.host.w1cAt (32 * off + bit) with
    | some t => cclkCycle t != cclkCycle s.now
    | none => true)

/-- A write to a register of write-1-to-clear bits, as the mask of the `n` low bits it clears. -/
def clearMask (s : State) (off v n : Nat) : Nat :=
  (List.range n).foldl (fun a i => a + b2n (clears s off v i) * 2 ^ i) 0

/-- An MSI-X message on a vector; a masked vector's pending bit waits instead (R392). -/
def signal (v : Nat) (s : State) : State :=
  let masked := match asFin 64 v with | some i => (s.host.msix.get i).masked | none => false
  { s with host := { s.host with
      vectors := if masked then s.host.vectors else s.host.vectors ++ [v]
      msixPend := if masked then s.host.msixPend ||| BitVec.ofNat 64 (2 ^ v) else s.host.msixPend } }

/-- The writes that carry bytes to host memory: none longer than the programmed Max_Payload_Size, none across a 4 KiB boundary (Table 12-1). -/
def payloads : Nat → Nat → Nat → List Byte → List HostWrite
  | 0, _, _, _ => []
  | n + 1, mps, addr, b =>
    let k := min mps (4096 - addr % 4096)
    if b.isEmpty then [] else { addr := addr, bytes := b.take k } :: payloads n mps (addr + k) (b.drop k)

/-- The device writes host memory. -/
def hostWrite (addr : Nat) (bytes : List Byte) (s : State) : State :=
  { s with host := { s.host with writes := s.host.writes ++ payloads bytes.length s.host.pcie.mps addr bytes } }

/-- A command the hub sends to a tile. -/
def tileSend (t : Fin 12) (slot c op handle stamp value : Nat) (s : State) : State :=
  { s with misc := { s.misc with tsent := s.misc.tsent ++
      [{ tile := t, slot := slot, c := c, op := op, handle := handle, stamp := stamp % 2 ^ 32, value := value }] } }

/-- The kind of a frame put on a port (Table 10-3). -/
def sentKind (b : List Byte) : Nat := bits (u8 b 0) 0 4

/-- The express kinds: TOK, AXS, HBT, SHD and CCH (Table 10-4, R369). -/
def expressKind (k : Nat) : Bool := k == 2 || k == 4 || k == 8 || k == 9 || k == 11

/-- The order in which normal frames leave a queue: TIM, IMG, REQ, RSP, MGT (R340). JNL stands alone on its port. -/
def queueRank (k : Nat) : Nat := if k = 3 then 0 else if k = 1 then 1 else if k = 6 then 2 else if k = 7 then 3 else if k = 5 then 4 else 5

/-- The time of a frame on the wire: its length plus 8 B at 8 ns a byte (R360). -/
def wireTime (b : List Byte) : Time := 16 * (b.length + 8)

/-- A normal frame that still waits at an output. -/
def waitsAt (p : Nat) (now : Time) (x : Sent) : Bool := x.port == p && !expressKind (sentKind x.bytes) && decide (now < x.start)

/-- Waiting frames sent one behind the other from an instant on. -/
def respace : Time → List Sent → List Sent
  | _, [] => []
  | t, x :: xs => { x with start := t } :: respace (t + wireTime x.bytes) xs

/-- A frame put behind the waiting ones of its kind and of those that go before it (R340). -/
def enqueue (x : Sent) : List Sent → List Sent
  | [] => [x]
  | y :: ys => if queueRank (sentKind x.bytes) < queueRank (sentKind y.bytes) then x :: y :: ys else y :: enqueue x ys

/-- The sent frames with one port's waiting ones replaced, from the instant at which the frame in progress ends. -/
def putQueue (p : Nat) (i : Fin 5) (queue : List Sent) (s : State) : State :=
  let old := s.net.sent.filter (waitsAt p s.now)
  let from_ := match old.head? with | some x => x.start | none => (s.net.port.get i).busy
  let stop := queue.foldl (fun t x => t + wireTime x.bytes) from_
  { s with net := { s.net with
      sent := (s.net.sent.filter fun x => !waitsAt p s.now x) ++ respace from_ queue
      port := s.net.port.upd i fun x => { x with busy := stop } } }

/-- A frame on a serial port, `v` where it ends in /V/, counted in its load at its length plus 8 B (R360). An express frame waits for an express
frame in progress alone; a normal one for the one in progress and for the waiting ones that go before it (R340). -/
def frameOut (own : Bool) (p : Nat) (bytes : List Byte) (v : Bool) (s : State) : State :=
  match asFin 5 p with
  | none => s
  | some i =>
    let x := s.net.port.get i
    let express := expressKind (sentKind bytes)
    let start := max s.now (if express then x.xbusy else x.busy)
    let f : Sent := { port := p, bytes := bytes, v := v, start := start, own := own }
    let s1 := { s with net := { s.net with port := s.net.port.upd i fun x => { x with bytes := x.bytes + (bytes.length + 8) } } }
    if express || x.busy ≤ s.now then
      let leave (x : Port) : Port := if express then { x with xbusy := start + wireTime bytes } else { x with busy := start + wireTime bytes }
      { s1 with net := { s1.net with sent := s1.net.sent ++ [f], port := s1.net.port.upd i leave } }
    else putQueue p i (enqueue f (s1.net.sent.filter (waitsAt p s.now))) s1

/-- Bytes of normal frames in an output's queue. The device's own image waits outside it until its turn (R354, log entry 171). -/
def queuedBytes (p : Nat) (s : State) : Nat :=
  (s.net.sent.filter fun x => waitsAt p s.now x && !(x.own && sentKind x.bytes == 1)).foldl (fun n x => n + x.bytes.length) 0

/-- The queue of 32 KiB of a ring port has no room for a normal frame (R340). -/
def queueFull (p : Nat) (b : List Byte) (s : State) : Bool :=
  decide (p < 4) && !expressKind (sentKind b) && decide (32768 < queuedBytes p s + b.length) &&
    match asFin 5 p with | some i => decide (s.now < (s.net.port.get i).busy) | none => false

/-- A frame passed on at a serial port. -/
def portOut (p : Nat) (bytes : List Byte) (v : Bool) (s : State) : State := frameOut false p bytes v s

/-- One more normal frame dropped at a full queue: counted now, its source raised with the next row of the network (R340, log entry 171). -/
def ownDrop (p : Nat) (s : State) : State :=
  match asFin 5 p with
  | none => s
  | some i => { s with net := { s.net with port := s.net.port.upd i fun x => { x with drops := satInc x.drops (2 ^ 32 - 1), dropPend := true } } }

/-- A frame of the device's own on a serial port. -/
def portSend (p : Nat) (bytes : List Byte) (s : State) : State :=
  if sentKind bytes != 1 && queueFull p bytes s then ownDrop p s else frameOut true p bytes false s

/-! ## Phases -/

/-- The hub runs: POR and the hub reset are released, LOCK does not stand and no power-fail sequence has stopped it (R485, R507). -/
def hubUp (s : State) : Bool := (s.pwr.phase = .run || s.pwr.phase = .cold) && !s.flt.lock && !s.pwr.failing

/-- The hub answers setup reads and writes: it runs, or is in LOCK. -/
def hubAlive (s : State) : Bool := s.pwr.phase = .run || s.pwr.phase = .cold

/-- A tile is powered (Table 02-4). -/
def tilePowered (s : State) (t : Fin 12) : Bool := (s.tile.get t).state != .off

/-- The link of a tile is good: both directions are (R61), and the hub has not declared it silent (R62). -/
def linkUp (s : State) (t : Fin 12) : Bool :=
  let l := s.link.get t
  !l.downSilent && !l.upSilent && !l.hubSilent

/-- What the hub sends reaches the tile (R14, R61): its link is good and no LOCK latch holds it (R487). -/
def tileReached (s : State) (t : Fin 12) : Bool := linkUp s t && !(s.tile.get t).lockLatch

/-- The epoch of the grid in which an instant of SYSTIME, in half-nanoseconds, lies (R296). -/
def epochAt (s : State) (a : Time) : Nat :=
  if s.ep.p = 0 then s.ep.e else (((a : Int) - 2 * s.ep.t0) / (us s.ep.p : Int)).toNat

/-- The epoch of the grid in which the present instant lies (R296). -/
def gridEpoch (s : State) : Nat := epochAt s (sysHalf s)

/-- A span timed in the tile has passed since an instant: FCLK_t may run 0.5 % fast or slow while it is not locked (R76). -/
def tileSpan (s : State) (t : Fin 12) (from_ : Time) (span : Nat) : Bool :=
  decide (from_ + span ≤ s.now + (if (s.link.get t).fclk then 0 else span / 200))

/-- The stamp of a management command that the hub sends now: two cycles of the MGT slot ahead, so that it is in time (log entry 124). -/
def mgtStamp (s : State) : Word := BitVec.ofNat 32 (sysHalf s / 5 + 12800)

/-- The hub sends a stamped management command to a tile whose link is good; the tile holds it until its stamp (R65, R68, R73). -/
def mgtSend (t : Fin 12) (kind : TKind) (c : Fin 8) (s : State) : State :=
  if linkUp s t && !(s.tile.get t).lockLatch then
    modTile t (fun x => { x with pend := x.pend ++ [{ kind := kind, c := c, duty := false, stamp := mgtStamp s, value := 0 }] }) s
  else s

/-- MGT arms a channel for trimming, or disarms it (R56); nothing reaches a tile whose link is silent. -/
def mgtTrim (k : Fin 96) (on : Bool) (s : State) : State :=
  let t := tileOf k
  if linkUp s t then
    modTile t (fun x => { x with trim := if on then some (chanIn k) else if x.trim = some (chanIn k) then none else x.trim }) s
  else s

/-- No effect: the event's own conditions do not hold (log entry 11). -/
def noEffect (s : State) : Out := .next s

/-- The guarded effect of an event (log entry 11). -/
def when (c : Bool) (f : State → State) (s : State) : Out := if c then .next (f s) else .next s

end Sys2Proof.Machine
end

