-- ==== Sys2Proof/Machine/Flags.lean ====
section
/-! DEFINITION. The channel status word and its verdict (R213 to R218, R602, Tables 07-1 and 07-2). -/

namespace Sys2Proof.Machine

open Sys2Proof

/-- Cut-off verdicts of a channel (0x30 to 0x3B). -/
def protVerdicts (c : Sw) : List Nat :=
  (match c.cut with
    | some u =>
      let base := match u.kind with | .short => 0 | .overload => 1 | .trip => 2
      [(if u.latched then 0x38 else 0x30) + base]
    | none => []) ++
  (if c.thermLatch then [0x3B] else if c.thermal || c.thermal2 then [0x33] else []) ++
  (if c.clampLock then [0x34] else [])

/-- Verdicts that stand on a channel: judgements kept in `stand`, the NAMUR line, the protections and SENSEFAIL (R217). -/
def standing (s : State) (k : Fin 96) : List Nat :=
  let c := s.chan.get k
  let r := tileRec s k
  if chFunc r = .off then []
  else
    let sense := if (s.sns.get (tileOf k)).senseFail then [0x61] else []
    let line := if !c.dig.lineJudged then [] else match c.dig.line with | some true => [0x21] | some false => [0x14] | none => []
    if (s.tile.get (tileOf k)).standby then
      protVerdicts c.sw ++ c.dg.stand.filter (· == 0x23) ++ sense
    else protVerdicts c.sw ++ c.dg.stand ++ line ++ sense

/-- The order of R216. -/
def verdictOrder : List Nat :=
  [0x38, 0x39, 0x3A, 0x3B, 0x30, 0x31, 0x32, 0x33, 0x34, 0x23, 0x22, 0x20, 0x21, 0x40,
   0x10, 0x11, 0x12, 0x13, 0x14, 0x15, 0x61, 0x50, 0x60, 0x51, 0x52, 0x53]

/-- VERDICT (R216): the standing verdict of highest precedence, else OK or NOTEST. -/
def verdictOf (s : State) (k : Fin 96) : Nat :=
  match verdictOrder.find? (fun v => (standing s k).contains v) with
  | some v => v
  | none =>
    if (s.chan.get k).dg.judged && chFunc (tileRec s k) != .off && !(s.tile.get (tileOf k)).standby then 1 else 0

/-- Any of some verdicts stands. -/
def anyStands (st : List Nat) (vs : List Nat) : Bool := vs.any st.contains

/-- VALID of a channel, without the cold-junction rule of R107. -/
def validBase (s : State) (k : Fin 96) : Bool :=
  let c := s.chan.get k
  let r := tileRec s k
  let st := standing s k
  let blocked := anyStands st [0x10, 0x15, 0x14, 0x21, 0x20, 0x23]
  let live := !(s.tile.get (tileOf k)).standby && (s.tile.get (tileOf k)).state != .off
  match chFunc r with
  | .off => false
  | .aiv | .aii | .rtd | .tc => live && c.ana.valid && !blocked
  | .di | .cnt => live && !blocked && !c.dig.divLow
  | .nam => live && !blocked && !c.dig.namLow && c.dig.line.isNone
  | .aoi | .aov => live && c.ana.inst.isSome
  | .dout => live

/-- VALID of a channel (R107, R114, R218, R602). -/
def validOf (s : State) (k : Fin 96) : Bool :=
  let r := tileRec s k
  validBase s k &&
    (if chFunc r = .tc && chRange r != 8 && chCjsrc r != 0xFFFF then
      match asFin 96 (chCjsrc r) with
      | some j => validBase s j
      | none => true
    else true)

/-- LIMIT: the switch or the front end limits, or a cut-off stands (Table 06-3). -/
def limitOf (c : Chan) : Bool := c.sw.limiting || c.sw.cut.isSome

/-- The channel status word (Table 07-1). ABSENT is added by the hub when it builds a cut (R214). -/
def cswOf (s : State) (k : Fin 96) : Word :=
  let c := s.chan.get k
  let t := s.tile.get (tileOf k)
  let st := standing s k
  let armed := t.trim == some (chanIn k)
  let flags : List Bool :=
    [validOf s k,
     anyStands st [0x10, 0x11, 0x12, 0x13, 0x14, 0x15],
     anyStands st [0x20, 0x21, 0x30, 0x38],
     st.contains 0x22,
     st.contains 0x23,
     limitOf c,
     c.sw.thermal || c.sw.thermal2 || c.sw.thermLatch,
     c.sw.clampLock,
     c.ana.compl,
     c.ana.underR,
     c.ana.overR || c.dig.freqOver,
     st.contains 0x50,
     t.supplyLow,
     c.lev.holding,
     c.lev.fell || c.lev.grpFb,
     t.standby,
     c.hart.hartFault,
     armed,
     st.contains 0x40,
     c.lev.l5.isSome]
  let low := flags.reverse.foldl (fun a b => 2 * a + b2n b) 0
  BitVec.ofNat 32 (low + verdictOf s k * 2 ^ 24)

/-- ABSENT (bit 20). -/
def cswAbsent : Word := 0x00100000

/-- The channel's verdict is an open-load verdict (R94). -/
def openVerdict (s : State) (k : Fin 96) : Bool := [0x10, 0x11, 0x12, 0x13].contains (verdictOf s k)

/-- A channel whose VALID is clear starts its filter afresh at the first conversion after VALID returns (R90). -/
def noteInvalid (k : Fin 96) (s : State) : State :=
  if (s.chan.get k).ana.wasValid && !validOf s k then modAna k (fun a => { a with wasValid := false }) s else s

/-- A change at a channel, with the instant of a change of its VERDICT kept for R241. COMPL is never set under an open-load verdict (R94). -/
def judging (k : Fin 96) (f : State → State) (s : State) : State :=
  let s' := noteInvalid k (f s)
  if verdictOf s k = verdictOf s' k then s'
  else
    let s1 := modDg k (fun d => { d with changed := s'.now }) s'
    if openVerdict s1 k then modAna k (fun a => { a with compl := false, complLow := false }) s1 else s1

/-- A change that concerns the verdict of every channel of a tile: its instant kept for R241, and COMPL cleared under an open-load verdict (R94). -/
def judgingTile (t : Fin 12) (f : State → State) (s : State) : State :=
  let s1 := f s
  forEach (tileChans t) (fun k s2 =>
    if verdictOf s k = verdictOf s1 k then s2
    else
      let s3 := modDg k (fun d => { d with changed := s1.now }) s2
      if openVerdict s1 k then modAna k (fun a => { a with compl := false, complLow := false }) s3 else s3) s1

/-- A verdict code set among the judgements of a channel. -/
def setVerdict (k : Fin 96) (v : Nat) (s : State) : State :=
  judging k (modDg k fun d => { d with stand := if d.stand.contains v then d.stand else v :: d.stand, judged := true }) s

/-- A verdict code cleared. -/
def clearVerdict (k : Fin 96) (v : Nat) (s : State) : State :=
  judging k (modDg k fun d => { d with stand := d.stand.filter (· != v), judged := true }) s

/-- A verdict set or cleared. -/
def putVerdict (k : Fin 96) (v : Nat) (on : Bool) (s : State) : State :=
  if on then setVerdict k v s else clearVerdict k v s

end Sys2Proof.Machine
end

