-- ==== Sys2Proof/Machine/Frames.lean ====
section
/-! DEFINITION. Pelrun and partner-link frames (Tables 10-3, 10-4, 11-7) and the device numbers they carry. -/

namespace Sys2Proof.Machine

open Sys2Proof

/-- SCOPE codes of Table 10-3. -/
def scopeLink : Nat := 0
def scopeUni : Nat := 1
def scopeSeg : Nat := 2
def scopeSys : Nat := 3

/-- A frame: header, payload and CHECK over byte 0 and bytes 2 to 11 + LEN (R335). -/
def frameBytes (kind scope ttl dst src fseq : Nat) (payload : List Byte) : List Byte :=
  let b0 := [BitVec.ofNat 8 (kind + 16 * scope)]
  let rest := leBytes 2 (dst % 1024) ++ leBytes 2 (src % 1024) ++ leBytes 3 (fseq % 2 ^ 22) ++ [0] ++ leBytes 2 payload.length ++ payload
  b0 ++ [BitVec.ofNat 8 ttl] ++ rest ++ leBytes 4 (pelrunCheck dst fseq (b0 ++ rest))

/-- Fields of a received frame. -/
def frKind (b : List Byte) : Nat := bits (u8 b 0) 0 4
def frScope (b : List Byte) : Nat := bits (u8 b 0) 4 2
def frTtl (b : List Byte) : Nat := u8 b 1
def frDst (b : List Byte) : Nat := bits (u16 b 2) 0 10
def frSrc (b : List Byte) : Nat := bits (u16 b 4) 0 10
def frFseq (b : List Byte) : Nat := bits (uN b 6 3) 0 22
def frLen (b : List Byte) : Nat := u16 b 10
def frPayload (b : List Byte) : List Byte := slice b 12 (frLen b)

/-- The frame is whole and its CHECK matches (R335). -/
def frCheckOk (b : List Byte) : Bool :=
  b.length == 16 + frLen b && u32 b (12 + frLen b) == pelrunCheck (frDst b) (frFseq b) (b.take 1 ++ slice b 2 (10 + frLen b))

/-- The device drives the logical number of its pair (R374): ACTIVE, or outgoing in COUCH. -/
def drivesLogical (s : State) : Bool :=
  paired s && (s.pair.state == .active || (s.pair.state == .couch && match s.pair.couch with | some c => !c.incoming | none => false))

/-- The number under which the device acts in the system: logical while it drives a pair, else physical (R330, R374). -/
def selfNum (s : State) : Nat :=
  match s.img.cast with
  | some i => if drivesLogical s then prLogical i.pair else s.net.num
  | none => s.net.num

/-- The logical number of the device's pair, if it has one. -/
def logicalNum (s : State) : Option Nat :=
  match s.img.cast with
  | some i => if i.pair.isEmpty then none else some (prLogical i.pair)
  | none => none

/-- Physical number of the partner, from the PAIR record and the seat strap (R361). -/
def partnerNum (s : State) : Option Nat :=
  match s.img.cast with
  | some i => if i.pair.isEmpty then none else some (if s.pwr.straps.pairId = 0 then prPhysB i.pair else prPhysA i.pair)
  | none => none

/-- The device sends Pelrun frames: it is JOINED, and LOCK, power-fail or a reset does not stop it (R353, R485, R507). -/
def netUp (s : State) : Bool := hubUp s && s.net.state == 3 && !s.pwr.failing

/-- The next FSEQ of the series in use, and the state after taking it (R337). -/
def takeFseq (logical : Bool) (s : State) : Nat × State :=
  if logical then (s.net.lseq, { s with net := { s.net with lseq := (s.net.lseq + 1) % 2 ^ 22 } })
  else (s.net.fseq, { s with net := { s.net with fseq := (s.net.fseq + 1) % 2 ^ 22 } })

/-- The ports of a ring: PEL0 and PEL1 of the segment, PEL2 and PEL3 of the backbone (Table 10-2). -/
def ringPorts (backbone : Bool) : List Nat := if backbone then [2, 3] else [0, 1]

/-- The ring on which a UNICAST frame leaves: a coupler sends frames for other segments on the backbone (R339). -/
def uniBackbone (s : State) (dst : Nat) : Bool := s.net.coupler && dst / 32 != s.net.num / 32

/-- A frame sent on both ports of one ring (R338). -/
def ringSend (kind scope : Nat) (dst : Nat) (backbone : Bool) (payload : List Byte) (s : State) : State :=
  if !netUp s then s
  else
    let logical := drivesLogical s
    let (q, s1) := takeFseq logical s
    let src := selfNum s
    let b := frameBytes kind scope (if backbone then 64 else 32) (if scope = scopeUni then dst else src) src q payload
    (ringPorts backbone).foldl (fun s p => portSend p b s) s1

/-- A SEGMENT or SYSTEM frame on the segment ring, and with the same FSEQ on the backbone ring where a coupler's own frame also goes
there: a SYSTEM frame, or one that its export lists name (R338, R343). -/
def castSend (kind scope : Nat) (exported : Bool) (payload : List Byte) (s : State) : State :=
  if !netUp s then s
  else
    let (q, s1) := takeFseq (drivesLogical s) s
    let src := selfNum s
    let out (ttl : Nat) (ports : List Nat) (s : State) : State :=
      ports.foldl (fun s p => portSend p (frameBytes kind scope ttl src src q payload) s) s
    let s2 := out 32 [0, 1] s1
    if s.net.coupler && exported then out 64 [2, 3] s2 else s2

/-- A UNICAST frame to a device. -/
def uniSend (kind dst : Nat) (payload : List Byte) (s : State) : State :=
  ringSend kind scopeUni dst (uniBackbone s dst) payload s

/-- A UNICAST frame under the physical number, whatever pair the device drives: the answer to what names a member itself (R337, R374). -/
def physSend (kind dst : Nat) (payload : List Byte) (s : State) : State :=
  if !netUp s then s
  else
    let (q, s1) := takeFseq false s
    let b := frameBytes kind scopeUni (if uniBackbone s dst then 64 else 32) dst s.net.num q payload
    (ringPorts (uniBackbone s dst)).foldl (fun s p => portSend p b s) s1

/-- A frame on the partner link (R369): SCOPE LINK, TTL 1, physical number and series. -/
def prtSend (kind : Nat) (payload : List Byte) (s : State) : State :=
  if !hubUp s || s.pwr.straps.pairId = 2 || (s.net.port.get 4).state != 1 && (s.net.port.get 4).state != 2 then s
  else
    let (q, s1) := takeFseq false s
    portSend 4 (frameBytes kind scopeLink 1 s.net.num s.net.num q payload) s1

/-- A JNL frame (Table 11-7). -/
def jnlSend (sub count joff : Nat) (body : List Byte) (s : State) : State :=
  prtSend 0xA ([BitVec.ofNat 8 sub, 0] ++ leBytes 2 count ++ leBytes 4 joff ++ body) s

/-- A CCH frame (Table 11-5), kept also as the operation it carries. -/
def cchSend (op epoch stamp arg : Nat) (s : State) : State :=
  let s1 := { s with pair := { s.pair with cch := s.pair.cch ++ [(op, epoch, stamp, arg)] } }
  prtSend 0xB ([BitVec.ofNat 8 op, 0] ++ leBytes 6 epoch ++ leBytes 8 stamp ++ leBytes 2 arg ++ [0, 0]) s1

/-- Journal bytes cut into JNL frames of at most 1,512 body bytes, each naming its JOFF (R372). -/
def jnlChunks : Nat → Nat → List Byte → State → State
  | 0, _, _, s => s
  | n + 1, off, bs, s => if bs.isEmpty then s else jnlChunks n (off + 1512) (bs.drop 1512) (jnlSend 0 (bs.take 1512).length (off % 131072) (bs.take 1512) s)

/-- Bytes of an image sent to the partner in JNL IMAGE items of at most 1,504 bytes (R375). -/
def imageItems : Nat → Nat → List Byte → State → State
  | 0, _, _, s => s
  | n + 1, off, b, s =>
    if b.isEmpty then s
    else imageItems n (off + 1504) (b.drop 1504) (jnlSend 2 (b.take 1504).length off (b.take 1504) s)

end Sys2Proof.Machine
end

