-- ==== Sys2Proof/Machine/Rings.lean ====
section
/-! DEFINITION. The journal (R386, R387, R372), completions and completion queues (R393, R398, R405, R406, R415), and the record of
work (R29 to R31, R408). -/

namespace Sys2Proof.Machine

open Sys2Proof

/-! ## The journal -/

/-- A whole journal entry (Table 11-15). -/
def entryBytes (etype eseq epoch : Nat) (body : List Byte) (mirrored : Bool := false) : List Byte :=
  let n := (16 + body.length + 4 + 7) / 8 * 8
  let head := [BitVec.ofNat 8 etype, BitVec.ofNat 8 (b2n mirrored)] ++ leBytes 2 n ++ leBytes 4 eseq ++ leBytes 6 epoch ++ [0, 0]
  let b := head ++ body ++ List.replicate (n - 20 - body.length) 0
  b ++ leBytes 4 (storeCheck b)

/-- The bytes of an entry in the log. -/
def jBytes (e : JEntry) : List Byte := entryBytes e.etype e.eseq e.epoch e.body e.mirrored

/-- One entry written at the head of the log and sent to the partner (R386, R372). -/
def putEntry (etype : Nat) (body : List Byte) (s : State) : State :=
  let j := s.host.jnl
  let b := entryBytes etype j.eseq s.ep.e body
  let e : JEntry := { etype := etype, eseq := j.eseq, epoch := s.ep.e, body := body, off := j.head % 131072 }
  let s1 := { s with host := { s.host with jnl := { j with
    head := (j.head + b.length) % 2 ^ 32, eseq := (j.eseq + 1) % 2 ^ 32, log := j.log ++ [e], unspilled := j.unspilled + b.length } } }
  if drivesLogical s then jnlChunks 64 (j.head % 131072) b s1 else s1

/-- The member keeps its partner's journal: STANDBY, or incoming in a couch (R372). -/
def mirrors (s : State) : Bool := s.pair.state == .standby || (s.pair.state == .couch && match s.pair.couch with | some c => c.incoming | none => false)

/-- The newest entries that begin within `n` bytes of the head, newest first. -/
def lastEntries : Nat → List JEntry → List JEntry
  | _, [] => []
  | n, e :: older => let l := (jBytes e).length; if n < l then [] else e :: lastEntries (n - l) older

/-- ORIGIN and RING that an entry names, where H of that pair can be rebuilt from it (Table 11-16). -/
def entryRing (e : JEntry) : Option (Nat × Nat) := if (1 ≤ e.etype && e.etype ≤ 5) || e.etype == 9 then some (u16 e.body 0, u16 e.body 2) else none

/-- Pairs of origin and ring whose last such entry the next `n` bytes overwrite (R387). -/
def leavingRings (n : Nat) (s : State) : List (Nat × Nat) :=
  let log := s.host.jnl.log.reverse
  let kept := (lastEntries (131072 - n) log).filterMap entryRing
  (((lastEntries 131072 log).filterMap entryRing).filter fun r => !kept.contains r).eraseDups

/-- A spill asked for of the store, once half of what may wait waits. When it comes is not stated (DESIGN CHOICE, log entry 142). -/
def askSpill (n : Nat) (s : State) : State :=
  if 32768 < s.host.jnl.unspilled + n && !s.nvs.store.jobs.contains (.journal none) then
    modStore (fun x => { x with jobs := x.jobs ++ [.journal none] }) s else s

/-- `n` bytes that still wait set. -/
def setUnspilled (n : Nat) (s : State) : State := { s with host := { s.host with jnl := { s.host.jnl with unspilled := n } } }

/-- Room made for `n` bytes: at most 64 KiB wait for the spill (R507); what would pass it goes to the spill first. -/
def makeRoom (n : Nat) (s : State) : State :=
  let wait := s.host.jnl.unspilled + n
  if 65536 < wait then setUnspilled (65536 - n) (spill (wait - 65536) (askSpill n s)) else askSpill n s

/-- An entry after a PAD entry where the rest of the ring is too short for it. Where it would leave 8 or 16 bytes, less than the shortest PAD, zero
bytes of its own body fill them (R386, DEDUCED, log entry 179). -/
def padEntry (etype : Nat) (body : List Byte) (s : State) : State :=
  let off := s.host.jnl.head % 131072
  let n := (16 + body.length + 4 + 7) / 8 * 8
  let rest := 131072 - off - n
  if off + n ≤ 131072 && (rest = 8 || rest = 16) then
    putEntry etype (body ++ List.replicate (n - 20 - body.length + rest) 0) (makeRoom (n + rest) s)
  else
  let s1 := if 131072 < off + n then putEntry 0 (List.replicate (131072 - off - 20) 0) (makeRoom (131072 - off) s) else s
  putEntry etype body (makeRoom n s1)

/-- A journal entry, after the HIGHMARK entries of those pairs of origin and ring whose last trace it is about to overwrite (R387). A member that
keeps its partner's journal writes no entry of its own. -/
def journal (etype : Nat) (body : List Byte) (s : State) : State :=
  let n := (16 + body.length + 4 + 7) / 8 * 8
  if mirrors s then s
  else
    let mark (r : Nat × Nat) (s : State) : State :=
      match (asFin 64 r.2).bind fun c => lookupO (s.host.cr.get c).high r.1 with
      | some h => padEntry 9 (leBytes 2 r.1 ++ leBytes 2 r.2 ++ leBytes 4 h.toNat) s
      | none => s
    padEntry etype body (forEach (leavingRings (min 131072 (n + 8192)) s) mark s)

/-- ORIGIN, RING and SEQ of a descriptor (Table 11-16). -/
def refBytes (w : WorkRef) : List Byte := leBytes 2 w.origin ++ leBytes 2 w.ring ++ leBytes 4 w.seq.toNat

/-! ## Completions -/

/-- The 32 bytes of a completion (Table 12-8). -/
def cplBytes (c : Cpl) (phase : Bool) : List Byte :=
  leBytes 4 c.seq.toNat ++ leBytes 2 c.ring ++ [BitVec.ofNat 8 c.stage, BitVec.ofNat 8 c.status] ++ leBytes 6 c.epoch ++
  leBytes 2 c.opcode ++ leBytes 2 c.result ++ leBytes 2 c.gen ++ leBytes 4 c.detail.toNat ++ leBytes 4 c.rlen ++
  leBytes 2 c.srcdev ++ [BitVec.ofNat 8 c.cflags, BitVec.ofNat 8 (b2n phase)]

/-- A completion read from its 32 bytes. -/
def cplOf (b : List Byte) : Cpl :=
  { seq := w32 b 0, ring := u16 b 4 % 64, stage := u8 b 6, status := u8 b 7, epoch := uN b 8 6, opcode := u16 b 14,
    result := u16 b 16, gen := u16 b 18, detail := w32 b 20, rlen := u32 b 24, srcdev := u16 b 28 % 1024, cflags := u8 b 30 }

/-- STATUS as the ring's mode presents it (R406, Table 09-7). -/
def presented (masked : Bool) (c : Cpl) : Cpl :=
  if masked && (c.status = 0x20 || c.status = 0x21) then { c with status := 0x30 } else c

/-- Register addresses of a command ring, a completion queue and an image queue (Table 19-1). -/
def crReg (n : Nat) : Nat := 0x1000 + 32 * n
def cqReg (q : Nat) : Nat := 0x1800 + 16 * q
def iqReg (n : Nat) : Nat := 0x1C00 + 48 * n

/-- The completion queue of a ring. -/
def crCq (s : State) (n : Nat) : Nat := bits (reg s (crReg n + 0x10)) 8 6

/-- The ring presents MASKED (R324). -/
def crMasked (s : State) (n : Nat) : Bool := bitOf (reg s (crReg n + 0x10)) 16

/-- Entries of a ring or queue from its SIZE field. -/
def cqSize (s : State) (q : Nat) : Nat := 2 ^ (s.host.cq.list.getD q {}).log2
def crSize (s : State) (n : Nat) : Nat := 2 ^ bits (reg s (crReg n + 0x10)) 0 5

/-- CQq_CMOD, with 0 acting as 1. -/
def cqMod (s : State) (q : Nat) : Nat := max 1 (bits (reg s (cqReg q + 0x8)) 8 8)

/-- One completion queue changed. -/
def modCq (q : Fin 64) (f : CQ → CQ) (s : State) : State := { s with host := { s.host with cq := s.host.cq.upd q f } }

/-- One command ring changed. -/
def modCr (n : Fin 64) (f : CR → CR) (s : State) : State := { s with host := { s.host with cr := s.host.cr.upd n f } }

/-- A queue is full when the entry after its next one is the one its last head update names (R398, log entry 13). -/
def cqFull (s : State) (q : Fin 64) : Bool :=
  let c := s.host.cq.get q
  (c.wr + 1) % cqSize s q.val == c.head % cqSize s q.val

/-- The vector of a queue signalled; the count of unsignalled completions starts again (R393). -/
def cqSignal (q : Fin 64) (s : State) : State :=
  signal (bits (reg s (cqReg q.val + 0x8)) 0 6) (modCq q (fun c => { c with unsignalled := 0, firstAt := none }) s)

/-- One completion written as an aligned 32-byte write with PHASE at the present pass (R398), and the queue's moderation (R393). -/
def cqWrite (q : Fin 64) (c : Cpl) (irq : Bool) (s : State) : State :=
  let p := s.host.cq.get q
  let s1 := hostWrite (reg64 s (cqReg q.val) + 32 * p.wr) (cplBytes c p.phase) s
  let last := p.wr + 1 = cqSize s q.val
  let s2 := modCq q (fun p => { p with
    wr := if last then 0 else p.wr + 1, phase := if last then !p.phase else p.phase
    unsignalled := p.unsignalled + 1, firstAt := match p.firstAt with | some t => some t | none => some s.now }) s1
  if cqMod s q.val ≤ p.unsignalled + 1 || bits (reg s (cqReg q.val + 8)) 16 16 = 0 || irq && c.stage = 2 then cqSignal q s2 else s2

/-- A completion posted, or held in the journal while its queue is full or disabled (R415). LOCK posts none (R485). -/
def postCpl (c : Cpl) (irq : Bool) (s : State) : State :=
  match asFin 64 (crCq s c.ring) with
  | none => s
  | some q =>
    let p := s.host.cq.get q
    if s.flt.lock then s
    else if p.en && p.held.isEmpty && !cqFull s q then cqWrite q c irq s
    else modCq q (fun p => { p with held := p.held ++ [(c, irq)] }) s

/-! ## The record of work -/

/-- The work a reference names. -/
def workOf (s : State) (r : WorkRef) : Option Work := s.host.work.find? (fun w => w.ref == r)

/-- One work changed. -/
def modWork (r : WorkRef) (f : Work → Work) (s : State) : State :=
  { s with host := { s.host with work := s.host.work.map fun w => if w.ref == r then f w else w } }

/-- A completion sent where its descriptor came from: the ring's queue here, the partner in a JNL CPL item (R374) or the origin device in an RSP
frame (R358), under the number that the descriptor named. A member that does not drive its pair sends none of what named the pair (R373), and a MASKED
ring shows no NOTICE (R406). -/
def emit (r : WorkRef) (o : Answer) (s : State) : State :=
  if r.origin = s.net.num then
    if o.cpl.stage = 3 && o.masked then s else postCpl (presented o.masked o.cpl) o.irq s
  else
    let body := leBytes 2 r.ring ++ [0, 0] ++ cplBytes o.cpl false ++ o.data
    if o.own then physSend 7 r.origin body s
    else if paired s && !drivesLogical s then s
    else if some r.origin = partnerNum s then jnlSend 4 1 0 body s
    else uniSend 7 r.origin body s

/-- First completions of one ring and target leave in fetch order: those of the descriptors at its front that have one (R410). -/
def flushFirsts : Nat → First → State → State
  | 0, _, s => s
  | n + 1, x, s =>
    match s.host.firsts.find? (fun f => f.ref.origin == x.ref.origin && f.ref.ring == x.ref.ring && f.target == x.target) with
    | none => s
    | some f =>
      if f.outs.isEmpty then s
      else flushFirsts n x (forEach f.outs (emit f.ref) { s with host := { s.host with firsts := s.host.firsts.erase f } })

/-- A completion under a reference: at once, or behind the first completions of descriptors fetched before it (R410). -/
def deliverRef (r : WorkRef) (o : Answer) (s : State) : State :=
  match s.host.firsts.find? (fun f => f.ref == r) with
  | none => emit r o s
  | some x =>
    let add (f : First) : First := if f.ref == r then { f with outs := f.outs ++ [o] } else f
    flushFirsts s.host.firsts.length x { s with host := { s.host with firsts := s.host.firsts.map add } }

/-- A work of another device whose descriptor names this one by its physical number (R374). -/
def ownNamed (s : State) (w : Work) : Bool :=
  !(w.opcode == 0x0100 || w.opcode == 0x0102 && w.payload.isEmpty) && u32 w.bytes 16 == s.net.num && s.net.numValid && w.ref.origin != s.net.num

/-- A work that a member keeping its partner's journal executes itself: from its own rings, and of a family that does not travel to the
ACTIVE member (R374). -/
def localWork (s : State) (w : Work) : Bool :=
  let fam := w.opcode / 256
  ownNamed s w || w.ref.origin == s.net.num && !(decide (1 ≤ fam) && decide (fam ≤ 4)) && w.opcode != 0x0700

/-- A completion of a work. A member that keeps its partner's journal posts none for the work it only mirrors (R373). -/
def deliver (w : Work) (c : Cpl) (data : List Byte) (s : State) : State :=
  if mirrors s && !localWork s w then s else 
    deliverRef w.ref { cpl := c, data := data, masked := w.masked, irq := bitOf (u16 w.bytes 2) 2, own := ownNamed s w } s

/-- A completion of a work at a stage, by this device: SRCDEV names the member that executes (R416). -/
def mkCpl (s : State) (w : Work) (stage status epoch result : Nat) (detail : Word) (rlen : Nat) : Cpl :=
  { seq := w.ref.seq, ring := w.ref.ring, stage := stage, status := status, epoch := epoch, opcode := w.opcode,
    result := result, gen := w.gen, detail := detail, rlen := rlen, srcdev := s.net.num, cflags := 0 }

/-- Keeps the record of a ring to the last 1,024 finished class J works (R408). -/
def trimRecord (origin ring : Nat) (s : State) : State :=
  let mine (w : Work) : Bool := w.ref.origin == origin && w.ref.ring == ring && w.final.isSome
  let n := (s.host.work.filter mine).length
  if n ≤ 1024 then s
  else match s.host.work.find? mine with
    | some old => { s with host := { s.host with work := s.host.work.filter (fun w => w.ref != old.ref) } }
    | none => s

/-- The final completion of a work with the number of the device that executed it and CFLAGS: journaled for class J, delivered, and repeated for each
waiting copy (R404, R408). -/
def finishFrom (dev flags : Nat) (r : WorkRef) (status epoch result : Nat) (detail : Word) (rlen : Nat) (data : List Byte) (s : State) : State :=
  match workOf s r with
  | none => s
  | some w =>
    if w.final.isSome then s
    else
      let c := { mkCpl s w 2 status epoch result detail rlen with srcdev := dev, cflags := flags }
      let s1 := if w.classJ then journal 4 (refBytes r ++ cplBytes c false) s else s
      let s2 := deliver w c data s1
      let s3 := (List.range w.copies).foldl (fun s _ => deliver w { c with cflags := flags ||| 2 } data s) s2
      if w.classJ then trimRecord r.origin r.ring (modWork r (fun w => { w with final := some c, copies := 0 }) s3)
      else { s3 with host := { s3.host with work := s3.host.work.filter (fun w => w.ref != r) } }

/-- The final completion of a work that this device executed. -/
def finishWith (r : WorkRef) (status epoch result : Nat) (detail : Word) (rlen : Nat) (data : List Byte) (s : State) : State :=
  finishFrom s.net.num 0 r status epoch result detail rlen data s

/-- DONE in the present epoch with a RESULT. -/
def finishDone (r : WorkRef) (result : Nat) (s : State) : State := finishWith r 0 s.ep.e result 0 0 [] s

/-- REJECTED_CLAIM naming the missing resource. -/
def finishClaim (r : WorkRef) (res : Nat) (s : State) : State := finishWith r 0x12 0 0 (BitVec.ofNat 32 res) 0 [] s

/-- REJECTED_FORMAT with a reason, a byte offset and a list index (R603). -/
def formatDetail (reason byteOff idx : Nat) : Word := BitVec.ofNat 32 (reason + 256 * byteOff + 65536 * idx)
def finishFormat (r : WorkRef) (reason byteOff idx : Nat) (s : State) : State :=
  finishWith r 0x10 0 0 (formatDetail reason byteOff idx) 0 [] s

/-- The DEFERRED completion of a work, once (R318): journaled and posted. -/
def postNotice (r : WorkRef) (epoch : Nat) (s : State) : State :=
  match workOf s r with
  | none => s
  | some w =>
    if w.noticed || !w.accepted || w.final.isSome then s
    else
      let c := mkCpl s w 3 2 epoch 0 0 0
      deliver w c [] (journal 5 (refBytes r ++ cplBytes c false) (modWork r (fun w => { w with noticed := true }) s))

/-- ACCEPT of a work: journaled and posted, with the DEFERRED completion where its set was deferred before (R29, R318). The
power-fail sequence posts no further ACCEPT (R507). -/
def acceptWork (r : WorkRef) (s : State) : State :=
  match workOf s r with
  | none => s
  | some w =>
    if w.accepted || s.pwr.failing then s
    else
      let e := match w.set with | some (_, e) => e | none => 0
      let s1 := journal 2 (refBytes r) (modWork r (fun w => { w with accepted := true, acceptedAt := s.now, accEpoch := e }) s)
      let c := mkCpl s w 1 1 e 0 0 0
      let s2 := deliver w c [] s1
      let s3 := (List.range w.copies).foldl (fun s _ => deliver w { c with cflags := 2 } [] s) s2
      if w.deferred then postNotice r e s3 else s3

/-- Hold-up is verified (R29, R509). -/
def holdOk (s : State) : Bool := s.pwr.holdOk

/-- The partner is ARMED, so that ACCEPT waits for its journal (R372). -/
def partnerArmed (s : State) : Bool :=
  drivesLogical s && s.pair.partnered && match s.pair.partner with | some p => p.armed | none => false

/-- What R29 and R372 ask before ACCEPT: JACKED covers the entry while the partner is ARMED; otherwise verified hold-up, or the store write. -/
def mayAccept (s : State) (w : Work) : Bool :=
  if partnerArmed s then (match s.pair.partner with | some p => (p.jacked + (2 ^ 32 - w.jend)) % 2 ^ 32 < 2 ^ 31 | none => false)
  else holdOk s || w.stored

/-- A work just journaled draws ACCEPT at once where R29 says so; otherwise it waits for the store write (R29) or for JACKED (R372). -/
def acceptOrWait (r : WorkRef) (s : State) : State :=
  if partnerArmed s then s
  else if holdOk s then acceptWork r s
  else { s with nvs := { s.nvs with store := { s.nvs.store with jobs := s.nvs.store.jobs ++ [.journal (some r)] } } }

/-- Some of the named works lack their final completion (R413, R414): as work here, as a forwarded REQ, or still in the fetch buffer. -/
def waitsOpen (s : State) (l : List WorkRef) : Bool :=
  l.any fun r => s.host.work.any (fun w => w.ref == r && w.final.isNone) || s.host.buf.any (fun f => f.ref == r) ||
    (r.origin == s.net.num && s.host.reqs.any fun q => q.ring == r.ring && q.seq == r.seq)

/-- Every work of some rings of one origin that lacks its final completion at this instant. -/
def openWorks (s : State) (origin : Nat) (rings : Nat → Bool) : List WorkRef :=
  let mine (r : WorkRef) : Bool := r.origin == origin && rings r.ring
  ((s.host.work.filter fun w => mine w.ref && w.final.isNone).map (·.ref)) ++ ((s.host.buf.filter fun f => mine f.ref).map (·.ref)) ++
    (if origin = s.net.num then (s.host.reqs.filter fun q => rings q.ring).map fun q => { origin := origin, ring := q.ring, seq := q.seq } else [])

/-! ## Commit sets -/

/-- GUARD in half-nanoseconds (R313): P / 2 where the register exceeds it. -/
def guardHalf (s : State) : Nat := min (us (reg s 0x0824)) (us s.ep.p / 2)

/-- E_min of the present instant (R313): the lowest E with t ≤ T_(E−1) − GUARD. -/
def eMin (s : State) : Nat :=
  let t : Int := (sysHalf s : Int) + guardHalf s - 2 * s.ep.t0
  let p : Int := us s.ep.p
  if p = 0 then 0 else ((t + p - 1) / p).toNat + 1

/-- The epoch whose set a descriptor joins, and whether that counts as a deferral (R313); none beyond the limit. -/
def chooseEpoch (s : State) (e : Nat) : Option (Nat × Bool) :=
  let m := eMin s
  if e = 0 then some (m, false)
  else if e < m then some (m, true)
  else if e ≤ m + 1048576 then some (e, false)
  else none

/-- Items joined to the commit set of a group for an epoch, after those already in it (R411, R412). -/
def joinSet (group epoch : Nat) (items : List SetItem) (s : State) : State :=
  let sets := s.ep.sets
  if sets.any (fun c => c.group == group && c.epoch == epoch) then
    { s with ep := { s.ep with sets := sets.map fun c =>
        if c.group = group && c.epoch = epoch then { c with items := c.items ++ items } else c } }
  else { s with ep := { s.ep with sets := sets ++ [{ group := group, epoch := epoch, items := items }] } }

/-- The commit group of an output channel: its numbered group, or the own group 0xFFFF (R308). -/
def chanGroup (s : State) (k : Nat) : Nat :=
  match (castAll s (·.grp)).find? (fun r => grpNum r != 0xFFFF && (grpChans r).contains k) with
  | some r => grpNum r
  | none => 0xFFFF

/-- The GRP record of a group. -/
def grpRec (s : State) (g : Nat) : Rec := ((castAll s (·.grp)).find? (fun r => grpNum r == g)).getD []

/-- The tag record with a local index. -/
def tagRec (s : State) (idx : Nat) : Option Rec := (castAll s (·.tag)).find? (fun r => tagIndex r == idx)

/-- The commit group of a writable tag (R308). -/
def tagGroupOf (s : State) (r : Rec) : Nat :=
  if tagKind r = 1 then chanGroup s (tagNum r) else tagGroup r

/-- One group's membership changed. -/
def modGroup (g : Nat) (f : Group → Group) (s : State) : State :=
  { s with ep := { s.ep with groups := s.ep.groups.map fun x => if x.num == g then f x else x } }

/-- The membership of a group. -/
def groupOf (s : State) (g : Nat) : Option Group := s.ep.groups.find? (fun x => x.num == g)

end Sys2Proof.Machine
end

