-- ==== Sys2Proof/Machine/HartOps.lean ====
section
/-! DEFINITION. The HART scheduler's shared operations: frames, turns, attempts, outcomes and interruptions (R129 to R154).
Frame layout and the byte places of commands 0, 3, 9 and 48 are the HART protocol's, which R122 names and does not print
(PRESUMED, log entry 14). -/

namespace Sys2Proof.Machine

open Sys2Proof

/-- One HART character time, 11 bits at 1,200 bit/s, in half-nanoseconds. -/
def hartTau : Nat := 18333333

/-! ## Plans (Tables 14-15, 14-16) -/

/-- The plan and items of a channel in the cast. -/
def castPlan (s : State) (k : Nat) : Rec × List Rec :=
  let p := ((castAll s (·.plan)).find? (fun r => planK r == k)).getD []
  (p, if p.isEmpty then [] else ((castAll s (·.item)).drop (planFirst p)).take (planCount p))

/-- The plan and items that a channel's scheduler follows: the cast's, or until the present turn ends those of the cast before it (Table 04-9). -/
def livePlan (s : State) (k : Nat) : Rec × List Rec :=
  match (asFin 96 k).bind (fun k => (s.chan.get k).hart.old) with
  | some p => p
  | none => castPlan s k

/-- The plan of a channel. -/
def planOf (s : State) (k : Nat) : Rec := (livePlan s k).1

/-- The items of a plan. -/
def planItems (s : State) (k : Nat) : List Rec := (livePlan s k).2

/-- Items of one ITYPE. -/
def itemsOf (s : State) (k : Nat) (ty : Nat) : List Rec := (planItems s k).filter (fun r => u8 r 0 == ty)

/-- The turns of a channel's cycle list (R136). -/
def turnsOf (s : State) (k : Nat) : List Rec := itemsOf s k 1

/-- The DROP item of a polling address. -/
def dropItem (s : State) (k addr : Nat) : Rec := ((itemsOf s k 0).find? (fun r => u8 r 1 == addr)).getD []

/-- The number under which a command is compared: its own, or with command 31 its expanded number from 65,536 on (Table 14-16). -/
def cmdNo (cmd expanded : Nat) : Nat := if cmd = 31 then 65536 + expanded else cmd

/-- The command byte of a command number. -/
def cmdByte (n : Nat) : Nat := if n < 65536 then n else 31

/-- The request data of a command number: an expanded number leads them (log entry 14). -/
def cmdData (n : Nat) (data : List Byte) : List Byte := if n < 65536 then data else beBytes 2 (n - 65536) ++ data

/-- The commands that are read-class in every plan (R148). -/
def readCmds : List Nat := [0, 1, 2, 3, 7, 8, 9, 11, 12, 13, 14, 15, 16, 20, 21, 48]

/-- R148: read-class commands, and those the plan lists. -/
def readClass (s : State) (k cmd : Nat) : Bool :=
  readCmds.contains cmd ||
    (itemsOf s k 4).any (fun r => cmdNo (u8 r 1) (u16 r 4) == cmd)

/-! ## Frames -/

/-- Longitudinal parity of a frame from its delimiter on. -/
def hartXor (b : List Byte) : Byte := b.foldl (· ^^^ ·) 0

/-- A request frame, preamble included: short to a polling address, long to a learned address. -/
def hartFrame (pre addr : Nat) (long : List Byte) (cmd : Nat) (data : List Byte) : List Byte :=
  let body :=
    if long.isEmpty then [0x02, BitVec.ofNat 8 (0x80 + addr % 64)]
    else 0x82 :: (match long with | b :: rest => (b ||| 0x80) :: rest | [] => [])
  let m := body ++ [BitVec.ofNat 8 cmd, BitVec.ofNat 8 data.length] ++ data
  List.replicate pre 0xFF ++ m ++ [hartXor m]

/-- A received message taken apart: burst, long address, address bytes, command, data from the response code on. -/
structure HartMsg where
  burst : Bool
  long : Bool
  addr : List Byte
  cmd : Nat
  data : List Byte
deriving DecidableEq, Repr

/-- A device-to-master message from its delimiter on; none when its check byte or length fails (R138). -/
def hartParse (b : List Byte) : Option HartMsg :=
  let d := u8 b 0
  let long := bitOf d 7
  let n := if long then 5 else 1
  let x := bits d 5 2
  let cnt := u8 b (1 + n + x + 1)
  if (bits d 0 3 = 6 || bits d 0 3 = 1) && b.length = 1 + n + x + 2 + cnt + 1 && hartXor b = 0 && 2 ≤ cnt then
    some { burst := bits d 0 3 = 1, long := long, addr := slice b 1 n,
           cmd := cmdNo (u8 b (1 + n + x)) (ofBe (slice b (1 + n + x + 4) 2)), data := slice b (1 + n + x + 2) cnt }
  else none

/-- Long address of an identity reply: manufacturer and device type, then the device ID. -/
def hartLong (data : List Byte) : List Byte :=
  [data.getD 3 0 &&& 0x3F, data.getD 4 0] ++ slice data 11 3

/-- Two long addresses name one device: the master and burst bits do not count. -/
def sameLong : List Byte → List Byte → Bool
  | a :: as, l :: ls => (a &&& 0x3F) == (l &&& 0x3F) && as == ls
  | _, _ => false

/-- The long addresses that a DROP item's exact identity (Table 14-16) can give: up to revision 6 of manufacturer and device type, from revision
7 of the two-byte device type (PRESUMED, log entry 14). The image holds the device ID least significant byte first (R8), the line the other way
round. -/
def planLong (d : Rec) : List (List Byte) :=
  if u8 d 2 != 1 then []
  else
    let id := (slice d 16 3).reverse
    [[d.getD 12 0 &&& 0x3F, d.getD 14 0] ++ id, [d.getD 15 0 &&& 0x3F, d.getD 14 0] ++ id]

/-- The drop whose message this is (R138, R142): by its polling address, by its learned long address, or by the identity that the plan gives it
(DEDUCED, log entry 136). -/
def hartDropOf (items : List Rec) (h : Hart) (m : HartMsg) : Option Drop :=
  if !m.long then h.drops.find? fun d => bits (u8 m.addr 0) 0 6 == d.addr
  else match h.drops.find? (fun d => sameLong m.addr d.longAddr) with
    | some d => some d
    | none => h.drops.find? fun d => items.any fun i => u8 i 0 == 0 && u8 i 1 == d.addr && (planLong i).any (sameLong m.addr)

/-- A big-endian float of a HART message as a binary32 word (R143). -/
def hartFloat (b : List Byte) (i : Nat) : Word := BitVec.ofNat 32 (ofBe (slice b i 4))

/-! ## Scheduler -/

/-- One drop of a channel changed. -/
def modDrop (addr : Nat) (f : Drop → Drop) (h : Hart) : Hart :=
  { h with drops := h.drops.map fun d => if d.addr == addr then f d else d }

/-- The turn index of a HART item: the present turn, or between turns the one before the next (Table 11-8). -/
def turnByte (h : Hart) : Byte := BitVec.ofNat 8 (match h.turn with | some i => i | none => h.nextTurn + 255)

/-- A drop's identity and the channel's place in the cycle list mirrored to the partner, on each change (Table 11-8, R154). -/
def hartItem (k : Fin 96) (addr : Nat) (s : State) : State :=
  let h := (s.chan.get k).hart
  match h.drops.find? (fun d => d.addr == addr) with
  | none => s
  | some d =>
    if drivesLogical s then
      jnlSend 1 1 0 ([5, 0] ++ leBytes 2 k.val ++ [turnByte h, BitVec.ofNat 8 addr, BitVec.ofNat 8 d.state, BitVec.ofNat 8 d.revision] ++
        (d.longAddr ++ List.replicate (5 - d.longAddr.length) 0) ++ List.replicate 11 0) s
    else s

/-- The channel serves HART: its tile LIVE behind a good link, its member driving. Otherwise its drops show NOLINK (Table 04-6). -/
def hartLinked (s : State) (k : Fin 96) : Bool :=
  let t := s.tile.get (tileOf k)
  t.state == .live && linkUp s (tileOf k) && !t.standby

/-- The drop state that Table 04-6 gives. -/
def dropState (s : State) (k : Fin 96) (d : Drop) : Nat := if hartLinked s k then d.state else 4

/-- The status word of a drop (R144). -/
def dropWord (s : State) (k : Fin 96) (d : Drop) : Word :=
  BitVec.ofNat 32 (d.fieldStatus.toNat + 256 * d.respCode.toNat + 65536 * dropState s k d)

/-- The channel whose plan in the cast holds an item. -/
def chanOfItem (s : State) (i : Nat) : Option (Fin 96) :=
  ((castAll s (·.plan)).find? (fun p => decide (planFirst p ≤ i) && decide (i < planFirst p + planCount p))).bind (fun p => asFin 96 (planK p))

/-- The status word that a MAP item of source 6 shows (R143, R144); none for any other item. -/
def statusItem (s : State) (i : Nat) : Option Word :=
  let r := (castAll s (·.item)).getD i []
  if u8 r 0 != 2 || u8 r 2 != 6 then none
  else (chanOfItem s i).bind fun k => ((s.chan.get k).hart.drops.find? (fun d => d.addr == u8 r 1)).map (dropWord s k)

/-- A drop's state changed and recorded (Table 18-3, HART STATE or IDFAULT); the new state is mirrored to the partner (Table 11-8). -/
def setDropState (k : Fin 96) (addr st : Nat) (s : State) : State :=
  let h := (s.chan.get k).hart
  match h.drops.find? (fun d => d.addr == addr) with
  | none => s
  | some d =>
    if d.state = st then s
    else
      let s1 := modHart k (modDrop addr fun d => { d with state := st }) s
      hartItem k addr (recordArgs 0x0B01 (srcOf 1 k.val) [(if st = 3 then 2 else 1) + 256 * addr + 65536 * st] s1)

/-- CSW.HART of a channel (R146): a drop in FAULT or IDFAULT, or a stale mapped tag. -/
def hartFlag (k : Fin 96) (s : State) : State :=
  let p := (castPlan s k.val).1
  let stale := s.misc.hartTags.any fun t =>
    !p.isEmpty && decide (planFirst p ≤ t.item) && decide (t.item < planFirst p + planCount p) && t.stale
  modHart k (fun h => { h with hartFault := stale || h.drops.any (fun d => d.state == 2 || d.state == 3) }) s

/-- The drops of a channel's plan, all NEW (R134). -/
def freshDrops (s : State) (k : Nat) : List Drop := (itemsOf s k 0).map fun r => { addr := u8 r 1 }

/-- The plan declares a burst drop (R142). -/
def burstPlan (s : State) (k : Nat) : Bool := (itemsOf s k 0).any fun d => bitOf (u16 d 4) 0

/-- From now on the loop must be silent before the next request: 41 τ where the plan declares a burst drop (R142), otherwise `n` τ. -/
def hartWait (k : Fin 96) (n : Nat) (s : State) : State :=
  modHart k (fun h => { h with
    quietUntil := max h.quietUntil (s.now + (if burstPlan s k.val then 41 else n) * hartTau), burstBy := none }) s

/-- The cast's plan from its start: every drop to be identified, and a burst loop heard first (R134, R142, Table 04-9). -/
def freshPlan (k : Fin 96) (s : State) : State :=
  let s1 := modHart k (fun h => { h with old := none, nextTurn := 0 }) s
  hartFlag k (hartWait k 0 (modHart k (fun h => { h with drops := freshDrops s1 k.val }) s1))

/-- The drop is identified in its next turn (R134, R135). -/
def needsIdent (d : Drop) : Bool := d.longAddr.isEmpty || d.reident || d.state == 3

/-- A turn of an address identifies its drop. -/
def identifies (h : Hart) (addr : Nat) : Bool := match h.drops.find? (fun d => d.addr == addr) with | some d => needsIdent d | none => true

/-- The modem of a channel may transmit (R126, R154), and Studio runs (R17). -/
def hartMay (s : State) (k : Fin 96) : Bool :=
  let m := chHartm (castRec s k.val)
  hartLinked s k && (m = 1 || m = 2) && s.flt.studioUp && !(s.chan.get k).hart.couchHold &&
    (s.pair.state == .solo || drivesLogical s || !paired s)

/-- Length in half-nanoseconds of a worst-case attempt of a request with `n` data bytes and a reply of `m` (R137). -/
def attemptTime (s : State) (k : Nat) (long : Bool) (n m : Nat) : Nat :=
  let p := planOf s k
  let hd := planPre p + 1 + (if long then 5 else 1) + 1 + 1 + 1
  hartTau * ((hd + n) + planTreply p + (hd + m) + 2)

/-- A frame in HART payloads of at most 13 bytes: the first with START, the last with END (Table 04-4). -/
def hartPayloads : Nat → Bool → List Byte → List (List Byte)
  | 0, _, _ => []
  | n + 1, first, b =>
    let d := b.take 13
    let last := decide (b.length ≤ 13)
    let p := [BitVec.ofNat 8 (b2n first + 2 * b2n last), BitVec.ofNat 8 d.length] ++ d ++ List.replicate (14 - d.length) 0
    p :: (if last then [] else hartPayloads n false (b.drop 13))

/-- A request handed to the modem in HART payloads (R129), and the instant by which its reply must begin (R138). -/
def sendRequest (k : Fin 96) (addr : Nat) (long : List Byte) (cmd : Nat) (data : List Byte) (s : State) : State :=
  let p := planOf s k.val
  let f := hartFrame (planPre p) addr long (cmdByte cmd) (cmdData cmd data)
  modHart k (fun h => { h with frame := f, out := hartPayloads 23 true f, request := some (addr, cmd), tries := h.tries + 1, burstBy := none,
                               replyBy := some (s.now + hartTau * (f.length + planTreply p)) }) s

/-- The host transaction's request: polling address, command and data of a HARTTX descriptor (Table 12-7). -/
def harttxReq (w : Work) : Nat × Nat × List Byte :=
  let n := u8 w.bytes 38
  (u8 w.bytes 34, cmdNo (u8 w.bytes 35) (u16 w.bytes 36), if bitOf (u16 w.bytes 2) 0 then w.payload.take n else slice w.bytes 48 n)

/-- The VERIFY item of a write command (Table 14-16). -/
def verifyItem (s : State) (k : Nat) (cmd : Nat) : Option Rec := (itemsOf s k 3).find? (fun r => cmdNo (u8 r 1) (u16 r 4) == cmd)

/-- The STARTED mark of a write-class request goes into the journal, and to the store where ACCEPT would (R150, R29, R372). -/
def startMark (w : WorkRef) (s : State) : State :=
  let s1 := journal 3 (refBytes w) s
  let s2 := modWork w (fun x => { x with marked := true, stored := false, jend := s1.host.jnl.head }) s1
  if partnerArmed s || holdOk s then s2
  else { s2 with nvs := { s2.nvs with store := { s2.nvs.store with jobs := s2.nvs.store.jobs ++ [.journal (some w)] } } }

/-- An attempt of the present turn, where R137, R139 and R142 let it begin: identification first (R134), then the turn's entry, or the host
transaction in the ad hoc window. A write-class request asks for its STARTED mark and waits for it (R150); it has begun when it is sent (R147). For
requests that are no plan entry the longest reply is the model's (DESIGN CHOICE, log entry 131): 26 bytes for identification, 27 for command 48, up
to the bytes compared for a verify read, and for the host's own request the 2 bytes that every reply has, for the window's end ends it anyway. -/
def attempt (k : Fin 96) (s : State) : State :=
  let h := (s.chan.get k).hart
  let p := planOf s k.val
  let inWindow := match h.burstBy with | some b => decide (s.now ≤ b) | none => false
  if !hartMay s k || h.carrier || s.now < h.quietUntil && !inWindow then s
  else
    let fits (long : Bool) (n m : Nat) : Bool := s.now + attemptTime s k.val long n m ≤ h.turnEnd
    match h.turn with
    | none => s
    | some 255 =>
      match h.host.bind (workOf s) with
      | none => s
      | some w =>
        let (addr, cmd, data) := harttxReq w
        match h.drops.find? (fun d => d.addr == addr) with
        | none => s
        | some d =>
          if needsIdent d then (if fits false 0 26 then sendRequest k addr [] 0 [] s else s)
          else if w.verifying then
            match verifyItem s k.val cmd with
            | some v => if fits true 0 (2 + u8 v 8 + u8 v 3) then sendRequest k addr d.longAddr (cmdNo (u8 v 2) (u16 v 6)) [] s else s
            | none => s
          else if !fits true (cmdData cmd data).length 2 then s
          else if !readClass s k.val cmd && !w.started then (if w.marked then s else startMark w.ref s)
          else sendRequest k addr d.longAddr cmd data (modWork w.ref (fun w => { w with begun := true }) s)
    | some i =>
      match (turnsOf s k.val)[i]? with
      | none => s
      | some t =>
        let addr := u8 t 1
        match h.drops.find? (fun d => d.addr == addr) with
        | none => s
        | some d =>
          if planRetries p < h.tries then s
          else if needsIdent d then (if fits false 0 26 then sendRequest k addr [] 0 [] s else s)
          else if d.now48 then (if fits true 0 27 then sendRequest k addr d.longAddr 48 [] s else s)
          else
            let cmd := cmdNo (u8 t 2) (u16 t 4)
            let data := slice t 12 (u8 t 3)
            if fits true (cmdData cmd data).length (u16 t 6) then sendRequest k addr d.longAddr cmd data s else s

/-- The epoch in which the last byte of the channel's last message arrived (R151). -/
def heardEpoch (k : Fin 96) (s : State) : Nat :=
  match (s.chan.get k).hart.heardAt with
  | some a => epochAt s a
  | none => s.ep.e

/-- The end of a host transaction with an outcome of Table 04-7, as Table 04-8 presents it. A MASKED write that ends UNKNOWN runs the
plan's verify read in the next ad hoc window. -/
def endTransaction (k : Fin 96) (r : WorkRef) (outcome : Nat) (data : List Byte) (s : State) : State :=
  let s0 := modHart k (fun h => { h with
    host := if h.host = some r then none else h.host, queue := h.queue.filter (· != r) }) s
  match workOf s r with
  | none => s0
  | some w =>
    let (_, cmd, _) := harttxReq w
    if outcome = 0 then finishWith r 0 (heardEpoch k s) 0 0 data.length data (hostIf w data s0)
    else if w.verifying then finishWith r 0x30 s.ep.e 4 0 0 [] s0
    else if outcome = 4 then
      if w.masked then
        match verifyItem s k.val cmd with
        | some _ => modHart k (fun h => { h with queue := r :: h.queue }) (modWork r (fun w => { w with verifying := true }) s0)
        | none => finishWith r 0x20 s.ep.e 4 0 0 [] s0
      else finishWith r 0x20 s.ep.e 4 0 0 [] s0
    else finishWith r 0x21 s.ep.e outcome 0 0 [] s0
where
  /-- The reply bytes written to RADDR of a local descriptor (R151, R403). -/
  hostIf (w : Work) (data : List Byte) (s : State) : State :=
    if w.ref.origin = s.net.num && !data.isEmpty then hostWrite (u64 w.bytes 40) data s else s

/-- A turn begins: its index (255 is the ad hoc window), its end, and the turn that follows it. The partner hears of it by an item of the turn's
drop (R154). -/
def startTurn (k : Fin 96) (i : Nat) (stop : Time) (next : Nat) (host : Option WorkRef) (s : State) : State :=
  let addr := match host.bind (workOf s) with | some w => (harttxReq w).1 | none => u8 ((turnsOf s k.val).getD i []) 1
  let s1 := modHart k (fun h => { modDrop addr (fun d => { d with now48 := d.more48 && host.isNone }) h with
    turn := some i, turnEnd := stop, nextTurn := next, tries := 0, request := none, replyBy := none, host := host, lastFail := 0 }) s
  attempt k (hartItem k addr s1)

/-- No turn runs. -/
def idleTurn (k : Fin 96) (s : State) : State := modHart k (fun h => { h with turn := none, request := none, replyBy := none }) s

/-- The first turn of the cycle list. -/
def firstTurn (k : Fin 96) (s : State) : State :=
  match turnsOf s k.val with
  | t :: _ => startTurn k 0 (s.now + ms (u32 t 8)) 1 none s
  | [] => idleTurn k (modHart k (fun h => { h with nextTurn := 0 }) s)

/-- The drop that a host transaction names may be addressed: declared, and neither in IDFAULT nor in NOLINK (Table 04-7). -/
def hostDropOk (s : State) (k : Fin 96) (w : WorkRef) : Bool :=
  match workOf s w with
  | some x => (s.chan.get k).hart.drops.any fun d => d.addr == (harttxReq x).1 && dropState s k d != 3 && dropState s k d != 4
  | none => false

/-- A transaction in the channel's queue: ring order, then SEQ order (R147). Among rings of equal number the device's own stands first, then by
device number (DESIGN CHOICE, log entry 133). -/
def queueWork (own : Nat) (w : WorkRef) (l : List WorkRef) : List WorkRef :=
  let key (r : WorkRef) : Nat := r.ring * 65536 + (if r.origin = own then 0 else r.origin + 1)
  let before (a b : WorkRef) : Bool := decide (key a < key b) || key a == key b && (b.seq - a.seq).toNat < 2 ^ 31
  l.filter (fun x => before x w) ++ [w] ++ l.filter (fun x => !before x w)

/-- The next turn of the cycle list, or after the last one the ad hoc window where a host transaction is queued (R136). A transaction whose
drop is in IDFAULT or NOLINK ends NOTSENT. A turn that completed under an old plan is followed by the new plan's start (Table 04-9). -/
def nextTurn (k : Fin 96) (s' : State) : State :=
  let s := if (s'.chan.get k).hart.old.isSome then freshPlan k s' else s'
  let h := (s.chan.get k).hart
  let p := planOf s k.val
  if p.isEmpty || h.couchHold || s.pair.state = .couch || paired s && !drivesLogical s then idleTurn k s
  else match (turnsOf s k.val)[h.nextTurn]? with
    | some t => startTurn k h.nextTurn (s.now + ms (u32 t 8)) (h.nextTurn + 1) none s
    | none =>
      match h.queue with
      | w :: rest =>
        if planAdhoc p = 0 then firstTurn k s
        else if hostDropOk s k w then startTurn k 255 (s.now + ms (planAdhoc p)) 0 (some w) (modHart k (fun h => { h with queue := rest }) s)
        else firstTurn k (endTransaction k w 5 [] s)
      | [] => firstTurn k s

/-- The cycle list of a channel of a LIVE tile goes on where no turn runs. -/
def hartResume (k : Fin 96) (s : State) : State :=
  if (s.tile.get (tileOf k)).state = .live && (s.chan.get k).hart.turn.isNone then nextTurn k s else s

/-- The end of the present turn. `good` is a good reply to its entry; a turn without one sends the drop to FAULT (R136, Table 04-6), and a drop that
leaves FAULT is identified again in its next turn (R134). A drop in IDFAULT whose turn draws no reply stays there (DESIGN CHOICE, log entry 130). -/
def endTurn (k : Fin 96) (good : Bool) (s : State) : State :=
  let h := (s.chan.get k).hart
  let s1 :=
    match h.turn with
    | some 255 => s
    | some i =>
      match (turnsOf s k.val)[i]? with
      | some t =>
        let st := ((h.drops.find? (fun d => d.addr == u8 t 1)).map (·.state)).getD 0
        if st = 3 then s
        else if good then modHart k (modDrop (u8 t 1) fun d => { d with reident := d.reident || st == 2 }) (setDropState k (u8 t 1) 1 s)
        else setDropState k (u8 t 1) 2 s
      | none => s
    | none => s
  nextTurn k (hartFlag k s1)

/-- A HART interruption of one channel (Table 04-9, R153): a write in flight, whose STARTED mark exists, ends UNKNOWN, be it in its window or queued
for the next, a read cut off runs again, and every drop goes through identification. -/
def hartInterrupt (k : Fin 96) (s : State) : State :=
  let h := (s.chan.get k).hart
  let s0 :=
    match h.host with
    | none => s
    | some r => modHart k (fun h => { h with queue := r :: h.queue.filter (· != r), host := none }) (modWork r (fun w => { w with begun := false }) s)
  let s1 := forEach ((s0.chan.get k).hart.queue.filterMap (workOf s0)) (fun w s => if w.marked && !w.verifying then endTransaction k w.ref 4 [] s else s) s0
  let s2 := modHart k (fun h => { h with
    drops := h.drops.map (fun d => { d with longAddr := [], reident := false, state := if d.state = 3 then 3 else 0 }),
    turn := none, request := none, replyBy := none, tries := 0, out := [], hubRx := [], hubErr := false, hubOn := false }) s1
  if (s2.chan.get k).hart.old.isSome then freshPlan k s2 else hartFlag k s2

/-- The modem of a channel stops its carrier and discards its buffers (R130). -/
def modemStop (k : Fin 96) (s : State) : State :=
  modHart k (fun h => { h with buf := [], tx := false, txAbort := h.tx || h.txAbort, rx := [], rxErr := false, rxOn := false, pre := 0 }) s

end Sys2Proof.Machine
end

