-- ==== Sys2Proof/Machine/Operands.lean ====
section
/-! DEFINITION. What a value means at an output: command words, DAC codes, clamps, alarm levels and trim lines (R109 to R112,
R118, R119, R172, R245). -/

namespace Sys2Proof.Machine

open Sys2Proof

/-- A rational limited to a range. -/
def clampRat (lo hi q : Rat) : Rat := if q < lo then lo else if hi < q then hi else q

/-- A code limited to 0 to 65,535. -/
def clampCode (i : Int) : Nat := if i < 0 then 0 else if 65535 < i then 65535 else i.toNat

/-- DAC code of a target in the channel's unit (R109, Table 03-10): AOI 24 mA full scale, AOV U10 10.5 V, B10 offset binary. -/
def dacCode (r : Rec) (q : Rat) : Nat :=
  if chFunc r = .aoi then clampCode (roundInt (q / 24 * 65536))
  else if chRange r = 0 then clampCode (roundInt (q * 2 / 21 * 65536))
  else clampCode (roundInt (q * 2 / 21 * 32768) + 32768)

/-- The range to which finite commands are clamped (Table 03-10). -/
def cmdRange (r : Rec) : Rat × Rat :=
  if chFunc r = .aoi then (if chRange r = 0 then (38 / 10, 205 / 10) else (0, 24))
  else (if chRange r = 0 then (0, 105 / 10) else (-105 / 10, 105 / 10))

/-- Nominal span ends of a RANGE (Tables 03-5, 03-6, 03-10): zero and span in the channel's unit. RTD, TC, AOV and AOI I4_20 have no nominal column:
the range ends, or the ends of the output's scale, stand for them (DESIGN CHOICE, log entry 125). -/
def nominal (r : Rec) : Rat × Rat :=
  match chFunc r, chRange r with
  | .aiv, 0 => (-10, 10)
  | .aiv, 1 => (0, 10)
  | .aiv, _ => (-2, 2)
  | .aii, _ => (0, 25)
  | .rtd, 0 => (-200, 850)
  | .rtd, 1 => (-200, 850)
  | .rtd, 2 => (0, 400)
  | .rtd, _ => (0, 4000)
  | .tc, 0 => (250, 1820)
  | .tc, 1 => (-200, 1000)
  | .tc, 2 => (-210, 1200)
  | .tc, 3 => (-200, 1372)
  | .tc, 4 => (-200, 1300)
  | .tc, 5 => (-50, 1768)
  | .tc, 6 => (-50, 1768)
  | .tc, 7 => (-200, 400)
  | .tc, _ => (-80, 80)
  | .aoi, _ => (0, 24)
  | .aov, 0 => (0, 10)
  | .aov, _ => (-10, 10)
  | _, _ => (0, 1)

/-- The stored trim of a channel's present FUNC and RANGE (R120). -/
def trimOf (s : State) (k : Nat) (r : Rec) : Option Trim :=
  s.nvs.trims.find? fun t => t.k == k && t.func == u8 r 2 && t.range == chRange r

/-- The straight line through `(x0, y0)` and `(x1, y1)` at `x`. -/
def lineAt (x0 y0 x1 y1 x : Rat) : Rat := if x1 = x0 then y0 else y0 + (x - x0) * (y1 - y0) / (x1 - x0)

/-- The target that a command drives on the trim line (R119). -/
def trimTarget (s : State) (k : Nat) (r : Rec) (q : Rat) : Rat :=
  match trimOf s k r with
  | none => q
  | some t => lineAt (f32Rat t.zref) (f32Rat t.zx) (f32Rat t.sref) (f32Rat t.sx) q

/-- The reading on the trim line of a calibrated conversion (R118). -/
def trimReading (s : State) (k : Nat) (r : Rec) (x : Word) : Word :=
  match trimOf s k r, f32 x with
  | some t, .fin q => f32OfRat (lineAt (f32Rat t.zx) (f32Rat t.zref) (f32Rat t.sx) (f32Rat t.sref) q)
  | _, _ => x

/-- ALMDIR resolved (Table 03-11): some true HIGH, some false LOW, none NONE. -/
def almHigh (s : State) (r : Rec) : Option Bool :=
  match chAlmdir r with
  | 0 => some (decide (s.pwr.straps.almDef = 1))
  | 1 => some false
  | 2 => some true
  | _ => none

/-- What a lane value commands at an output channel (R109, R111, R112, R172). -/
def driveOf (s : State) (k : Nat) (r : Rec) (v : Word) : Drive :=
  match chFunc r with
  | .dout =>
    let d := bits v.toNat 3 14
    .word (bitOf v.toNat 0) (if d = 16383 then chPwmd r else d)
  | .aoi =>
    match f32 v with
    | .nan =>
      match almHigh s r with
      | some h => .dac (dacCode r (trimTarget s k r (((if h then chAlmhi r else chAlmlo r : Nat) : Rat) / 100)))
      | none => .keep
    | .inf neg => .dac (dacCode r (trimTarget s k r (if neg then (cmdRange r).1 else (cmdRange r).2)))
    | .fin q => .dac (dacCode r (trimTarget s k r (clampRat (cmdRange r).1 (cmdRange r).2 q)))
  | .aov =>
    match f32 v with
    | .nan => .keep
    | .inf neg => .dac (dacCode r (trimTarget s k r (if neg then (cmdRange r).1 else (cmdRange r).2)))
    | .fin q => .dac (dacCode r (trimTarget s k r (clampRat (cmdRange r).1 (cmdRange r).2 q)))
  | _ => .keep

/-- DAC code of ALMLO on the channel's trim line (R95, R119). -/
def almloCode (s : State) (k : Nat) (r : Rec) : Nat := dacCode r (trimTarget s k r ((chAlmlo r : Rat) / 100))

/-- The VALUE of the SET that carries a drive to the tile (R64, R172); none for a drive that needs none. -/
def setValue : Drive → Option Nat
  | .word on d => some (b2n on + 2 * d)
  | .dac c => some c
  | .force on => some (b2n on)
  | .keep => none

/-- A SET or DUTY is legal at a channel (R172, Table 02-11: otherwise REJ_OP). -/
def setLegal (r : Rec) (duty : Bool) (value : BitVec 16) : Bool :=
  let v := value.toNat
  match chFunc r with
  | .dout =>
    if duty then chPgmode r != 0 && decide (v ≤ 10000)
    else v < 0x8000 && decide (bits v 1 14 ≤ 10000) && (chPgmode r != 0 || bits v 1 14 == 0)
  | .aoi | .aov => !duty
  | _ => false

/-- The drive that a SET gives a channel's level (R64). -/
def setDrive (r : Rec) (value : BitVec 16) : Drive :=
  if chFunc r = .dout then .word (bitOf value.toNat 0) (bits value.toNat 1 14) else .dac value.toNat

/-- The drive that a DUTY leaves: the level's present ON with the new duty. -/
def dutyDrive (d : Option Drive) (value : BitVec 16) : Drive :=
  match d with
  | some (.word on _) => .word on value.toNat
  | some (.force on) => .word on value.toNat
  | _ => .word false value.toNat

/-- A host or override value is legal at its channel (R172: a reserved DUTY or bit is REJECTED_FORMAT). -/
def valueLegal (r : Rec) (v : Word) : Bool :=
  if chFunc r = .dout then
    let d := bits v.toNat 3 14
    (d ≤ 10000 || d = 16383) && bits v.toNat 1 2 = 0 && bits v.toNat 17 15 = 0
  else true

/-- A command word with a DUTY field at a channel without a generator: its tile answers the SET with REJ_OP, and nothing changes (R172). -/
def wordRefused (r : Rec) (v : Word) : Bool := chFunc r = .dout && chPgmode r = 0 && bits v.toNat 3 14 != 0

/-- The VALUE of the SET of a command word; one that the tile refuses goes out with the duty code as it stands, and draws REJ_OP (R172). -/
def wordSet (s : State) (k : Nat) (r : Rec) (v : Word) : Option Nat :=
  if wordRefused r v then some (b2n (bitOf v.toNat 0) + 2 * bits v.toNat 3 14) else setValue (driveOf s k r v)

end Sys2Proof.Machine
end

