-- ==== Sys2Proof/Machine/LaneOps.lean ====
section
/-! DEFINITION. Lanes and axis contexts: values, leads, handles, issuing, stop orders and run-down (R244 to R278). -/

namespace Sys2Proof.Machine

open Sys2Proof

/-! ## Small number helpers -/

/-- Largest whole number at or below `q`. -/
def floorRat (q : Rat) : Int := q.num / (q.den : Int)

/-- Nearest whole number, ties to the later one (R267). -/
def nearLater (q : Rat) : Int := floorRat (q + 1 / 2)

/-- A real number rounded to binary64 (R259). -/
def d64 (q : Rat) : Rat := match round64 q with | .fin x => x | _ => 0

/-- A binary64 bit pattern and the number it holds. -/
def dBits (q : Rat) : BitVec 64 := BitVec.ofNat 64 (fEncode 52 11 q)
def dRat (b : BitVec 64) : Rat := match f64 b.toNat with | .fin x => x | _ => 0

/-- SYSTIME in 2.5 ns ticks. -/
def sysTick (s : State) : Nat := sysHalf s / 5

/-- T_E in ticks. -/
def epochTick (s : State) (e : Nat) : Int := epochHalf s e / 5

/-! ## Records of the cast -/

/-- The tile record of tile t in the cast. -/
def castTile (s : State) (t : Nat) : Rec := (castAll s (·.tile)).getD t []

/-- The record of a lane. -/
def laneOf (s : State) (n : Nat) : Option Rec :=
  (castAll s (·.tlane) ++ castAll s (·.clane)).find? (fun r => laneNo r == n)

/-- The entries of a lane (R251, R264). -/
def laneEntries (s : State) (r : Rec) : List Rec :=
  ((castAll s (if laneCam r then (·.cent) else (·.tent))).drop (laneFirst r)).take (laneCount r)

/-- The record of an axis context. -/
def axisOf (s : State) (x : Nat) : Option Rec := (castAll s (·.axis)).find? (fun r => axCtx r == x)

/-- One lane and one axis context changed. -/
def modLane (n : Fin 96) (f : Lane → Lane) (s : State) : State := { s with eng := { s.eng with lane := s.eng.lane.upd n f } }
def modAxis (x : Fin 8) (f : Axis → Axis) (s : State) : State := { s with eng := { s.eng with axis := s.eng.axis.upd x f } }

/-! ## Axis position and speed -/

/-- Cycle position of a position (R262). -/
def cycleAt (m : Nat) (offset : Word) (p : BitVec 48) : Int :=
  let d := signed p.toNat 48 - int32 offset
  if 2 ≤ m then d % (m : Int) else d

/-- Cycle position of a context now. -/
def cycleNow (s : State) (x : Fin 8) : Int :=
  let a := s.eng.axis.get x
  cycleAt (((axisOf s x.val).map axModlen).getD 0) a.offset a.p

/-- v(t) of R259 in counts per nanosecond, `t` in ns. -/
def axisV (a : Axis) (t : Rat) : Rat :=
  d64 (dRat a.vw + d64 (dRat a.acc * d64 (t - (a.tm2 : Rat) / 2)))

/-- Speed of R260 at `t`. -/
def axisSpeed (a : Axis) (t : Rat) : Rat :=
  let v := axisV a t
  let m := if v < 0 then -v else v
  if (a.ta : Rat) < t then (let l := d64 (1 / (t - (a.ta : Rat))); if l < m then l else m) else m

/-- The velocity tag: speed of R260 with the sign of v, in counts/s (Table 08-4). -/
def axisVelocity (a : Axis) (t : Rat) : Word :=
  let q := axisSpeed a t * 1000000000
  f32OfRat (if axisV a t < 0 then -q else q)

/-! ## Lane values -/

/-- The value at the present time of a TIME lane, at a SYSTIME tick (R249). -/
def timeValue (r : Rec) (es : List Rec) (startAt tick : Nat) : Word :=
  if laneOneshot r then
    match (es.filter (fun e => decide (startAt + entOffset e ≤ tick))).getLast? with
    | some e => entValue e
    | none => laneInit r
  else
    let ph := ((tick : Int) - laneTphase r) % (max 1 (laneTcyc r) : Nat)
    match (es.filter (fun e => decide ((entOffset e : Int) ≤ ph))).getLast? with
    | some e => entValue e
    | none => (es.getLast?.map entValue).getD (laneInit r)

/-- The value at a cycle position of a CAM lane (R249); without a FWD or BOTH entry that applies it is INITVAL (log entry 139). -/
def camValue (r : Rec) (es : List Rec) (m : Nat) (c : Int) : Word :=
  let fs := es.filter (fun e => entDir e != 1)
  match (fs.filter (fun e => decide (entX e ≤ c))).getLast? with
  | some e => entValue e
  | none => if 2 ≤ m then (fs.getLast?.map entValue).getD (laneInit r) else laneInit r

/-- The number of the first entry instant after a tick (R252); with ONESHOT the run started at `startAt`. -/
def firstEntry (r : Rec) (es : List Rec) (startAt tick : Nat) : Nat :=
  if laneOneshot r then (es.filter fun e => decide (startAt + entOffset e < tick)).length
  else
    let cyc : Nat := max 1 (laneTcyc r)
    let d : Int := (tick : Int) - laneTphase r
    ((d / (cyc : Int) + 1).toNat) * es.length + (es.filter fun e => decide ((entOffset e : Int) ≤ d % (cyc : Int))).length

/-- The value at the present position or time of a lane (R249). -/
def presentValue (s : State) (n : Fin 96) (r : Rec) (tick : Nat) : Word :=
  let es := laneEntries s r
  if laneCam r then
    match asFin 8 (laneCtx r) with
    | some x => camValue r es (((axisOf s x.val).map axModlen).getD 0) (cycleNow s x)
    | none => laneInit r
  else timeValue r es (s.eng.lane.get n).startAt tick

/-- A calibrated delay in nanoseconds: the mean of the last 16 accepted, else the nominal 2.3 µs (R235). -/
def calDelay (ms : List Nat) : Rat :=
  if ms.isEmpty then 2300 else ((ms.foldl (· + ·) 0 : Nat) : Rat) / ms.length * 5 / 2

/-- The edge calibration of a channel under its present LCLASS (R235). -/
def edgeOf (s : State) (k : Nat) (r : Rec) : EdgeCal :=
  (s.nvs.edge.find? (fun e => e.k == k && e.lclass == chLclass r)).getD { k := k, lclass := chLclass r }

/-- LEAD in nanoseconds of a change from `prev` to `v` at a lane's target (R267). -/
def leadOf (s : State) (k : Fin 96) (r : Rec) (prev v : Word) : Rat :=
  let d := edgeOf s k.val (castRec s k.val)
  let isDo := chFunc (castRec s k.val) = .dout
  let was := bitOf prev.toNat 0
  let is := bitOf v.toNat 0
  let dl : Rat := if !isDo then 0 else if is && !was then calDelay d.on else if was && !is then calDelay d.off else 0
  let act : Nat := if isDo && was && !is then laneDactOff r else laneDactOn r
  dl + (act : Rat) * 5 / 2

/-! ## Handles -/

/-- Handles that the hub has in use in a tile's partitions. -/
def usedHandles (s : State) (t : Fin 12) : List Nat :=
  ((List.finRange 96).filter fun n =>
      match laneOf s n.val with | some r => laneTarget r / 8 == t.val | none => false).flatMap
    (fun n => ((s.eng.lane.get n).cmds.filter (fun c => !c.done)).map (·.handle)) ++
  (castAll s (·.loop)).filterMap fun r =>
    match asFin 48 (lpIndex r) with
    | some b => if lpRtype r = 0 && u8 r 5 = 0 && u16 r 6 / 8 = t.val then (s.eng.loop.get b).hnd else none
    | none => none

/-- A free handle of a slot's partition: the lowest (R268 leaves the choice open, log entry 15). -/
def freeHandle (s : State) (t : Fin 12) (slot : Nat) : Option Nat :=
  let p := partOf (castTile s t.val) slot
  let used := usedHandles s t
  ((List.range p.2).map (· + p.1)).find? (fun h => !used.contains h)

/-! ## Sending -/

/-- The tile of a lane's target is LIVE and its link good, so that commands reach it (R48, R273). -/
def laneLive (s : State) (k : Fin 96) : Bool := linkUp s (tileOf k) && (s.tile.get (tileOf k)).state == .live

/-- The first frame of a slot at or after an instant: the slot map restarts at every T_E and an epoch's last cycle may be short (R56). -/
def slotFrame (s : State) (slot start : Nat) : Nat :=
  let p : Int := s.ep.p
  let te := epochHalf s s.ep.e
  let place (te : Int) : Int :=
    let o := if te < (start : Int) then ((start : Int) - te + 1999) / 2000 else 0
    o + ((slot : Int) - o) % 16
  let o := place te
  (if o < p then te + 2000 * o else te + 2000 * p + 2000 * place (te + 2000 * p)).toNat

/-- The frame that the next command of the engines in a slot takes, two commands to a frame, and the slot's use after it (R268). Issues that wait for a
place keep the order of their sends; a CANCEL goes before them, and a REPLACE after (DEDUCED, log entry 139). -/
def slotTake (s : State) (t : Fin 12) (slot : Nat) : Nat × State :=
  let mine (u : SlotUse) : Bool := u.tile == t.val && u.slot == slot
  let last := s.eng.slots.find? mine
  let start := match last with
    | some u => max (sysHalf s) (if u.used < 2 then u.at_ else u.at_ + 1)
    | none => sysHalf s
  let f := slotFrame s slot start
  let used := match last with | some u => if u.at_ = f then u.used + 1 else 1 | none => 1
  (f, { s with eng := { s.eng with slots := { tile := t.val, slot := slot, at_ := f, used := used } :: s.eng.slots.filter fun u => !mine u } })

/-- A REPLACE or CANCEL of a command with this stamp goes out while the stamp is at least 40 µs ahead; otherwise it is dropped (R268). -/
def inTime (f stamp : Nat) : Bool := decide (f + us 40 ≤ stamp * 5)

/-- OP and VALUE of a lane's command: DUTY when only the duty changes, else SET (R245). -/
def laneOp (prev : Option Word) (v : Word) (d : Drive) : Option (Nat × Nat) :=
  match d with
  | .word on duty =>
    match prev with
    | some p => if bitOf p.toNat 0 = on && bits p.toNat 3 14 != bits v.toNat 3 14 then some (2, duty) else some (1, b2n on + 2 * duty)
    | none => some (1, b2n on + 2 * duty)
  | .dac c => some (1, c)
  | _ => none

/-- A command of a lane issued under a free handle; `clip` where its stamp has been raised (R250). Entry 65535 stands for a value of R249 or RDVAL,
which goes as a SET. -/
def putLane (n : Fin 96) (entry st : Nat) (clip : Bool) (v : Word) (rev : Bool) (cross : Int) (s : State) : State :=
  match laneOf s n.val with
  | none => s
  | some r =>
    match asFin 96 (laneTarget r) with
    | none => s
    | some k =>
      if !laneLive s k then s else
      let l := s.eng.lane.get n
      match laneOp (if entry = 65535 then none else l.known) v (driveOf s k.val (castRec s k.val) v) with
      | none => recordGeneric 1 k.val s
      | some (op, val) =>
        match freeHandle s (tileOf k) (laneSlot r) with
        | none => s
        | some h =>
          tileSend (tileOf k) (laneSlot r) (chanIn k).val op h st val
            (modLane n (fun l => { l with
              sent := some v, known := some v, last := st, clipped := l.clipped + b2n clip
              cmds := l.cmds.filter (fun c => !(c.done && c.handle == h)) ++
                [{ entry := entry, handle := h, stamp := st, value := v, val := val, rev := rev, cross := cross }] }) (slotTake s (tileOf k) (laneSlot r)).2)

/-- A command of a lane issued, its stamp raised behind that of the lane's previous command (R250). -/
def sendLane (n : Fin 96) (entry : Nat) (stamp : Int) (v : Word) (rev : Bool) (cross : Int) (s : State) : State :=
  let l := s.eng.lane.get n
  let low : Int := l.last + 1
  let clip := l.sent.isSome && decide (stamp < low)
  putLane n entry (if clip then low else stamp).toNat clip v rev cross s

/-- The present-position value sent as a SET (R249, R270, R272, R273). -/
def sendPresent (n : Fin 96) (stamp : Nat) (s : State) : State :=
  match laneOf s n.val with
  | some r => sendLane n 65535 stamp (presentValue s n r stamp) false 0 s
  | none => s

/-- A lane's command under a CANCEL: what level 6 will hold is no longer known (R245). -/
def markCancel (n : Fin 96) (c : LaneCmd) (s : State) : State :=
  modLane n (fun l => { l with
    known := none, cmds := l.cmds.map fun x => if x == c then { x with cancelled := true, want := false, asks := x.asks + 1 } else x }) s

/-- A CANCEL of a lane's pending command; one that would go out too late is dropped and counted UNCORRECTED (R268). -/
def sendCancel (n : Fin 96) (c : LaneCmd) (s : State) : State :=
  match laneOf s n.val with
  | none => s
  | some r =>
    match asFin 96 (laneTarget r) with
    | none => s
    | some k =>
      let (f, s1) := slotTake s (tileOf k) (laneSlot r)
      if !laneLive s k then s
      else if !inTime f c.stamp then modLane n (fun l => { l with uncorrected := l.uncorrected + 1 }) s
      else
        tileSend (tileOf k) (laneSlot r) (chanIn k).val 4 c.handle 0 0
          (markCancel n c s1)

/-- The LANE item of a lane to the partner (Table 11-8). -/
def laneItem (n : Fin 96) (s : State) : State :=
  let l := s.eng.lane.get n
  if drivesLogical s then
    jnlSend 1 1 0 ([4, 0] ++ leBytes 2 n.val ++ [BitVec.ofNat 8 l.state, 0] ++ leBytes 2 l.lastEntry ++ leBytes 8 l.lastStamp ++ List.replicate 8 0) s
  else s

/-- A lane's state changed and mirrored. -/
def setLaneState (n : Fin 96) (st : Nat) (s : State) : State :=
  if (s.eng.lane.get n).state = st then s else laneItem n (modLane n (fun l => { l with state := st }) s)

/-- What a lane's list keeps when the lane stops: commands whose report is still to come (R269, R270). -/
def leftOver (l : List LaneCmd) : List LaneCmd := (l.filter fun c => !c.done || c.asks != 0).map fun c => { c with old := true, want := false }

/-- A lane enters IDLE at a SYSTIME tick: level 6 is released within its partition (R247). -/
def laneIdle (n : Fin 96) (tick : Nat) (s : State) : State :=
  let s1 := setLaneState n 0 (modLane n (fun l => { l with cmds := leftOver l.cmds, sent := none, known := none, rdAt := none }) s)
  match laneOf s n.val with
  | none => s1
  | some r =>
    match asFin 96 (laneTarget r) with
    | none => s1
    | some k =>
      if laneLive s1 k then tileSend (tileOf k) 15 (chanIn k).val 5 (partOf (castTile s (tileOf k).val) (laneSlot r)).1 tick 0 s1 else s1

/-- The cam lanes that follow a context, in one of some states. -/
def camLanes (s : State) (x : Fin 8) (sts : List Nat) : List (Fin 96) :=
  (List.finRange 96).filter fun n =>
    match laneOf s n.val with
    | some r => laneCam r && laneCtx r == x.val && sts.contains (s.eng.lane.get n).state
    | none => false

/-- A command of the lane's present run that is pending in its tile and under no CANCEL. -/
def stands (c : LaneCmd) : Bool := !c.done && !c.cancelled && !c.old

/-- RDVAL sent for a stamp. Entries stamped before it may still follow it, so it is no "previous command" for R250. -/
def sendRdval (n : Fin 96) (r : Rec) (at_ : Nat) (clip : Bool) (s : State) : State :=
  let l := s.eng.lane.get n
  if laneRdHold r then s else modLane n (fun x => { x with sent := l.sent, known := l.known, last := l.last }) (putLane n 65535 at_ clip (laneRdVal r) false 0 s)

/-- RDVAL of a lane at a tick; every pending command stamped later is cancelled, and RDVAL goes behind those that stand (R276, R250). -/
def laneRunEnd (n : Fin 96) (tick : Nat) (lost : Bool) (s : State) : State :=
  match laneOf s n.val with
  | none => s
  | some r =>
    let l := s.eng.lane.get n
    let st := tick + (if lost then 0 else laneRdDelay r * 400000) + 20000
    let s1 := forEach (l.cmds.filter fun c => stands c && decide (st < c.stamp)) (sendCancel n) s
    let last := ((l.cmds.filter fun c => stands c && decide (c.stamp ≤ st)).map (·.stamp)).foldl max l.lastStamp
    let clip := !laneRdHold r && l.sent.isSome && decide (st ≤ last)
    let at_ := if clip then last + 1 else st
    sendRdval n r at_ clip (modLane n (fun l => { l with rdAt := some at_, last := if l.last ≤ st then l.last else last }) s1)

/-- A lane after a command of its list has been executed at a tile time: last value, entry and instant; a cam command stays listed until its
crossing has passed (`cam`). One of an ended run only leaves the list. -/
def laneRan (cam : Bool) (c : LaneCmd) (at_ : Nat) (l : Lane) : Lane :=
  if c.old then { l with cmds := (l.cmds.map fun x => if x == c then { x with done := true } else x).filter fun x => !(x.done && x.asks == 0 && x.handle == c.handle) }
  else
    { l with
      value := c.value
      lastEntry := if c.entry = 65535 then l.lastEntry else c.entry
      lastStamp := at_
      cmds := (l.cmds.map fun x => if x == c then { x with done := true } else x).filter (fun x => !(x.done && !cam && x.handle == c.handle)) }

/-- A command of a cam lane's entry. -/
def camCmd (s : State) (n : Nat) (c : LaneCmd) : Bool := match laneOf s n with | some r => laneCam r && c.entry != 65535 | none => false

/-- RDVAL, or the present value that stands for it, makes a lane that runs or runs down SAFE (R276). -/
def ranSafe (c : LaneCmd) (l : Lane) : Bool := !c.old && (l.state = 1 || l.state = 2) && c.entry = 65535 && l.rdAt == some c.stamp

/-! ## Stop orders and run-down -/

/-- An AXIS event with p at the event (Table 18-3): 1 STEP, 2 LOST, 3 RDTIMEOUT, 4 ZFAULT, 5 REFUSED. -/
def recordAxisOf (src : Nat) (x : Fin 8) (ev : Nat) (s : State) : State :=
  let p := unsigned (signed (s.eng.axis.get x).p.toNat 48) 64
  record 0x0402 src ev 0 [p % 2 ^ 32, p / 2 ^ 32] s

/-- An AXIS event of the context itself. -/
def recordAxis (x : Fin 8) (ev : Nat) (s : State) : State := recordAxisOf (srcOf 3 x.val) x ev s

/-- The end of run-down: RDEND, and RDVAL of every lane that runs down (R276). A lane in RUN whose context goes LOST stays in RUN until its
RDVAL stamp (Table 08-1). The end tick of a run-down that TRDMAX or LOST ends between two axis ticks is the 2.5 ns tick of that event (DESIGN
CHOICE, log entry 167). -/
def endRundown (x : Fin 8) (lost : Bool) (s : State) : State :=
  let s1 := modAxis x (fun a => { a with flags := { a.flags with rundown := false, rdEnd := a.flags.rundown || a.flags.rdEnd } }) s
  forEach ((camLanes s x (if lost then [1, 2] else [2, 1])).filter fun n => (s.eng.lane.get n).rdAt.isNone)
    (fun n s => laneRunEnd n (sysTick s) lost (if lost then s else setLaneState n 2 s)) s1

/-- A stop order on a context (R275): STOPREQ, and run-down begins. On a LOST context, whose lanes have been sent RDVAL already, it has ended at once:
STOPREQ and RDEND without RUNDOWN (DESIGN CHOICE, log entry 168). -/
def stopOrder (x : Fin 8) (s : State) : State :=
  let a := s.eng.axis.get x
  if a.flags.stopReq then s
  else
    let lost := a.flags.lost
    modAxis x (fun a => { a with stopAt := s.now, slowTicks := 0, flags := { a.flags with
      stopReq := true, rundown := !lost, rdEnd := lost } }) s

/-- A context goes LOST, with NOREF (R258, R276): recorded, and its lanes send RDVAL. -/
def axisLost (x : Fin 8) (s : State) : State :=
  let a := s.eng.axis.get x
  if a.flags.lost then modAxis x (fun a => { a with flags := { a.flags with noref := true } }) s
  else
    let s1 := modAxis x (fun a => { a with flags := { a.flags with lost := true, noref := true } }) s
    endRundown x true (recordAxis x 2 s1)

end Sys2Proof.Machine
end

