-- ==== Sys2Proof/Machine/HrefOps.lean ====
section
/-! DEFINITION. Downstream flashes, and the hub reflex unit: literals, evaluation, firing and release (R60, R279 to R283). -/

namespace Sys2Proof.Machine

open Sys2Proof

/-- Waiting flashes given one period each from `p` on (R59). -/
def inPeriods : Nat → List Flash → List Flash
  | _, [] => []
  | p, f :: fs => { f with period := p } :: inPeriods (p + 1) fs

/-- A flash joins those of its tile and direction (R60): one per period, the present period `now` where it is free; of those that wait, notices
go first and reflex flashes follow in their order. -/
def placeFlash (tile kind d0 now : Nat) (l : List Flash) : List Flash :=
  let mine (f : Flash) : Bool := f.tile == tile && decide (now < f.period)
  let wait := l.filter mine ++ [{ tile := tile, kind := kind, d0 := BitVec.ofNat 8 d0, period := 0 }]
  let free := if l.any (fun f => f.tile == tile && f.period == now) then now + 1 else now
  l.filter (fun f => !mine f) ++ inPeriods free (wait.filter (·.kind == 2) ++ wait.filter (·.kind != 2))

/-- The value of a hub literal (R461). -/
def litValue (s : State) (n : Nat) : Bool :=
  if n < 192 then s.eng.comp.list.getD n false
  else if 256 ≤ n && n < 264 then (s.eng.axis.list.getD (n - 256) {}).flags.lost
  else if 264 ≤ n && n < 272 then (s.eng.axis.list.getD (n - 264) {}).flags.stopReq
  else if 512 ≤ n && n < 608 then (s.eng.tot.list.getD (n - 512) {}).limit
  else false

/-- A term with a used literal holds when every used literal does. -/
def termHolds (s : State) (l : List (Nat × Bool)) : Bool := !l.isEmpty && l.all fun e => litValue s e.1 != e.2

/-- Literal numbers of an entry. -/
def hrLits (r : Rec) : List Nat := (hrCond r ++ [hrTerm r 48]).flatMap fun l => l.map (·.1)

/-- Run-time state of a hub reflex entry. -/
def hrefSt (s : State) (e : Nat) : HrefSt := (s.eng.href.find? (fun a => a.entry == e)).getD { entry := e }

/-- Run-time state of a hub reflex entry replaced. -/
def putHref (a : HrefSt) (s : State) : State := { s with eng := { s.eng with href := a :: s.eng.href.filter (fun b => b.entry != a.entry) } }

/-- A downstream flash (Table 02-8), to a tile whose link is not silent (R283). -/
def sendFlash (t : Fin 12) (d0 : Nat) (s : State) : State :=
  if linkUp s t then { s with misc := { s.misc with flashes := placeFlash t.val 1 d0 (sysHalf s / 2000) s.misc.flashes } } else s

/-- The flash that applies or releases an entry's output action; no apply flash where the bank in force does not hold it (R280). -/
def flashHref (r : Rec) (apply : Bool) (s : State) : State :=
  match asFin 96 (hrTarget r) with
  | none => s
  | some k =>
    let held := match (s.tile.get (tileOf k)).bank with | some b => b.hact.get (chanIn k) == r | none => false
    if hrStop r then s
    else if apply && !held then s
    else sendFlash (tileOf k) ((chanIn k).val + (if apply then 0 else 8)) s

/-- A hub reflex entry fires: a flash to its target, or a stop order at its decision (R275). -/
def fireHref (r : Rec) (silent : Bool) (s : State) : State :=
  let s1 := putHref { entry := hrEntry r, fired := true, since := none, bySilence := silent } s
  if hrStop r then (match asFin 8 (hrAction r) with | some x => stopOrder x s1 | none => s1) else flashHref r true s1

/-- A hub reflex entry releases. -/
def releaseHref (r : Rec) (s : State) : State := flashHref r false (putHref { entry := hrEntry r, fired := false } s)

/-- ONSILENT = KEEP holds an entry while the tile of one of its literals is silent (R283). -/
def hrefKept (s : State) (r : Rec) : Bool :=
  !hrFireSilent r && (hrLits r).any fun n => decide (n < 192) && (match asFin 12 (n / 16) with | some t => !linkUp s t | none => false)

/-- One entry evaluated (R281). -/
def evalHref (r : Rec) (s : State) : State :=
  let a := hrefSt s (hrEntry r)
  let cond := (hrCond r).any (termHolds s)
  let rel := hrLatch r && termHolds s (hrTerm r 48)
  if hrefKept s r then s
  else if a.fired then
    (if hrLatch r then (if rel then releaseHref r s else s)
     else if !cond && !a.bySilence then releaseHref r s else s)
  else if cond && !rel then
    (if hrQual r = 0 then fireHref r false s
     else if a.since.isNone then putHref { a with since := some s.now } s else s)
  else putHref { a with since := none } s

/-- The hub literals that engines change: LOST, STOPREQ and limit bits. -/
def engLits (s : State) : List Bool :=
  s.eng.axis.list.map (·.flags.lost) ++ s.eng.axis.list.map (·.flags.stopReq) ++ s.eng.tot.list.map (·.limit)

/-- Numbers of the engine literals that differ between two states. -/
def changedLits (s s' : State) : List Nat :=
  let nums := (List.range 8).map (· + 256) ++ (List.range 8).map (· + 264) ++ (List.range 96).map (· + 512)
  ((nums.zip ((engLits s).zip (engLits s'))).filter (fun e => e.2.1 != e.2.2)).map (·.1)

/-- Every entry whose literals change evaluated (R281); a stop order that follows changes literals in turn. -/
def evalLits : Nat → List Nat → State → State
  | 0, _, s => s
  | n + 1, ch, s =>
    if ch.isEmpty then s
    else
      let s1 := forEach ((castAll s (·.href)).filter fun r => (hrLits r).any ch.contains) evalHref s
      evalLits n (changedLits s s1) s1

/-- A change of the engines, and the hub reflex that follows it. -/
def withHref (f : State → State) (s : State) : State :=
  let s1 := f s
  evalLits 10 (changedLits s s1) s1

/-- Entries with a literal of a tile. -/
def hrefOfTile (s : State) (t : Fin 12) : List Rec :=
  (castAll s (·.href)).filter fun r => (hrLits r).any fun n => n < 192 && n / 16 == t.val

/-- ONSILENT when a literal's tile is declared silent (R283). -/
def hrefSilent (t : Fin 12) (s : State) : State :=
  withHref (forEach ((hrefOfTile s t).filter hrFireSilent) fun r s =>
    if (hrefSt s (hrEntry r)).fired then putHref { hrefSt s (hrEntry r) with bySilence := !hrLatch r } s else fireHref r true s) s

end Sys2Proof.Machine
end

