-- ==== Sys2Proof/Machine/Terminal.lean ====
section
/-! DEFINITION. The terminal: the priority order of Table 01-3 (R26 to R28), the pulse generator beneath it (R173 to R176) and the
switch that follows it (R182, R185, R186, R192, R195). -/

namespace Sys2Proof.Machine

open Sys2Proof

/-! ## The pulse generator -/

/-- Length of PWMP in half-nanoseconds. -/
def pwmPeriod (r : Rec) : Nat := us (chPwmp r)

/-- round(PWMP × duty / 10,000 / 2.5 ns) × 2.5 ns, in half-nanoseconds (R174). -/
def dutyTime (r : Rec) (duty : Nat) : Nat := 5 * roundEven ((chPwmp r * 400 * duty : Nat) / (10000 : Rat))

/-- On time of a PWM period with the rules at the ends of the range (R174). -/
def pwmOnTime (r : Rec) (duty : Nat) : Nat :=
  let p := pwmPeriod r
  let t := dutyTime r duty
  if t < us 5 then 0 else if p < t + us 5 then p else t

/-- Position within the PWM period that runs now (R174). -/
def pwmPos (s : State) (k : Fin 96) (r : Rec) : Nat :=
  let p := pwmPeriod r
  if p = 0 then 0
  else (((tileHalf s (tileOf k) : Int) - 5 * (chPhase r (chanIn k).val : Int)) % (p : Int)).toNat

/-- The PWM generator given a word at a position of its running period: the level of the grid there (R175). -/
def pwmAt (s : State) (pos : Nat) (r : Rec) (on : Bool) (duty : Nat) (g : PGen) : PGen :=
  let t := pwmOnTime r duty
  let out := on && decide (pos < t)
  { g with on := on, duty := duty, next := none, out := out,
           offAt := if out && decide (t < pwmPeriod r) then some (s.now + (t - pos)) else none }

/-- The PWM generator given a word at once. -/
def pwmNow (s : State) (k : Fin 96) (r : Rec) (on : Bool) (duty : Nat) (g : PGen) : PGen := pwmAt s (pwmPos s k r) r on duty g

/-- A pulse of a train starts (R176). -/
def trainStart (s : State) (r : Rec) (g : PGen) : PGen :=
  let t := dutyTime r g.duty
  let last := g.left ≤ 1
  { g with left := g.left - 1, out := decide (0 < t),
           offAt := if 0 < t then some (s.now + t) else none,
           nextAt := if last then none else some (s.now + pwmPeriod r) }

/-- A train follows the word of its source (R176). -/
def trainWord (s : State) (r : Rec) (on : Bool) (duty : Nat) (g : PGen) : PGen :=
  if on && !g.armed then trainStart s r { g with on := true, duty := duty, armed := true, left := chPcount r }
  else if on then { g with on := true, duty := duty }
  else { g with on := false, duty := duty, armed := false, left := 0, nextAt := none }

/-- The generator follows a command word; `atOnce` for levels 1 to 4 and their release, otherwise at a period start (R175). -/
def genWord (s : State) (k : Fin 96) (r : Rec) (atOnce : Bool) (on : Bool) (duty : Nat) (g : PGen) : PGen :=
  match chPgmode r with
  | 1 =>
    if atOnce || pwmPos s k r < 5 then pwmNow s k r on duty g
    else if g.on = on && g.duty = duty then { g with next := none }
    else { g with next := some (on, duty) }
  | 2 => trainWord s r on duty g
  | _ => { g with on := on, duty := duty, out := on, next := none }

/-! ## The priority order -/

/-- A drive's level and source, highest first: tile reflex, hub reflex, level 3, 5, 6, 7 (Table 01-3, R27). -/
def sources (l : Levels) : List (Nat × Drive) :=
  let o (n : Nat) (d : Option Drive) : List (Nat × Drive) := match d with | some d => [(n, d)] | none => []
  o 2 l.tileReflex ++ o 2 l.hubReflex ++ o 3 l.l3 ++ o 5 l.l5 ++ o 6 (l.l6.map (·.2)) ++ [(7, l.l7)]

/-- The source that decides below levels 1 and 4. -/
def decider (l : Levels) : Nat × Drive := (sources l).headD (7, l.l7)

/-- The highest source that gives a command word: the generator runs on it beneath static levels (R175, R176). -/
def wordSource (l : Levels) : Option (Nat × Bool × Nat) :=
  (sources l).findSome? fun e => match e.2 with | .word on d => some (e.1, on, d) | _ => none

/-- The value a hold keeps: what decided the terminal, and beneath a static reflex level the word that ran (R175, log entry 12). -/
def heldDrive (l : Levels) : Drive :=
  match (sources l).find? (fun e => match e.2 with | .force _ => false | _ => true) with
  | some e => e.2
  | none => l.l7

/-- Output terminals act in LIVE, HOLD and FALLBACK (Table 02-4). -/
def outputsAct (t : Tile) : Bool :=
  match t.state with
  | .live | .hold | .fallback => true
  | _ => false

/-- A level 1 condition holds the switch open (Table 06-3, R195, R225). -/
def heldOpen (w : Sw) : Bool :=
  w.cut.isSome || w.thermal || w.thermal2 || w.thermLatch || w.clampOff || (w.clampLock && !w.on)

/-- What a share of couch lets through at this member (Table 11-11): `standby` names the incoming member. -/
def couchTerm (f : Func) (standby : Bool) (share : Nat) (t : Term) : Term :=
  match f, t with
  | .aoi, .dac c => if share = 0 then .hiZ else .dac (roundEven ((c * share : Nat) / (8 : Rat)))
  | .aov, .dac c =>
    if share = 8 then .dac c else if standby then (if share = 0 then .hiZ else .current share)
    else if share = 0 then .hiZ else .dac c
  | .dout, t => if (if standby then 4 ≤ share else 3 ≤ share) then t else .hiZ
  | _, t => t

/-- What a drive commands (R26, R112). -/
def cmdTerm (c : Chan) (d : Drive) : Term :=
  match d with
  | .force on => .sw on
  | .word _ _ => .sw c.pg.out
  | .dac n => .dac n
  | .keep => c.lev.cmd

/-- What a drive does to the terminal of function `f` (R26, R95). -/
def driveTerm (f : Func) (c : Chan) (lv : Nat) (d : Drive) : Term :=
  if f = .aoi && c.ana.complLow && 6 ≤ lv then .dac c.ana.almlo else cmdTerm c d

/-- Deciding level, terminal before the couch share, and terminal of a channel (R26 to R28, R95). In STANDBY level 4 gives high impedance; in a
couch each member drives its share of what decides, levels 2 and 3 included (Table 11-11), and from step 8 the incoming member's level decides
(DEDUCED, log entry 153). -/
def resolveAll (t : Tile) (c : Chan) (r : Rec) : Nat × Term × Term :=
  let f := chFunc r
  let at_ (n : Nat) (x : Term) : Nat × Term × Term := (n, x, x)
  if f = .off || t.state = .off || t.bank.isNone then at_ 7 .hiZ
  else if !isOutF f then
    if switching r then (if heldOpen c.sw || t.sunk then at_ 1 (.sw false) else at_ 7 (.sw true)) else at_ 7 .hiZ
  else if !outputsAct t then at_ 7 .hiZ
  else if f = .dout && heldOpen c.sw then at_ 1 (.sw false)
  else
    let d := decider c.lev
    let base := driveTerm f c d.1 d.2
    match t.standby, c.lev.share with
    | false, none => at_ d.1 base
    | false, some n => (d.1, base, couchTerm f false n base)
    | true, none => (4, base, .hiZ)
    | true, some n => (if n = 8 then d.1 else 4, base, couchTerm f true n base)

/-- Terminal and deciding level of a channel. -/
def resolve (t : Tile) (c : Chan) (r : Rec) : Nat × Term := ((resolveAll t c r).1, (resolveAll t c r).2.2)

/-- An input circuit is switched in (Tables 03-13, 05-6, 11-11): always in a member that drives, never in STANDBY; in couch the incoming AIV and TC
from the start, AII from step 1, the others at step 8, and the outgoing ones until step 8. -/
def inputOn (f : Func) (standby : Bool) (share : Option Nat) : Bool :=
  match standby, share with
  | false, none => true
  | false, some n => decide (0 < n)
  | true, none => false
  | true, some n => if f = .aiv || f = .tc then true else if f = .aii then decide (0 < n) else n == 8

/-- The use of a channel's three terminals (Tables 03-1, 03-13, 05-1, 05-6). `q` is the record of the even channel before an odd one: the odd
channel's terminals sense for a 4-wire RTD (R103). A DI, CNT or NAM input goes on sensing through its high impedance in STANDBY. -/
def pinsOf (t : Tile) (c : Chan) (r q : Rec) : Pins :=
  let f := chFunc r
  let on := inputOn f t.standby c.lev.share
  let n := c.lev.share.getD 8
  if t.state = .off || t.bank.isNone then {}
  else match f with
    | .off => if chFunc q = .rtd && chWires q = 4 && inputOn .rtd t.standby c.lev.share then { b := .input, c := .input } else {}
    | .aiv => if on then { b := .input, c := .ret } else {}
    | .aii =>
      if on then { a := if chLoopPwr r then .loop n else .hiZ, b := if c.ana.sinkOpen.isSome then .hiZ else .sink n, c := .ret } else { c := .ret }
    | .rtd =>
      if !on then {}
      else if chWires r = 2 then { b := .excite, c := .ret }
      else if chWires r = 3 then { a := .excite, b := .input, c := .ret }
      else { a := .excite, c := .ret }
    | .tc => if on then { b := .input, c := .input } else {}
    | .di | .cnt => { a := if chSpwr r then .output else .hiZ, b := if on then .digSink else .input, c := .ret }
    | .nam => { b := if on then .namur else .input, c := .ret }
    | .aoi | .aov => { a := .output, c := .ret }
    | .dout => { a := .output, b := .input }

/-- A terminal is a closed switch. -/
def switchOn (t : Term) : Bool := t == .sw true

/-- The switch follows its terminal: envelope, valve peak and capacitive ramp start at an off-to-on transition (R182, R185, R186). -/
def switchTo (s : State) (k : Fin 96) (r : Rec) (on : Bool) (w : Sw) : Sw :=
  if w.on = on then w
  else if on then
    { w with on := true, changed := s.now
             envAt := if ms (trearm (profRecs s k) r) ≤ s.now - w.changed then some s.now else none
             peakEnd := if chLclass r = 4 then some (s.now + ms (tpeak (profRecs s k) r)) else none
             hold := none
             ramping := chLclass r = 5
             slew := if chLclass r = 5 then slewOf (profRecs s k) r else 0 }
  else { w with on := false, changed := s.now, envAt := none, limiting := false, peakEnd := none, hold := none, ramping := false, slew := 0 }

/-- A diagnostic record covers a channel. -/
def diagCovers (r : Rec) (k : Fin 96) : Bool := dgTile r == (tileOf k).val && (dgChans r).contains (chanIn k).val

/-- A gate turned on during an off-state test: the stimulus is withdrawn and the result counted SKIPPED (R238). A PARTEST window, whose transitions
R226 watches, goes on and keeps its result (DESIGN CHOICE, log entry 157). -/
def testSkip (k : Fin 96) (s : State) : State :=
  let hit (d : DiagRun) : Bool :=
    let r := (castAll s (·.diag)).getD d.slot []
    !d.skipped && d.eligible && dgKind r == 0 && diagCovers r k
  if s.misc.diag.any hit then
    record 0x0305 (srcOf 1 k.val) 1 0 [0]
      (modDg k (fun g => { g with skipped := g.skipped + 1 })
        { s with misc := { s.misc with diag := s.misc.diag.map fun d => if hit d then { d with skipped := true } else d } })
  else s

/-- A modem transmits only in a LIVE tile whose member drives the terminal outside the couch window, with HARTM PTP or MULTI (R126). -/
def modemMay (t : Tile) (r : Rec) (h : Hart) : Bool :=
  t.state == .live && !t.standby && (chHartm r == 1 || chHartm r == 2) && !h.couchHold

/-- A modem that may no longer transmit stops, loses its frame and reports it (R126, Table 04-5). -/
def modemGate (t : Tile) (r : Rec) (h : Hart) : Hart :=
  if h.tx && !modemMay t r h then { h with tx := false, buf := [], txAbort := true } else h

/-- e^-x for x from 0 to 11, from the series of e^x. -/
def expNeg (x : Rat) : Rat := 1 / ((List.range 48).foldl (fun (a : Rat × Rat) (n : Nat) => (a.1 + a.2, a.2 * x / ((n : Rat) + 1))) (0, 1)).1

/-- The shaping filter at an instant, on its way to a DAC code: two equal poles at 25 Hz, which settle to 0.05 % within the 65 ms that R128 names
(DEDUCED, log entry 163). -/
def shapeAt (now : Time) (target : Nat) (h : Shape) : Shape :=
  let u : Int := target * 65536
  let t := now - h.at_
  if ms 65 ≤ t then { y1 := u, y2 := u, at_ := now }
  else
    let x : Rat := (1570796326795 * t : Nat) / (20000000000000000000 : Rat)
    let e := expNeg x
    { y1 := u + (((h.y1 - u : Int) : Rat) * e).floor, y2 := u + ((((h.y2 - u : Int) : Rat) + ((h.y1 - u : Int) : Rat) * x) * e).floor, at_ := now }

/-- The shaping filter of an AOI channel with HART on (R128): a change from levels 5 to 7 starts from where the filter stands; levels 1 to 4 act
without shaping. -/
def shapeOf (now : Time) (r : Rec) (lv : Nat) (base : Term) (l : Levels) : Option Shape :=
  if chFunc r != .aoi || chHartm r = 0 || lv ≤ 4 then none
  else match l.base, base with
    | .dac a, .dac b =>
      if a = b then l.shape
      else match l.shape with
        | some h => some (shapeAt now a h)
        | none => some { y1 := a * 65536, y2 := a * 65536, at_ := now }
    | _, _ => none

/-- The DAC code that a channel drives before its couch share, at an instant: what decides it, through the shaping filter while that settles
(R128). -/
def drivenNow (now : Time) (l : Levels) : Term :=
  match l.base, l.shape with
  | .dac c, some h => .dac ((shapeAt now c h).y2 / 65536).toNat
  | b, _ => b

/-- A VALVE output in the parallel window of a couch, steps 4 and 5, regulates half of IHOLD in each switch; after it the one that goes on takes the
whole (Table 11-11). -/
def valveShare (half standby : Bool) (full : Nat) (share : Option Nat) (w : Sw) : Sw :=
  match share with
  | none => w
  | some n =>
    let k := if standby then n else 8 - n
    if !half || !w.on then w
    else if k = 4 || k = 5 then { w with peakEnd := none, hold := some (full / 2) }
    else if 5 < k && w.hold = some (full / 2) then { w with hold := some full }
    else w

/-- Terminal, generator and switch of a channel brought up to its present sources (R27: within one tile clock cycle). -/
def refresh (k : Fin 96) (s : State) : State :=
  let t := s.tile.get (tileOf k)
  let r := tileRec s k
  let c := s.chan.get k
  let pg :=
    match chFunc r, wordSource c.lev with
    | .dout, some (n, on, d) =>
      if outputsAct t then genWord s k r (n ≤ 3 || c.lev.deciding ≤ 4 && 4 < (resolve t c r).1) on d c.pg else c.pg
    | _, _ => c.pg
  let c1 := { c with pg := pg }
  let (lv, base, term) := resolveAll t c1 r
  let on := switchOn term
  let before : Rec := match t.bank, asFin 8 (k.val % 8 - 1) with | some b, some j => if k.val % 2 = 1 then b.chan.get j else [] | _, _ => []
  let c2 := { c1 with
    lev := { c1.lev with
      term := term, base := base, deciding := lv, shape := shapeOf s.now r lv base c1.lev
      cmd := if base = .hiZ then .hiZ else cmdTerm c1 (decider c1.lev).2 }
    sw := valveShare (chFunc r == .dout && chLclass r == 4) t.standby (ihold (profRecs s k) r) c1.lev.share (switchTo s k r on c1.sw)
    pins := pinsOf t c1 r before
    hart := modemGate t r c1.hart }
  let s1 := { s with chan := s.chan.set k c2 }
  if on && !c.sw.on then
    testSkip k { (if ms (chToff r) ≤ s.now - c.sw.changed then modDg k (fun g => { g with everOff := true }) s1 else s1) with nvs := { s1.nvs with pat := s1.nvs.pat.upd k fun p => { p with cycles := p.cycles + 1 } } }
  else s1

/-- Every channel of a tile brought up to date. -/
def refreshTile (t : Fin 12) (s : State) : State := forEach (tileChans t) refresh s

/-- A change at a channel's levels or switch, then its terminal. -/
def withRefresh (k : Fin 96) (f : State → State) (s : State) : State := refresh k (f s)

end Sys2Proof.Machine
end

