-- ==== Sys2Proof/Machine/Shadow.lean ====
section
/-! DEFINITION. Rehearsal (R440, Table 13-11): the hub engines run a second time, on the maquette's tables and on a copy of the engines' state, by
the same operations and from the same events as the cast's. Of what such a run does, only the copy and the report's counts stay. -/

namespace Sys2Proof.Machine

open Sys2Proof

/-! ## What the maquette sees (log entry 148) -/

/-- A channel whose FUNC differs between the maquette and the cast: its inputs count as absent. -/
def otherFunc (s : State) (i : Image) (k : Nat) : Bool := chFunc (i.chan.getD k []) != chFunc (castRec s k)

/-- A tag that has no source in a rehearsal. -/
def absentTag (s : State) (i : Image) (r : Rec) : Bool :=
  match tagKind r with
  | 1 => otherFunc s i (tagNum r)
  | 9 => (castAll s (·.item))[tagNum r]? != i.item[tagNum r]?
  | _ => false

/-- A totaliser that counts the edges of such a channel. -/
def absentCount (s : State) (i : Image) (r : Rec) : Bool := lpRtype r = 1 && u8 r 2 = 1 && otherFunc s i (u32 r 12)

/-- The maquette without the tags and counts that are absent. -/
def rehImage (s : State) (i : Image) : Image :=
  { i with tag := i.tag.filter fun r => !absentTag s i r, loop := i.loop.filter fun r => !absentCount s i r }

/-- Tags that a loop block or totaliser reads. -/
def rehReads (r : Rec) : List Nat :=
  if lpRtype r = 0 then u32 r 12 :: (if u32 r 16 = 0xFFFFFFFF then [] else [u32 r 16]) else if u8 r 2 = 1 then [] else [u32 r 12]

/-- Numbers of the comparators that hub reflex entries read. -/
def rehComps (r : Rec) : List Nat :=
  (((List.range 20).map fun j => u16 r (16 + 2 * j)).filter fun l => bitOf l 15 && decide (bits l 0 10 < 192)).map fun l => bits l 0 10

/-- Inputs of the maquette that count as absent. -/
def rehAbsent (s : State) (i : Image) : Nat :=
  let gone := (i.tag.filter (absentTag s i)).map tagIndex
  let tags := (i.loop.flatMap rehReads).eraseDups.filter fun w => bits w 25 7 = 0 && bits w 15 10 = s.net.num && gone.contains (bits w 0 15)
  let comps := (i.href.flatMap rehComps).eraseDups.filter fun n => otherFunc s i (n / 2)
  tags.length + comps.length + (i.loop.filter (absentCount s i)).length

/-! ## The run beside the cast -/

/-- A command that the maquette's engines would have had executed by a tick (Table 02-9: its stamp has come). -/
def rehDue (tick : Nat) (l : Lane) : List LaneCmd := l.cmds.filter fun c => stands c && decide (c.stamp ≤ tick)

/-- A lane of the copy once its due commands have run; cancelled ones are gone. -/
def rehLane (s : State) (tick n : Nat) (l : Lane) : Lane :=
  let l1 := (rehDue tick l).foldl (fun l c => let l1 := laneRan (camCmd s n c) c c.stamp l; if ranSafe c l1 then { l1 with state := 3 } else l1) l
  { l1 with cmds := l1.cmds.filter fun c => !c.cancelled && !c.old }

/-- TCSLOT instance of a command's target and slot (Table 13-4). -/
def tcSlot (k slot : Nat) : Nat := k / 8 * 16 + slot

/-- The lanes of a state with their records. -/
def rehLanes (s : State) : List (Rec × Lane) := (List.range 96).filterMap fun n => (laneOf s n).map fun r => (r, s.eng.lane.list.getD n {})

/-- The loop blocks that drive a channel, with their records. -/
def rehLoops (s : State) : List (Rec × Loop) :=
  ((castAll s (·.loop)).filter fun r => lpRtype r == 0 && u8 r 5 == 0).map fun r => (r, s.eng.loop.list.getD (lpIndex r) {})

/-- The state as the maquette's engines see it: its tables, the copy of the engines with the comparators as the hub knows them, its own tags. -/
def rehView (h : Reh) (s : State) : State :=
  match s.img.maq with
  | none => s
  | some i =>
    let v := { s with
      reh := none
      img := { s.img with cast := some (rehImage s i) }
      ep := { s.ep with tags := h.tags }
      eng := { h.eng with comp := s.eng.comp.allIdx fun n b => b && !otherFunc s i (n / 2) } }
    let tick := sysTick s
    { v with eng := { v.eng with
        lane := v.eng.lane.allIdx (rehLane v tick)
        loop := v.eng.loop.all fun l => if l.sentAt ≤ tick then { l with hnd := none } else l } }

/-- The highest number of stamps in any 64 µs on one slot, with the slot. -/
def slotPeak (l : List (Nat × Nat)) : Nat × Nat :=
  l.foldl (fun best x =>
    let n := (l.filter fun y => y.1 == x.1 && decide (x.2 ≤ y.2) && decide (y.2 < x.2 + 25600)).length
    if best.1 < n then (n, x.1) else best) (0, 0)

/-- The VALUE that a loop block's output sends. -/
def rehLoopVal (v : State) (r : Rec) (l : Loop) : Nat :=
  let k := u16 r 6
  let c := castRec v k
  if chFunc c = .dout then 1 + 2 * (max 0 (min 10000 (l.u * 10000 / 536870912))).toNat else (setValue (driveOf v k c l.out)).getD 0

/-- The commands of the copy that are new since `v`. -/
def rehNew (v v1 : State) : List (Rec × LaneCmd) :=
  ((List.range 96).filterMap fun n => (laneOf v1 n).map fun r => (n, r)).flatMap fun x =>
    let was := (v.eng.lane.list.getD x.1 {}).cmds
    ((v1.eng.lane.list.getD x.1 {}).cmds.filter fun c => !c.done && !(was.any fun y => y.handle == c.handle && !y.done)).map fun c => (x.2, c)

/-- The counts after a run from `v` to `v1`. `h` and `s` are the copy and the state before it. -/
def rehTally (h : Reh) (s v v1 : State) : Reh :=
  let tick := sysTick s
  let ran := (rehLanes { v with eng := h.eng }).flatMap fun x => (rehDue tick x.2).map fun c => (x.1, c)
  let fresh := rehNew v v1
  let sends := ((rehLoops v).zip (rehLoops v1)).filter fun x => x.1.2.sentAt != x.2.2.sentAt
  let clip (e : Engines) : Nat := (e.lane.list.map (·.clipped)).foldl (· + ·) 0
  let sat := ((v.eng.loop.list.zip v1.eng.loop.list).filter fun x => x.1.n != x.2.n && (bitOf x.2.status.toNat 2 || bitOf x.2.status.toNat 3)).length
  let fired := (v1.eng.href.filter fun a => a.fired && !(v.eng.href.any fun b => b.entry == a.entry && b.fired)).length
  let past := ((ran.map fun x => (tcSlot (laneTarget x.1) (laneSlot x.1), x.2.stamp)) ++ h.stamps).filter fun x => decide (tick ≤ x.2 + 25600)
  let ahead := (rehLanes v1).flatMap fun x => (x.2.cmds.filter stands).map fun c => (tcSlot (laneTarget x.1) (laneSlot x.1), c.stamp)
  let loops := sends.map fun x => (tcSlot (u16 x.2.1 6) (u8 x.2.1 8), x.2.2.sentAt)
  let top := slotPeak (past ++ ahead ++ loops)
  let now6 := (ran.map fun x => (laneTarget x.1, x.2.stamp, x.2.val)) ++ sends.map fun x => (u16 x.2.1 6, x.2.2.sentAt, rehLoopVal v1 x.2.1 x.2.2)
  let all6 := now6 ++ h.l6
  { h with
    eng := v1.eng
    tags := v1.ep.tags
    late := h.late + (fresh.filter fun x => decide (x.2.stamp * 5 < sysHalf s + us 40)).length
    clipped := h.clipped + (clip v1.eng - clip v.eng)
    peak := max h.peak top.1
    peakSlot := if h.peak < top.1 then top.2 else h.peakSlot
    loopSat := h.loopSat + sat
    firings := h.firings + fired
    stamps := past ++ loops
    l6 := all6.filter fun x => tick < x.2.1 || !(all6.any fun y => y.1 == x.1 && decide (y.2.1 ≤ tick) && decide (x.2.1 < y.2.1)) }

/-- The copy while a rehearsal runs (R441). -/
def rehOf (s : State) : Option Reh := if s.img.maqState = .rehearsing && s.img.rehearseEnd.isNone then s.reh else none

/-- An engine operation, carried out for the cast and, while a rehearsal runs, for the maquette beside it. -/
def beside (f : State → State) (s : State) : State :=
  match rehOf s with
  | none => f s
  | some h => { f s with reh := some (rehTally h s (rehView h s) (f (rehView h s))) }

/-! ## Values that differ -/

/-- The would-be VALUE at level 6 of a channel. -/
def rehLevel6 (h : Reh) (tick k : Nat) : Option Nat :=
  let l := h.l6.filter fun x => x.1 == k && decide (x.2.1 ≤ tick)
  (l.find? fun x => l.all fun y => decide (y.2.1 ≤ x.2.1)).map (·.2.2)

/-- What a fired entry of the maquette would apply at level 2 of a channel. -/
def rehLevel2 (h : Reh) (i : Image) (k : Nat) : Option (Nat × Nat) :=
  ((i.href.filter fun r => !hrStop r && hrTarget r == k && h.eng.href.any fun a => a.entry == hrEntry r && a.fired).getLast?).map
    fun r => (hrAction r, hrDac r)

/-- A would-be value at level 2 or 6 differs from the one that the cast applied. The comparison is made at each epoch boundary (log entry 148). -/
def rehDiffers (h : Reh) (s : State) (drive : Fin 96 → Nat → Nat → Drive) (k : Fin 96) : Bool :=
  let l := (s.chan.get k).lev
  let six := match rehLevel6 h (sysTick s) k.val with
    | some v => l.l6.bind (fun x => setValue x.2) != some v
    | none => false
  let two := match s.img.maq.bind fun i => rehLevel2 h i k.val with
    | some (a, d) => l.hubReflex != some (drive k a d)
    | none => false
  six || two

end Sys2Proof.Machine
end

