-- ==== Sys2Proof/Machine/Collector.lean ====
section
/-! DEFINITION. Faults and what they do: the collector's classes and reactions (R471 to R486), yielding (R379), block resets
(Table 15-3), LOCK (R485), the hub reset (R503 to R505), and the recorder's seal (R539, R543, R545). -/

namespace Sys2Proof.Machine

open Sys2Proof

/-! ## Recorder records -/

/-- Payload bytes of an event (R539, R541). -/
def recPayload (e : RecEvt) : List Byte := if e.type = 0x0802 then e.text else e.args.flatMap fun w => leBytes 4 w.toNat

/-- The bytes of a record (Table 18-1). -/
def recBytes (r : RecRec) : List Byte :=
  let p := recPayload r.evt
  let n := 24 + p.length + (if r.trail.isSome then 8 else 0)
  leBytes 2 n ++ leBytes 2 r.evt.type ++ leBytes 2 r.evt.source ++
    [BitVec.ofNat 8 r.evt.cls, BitVec.ofNat 8 (r.evt.flags + 8 * b2n r.trail.isSome + 16 * b2n r.aggr)] ++
    leBytes 4 r.seq.toNat ++ leBytes 2 r.rep ++ [0, 0] ++ leBytes 8 r.evt.time ++ p ++
    (match r.trail with | some t => leBytes 8 t | none => [])

/-- The sealed buffer holds 64 KiB: records dropped from its old end until it fits, and those dropped (R546). -/
def fitSealed : Nat → List RecRec → List RecRec → List RecRec × List RecRec
  | 0, l, gone => (l, gone)
  | n + 1, l, gone =>
    if 65536 < (l.map fun r => (recBytes r).length).foldl (· + ·) 0 then
      match l with
      | r :: rest => fitSealed n rest (gone ++ [r])
      | [] => ([], gone)
    else (l, gone)

/-- The open record sealed into the sealed buffer (R543, R545, R546). Under the cap of R549 its SEQ joins the range that the hour loses. -/
def sealOpen (s : State) : State :=
  match s.recd.opened with
  | none => s
  | some r =>
    let (l, gone) := fitSealed 4096 (s.recd.sealed_ ++ [r]) []
    let lost := if s.recd.capped then some ((match s.recd.lost with | some (a, _) => a | none => r.seq), r.seq) else s.recd.lost
    let cap := if s.recd.capped then (match s.recd.capFrom with | some a => some a | none => some r.seq) else s.recd.capFrom
    let s1 := { s with recd := { s.recd with opened := none, sealed_ := l, lost := lost, capFrom := cap, hourRecs := s.recd.hourRecs + 1 } }
    match gone.head?, gone.getLast? with
    | some a, some b => if s.recd.capped then s1 else recordArgs 0x0A01 (srcOf 15 0) [a.seq.toNat, b.seq.toNat] s1
    | _, _ => s1

/-- Bytes of the store that records take: whole 64-byte segments, the last filled with zero words (R545). -/
def segBytes (l : List RecRec) : Nat := ((l.map fun r => (recBytes r).length).foldl (· + ·) 0 + 63) / 64 * 64

/-- Records written to the store behind those before them. RECTAIL is the byte position in the recorder ring that follows (log entry 144); the
block after the write position is erased before the ring reaches it (R546). -/
def storeRun (l : List RecRec) (s : State) : State :=
  let n := segBytes l
  let at_ := s.plinth.recTail.toNat % 268435456
  let s1 := { s with recd := { s.recd with stored := s.recd.stored ++ l, hourBytes := s.recd.hourBytes + n }
                     plinth := { s.plinth with recTail := BitVec.ofNat 32 ((at_ + n) % 268435456) } }
  match ringErase 522 1024 at_ n with
  | [] => s1
  | b => queueErases purposeCompact b s1

/-- Every sealed record written to the store, with RECTAIL (R485, R545). -/
def storeSealed (s : State) : State := storeRun s.recd.sealed_ { s with recd := { s.recd with sealed_ := [] } }

/-! ## MGT slot contents (Table 02-6): log entry 6 -/

/-- Pseudo operations of the MGT slot for the contents whose layout the spec does not print. -/
def mgtRole : Nat := 32
def mgtLock : Nat := 33
def mgtRestoreAckOp : Nat := 34
def mgtPartReset : Nat := 35
def mgtCommit : Nat := 36
def mgtClearLatch : Nat := 37

/-- A role and PARTNERED setting sent to every tile, stamped in SYSTIME ticks (R366). -/
def sendRoles (standby partnered : Bool) (tick : Nat) (s : State) : State :=
  forEach (List.finRange 12) (fun t s => tileSend t 15 0 mgtRole 0 tick (b2n standby + 2 * b2n partnered) s) s

/-- The stamp of a role that no rule times: 20 µs ahead, as R379 and R381 take it, so that every tile holds it before it acts (R366; DESIGN CHOICE, log
entry 176). -/
def roleTick (s : State) : Nat := sysTick s + 8000

/-! ## Pair helpers -/

/-- A PAIR record of the recorder: 1 TAKEN, 2 YIELD, 3 COUCH, 4 DUALACTIVE, 5 ORPHAN, 6 STEP, with its byte (Table 18-3). -/
def recordPair (ev hi : Nat) (s : State) : State := record 0x0701 (srcOf 10 0) ev hi [] s

/-- The member is PARTNERED and drives: ACTIVE, or outgoing in a couch (R379). -/
def mayYield (s : State) : Bool :=
  s.pair.partnered && !s.pair.yielding &&
    (s.pair.state == .active || (s.pair.state == .couch && (match s.pair.couch with | some c => !c.incoming | none => false)))

/-- YIELD within 2 µs, its STAMP 20 µs later; at STAMP the tiles take STANDBY (R379). -/
def sendYield (reason tile : Nat) (s : State) : State :=
  let stamp := sysNs s + 20000
  let s1 := cchSend 0x10 s.ep.e stamp (reason + 256 * tile) s
  sendRoles true true (sysTick s + 8000) (recordPair 2 reason
    { s1 with pair := { s1.pair with yielding := true, yieldAt := some s.now, takeovers := (s1.pair.takeovers + 1) % 65536 } })

/-- A yield cause acts on a PARTNERED ACTIVE member only. -/
def yieldIf (reason tile : Nat) (s : State) : State := if mayYield s then sendYield reason tile s else s

/-! ## Firmware start (R526) -/

/-- A slot verifies (R523) against the OTP counter of its KIND. -/
def slotOk (f : Fw) (i : Fin 2) : Bool := (f.slot.get i).present && (f.slot.get i).verifies && f.otp ≤ (f.slot.get i).svn

/-- Step 3 of R526: CONF, else the other slot; and whether the slots were swapped. -/
def bootConf (f : Fw) : Fw × Option Nat :=
  let tryIt (i : Fin 2) (swap : Bool) (rest : Fw × Option Nat) : Fw × Option Nat :=
    if slotOk f i then ({ f with running := some i, conf := if i = 0 then 0 else 1 }, if swap then some 4 else none) else rest
  let none' : Fw × Option Nat := ({ f with running := none }, none)
  if f.conf = 1 then tryIt 1 false (tryIt 0 true none')
  else if f.conf = 0 then tryIt 0 false (tryIt 1 true none')
  else tryIt 0 true (tryIt 1 true none')

/-- A start of a KIND selects its slot; with it the FIRMWARE events to record, each with its slot. -/
def bootSelect (f : Fw) : Fw × List (Nat × Nat) :=
  let after (f : Fw) : Fw × List (Nat × Nat) :=
    let (g, e) := bootConf f
    (g, match e, g.running with | some n, some i => [(n, i.val)] | _, _ => [])
  let back (f : Fw) : Fw × List (Nat × Nat) :=
    let (g, l) := after { f with trial := 2, bootCnt := 0 }
    (g, (3, f.trial.val) :: l)
  if f.trial = 2 then after f
  else if 3 ≤ f.bootCnt then back f
  else
    let i : Fin 2 := if f.trial = 0 then 0 else 1
    let f1 := { f with bootCnt := f.bootCnt + 1 }
    if slotOk f i then ({ f1 with running := some i }, []) else back f1

/-- A start whose selection changes writes its selector record (R525, R526). -/
def selectorWrite (old new : Fw) (s : State) : State :=
  if (old.conf, old.trial, old.bootCnt) = (new.conf, new.trial, new.bootCnt) then s else controlWrite s

/-- A FIRMWARE record: 1 LOADED, 2 GOODMARK, 3 ROLLBACK, 4 SLOTSWAP, 5 INTERRUPTED (Table 18-3). -/
def recordFw (studio : Bool) (ev slot svn : Nat) (s : State) : State :=
  record 0x0902 (srcOf 11 (b2n studio)) ev ((if studio then 2 else 1) + 256 * slot) [svn] s

/-- FIRMWARE records of a start. -/
def recordFwAll (studio : Bool) (f : Fw) (l : List (Nat × Nat)) (s : State) : State :=
  forEach l (fun e s => recordFw studio e.1 e.2 ((f.slot.list.getD e.2 {}).svn) s) s

/-! ## Staging and rehearsal ended by a reset -/

/-- The number of bytes that a work's RADDR asks for: nothing when it is 0 (R403). -/
def raddrOf (w : Work) : Nat := u64 w.bytes 40

/-- The data that a completion returns: at most 1,484 B in an RSP frame, and 1,476 B in a JNL CPL item (R333, R369, Table 10-11; DESIGN CHOICE, log
entry 172). -/
def dataRoom (s : State) (origin : Nat) : Nat :=
  if origin = s.net.num then 2 ^ 32 else if some origin = partnerNum s then 1476 else 1484

/-- Bytes returned to RADDR and the final completion with their length (R403); a remote origin gets them in the RSP, as far as it holds them. -/
def dataFrom (dev flags : Nat) (r : WorkRef) (result : Nat) (data : List Byte) (s : State) : State :=
  match workOf s r with
  | none => s
  | some w =>
    if raddrOf w = 0 then finishFrom dev flags r 0 s.ep.e result 0 0 [] s
    else
      let sent := data.take (dataRoom s r.origin)
      let s1 := if r.origin = s.net.num then hostWrite (raddrOf w) sent s else s
      finishFrom dev flags r 0 s.ep.e result 0 sent.length sent s1

/-- The same of a work that this device executed. -/
def finishData (r : WorkRef) (result : Nat) (data : List Byte) (s : State) : State := dataFrom s.net.num 0 r result data s

/-- Staging ended with RESULT ABORTED; the maquette becomes LOADED (R436). -/
def abortStaging (s : State) : State :=
  match s.img.stager with
  | none => s
  | some r => finishDone r 0x0601 { s with img := { s.img with stager := none, stageCls := 0, maqState := .loaded } }

/-- The rehearsal report of Table 13-11. -/
def rehearsalReport (first epochs : Nat) (h : Option Reh) : List Byte :=
  let counts := match h with
    | some h => [h.late, h.clipped, h.peak, h.peakSlot, h.loopSat, h.firings, h.differ.length, h.absent]
    | none => List.replicate 8 0
  leBytes 6 first ++ [0, 0] ++ leBytes 4 epochs ++ counts.flatMap (leBytes 4) ++ List.replicate 20 0

/-- Rehearsal ended early with a RESULT; the report covers the epochs that ran (R441). The row REHEARSAL_END writes it and ends the descriptor. -/
def cutRehearsal (result : Nat) (next : MaqState) (s : State) : State :=
  match s.img.rehearser with
  | none => s
  | some _ => { s with img := { s.img with rehearseEnd := some result, maqState := next } }

/-! ## Studio (R17, R521) -/

/-- Armature restarts Studio: staging and rehearsal are aborted and HART is interrupted until Studio runs (R17, R436, R441, Table 04-9). -/
def studioRestart (s : State) : State :=
  let (f, l) := bootSelect s.nvs.studio
  let s1 := recordFwAll true f l (selectorWrite s.nvs.studio f { s with nvs := { s.nvs with studio := f } })
  let s2 := cutRehearsal 1 .staged (abortStaging s1)
  forEach allChans hartInterrupt { s2 with flt := { s2.flt with studioUp := false } }

/-! ## Collector entries -/

/-- One source entry changed; IDs at or above 0x200 have none. -/
def modSrc (id : Nat) (f : FltSt → FltSt) (s : State) : State :=
  match asFin 512 id with
  | some i => { s with flt := { s.flt with src := s.flt.src.upd i f } }
  | none => s

/-- The entry of a source. -/
def srcEntry (s : State) (id : Nat) : FltSt := s.flt.src.list.getD id { cls := 0, wcls := 0, min := 0 }

/-- A class is unacknowledged (R482). -/
def unacked (s : State) (c : Nat) : Bool := s.flt.src.list.any fun e => e.pend && e.ecls == c

/-- The pins ERRA and ERRB (R488, Table 15-5): 0 DOWN, 1 HEALTHY, 2 ERRDRV, 3 FROZEN where CCLK has stopped under the healthy toggle. -/
def errState (s : State) : Nat :=
  if !hubAlive s || !s.flt.loaded || s.flt.lock then 0
  else if s.flt.src.list.any (fun e => e.errdrv && (e.asserted || e.pend)) then 2
  else if s.pwr.clkStopped then 3 else 1

/-- Reset block of a source (Tables 15-1, 15-3). -/
inductive BlockId where
  | studio | tl (t : Fin 12) | pel (n : Fin 4) | prt | cu (n : Fin 4) | enc (n : Fin 4) | nvs | recorder
deriving DecidableEq, Repr

def blockOf (id : Nat) : Option BlockId :=
  if 0x010 ≤ id && id ≤ 0x014 then some .studio
  else if 0x030 ≤ id && id < 0x03C then (asFin 12 (id - 0x030)).map .tl
  else if 0x090 ≤ id && id < 0x094 then (asFin 4 (id - 0x090)).map .pel
  else if id = 0x094 then some .prt
  else if 0x0A0 ≤ id && id < 0x0A4 then (asFin 4 (id - 0x0A0)).map .cu
  else if 0x0A4 ≤ id && id < 0x0A8 then (asFin 4 (id - 0x0A4)).map .enc
  else if id = 0x0A8 then some .nvs
  else if id = 0x0A9 then some .recorder
  else none

/-- The block of a source is held in reset (R476). -/
def blockHeld (s : State) (id : Nat) : Bool := s.flt.blocks.any fun b => b.1 == id

/-! ## Block resets (Table 15-3) -/

/-- One port changed. -/
def modPort (p : Fin 5) (f : Port → Port) (s : State) : State := { s with net := { s.net with port := s.net.port.upd p f } }

/-- Fault source of a port (Table 15-1). -/
def portSource (p : Fin 5) : Nat := 0x090 + p.val

/-- A PORT record (Table 18-3): 1 UP, 2 DOWN, 3 DEGRADED, 4 DROP, 5 LOAD, with the counter concerned. -/
def recordPort (p : Fin 5) (ev n : Nat) (s : State) : State := record 0x0601 (srcOf 8 p.val) ev 0 [n] s

/-- A port in use goes DOWN: recorded (R328). -/
def portFalls (p : Fin 5) (s : State) : State :=
  let x := s.net.port.get p
  if x.state = 1 || x.state = 2 then recordPort p 2 x.bad (modPort p (fun x => { x with state := 0, downAt := s.now }) s) else s

/-- One check unit changed. -/
def modCu (n : Fin 4) (f : CU → CU) (s : State) : State := { s with cu := s.cu.upd n f }

/-- A firmware load cut off (R528, Table 17-5). -/
def cutLoad (s : State) : State :=
  if s.nvs.load.target.isSome then
    recordFw (s.nvs.load.kind = 2) 5 ((s.nvs.load.target.map (·.val)).getD 0) 0
      { s with nvs := { s.nvs with load := { s.nvs.load with code := 9, windowOpen := false, target := none, word := [], chunks := [] } } }
  else s

/-- What a C3 reset of a block does at once. The silence of a tile link then takes its own course (R62). -/
def blockReset (b : BlockId) (s : State) : State :=
  match b with
  | .studio => studioRestart s
  | .tl t => modLink t (fun l => { l with upSilent := true, upBad := 0, upGood := 0, upSeq := none, upMiss := 0 }) s
  | .pel n => portFalls ⟨n.val, by omega⟩ s
  | .prt =>
    let s := portFalls 4 s
    { s with pair := { s.pair with linkLostAt := match s.pair.linkLostAt with | some t => some t | none => some s.now } }
  | .cu n =>
    let q := (s.cu.get n).queue
    forEach q (fun r s => finishWith r 0x21 s.ep.e 0 0 0 [] s) (modCu n (fun c => { c with job := none, busy := false, queue := [] }) s)
  | .enc n => withHref (axisLost ⟨n.val, by omega⟩) s
  | .nvs => cutLoad s
  | .recorder => sealOpen s

/-! ## LOCK (R485) -/

/-- The C5 reaction: LOCK to the tiles, Pelrun and rings stopped, the records and the journal in the store, Studio and the engines
halted. -/
def lockNow (src : Nat) (s : State) : State :=
  let s1 := { s with flt := { s.flt with lock := true, lockAt := s.now, studioUp := false, mastersStop := some (s.now + us 20) }
                     host := { s.host with jnl := { s.host.jnl with unspilled := 0 } } }
  let s2 := forEach (List.finRange 12) (fun t s => tileSend t 15 0 mgtLock 0 0 0 s) s1
  let s3 := sealOpen s2
  let r : RecRec := { evt := { type := 0x0202, source := srcOf 0 src, flags := unlockedFlag s, args := [BitVec.ofNat 32 src], time := sysNs s }
                      seq := s3.recd.seq }
  storeSealed { s3 with recd := { s3.recd with sealed_ := s3.recd.sealed_ ++ [r], seq := s3.recd.seq + 1 } }

/-! ## The hub reset (R503 to R505, R421, R480) -/

/-- A source entry after a hub reset (R480): COUNT stays, and a C4 event's marks. -/
def fltAfterReset (id : Nat) (e : FltSt) : FltSt :=
  let d := faultReset id
  if e.ecls = 4 then { d with pend := e.pend, wire := e.wire, esc := e.esc, ecls := 4, count := e.count, since := e.since }
  else { d with count := e.count }

/-- A command ring after a hub reset: DISABLED; GEN, H and the record kept (R421). -/
def crAfterReset (c : CR) : CR := { gen := c.gen, high := c.high, prev := c.prev }

/-- A completion queue after a hub reset: disabled; GEN and the completions held in the journal kept. -/
def cqAfterReset (c : CQ) : CQ := { gen := c.gen, held := c.held }

/-- A channel's hub side after a hub reset: the scheduler forgets; the modem, the levels and the switch are the tile's. -/
def hartAfterReset (h : Hart) : Hart :=
  { buf := h.buf, tx := h.tx, carrier := h.carrier, path := h.path, pre := h.pre, rxOn := h.rxOn, rx := h.rx, rxErr := h.rxErr, txAbort := h.txAbort
    burstLost := h.burstLost }

/-- The hub side of a link while the masters are stopped. -/
def linkAfterReset (l : TLink) : TLink :=
  { l with upSilent := true, upBad := 0, upGood := 0, upSeq := none, upMiss := 0, hubSilent := true, tileSays := true, stoppedAt := none, badFrames := 0, badChars := 0, silences := 0 }

/-- Arming ends at the hub (R121); with its link silent a tile keeps the shown override until it is restored. -/
def disarmQuiet (s : State) : State := { s with nvs := { s.nvs with armed := none, press := none } }

/-- Engines after a hub reset (R278, R283, R290, R293). -/
def engAfterReset (e : Engines) : Engines :=
  { loop := e.loop.all fun l => { mode := 3, want := l.want, u := l.u, i := l.i, d := l.d, sp := l.sp, mv := l.mv }
    tot := e.tot
    comp := e.comp }

/-- Epoch logic after a hub reset: the commit sets of journaled work stay (R31, R604). -/
def epAfterReset (e : Epochs) : Epochs := { sets := e.sets, held := e.held, closed := 0, loaded := 0 }

/-- Everything that a hub reset clears (Table 16-4, R421, R480, R503): class I work, the fetch buffer and requests in the hub go;
accepted and journaled work stays. -/
def hubClear (s : State) : State :=
  let s0 := forEach (List.finRange 5) portFalls (disarmQuiet (cutRehearsal 1 .staged (abortStaging s)))
  { s0 with
    regs := s0.regs.filter (fun e => e.1 = 0x4008)
    eng := engAfterReset s0.eng
    ep := epAfterReset s0.ep
    chan := s0.chan.all (fun c => { c with hart := hartAfterReset c.hart, lev := { c.lev with l7fb := false, grpFb := false } })
    link := s0.link.all linkAfterReset
    sns := s0.sns.all fun x => { x with claimed := none }
    host := { cr := s0.host.cr.all crAfterReset, cq := s0.host.cq.all cqAfterReset
              work := (s0.host.work.filter (·.classJ)).map (fun w => { w with taken := w.taken && w.opcode != 0x0200, begun := false, again := w.again || w.accepted, copies := 0 })
              jnl := s0.host.jnl, writes := s0.host.writes, vectors := s0.host.vectors, nextMtag := s0.host.nextMtag }
    net := { num := s0.net.num, numValid := s0.net.numValid, coupler := s0.net.coupler, mgtPol := s0.net.mgtPol, mgtDev := s0.net.mgtDev, sent := s0.net.sent }
    pair := { state := if s0.pwr.straps.pairId = 2 then .solo else .orphan, actSince := s0.pair.actSince, takeovers := s0.pair.takeovers, takeBase := s0.pair.takeovers
              cch := s0.pair.cch, image := s0.pair.image }
    flt := { src := s0.flt.src.allIdx fltAfterReset, store := s0.flt.store, lock := s0.flt.lock, lockAt := s0.flt.lockAt }
    cu := Bank.fill 4 {}
    sec := { s0.sec with tokenOk := false, cmd := none, err := false, keyData := List.replicate 32 0, token := List.replicate 96 0 }
    nvs := { s0.nvs with rdSel := 0, rdBusy := false, rdValid := false, rdBytes := [], press := none }
    recd := { s0.recd with rdSeq := 0, rdBusy := false, rdValid := false, rdMissing := false, rdBytes := [] }
    misc := { s0.misc with diag := [], hartTags := [] }
    pwr := { s0.pwr with ready := false, wda := {}, wdh := { close := 1, open_ := 1000 } } }

/-- The hub reset asserted with a cause: the lowest cause code stands, and a further request extends the reset (R503, R505). -/
def hubReset (cause src : Nat) (s : State) : State :=
  match s.pwr.phase with
  | .por | .cold => s
  | .reset => { s with pwr := { s.pwr with
      resetAt := s.now, cause := min cause s.pwr.cause, causeSrc := if cause ≤ s.pwr.cause then src else s.pwr.causeSrc } }
  | _ =>
    let s1 := hubClear s
    { s1 with pwr := { s1.pwr with phase := .reset, resetAt := s.now, cause := cause, causeSrc := src } }

/-- The end of the 25 µs after a YIELD, while they run (R379). -/
def yieldHold (s : State) : Option Time :=
  match s.pair.yieldAt with
  | some a => if s.now < a + us 25 then some (a + us 25) else none
  | none => none

/-- A reset request of the host pins or DEVRST, or a C4 reaction: held off while the power-fail sequence runs (R508); the endpoint alone
while LOCK stands (R487); after the yield in a PARTNERED ACTIVE member (R379). -/
def requestReset (cause src : Nat) (s : State) : State :=
  if s.pwr.failing then s
  else if s.flt.lock then (if 6 ≤ cause then { s with pwr := { s.pwr with endpointReset := s.pwr.endpointReset + 1 } } else s)
  else if s.pair.holdOff.isSome then s
  else
    let s1 := if mayYield s then sendYield (if cause = 5 then 4 else 6) 0 s else s
    match yieldHold s1 with
    | some e => { s1 with pair := { s1.pair with holdOff := some (e, cause, src) } }
    | none => hubReset cause src s1

/-- The C5 reaction, held off after a yield in a PARTNERED ACTIVE member (R379). Hold-off cause 15 stands for LOCK. -/
def requestLock (src : Nat) (s : State) : State :=
  if s.flt.lock then s
  else
    let s1 := if mayYield s then sendYield 5 0 s else s
    match yieldHold s1 with
    | some e => { s1 with pair := { s1.pair with holdOff := some (e, 15, src) } }
    | none => lockNow src s1

/-! ## Events and reactions -/

/-- A FAULT record (Table 18-3). -/
def recordFault (id cls : Nat) (esc wire inj : Bool) (s : State) : State :=
  recordEvt { type := 0x0101, source := srcOf 0 id, cls := cls, flags := unlockedFlag s + b2n esc + 2 * b2n wire + 4 * b2n inj, time := sysNs s } s

/-- The effective class of an event of configured class `c`, with the classes unacknowledged before it and those already taken in
its CCLK cycle (R483, R484). -/
def effective (before : State) (taken : List Nat) (c : Nat) : Nat :=
  if c < 5 && (unacked before c || taken.contains c) then c + 1 else c

/-- One event noted in its entry and recorded; an IGNORE source's event is counted and recorded only (R481). -/
def noteEvent (wire inj : Bool) (id cfg eff : Nat) (s : State) : State :=
  let up (e : FltSt) : FltSt := { e with count := satInc e.count 255, since := s.now }
  if cfg = 0 then recordFault id 0 false wire inj (modSrc id up s)
  else
    let s1 := modSrc id (fun e => { up e with pend := true, ecls := eff, esc := eff != cfg, wire := e.wire || wire }) s
    let s2 := sourceSets (0x3004 + 8 * id) 1 (if wire then sourceSets (0x3004 + 8 * id) 2 s1 else s1)
    recordFault id eff (eff != cfg) wire inj { s2 with flt := { s2.flt with
      lastSrc := id
      lastCls := eff
      highAt := if 2 ≤ eff then some s.now else s2.flt.highAt
      studioEvt := if 0x010 ≤ id && id ≤ 0x014 then some s.now else s2.flt.studioEvt } }

/-- The reaction of one event that no other replaces (Table 15-2). -/
def react (id eff : Nat) (s : State) : State :=
  if eff = 1 then signal (bits (reg s 0x2400) 8 6) s
  else if eff = 2 then (if 0x010 ≤ id && id ≤ 0x014 then studioRestart s else s)
  else if eff = 3 then
    (match blockOf id with
      | some b => let s1 := blockReset b s; { s1 with flt := { s1.flt with blocks := s1.flt.blocks ++ [(id, s.now)] } }
      | none => requestReset 5 id s)
  else if eff = 4 then requestReset 5 id s
  else requestLock id s

/-- Events of the sources `ids` in one CCLK cycle: noted in ascending ID order, then the reactions that R477 leaves. A C5 reaction
replaces every other but C1, a C4 reaction replaces C3. -/
def raiseAll (wire inj : Bool) (ids : List Nat) (s : State) : State :=
  if !hubAlive s then s
  else
    let order := (List.range 512).filter (fun i => ids.contains i && faultListed i)
    let step (acc : State × List Nat × List (Nat × Nat)) (id : Nat) : State × List Nat × List (Nat × Nat) :=
      let e := srcEntry s id
      let cfg := if wire then e.wcls else e.cls
      let eff := effective s acc.2.1 cfg
      (noteEvent wire inj id cfg eff acc.1, if cfg = 0 then acc.2.1 else cfg :: acc.2.1, if cfg = 0 then acc.2.2 else acc.2.2 ++ [(id, eff)])
    let (s1, _, evs) := order.foldl step (s, [], [])
    let has (c : Nat) : Bool := evs.any (fun e => e.2 == c)
    let pending := s1.pair.holdOff.isSome
    let live (e : Nat × Nat) : Bool :=
      if has 5 then e.2 == 1 || e.2 == 5
      else if has 4 || pending then e.2 != 3
      else true
    forEach (evs.filter live) (fun e s => react e.1 e.2 s) s1

/-- One event of one source. -/
def raise (id : Nat) (s : State) : State := raiseAll false false [id] s

/-- A refused gate request: source 0x016 and a record (R16, R520). No row of Table 18-3 names it, so it is a GENERIC record without words (R541),
which leaves the kind and the resource of R520 no place (DEDUCED, log entry 154). -/
def gateRefuse (s : State) : State := recordGeneric 11 0 (raise 0x016 s)

/-- A source whose state is a level: its event comes once, when the level begins (R473). -/
def raiseLevel (id : Nat) (s : State) : State :=
  if (srcEntry s id).asserted then s else raise id (modSrc id (fun e => { e with asserted := true }) s)

/-- The level of a source ends; an injected one stays (R490). -/
def calm (id : Nat) (s : State) : State := modSrc id (fun e => { e with asserted := e.asserted && e.inj != 0 }) s

/-- A HOST_ERR bit set, with source 0x021 and HOST_IVEC for bits 0 to 3 (Table 19-2, R392). -/
def hostErr (bit : Nat) (s : State) : State :=
  let s1 := sourceSets 0x0404 bit { s with host := { s.host with err := s.host.err ||| BitVec.ofNat 5 (2 ^ bit) } }
  if bit < 4 then signal (bits (reg s 0x0408) 0 6) (raise 0x021 s1) else s1

/-- The item that tells the partner of a change in protection bits (Table 11-8, PROT): CSW bits 2 to 7 before and after `f`. -/
def protecting (k : Fin 96) (f : State → State) (s : State) : State :=
  let s1 := judging k f s
  let a := bits (cswOf s k).toNat 2 6
  let c := cswOf s1 k
  if a != bits c.toNat 2 6 && drivesLogical s1 then
    jnlSend 1 1 0 ([6, 0] ++ leBytes 2 k.val ++ leBytes 4 c.toNat ++ List.replicate 16 0) s1
  else s1

/-- The own frames dropped at full queues raise their ports' sources (R340, log entry 171). -/
def raiseDrops (s : State) : State :=
  forEach ((List.finRange 5).filter fun p => (s.net.port.get p).dropPend) (fun p s =>
    raise (portSource p) (recordPort p 4 (s.net.port.get p).drops (modPort p (fun x => { x with dropPend := false }) s))) s

end Sys2Proof.Machine
end

