-- ==== Sys2Proof/Machine/PairOps.lean ====
section
/-! DEFINITION. Taking over, and the end of a couch (R153, R376 to R381, Tables 11-9 to 11-11). -/

namespace Sys2Proof.Machine

open Sys2Proof

/-- Items of Table 11-8 that the cast uses. -/
def usedItems (s : State) : List Nat :=
  let has (c : Nat) (b : Bool) : List Nat := if b then [c] else []
  let f (p : Rec → Bool) : Bool := allChans.any fun k => p (castRec s k.val)
  has 1 (!((castAll s (·.loop)).filter fun r => lpRtype r == 0).isEmpty) ++ has 2 (!(castAll s (·.axis)).isEmpty) ++
    has 3 (f fun r => chFunc r == .cnt || chFunc r == .di || chFunc r == .nam) ++ has 4 (!(castAll s (·.tlane) ++ castAll s (·.clane)).isEmpty) ++
    has 5 (!(castAll s (·.plan)).isEmpty) ++ has 6 (f fun r => isOutF (chFunc r))

/-- Every channel's couch share set, and its terminal with it (Table 11-11). A tile behind a silent link is not reached: its shares follow when
its hub assigns a role again (R14, R366). -/
def setShares (n : Option Nat) (s : State) : State :=
  forEach (allChans.filter fun k => tileReached s (tileOf k)) (fun k s => refresh k (modLev k (fun l => { l with share := n }) s)) s

/-- The couch's hold on HART ends or begins on every channel (R154). -/
def holdHart (on : Bool) (s : State) : State := forEach allChans (fun k s => modHart k (fun h => { h with couchHold := on }) s) s

/-- The couch descriptor of this member completes with a code of Table 11-9. -/
def finishCouch (code : Nat) (s : State) : State :=
  match s.pair.couch.bind (·.w) with
  | some w => finishDone w code (recordPair 3 code s)
  | none => recordPair 3 code s

/-- Both members return to their former states, and HART goes on (R378, R154). -/
def leaveCouch (s : State) : State :=
  match s.pair.couch with
  | none => s
  | some c =>
    let s1 := { s with pair := { s.pair with couch := none, state := if c.incoming then .standby else .active } }
    forEach allChans hartResume (holdHart false (setShares none s1))

/-- The outgoing member of a couch is left alone by its partner's failure: it takes the whole of each shared quantity at a role stamp 20 µs
later, and the descriptor completes TAKEOVER (R378). -/
def surviveCouch (stampTick : Nat) (s : State) : State :=
  let s1 := finishCouch 6 s
  let s2 := { s1 with pair := { s1.pair with couch := none, state := .active, partnered := false } }
  forEach allChans hartResume (holdHart false (sendRoles false false stampTick s2))

/-- A cause of R378 before step 1: the finder sends COUCHABORT and the couch is abandoned. -/
def couchCause (s : State) : State :=
  match s.pair.couch with
  | some c => if c.step = 0 then leaveCouch (finishCouch 5 (cchSend 4 c.e0 (sysNs s) 0 s)) else s
  | none => s

/-- The journal holds the final completion of a work. -/
def finalLogged (s : State) (r : WorkRef) : Bool := s.host.jnl.log.any fun e => e.etype == 4 && e.body.take 8 == refBytes r

/-- A journaled work without ACCEPT draws it by R29 (R372, R381). One whose journal shows ACCEPT without a final mark draws ACCEPT again with REPOST (R31), and its final completion where this member
has already executed it (R381). -/
def repost (w : Work) (s : State) : State :=
  let acc := { mkCpl s w 1 1 ((w.set.map (·.2)).getD 0) 0 0 0 with cflags := 1 }
  if !w.accepted then (if w.classJ && w.final.isNone && w.opcode != 0x0300 then acceptOrWait w.ref s else s)
  else match w.final with
    | none => deliver w acc [] s
    | some c => if finalLogged s w.ref then s else deliver w c [] (journal 4 (refBytes w.ref ++ cplBytes c false) (deliver w acc [] s))

/-- A write-class transaction in flight at an interruption, its STARTED mark written, ends UNKNOWN (R153). -/
def endInFlight (s : State) : State :=
  forEach (s.host.work.filter (fun w => w.opcode == 0x0200 && w.marked && !w.verifying && w.final.isNone)) (fun w s =>
    match asFin 96 (u16 w.bytes 32) with
    | some k => endTransaction k w.ref 4 [] s
    | none => s) s

/-- The member becomes ACTIVE by a takeover or a yield of its partner at a stamp (R381): roles to its tiles, which keep their shares of a couch
until then (R378), TAKEN, the logical series 65,536 higher, accepted work posted again, HART after 41 character times of silence. -/
def becomeActive (stampNs stampTick wit : Nat) (s : State) : State :=
  let code := if s.pair.couch.isSome then 6 else 0
  let s0 := if code = 6 then finishCouch 6 s else s
  let s1 := { s0 with
    pair := { s0.pair with state := .active, actSince := s0.ep.e, takeovers := (s0.pair.takeovers + 1) % 65536, armed := false,
                           synced := false, partnered := false, yielding := false, couch := none, orphanSince := none }
    net := { s0.net with lseq := ((s0.pair.partner.map (·.lfseq)).getD 0 + 65536) % 2 ^ 22 } }
  let s2 := sendRoles false false stampTick s1
  let s3 := cchSend 0x11 s2.ep.e stampNs 0 s2
  let s4 := recordPair 1 wit s3
  let s5 := forEach s4.host.work repost s4
  let s6 := endInFlight s5
  forEach allChans (fun k s => hartResume k (hartFlag k (modHart k (fun h => { h with quietUntil := s.now + 41 * hartTau, burstBy := none, couchHold := false, turn := none }) s))) s6

/-- Verdicts after a change of role: every judgement starts again (R215), but for REVERSE, which a STANDBY member judges too (R239). -/
def roleFresh (t : Fin 12) (standby : Bool) (s : State) : State :=
  forEach (tileChans t) (fun k s =>
    let s := modDig k (fun d => { d with lineJudged := false }) s
    let s1 := modDg k (fun g => { g with stand := g.stand.filter (· == 0x23), par := [], judged := false, leakLow := 0, leakHigh := 0 }) s
    if standby then modAna k (fun a => { a with wasValid := false }) s1 else s1) s

/-- A role taken by every tile at once (R368) or at a stamp (R366): STANDBY masks, ACTIVE drives. With no couch under way the tile then drives
the whole of each shared quantity, or none of it (R378). -/
def tileRole (t : Fin 12) (standby partnered : Bool) (s : State) : State :=
  let s := if s.pair.couch.isSome then s else forEach (tileChans t) (fun k s => modLev k (fun l => { l with share := none }) s) s
  let change (s : State) : State :=
    roleFresh t standby (modTile t (fun x => { x with standby := standby, partnered := partnered, roleAt := none }) s)
  refreshTile t (judgingTile t (if (s.tile.get t).standby = standby then
    modTile t (fun x => { x with partnered := partnered, roleAt := none }) else change) s)

/-- A role taken in every tile that its hub reaches, in one instant (R14, R368). -/
def everyTileRole (standby partnered : Bool) (s : State) : State :=
  forEach ((List.finRange 12).filter (tileReached s)) (fun t s => tileRole t standby partnered s) s

/-- Class J works whose entry waits for ACCEPT: those that JACKED covers draw it, and where the partner is not ARMED R29 decides, a store write being
asked for where it needs one (R372). IMGLOAD draws its own (R438). -/
def partnerAccepts (s : State) : State :=
  forEach (s.host.work.filter fun w => w.classJ && !w.accepted && w.final.isNone && w.opcode != 0x0300) (fun w s =>
    if mayAccept s w then acceptWork w.ref s
    else if partnerArmed s || s.nvs.store.jobs.contains (.journal (some w.ref)) then s
    else acceptOrWait w.ref s) s

/-- PARTNERED cleared, in the member and its tiles (R371). -/
def clearPartnered (s : State) : State :=
  if s.pair.partnered then partnerAccepts (sendRoles (s.pair.state == .standby) false (roleTick s) { s with pair := { s.pair with partnered := false } })
  else s

/-- The member stands aside for its partner: a yield at its stamp, or a dual-active resolution. A couch at this member ends. -/
def standAside (s : State) : State :=
  let s1 := match s.pair.couch with
    | some _ => setShares none (finishCouch 6 s)
    | none => s
  { s1 with pair := { s1.pair with
    state := .standby
    yielding := false
    armed := false
    synced := false
    partnered := false
    couch := none } }

/-- The member becomes ACTIVE without a takeover: by negotiation, the orphan rule or a seize (R365, R367). -/
def goActive (s : State) : State :=
  let s1 := { s with pair := { s.pair with
    state := .active
    actSince := s.ep.e
    orphanSince := none
    armed := false
    synced := false
    partnered := false } }
  let s2 := sendRoles false false (roleTick s1) s1
  forEach allChans hartResume (forEach s2.host.work repost s2)

/-- A STANDBY member becomes ORPHAN, recorded (Table 11-3, Table 18-3). What R367 asks may have begun before. -/
def becomeOrphan (s : State) : State :=
  recordPair 5 0 { s with pair := { s.pair with state := .orphan, armed := false, synced := false } }

end Sys2Proof.Machine
end

