-- ==== Sys2Proof/Machine/TileOps.lean ====
section
/-! DEFINITION. The tile as a whole: entering HOLD and FALLBACK, going LIVE, tile reflex and hub reflex (R41 to R50, R71 to R74, R279 to
R283). -/

namespace Sys2Proof.Machine

open Sys2Proof

/-! ## Reports and events -/

/-- A timed-command report queued upstream (R70): handle, code of Table 02-11, tile time. -/
def tack (t : Fin 12) (handle code : Nat) (s : State) : State :=
  modTile t (fun x => { x with tacks := x.tacks ++ [{ handle := BitVec.ofNat 8 handle, code := code, ticks := BitVec.ofNat 32 (tileTick s t) }] }) s

/-- An event of an instant of tile time in the tile's queue of 64; the newest is dropped and counted when it is full (R58). -/
def queueEvtAt (at_ : Nat) (t : Fin 12) (kind idx : Nat) (on : Bool) (s : State) : State :=
  modTile t (fun x =>
    if 64 ≤ x.evq.length then { x with evDrop := (x.evDrop + 1) % 65536 }
    else { x with evq := x.evq ++ [{ kind := kind, idx := idx, on := on, time := at_ }] }) s

/-- An event of the present instant. -/
def queueEvt (t : Fin 12) (kind idx : Nat) (on : Bool) (s : State) : State := queueEvtAt (tileHalf s t) t kind idx on s

/-! ## Drives of fallback -/

/-- The drive that FBVAL gives a channel. -/
def fbDrive (s : State) (k : Fin 96) : Drive :=
  let r := tileRec s k
  driveOf s k.val r (fbval (chFunc r) (safeRec s k))

/-- The drive of the hub's last committed value (R49). -/
def comDrive (s : State) (k : Fin 96) : Drive :=
  match (s.chan.get k).com with
  | some v => driveOf s k.val (tileRec s k) v
  | none => fbDrive s k

/-- The base value of a channel's level 7: FBVAL while its group's fallback stands there, else the committed value (R319, R322). -/
def baseDrive (s : State) (k : Fin 96) : Drive := if (s.chan.get k).lev.l7fb then fbDrive s k else comDrive s k

/-- A channel whose function is an output in its tile. -/
def isOut (s : State) (k : Fin 96) : Bool := isOutF (chFunc (tileRec s k))

/-- The output channels of a tile. -/
def outsOf (s : State) (t : Fin 12) : List (Fin 96) := (tileChans t).filter (isOut s)

/-- A train under way completes its present pulse and starts no other (R48). -/
def endTrain (k : Fin 96) (s : State) : State :=
  modPg k (fun g => if chPgmode (tileRec s k) = 2 then { g with left := 0, nextAt := none } else g) s

/-- The value that a hold keeps at a channel: the word that decides its terminal runs on, not a change of levels 5 to 7 that still waits for its
period (R175). -/
def heldOf (s : State) (k : Fin 96) : Drive :=
  let c := s.chan.get k
  match heldDrive c.lev with
  | .word on d => if chPgmode (tileRec s k) = 1 && c.pg.next.isSome then .word c.pg.on c.pg.duty else .word on d
  | d => d

/-- A channel applies its fallback: FBACK = HOLD keeps the value, SAFE applies FBVAL; FALLBACK shows (Table 02-4, R47). A train ends its
pulse (R48). -/
def fallBack (k : Fin 96) (s : State) : State :=
  let d := if fbSafe (safeRec s k) then fbDrive s k else heldOf s k
  refresh k (modLev k (fun l => { l with l3 := some d, fell := true, holding := false, holdEnd := none }) (endTrain k s))

/-- A channel holds its present value for its HOLDWIN (R46, R47). A PWM keeps its word; a train ends its pulse (R48). -/
def holdChan (k : Fin 96) (s : State) : State :=
  let d := heldOf s k
  match holdwin (safeRec s k) with
  | some 0 => fallBack k s
  | w =>
    refresh k (modLev k (fun l => { l with l3 := some d, holding := true, holdEnd := w.map (fun n => s.now + ms n) }) (endTrain k s))

/-- The HANDLE that a command carried: 0 for level-5 commands and releases, and for the release of a reflex entry, for which the spec names none
(R68, R70; DESIGN CHOICE, log entry 152). -/
def entryHandle (e : TEntry) : Nat :=
  match e.kind with
  | .buf h _ => h
  | .l6rel h _ => h
  | _ => 0

/-- The tile discards every pending command; each is reported DISCARDED once the link returns (R48, R68). The spec names no report for the
release of a reflex entry: discarded or cancelled it is reported under HANDLE 0, although its execution draws none (DESIGN CHOICE, log entry
152). -/
def discardAll (t : Fin 12) (s : State) : State :=
  let rep (e : TEntry) : Tack :=
    { handle := BitVec.ofNat 8 (entryHandle e), code := 5, ticks := BitVec.ofNat 32 (tileTick s t) }
  modTile t (fun x => { x with pend := [], discarded := x.discarded ++ x.pend.map rep, ran := [] }) s

/-- A LIVE tile whose link falls silent enters HOLD, or FALLBACK when no output channel holds (R45 to R48, R366). -/
def enterHold (t : Fin 12) (s : State) : State :=
  let outs := outsOf s t
  let anyHold := outs.any fun k => holdwin (safeRec s k) != some 0
  let s1 := discardAll t s
  let s2 := forEach outs holdChan s1
  let aside := (s.tile.get t).partnered && !(s.tile.get t).standby
  let role (s : State) : State :=
    if aside then roleFresh t true (modTile t (fun x => { x with standby := true }) s) else s
  refreshTile t (modTile t (fun x => { x with state := if anyHold then .hold else .fallback }) (judgingTile t role s2))

/-! ## Tile reflex (R71 to R74) -/

/-- Comparator bits of a tile: bit 2c + j (R460). -/
def cmpBits (s : State) (t : Fin 12) : Nat :=
  (List.finRange 8).foldl (fun a c =>
    let x := s.chan.get (chanAt t c)
    a + b2n x.cmpA * 2 ^ (2 * c.val) + b2n x.cmpB * 2 ^ (2 * c.val + 1)) 0

/-- The drive that a reflex action gives its target: switch on, switch off, preset DAC code, FBVAL (Tables 14-9, 14-10). -/
def reflexDrive (s : State) (k : Fin 96) (action dac : Nat) : Drive :=
  match action with
  | 0 => .force true
  | 1 => .force false
  | 2 => .dac dac
  | _ => fbDrive s k

/-- Run-time state of a tile reflex entry. -/
def trefSt (x : Tile) (e : Nat) : TrefSt := (x.tref.find? (fun a => a.entry == e)).getD { entry := e, fired := false, since := none }

/-- Run-time state of a tile reflex entry replaced. -/
def putTref (t : Fin 12) (a : TrefSt) (s : State) : State :=
  modTile t (fun x => { x with tref := a :: x.tref.filter (fun b => b.entry != a.entry) }) s

/-- A tile reflex entry fires: its action stands at its target, and EVT reports it. -/
def fireTref (t : Fin 12) (r : Rec) (s : State) : State :=
  match asFin 8 (trTgt r) with
  | none => s
  | some c =>
    let k := chanAt t c
    queueEvt t 2 (trEntry r) true
      (refresh k (modLev k (fun l => { l with tileReflex := some (reflexDrive s k (trAction r) (trDac r)) })
        (putTref t { entry := trEntry r, fired := true, since := none } s)))

/-- A tile reflex entry releases its level; its target's terminal follows apart. -/
def liftTref (t : Fin 12) (r : Rec) (s : State) : State :=
  match asFin 8 (trTgt r) with
  | none => s
  | some c =>
    modLev (chanAt t c) (fun l => { l with tileReflex := none })
      (queueEvt t 3 (trEntry r) false (putTref t { entry := trEntry r, fired := false, since := none } s))

/-- A tile reflex entry releases. -/
def releaseTref (t : Fin 12) (r : Rec) (s : State) : State :=
  match asFin 8 (trTgt r) with
  | none => s
  | some c => refresh (chanAt t c) (liftTref t r s)

/-- The tile reflex records in force. -/
def trefRecs (s : State) (t : Fin 12) : List Rec := match (s.tile.get t).bank with | some b => b.tref | none => []

/-- One entry evaluated against the comparators (R72, R73). A release condition that holds keeps a LATCH entry released. -/
def evalTref (t : Fin 12) (r : Rec) (s : State) : State :=
  let a := trefSt (s.tile.get t) (trEntry r)
  let c := cmpBits s t
  let cond := trHolds r 16 c
  let rel := trLatch r && trHolds r 32 c
  if a.fired then (if (if trLatch r then rel else !cond) then releaseTref t r s else s)
  else if cond && !rel then
    (if trQual r = 0 then fireTref t r s
     else if a.since.isNone then putTref t { a with since := some s.now } s else s)
  else putTref t { a with since := none } s

/-- Tile reflex acts in every tile state but OFF and QUIET (R74). -/
def reflexActs (x : Tile) : Bool := outputsAct x

/-- Every entry that uses a comparator, by its bit, evaluated. -/
def evalTile (t : Fin 12) (bit : Nat) (s : State) : State :=
  if !reflexActs (s.tile.get t) then s
  else
    let uses (r : Rec) : Bool := (List.range 8).any fun i => bitOf (u16 r (16 + 4 * i)) bit
    forEach ((trefRecs s t).filter uses) (evalTref t) s

/-- An upstream flash that the tile sends (Table 02-8), in the periods of its tile time: K28.1 as 1, K28.2 as 2. -/
def upFlash (t : Fin 12) (kind : Nat) (d0 : Nat) (s : State) : State :=
  { s with misc := { s.misc with upFlashes := placeFlash t.val kind d0 (tileHalf s t / 2000) s.misc.upFlashes } }

/-- A comparator takes a level (R71): the tile reflex entries that use it are evaluated, and the decision goes to the event queue and to the
hub (R58, R59). A comparator that has this level already decides nothing. -/
def comparatorSet (k : Fin 96) (b state : Bool) (s : State) : State :=
  let tile := tileOf k
  let bit := 2 * (chanIn k).val + b2n b
  let c := s.chan.get k
  if (if b then c.cmpB else c.cmpA) = state then s
  else
    let s1 := modChan k (fun c => if b then { c with cmpB := state } else { c with cmpA := state }) s
    evalTile tile bit (upFlash tile 1 ((chanIn k).val + 8 * b2n b + 16 * b2n state) (queueEvt tile 1 bit state s1))

/-! ## Hub reflex (R279 to R283) -/

/-- The tile shows the output action of a LATCH entry applied, of which a hub after its reset knows nothing (R283). -/
def hrefFound (s : State) (r : Rec) : Bool :=
  hrLatch r && !hrStop r && !(s.eng.href.any fun a => a.entry == hrEntry r) &&
    (match asFin 96 (hrTarget r) with | some k => (s.chan.get k).lev.hubReflex.isSome | none => false)

/-- A link returns: the hub reads the comparators from the tile's state reports, takes a LATCH action that it finds applied as standing, evaluates
afresh the entries that use them and, after a hub reset, those that nothing has evaluated yet, and sends the present state of every entry that
targets the tile (R283). -/
def hrefReturn (t : Fin 12) (s : State) : State :=
  let bitsNow := cmpBits s t
  let s1 := { s with eng := { s.eng with comp := s.eng.comp.allIdx fun n b => if n / 16 = t.val then bitOf bitsNow (n % 16) else b } }
  let found := (castAll s (·.href)).filter fun r => hrTarget r / 8 == t.val && hrefFound s r
  let s1' := forEach found (fun r s => putHref { entry := hrEntry r, fired := true } s) s1
  let known (r : Rec) : Bool := s1'.eng.href.any fun a => a.entry == hrEntry r
  let due := (castAll s (·.href)).filter fun r => (hrefOfTile s t).contains r || !known r
  let s2 := withHref (forEach due fun r s => evalHref r (putHref { hrefSt s (hrEntry r) with bySilence := false, since := none } s)) s1'
  forEach ((castAll s2 (·.href)).filter fun r => !hrStop r && hrTarget r / 8 == t.val)
    (fun r s => flashHref r (hrefSt s (hrEntry r)).fired s) s2

/-! ## Going LIVE (R44, R49, R50, R273) -/

/-- An output channel leaves HOLD, FALLBACK or QUIET: `ack` where it must wait for its acknowledgement (R44, R50). -/
def restoreChan (k : Fin 96) (ack : Bool) (s : State) : State :=
  let com := baseDrive s k
  if ack then
    refresh k (modLev k (fun l => { l with l3 := some (fbDrive s k), ackWait := true, fell := true, holding := false, holdEnd := none, l7 := com }) s)
  else
    refresh k (modLev k (fun l => { l with l3 := none, ackWait := false, fell := false, holding := false, holdEnd := none, l7 := com }) s)

/-- The restore acknowledgement of a channel (R44): level 3 is released in a LIVE tile. In a tile that holds, level 3 stays (Table 01-3) and the
restore then waits for nothing; a channel that has fallen back since restores as R50 says. -/
def ackLevels (k : Fin 96) (s : State) : State :=
  let l := (s.chan.get k).lev
  if !l.ackWait then s
  else if (s.tile.get (tileOf k)).state = .live then
    modLev k (fun l => { l with l3 := none, ackWait := false, fell := false, l7 := baseDrive s k }) s
  else modLev k (fun l => { l with ackWait := false, fell := l.fell && !l.holding }) s

/-- The restore acknowledgement and the terminal after it. -/
def ackLevel3 (k : Fin 96) (s : State) : State := withRefresh k (ackLevels k) s

/-- The lanes of a tile take up again at the boundary (R273). An RDVAL that the tile discarded before its stamp is sent again (R276). Stamps of commands that the tile discarded hold back no later one (log
entry 137). -/
def lanesReturn (t : Fin 12) (s : State) : State :=
  forEach (List.finRange 96) (fun n s =>
    match laneOf s n.val with
    | none => s
    | some r =>
      if laneTarget r / 8 != t.val then s
      else
        let l0 := s.eng.lane.get n
        let tick := sysTick s
        let ended := match l0.rdAt with | some a => decide (a ≤ tick) | none => false
        let s := if (l0.state = 1 || l0.state = 2) && ended then setLaneState n 3 s else s
        let st := (s.eng.lane.get n).state
        let s := modLane n (fun l => { l with
          cmds := l.cmds.filter (·.done), last := l.lastStamp, known := none
          nextEntry := if laneCam r then l.nextEntry else firstEntry r (laneEntries s r) l.startAt tick }) s
        if st = 1 || st = 2 then
          let s1 := sendPresent n tick s
          (match l0.rdAt with | some a => sendRdval n r a false s1 | none => s1)
        else if st = 3 && !laneRdHold r then sendLane n 65535 (sysTick s) (laneRdVal r) false 0 s
        else if st = 0 && (match asFin 96 (laneTarget r) with | some k => (s.chan.get k).lev.l6.isSome | none => false) then laneIdle n (sysTick s) s
        else s) s

/-- The published count of a channel follows its tile's count (R168). -/
def publishCount (k : Fin 96) (s : State) : State := modDig k (fun d => { d with pub := d.offset + d.count }) s

/-- The standing override of a channel given to its tile again: the host's, or the point that trimming shows (R119). -/
def resendOvr (k : Fin 96) (s : State) : State :=
  let r := tileRec s k
  let d : Option Drive := match s.nvs.armed with
    | some a =>
      if a.k = k then some (.dac (dacCode r (trimTarget s k.val r (f32Rat (if a.span then a.sref else a.zref)))))
      else (s.chan.get k).ovr.map (driveOf s k.val r)
    | none => (s.chan.get k).ovr.map (driveOf s k.val r)
  modLev k (fun l => { l with l5 := d }) s

/-- This member does not drive the terminals: a seat-strapped member that is ORPHAN or STANDBY, or the incoming one of a couch (Table 11-3). -/
def memberStandby (s : State) : Bool :=
  s.pwr.straps.pairId != 2 && match s.pair.state with
    | .orphan | .standby => true
    | .couch => (match s.pair.couch with | some c => c.incoming | none => false)
    | _ => false

/-- A tile goes LIVE at a boundary: from HOLD and FALLBACK the held outputs are compared with the committed ones and mismatches recorded
(R49); channels restore by RESTORE where they fell back or the tile was QUIET (R44, R50); lanes, hub reflexes and HART take up again. A tile of a
member that does not drive is in STANDBY from then on (R364). -/
def goLive (t : Fin 12) (s : State) : State :=
  let x := s.tile.get t
  let held := x.state = .hold || x.state = .fallback
  let outs := outsOf s t
  let s1 := if held then
      forEach (outs.filter fun k => (s.chan.get k).lev.l3 != some (comDrive s k)) (fun k s => recordGeneric 1 k.val s) s
    else s
  let trim : Option (Fin 8) := match s.nvs.armed with | some a => if tileOf a.k = t then some (chanIn a.k) else none | none => none
  let s2 := judgingTile t (modTile t (fun x => { x with state := .live, trim := trim, standby := x.standby || memberStandby s })) (beside (hrefReturn t) s1)
  let s3 := forEach outs (fun k s =>
    let fell := (s.chan.get k).lev.fell || !held
    restoreChan k (fell && restoreAck (safeRec s k) || (s.chan.get k).lev.ackWait) (resendOvr k s)) s2
  let s4 := refreshTile t (beside (lanesReturn t) (forEach (tileChans t) publishCount s3))
  let s5 := forEach (trefRecs s4 t) (evalTref t) s4
  forEach (tileChans t) nextTurn s5

/-- The instant is T_E of the present epoch. -/
def atBoundary (s : State) : Bool := s.ep.counting && decide ((sysHalf s : Int) = epochHalf s s.ep.e)

/-- The commit lead allows the present epoch for a link that returned in an earlier one (R49). -/
def leadPassed (s : State) (t : Fin 12) : Bool := decide ((s.link.get t).goodEpoch + Config.commitLead ≤ s.ep.e)

/-- The bank of a tile that an image describes. -/
def bankOf (i : Image) (t : Fin 12) : TileBank :=
  let rec_ (c : Fin 8) : Rec := i.chan.getD (chanAt t c).val []
  let find (l : List Rec) (c : Fin 8) (f : Rec → Nat) : Rec := (l.find? (fun r => f r == (chanAt t c).val)).getD []
  { chan := ⟨(List.finRange 8).map rec_, by simp⟩
    tile := i.tile.getD t.val []
    safe := ⟨(List.finRange 8).map (fun c => find i.safe c (fun r => u16 r 0)), by simp⟩
    prof := i.prof
    tref := i.tref.filter (fun r => trTile r == t.val)
    hact := ⟨(List.finRange 8).map (fun c => find (i.href.filter (fun r => !hrStop r)) c hrTarget), by simp⟩ }

/-- The tile's bank is the one that the cast describes, reflex actions and all (R280; R610: before a restore a tile has the configuration of the cast
in force). -/
def bankMatches (s : State) (t : Fin 12) : Bool :=
  match s.img.cast with
  | some i => (s.tile.get t).bank == some (bankOf i t)
  | none => false

/-- Factory test mode: TESTMODE was high at power-on and the field-lock fuse is intact (R490, R491). -/
def testMode (s : State) : Bool := s.pwr.straps.testMode == 1 && !s.sec.fieldLock

/-- The tile holds its configuration, its link is good and the hub may restore it (R34, R49); without a Studio slot that verifies no tile is (R524). -/
def restorable (s : State) (t : Fin 12) : Bool :=
  let x := s.tile.get t
  hubUp s && s.img.cast.isSome && s.ep.joined && bankMatches s t && !x.lockLatch && linkUp s t && (s.link.get t).fclk &&
    x.state != .off && x.state != .live && !x.sunk && !testMode s && !s.nvs.store.idBad && s.nvs.studio.running.isSome

/-- Low 32 bits of the cast's identity hash; 0 without a cast. -/
def castId (s : State) : Nat := match s.img.cast with | some i => u32 i.id 0 | none => 0

/-- The journal format of the running firmware (R386). -/
def jfmtOf (s : State) : Nat := match s.nvs.patch.running with | some i => (s.nvs.patch.slot.get i).jfmt | none => 1

/-- The conditions of R370; the last of them a hub reset ends by clearing the items received. -/
def syncedNow (s : State) : Bool :=
  match s.pair.partner with
  | none => false
  | some p =>
    castId s != 0 && castId s == p.castId.toNat && jfmtOf s == p.jfmt && s.net.locked &&
      ((List.finRange 12).all fun t => (s.tile.get t).state != .off && bankMatches s t && linkUp s t) &&
      decide ((p.jhead + (2 ^ 32 - s.host.jnl.acked)) % 2 ^ 32 ≤ 65536) && (usedItems s).all s.pair.items.contains

/-- SYNCED ends with its conditions, and ARMED with it (R370, R371). -/
def keepSync (s : State) : State :=
  if s.pair.state == .standby && s.pair.synced && !syncedNow s then { s with pair := { s.pair with synced := false, armed := false } } else s

end Sys2Proof.Machine
end

