-- ==== Sys2Proof/Machine/BankOps.lean ====
section
/-! DEFINITION. A tile's configuration banks: what a changed record starts afresh (R443 to R445, Table 13-12, R217, R168). -/

namespace Sys2Proof.Machine

open Sys2Proof

/-- A TRIM record (Table 18-3): the event, the SOURCE, a reason and a value. -/
def recordTrim (ev source reason : Nat) (v : Word) (s : State) : State := record 0x0303 source ev 0 [reason, v.toNat] s

/-- Trimming ends on a channel (R121): on an output channel a stamped level-5 release goes to the tile (R68, R119). -/
def disarm (s : State) : State :=
  match s.nvs.armed with
  | none => s
  | some a =>
    let s1 := mgtTrim a.k false (recordTrim 2 (srcOf 1 a.k.val) 0 0 (disarmQuiet s))
    if isOutF (chFunc (castRec s a.k.val)) then mgtSend (tileOf a.k) .l5rel (chanIn a.k) s1 else s1

/-- PARALLEL no longer stands between a channel and another (R227). -/
def dropPar (k : Fin 96) (other : Nat) (s : State) : State :=
  let s1 := modDg k (fun g => { g with par := g.par.filter (· != other) }) s
  if (s1.chan.get k).dg.par.isEmpty then clearVerdict k 0x40 s1 else s1

/-- A channel whose record changed starts afresh in its tile (Table 13-12): FBVAL, no override, NOTEST, count at 0. Latches, clamp windows and the
level-1 state stay, and so do the insulation history and its runs (R233). VALID of a digital input starts by the present LPt (R164, R165). After a start of its tile (`first`) the hub's offset stays,
so that the published count continues (R168). The filtered state of an input starts OFF (DESIGN CHOICE, log entry 150). -/
def freshChan (first : Bool) (k : Fin 96) (s : State) : State :=
  let s1 := forEach (s.chan.get k).dg.par (fun j s => match asFin 96 j with | some j => dropPar j k.val s | none => s) s
  let lpt := (s.tile.get (tileOf k)).lpt
  let r := tileRec s k
  let low (d : Dig) : Bool := (chFunc r == .di || chFunc r == .cnt) && (decide (lpt < 100 * chDivmin r) || d.divLow && decide (lpt < 100 * chDivmin r + 400))
  let s2 := modChan k (fun c => { c with
    lev := { c.lev with l5 := none, l7fb := false, ackWait := false }
    pg := {}
    ana := { startAt := tileHalf s (tileOf k) }
    dig := { divLow := low c.dig, namLow := chFunc r == .nam && decide (lpt < 10000)
             pub := if first then c.dig.pub else 0, offset := if first then c.dig.offset else 0 }
    dg := { recorded := c.dg.recorded, changed := s1.now, ins := c.dg.ins, lowSince := c.dg.lowSince, highSince := c.dg.highSince }
    cmpA := false
    cmpB := false }) s1
  modLev k (fun l => { l with l7 := fbDrive s2 k }) s2

/-- The tile's pending commands of some channels cancelled and reported CANCELLED. -/
def cancelWhere (t : Fin 12) (p : TEntry → Bool) (s : State) : State :=
  let gone := (s.tile.get t).pend.filter p
  let s1 := modTile t (fun x => { x with pend := x.pend.filter (fun e => !p e) }) s
  forEach gone (fun e s => tack t (entryHandle e) 3 s) s1

/-- The tile takes a configuration bank in one FCLK cycle; records that differ start afresh. -/
def switchBank (t : Fin 12) (b : TileBank) (s : State) : State :=
  let old : TileBank := ((s.tile.get t).bank).getD {}
  let first := (s.tile.get t).bank.isNone
  let changed (c : Fin 8) : Bool := first || old.chan.get c != b.chan.get c
  let gone := old.tref.filter (fun r => !b.tref.contains r)
  let s1 := modTile t (fun x => { x with bank := some b, tref := x.tref.filter (fun a => !gone.any (fun r => trEntry r == a.entry)) }) s
  let s2 := forEach gone (fun r s => match asFin 8 (trTgt r) with
    | some c => modLev (chanAt t c) (fun l => { l with tileReflex := none }) s
    | none => s) s1
  let s3 := forEach (List.finRange 8) (fun c s =>
    let s := if old.hact.get c != b.hact.get c then modLev (chanAt t c) (fun l => { l with hubReflex := none }) s else s
    if changed c then freshChan first (chanAt t c) s else s) s2
  let s4 := if first then s3 else cancelWhere t (fun e => changed e.c) s3
  let s5 := refreshTile t s4
  if reflexActs (s5.tile.get t) then forEach b.tref (evalTref t) s5 else s5

/-- One configuration item written into a bank (R56, log entry 6). -/
def putItem (i : CfgItem) (b : TileBank) : TileBank :=
  match i with
  | .none => b
  | .chan c r => { b with chan := b.chan.set c r }
  | .tile r => { b with tile := r }
  | .safe c r => { b with safe := b.safe.set c r }
  | .prof r => { b with prof := r :: b.prof.filter (fun q => u8 q 0 != u8 r 0 || u8 q 1 != u8 r 1) }
  | .tref r => { b with tref := r :: b.tref.filter (fun q => trEntry q != trEntry r) }
  | .hact c r => { b with hact := b.hact.set c r }
  | _ => b

/-- The hub pushes the cast's configuration to a tile that does not hold it (R34, R43, R610): CFG frames and their commit go out. -/
def pushConfig (t : Fin 12) (s : State) : State :=
  match s.img.cast with
  | some i =>
    if bankMatches s t then s else { s with misc := { s.misc with cfgSent := s.misc.cfgSent ++ [(t.val, bankOf i t)] } }
  | none => s

end Sys2Proof.Machine
end

