-- ==== Sys2Proof/Machine/Links.lean ====
section
/-! DEFINITION. Tile links: frames, flashes, silence, HOLDWIN and restoration (R41 to R63, R75, R76). -/

namespace Sys2Proof.Machine

open Sys2Proof

/-! ## Field supply (R41 to R43) -/

/-- TILE_SUPPLY_LOW: LPt below 19.2 V + 0.15 V (Table 02-3). -/
def execTileSupplyLow (t : Time) (tile : Fin 12) (lpt : Nat) (s : State) : Out :=
  let s := s.at_ t
  when (tilePowered s tile && decide (lpt < 19350) && !(s.tile.get tile).supplyLow)
    (fun s => upFlash tile 2 3 (modTile tile (fun x => { x with supplyLow := true, lpt := lpt }) s)) s

/-- TILE_SUPPLY_GOOD: LPt at or above 19.6 V − 0.15 V for 10 ms. -/
def execTileSupplyGood (t : Time) (tile : Fin 12) (lpt : Nat) (held : Time) (s : State) : Out :=
  let s := s.at_ t
  when (tilePowered s tile && decide (19450 ≤ lpt) && decide (ms 10 ≤ held))
    (modTile tile (fun x => { x with supplyLow := false, lpt := lpt })) s

/-- BROWNOUT: LPt below 6.5 V + 0.1 V; a notice flash, nothing else changes. -/
def execBrownout (t : Time) (tile : Fin 12) (lpt : Nat) (s : State) : Out :=
  let s := s.at_ t
  when (tilePowered s tile && decide (lpt < 6600))
    (fun s => upFlash tile 2 1 (modTile tile (fun x => { x with lpt := lpt }) s)) s

/-- The tile de-energises every output and is QUIET; its configuration stays (R43). -/
def goQuiet (t : Fin 12) (s : State) : State :=
  let s1 := modTile t (fun x => { x with state := .quiet, sunk := true, tref := [] }) s
  let s2 := forEach (tileChans t) (fun k s => modChan k (fun c => { c with
    pg := {}
    lev := { c.lev with l3 := none, ackWait := false, holding := false, holdEnd := none, fell := false, tileReflex := none } }) s) s1
  refreshTile t s2

/-- RIDE_THROUGH_END: LPt falls below 6.0 V, at the latest below 5.8 V (Table 02-3); at 6.0 V every output still stands (R42). -/
def execRideThroughEnd (t : Time) (tile : Fin 12) (lpt : Nat) (s : State) : Out :=
  let s := s.at_ t
  when (tilePowered s tile && decide (lpt < 6000))
    (fun s => goQuiet tile (modTile tile (fun x => { x with lpt := lpt, supplyLow := true }) s)) s

/-- Latches and windows that tile and hub have lost (R198). -/
def loseLatches (w : Sw) : Sw :=
  let held := w.thermLatch || w.clampLock || (match w.cut with | some u => u.latched | none => false) || !w.bins.isEmpty
  { changed := w.changed, lost := w.lost || held }

/-- What a channel keeps when its tile stops: latched cut-offs, the thermal latch, CLAMPLOCK and the clamp windows, which the hub loads back unless it
has no power either (R198), since when the switch is off (R182), the hub's committed value and override, published count and insulation
history, and the hub's HART side. The windows stand still while the tile is OFF, and what comes back is what the tile last held, whether or not a
STATUS frame had told the hub of it (DESIGN CHOICE, log entry 158). A disabled clamp stage is enabled again (DESIGN CHOICE, log entry 159). -/
def stoppedChan (now : Time) (hub : Bool) (c : Chan) : Chan :=
  let kept : Sw := {
    cut := match c.sw.cut with | some u => if u.latched then some u else none | none => none
    thermLatch := c.sw.thermLatch
    clampLock := c.sw.clampLock
    bins := c.sw.bins
    lost := c.sw.lost
    changed := if c.sw.on then now else c.sw.changed }
  { sw := if hub then kept else loseLatches kept
    dig := { pub := c.dig.pub, offset := c.dig.pub }
    dg := { c.dg with stand := [], judged := false, follow := [], leakLow := 0, leakHigh := 0 }
    hart := { c.hart with buf := [], tx := false, carrier := false, pre := 0, rxOn := false, rx := [], rxErr := false, txAbort := false }
    com := c.com
    ovr := c.ovr }

/-- A tile stops: OFF, unpowered, without configuration, lock or pending commands (R43, R487). -/
def tileDies (t : Fin 12) (s : State) : State :=
  let s1 := modTile t (fun x => { lpt := x.lpt, temp := x.temp, supplyLow := true, standby := x.standby, partnered := x.partnered, timeOff := x.timeOff }) s
  let s2 := forEach (tileChans t) (fun k s => modChan k (stoppedChan s.now (s.pwr.phase != .por)) s) s1
  let s3 := modLink t (fun l => { l with downSilent := true, downBad := 0, downGood := 0, downSeq := none, downLast := none, fclk := false, stepDue := false, downSeen := none }) s2
  let s4 := { s3 with sns := s3.sns.set t {}
                      nvs := { s3.nvs with tileStops := s3.nvs.tileStops.upd t (· + 1) } }
  refreshTile t s4

/-- TILE_STOP: LPt through 5.3 V to 5.5 V. -/
def execTileStop (t : Time) (tile : Fin 12) (lpt : Nat) (s : State) : Out :=
  let s := s.at_ t
  when (tilePowered s tile && decide (lpt ≤ 5500)) (fun s => keepSync <| tileDies tile (modTile tile (fun x => { x with lpt := lpt }) s)) s

/-- TILE_START: LPt at or above 8.0 V − 0.2 V for 10 ms. SUPPLY stays set until LPt has stood at 19.6 V for 10 ms (Table 02-3). The restart of
each count is recorded (R168); latches and windows come back from the hub's copy (R198). A tile that had only de-energised stays QUIET
and may drive again (R43). -/
def execTileStart (t : Time) (tile : Fin 12) (lpt : Nat) (held : Time) (s : State) : Out :=
  let s := s.at_ t
  when (decide (7800 ≤ lpt) && decide (ms 10 ≤ held))
    (fun s =>
      if tilePowered s tile then refreshTile tile (modTile tile (fun x => { x with sunk := false, lpt := lpt }) s)
      else
      let s1 := modTile tile (fun x => { x with state := .quiet, lpt := lpt, supplyLow := true }) s
      forEach ((tileChans tile).filter fun k => chFunc (castRec s k.val) == .cnt) (fun k s => recordGeneric 1 k.val s) s1) s

/-- DIEWARN: the die at 150 °C; no switch opens (R191). -/
def execDiewarn (t : Time) (tile : Fin 12) (temp : Int) (s : State) : Out :=
  let s := s.at_ t
  when (tilePowered s tile && decide (1500 ≤ temp))
    (fun s => upFlash tile 2 2 (modTile tile (fun x => { x with temp := temp, dieWarn := true }) s)) s

/-! ## The link as declared good -/

/-- The hub assigns a tile its member's role when the link comes up (R366). A member that does not drive has its tiles in STANDBY. -/
def assignRole (t : Fin 12) (s : State) : State :=
  if s.pwr.straps.pairId = 2 then s
  else tileSend t 15 0 mgtRole 0 (sysTick s) (b2n (memberStandby s) + 2 * b2n s.pair.partnered) s

/-- The hub declares a link good again once its upstream direction is good and STATUS reports the tile's direction good (R62): the
tile-link source ends, hub reflexes follow their last case (R283), and a tile without the cast's configuration has it pushed (R43) and its member's role sent (R366). -/
def hubLinkUp (t : Fin 12) (s : State) : State :=
  let l := s.link.get t
  if l.hubSilent && !l.upSilent && !l.tileSays && l.stoppedAt.isNone then
    -- A latched tile of a hub that is not in LOCK has its latch cleared after a power-on reset (R487).
    let clear (s : State) : State :=
      if (s.tile.get t).lockLatch && !s.flt.lock then refreshTile t (modTile t (fun x => { x with lockLatch := false }) (tileSend t 15 0 mgtClearLatch 0 0 0 s)) else s
    pushConfig t (clear <| assignRole t <| beside (hrefReturn t) (calm (0x030 + t.val) (modLink t (fun l => { l with hubSilent := false, goodEpoch := s.ep.e }) s)))
  else s

/-- A die thermal cycle: the temperature passes 40 °C above its lowest value of the previous 24 h (Table 17-10). -/
def dieCycle (t : Fin 12) (temp : Int) (s : State) : State :=
  let low := s.nvs.tileLow.get t
  let fresh : Option (Int × Time) := some (temp, s.now)
  match low with
  | none => { s with nvs := { s.nvs with tileLow := s.nvs.tileLow.set t fresh } }
  | some (v, at_) =>
    if temp ≤ v || sec 86400 < s.now - at_ then { s with nvs := { s.nvs with tileLow := s.nvs.tileLow.set t fresh } }
    else if v + 400 < temp then
      { s with nvs := { s.nvs with tileLow := s.nvs.tileLow.set t fresh, tileCycles := s.nvs.tileCycles.upd t (· + 1) } }
    else s

/-- The hub's receiver of a tile link works: the hub runs and the link's block is not held in reset (R476). -/
def upReceiver (s : State) (t : Fin 12) : Bool := hubUp s && !s.flt.blocks.any (fun b => b.1 == 0x030 + t.val)

/-! ## Flashes (R59, Table 02-8) -/

/-- A flash's complement byte matches; otherwise it is discarded and counted as a bad character. -/
def flashOk (d0 d1 : Byte) : Bool := d1 == ~~~d0

def badFlash (t : Fin 12) (s : State) : State := modLink t (fun l => { l with badChars := l.badChars + 1 }) s

/-- A comparator state that the hub learns, and the hub reflexes that read it (R281). -/
def compTake (n : Nat) (on : Bool) (s : State) : State :=
  let was := s.eng.comp.list.getD n false
  let s1 := { s with eng := { s.eng with comp := s.eng.comp.allIdx fun i b => if i = n then on else b } }
  if was = on then s1 else evalLits 10 [n] s1

/-- COMPARATOR_FLASH: the hub learns a comparator state and evaluates the entries that use it (R281). A flash whose reserved D0 bits are
not 0 is ignored: the spec gives a receiver no other effect for it (DESIGN CHOICE, log entry 117). -/
def execComparatorFlash (t : Time) (tile : Fin 12) (d0 d1 : Byte) (s : State) : Out :=
  let s := s.at_ t
  when (upReceiver s tile && !(s.link.get tile).upSilent)
    (fun s =>
      if !flashOk d0 d1 then badFlash tile s
      else if bits d0.toNat 5 3 != 0 then s
      else
        let n := 16 * tile.val + 2 * bits d0.toNat 0 3 + bits d0.toNat 3 1
        let on := bitOf d0.toNat 4
        beside (compTake n on) s) s

/-- HUB_REFLEX_FLASH: the tile applies or releases a channel's preloaded action at level 2 (R280). A flash whose reserved D0 bits are not 0 is
ignored (DESIGN CHOICE, log entry 117). -/
def execHubReflexFlash (t : Time) (tile : Fin 12) (d0 d1 : Byte) (s : State) : Out :=
  let s := s.at_ t
  let x := s.tile.get tile
  when (tilePowered s tile && !(s.link.get tile).downSilent && !x.lockLatch)
    (fun s =>
      if !flashOk d0 d1 then badFlash tile s
      else if bits d0.toNat 4 4 != 0 then s
      else
        let c : Fin 8 := ⟨bits d0.toNat 0 3, Nat.mod_lt _ (by decide)⟩
        let k := chanAt tile c
        let r : Rec := match x.bank with | some b => b.hact.get c | none => []
        if bitOf d0.toNat 3 then refresh k (modLev k (fun l => { l with hubReflex := none }) s)
        else if r.isEmpty then s
        else refresh k (modLev k (fun l => { l with hubReflex := some (reflexDrive s k (hrAction r) (hrDac r)) }) s)) s

/-- NOTICE_FLASH: BROWNOUT raises 0x080 + t and makes a PARTNERED ACTIVE member yield (R379); DIEWARN raises 0x070 + t; SUPPLYLOW tells
what the tile's CSWs carry. -/
def execNoticeFlash (t : Time) (tile : Fin 12) (d0 d1 : Byte) (s : State) : Out :=
  let s := s.at_ t
  when (upReceiver s tile && !(s.link.get tile).upSilent)
    (fun s =>
      if !flashOk d0 d1 then badFlash tile s
      else if d0 = 1 then raise (0x080 + tile.val) (yieldIf 2 tile.val s)
      else if d0 = 2 then raise (0x070 + tile.val) s
      else s) s

/-! ## Silence (R45 to R50, R61 to R63) -/

/-- Whole periods without a frame since the last judged one; `now` is the comma that ends the period (R55, R65). -/
def missed (seen : Option Time) (now : Time) : Nat :=
  match seen with
  | some a => (now - a + us 1 / 2) / us 1
  | none => 0

/-- Eight consecutive frames bad or missing (R61); a direction that has brought no frame yet counts as silent. -/
def silentDue (bad : Nat) (seen : Option Time) (now : Time) : Bool := decide (8 ≤ bad + missed seen now) || seen.isNone

/-- 64 consecutive good frames, the last of them in the period that has just ended or the one before it (R61). -/
def linkGoodDue (good : Nat) (seen : Option Time) (now : Time) : Bool := decide (64 ≤ good) && decide (missed seen now ≤ 1) && seen.isSome

/-- TILE_LINK_SILENT: pending commands are discarded, a LIVE tile holds or falls back, a PARTNERED one takes STANDBY in the same cycle
(R366), and the modems stop (R130). A latched tile ignores its link (R486). A tile that already holds keeps the windows of its first silence
(DESIGN CHOICE, log entry 118). -/
def execTileLinkSilent (t : Time) (tile : Fin 12) (s : State) : Out :=
  let s := s.at_ t
  let l := s.link.get tile
  when (tilePowered s tile && !l.downSilent && silentDue l.downBad l.downSeen s.now)
    (fun s =>
      let s1 := modLink tile (fun l => { l with downSilent := true, downGood := 0, fclk := false, stepDue := false }) s
      let s2 := forEach (tileChans tile) modemStop s1
      let x := s2.tile.get tile
      if x.lockLatch then s2
      else if x.state = .live then enterHold tile s2
      else discardAll tile s2) s

/-- Commands under way to a tile whose link fell silent are given up by the hub: lanes and loop blocks forget their handles. -/
def forgetSent (t : Fin 12) (s : State) : State :=
  let mine (n : Nat) : Bool := match laneOf s n with | some r => laneTarget r / 8 == t.val | none => false
  let loops := (castAll s (·.loop)).filter fun r => lpRtype r == 0 && u16 r 6 / 8 == t.val && u8 r 5 == 0
  { s with eng := { s.eng with
      lane := s.eng.lane.allIdx fun n l => if mine n then { l with cmds := l.cmds.filter (·.done) } else l
      loop := s.eng.loop.allIdx fun b l => if loops.any (fun r => lpIndex r == b) then { l with hnd := none } else l } }

/-- HUB_LINK_SILENT: the hub stops its frames and raises the tile-link source; a PARTNERED ACTIVE member yields (R379), a couch before
step 1 is abandoned (R378), ONSILENT acts (R283) and HART is interrupted (Table 04-9). -/
def execHubLinkSilent (t : Time) (tile : Fin 12) (s : State) : Out :=
  let s := s.at_ t
  let l := s.link.get tile
  let own := !l.upSilent && silentDue l.upBad l.upSeen s.now
  when (hubUp s && !l.hubSilent && (l.upSilent || own || l.tileSays))
    (fun s =>
      let s1 := modLink tile (fun l => { l with
        hubSilent := true, upSilent := l.upSilent || own, upGood := 0, silences := satInc l.silences 65535, stoppedAt := some s.now }) s
      let s2 := yieldIf 3 tile.val (couchCause s1)
      let s3 := beside (fun s => hrefSilent tile (forgetSent tile s)) s2
      keepSync (forEach (tileChans tile) hartInterrupt (raiseLevel (0x030 + tile.val) s3))) s

/-- HUB_LINK_RESUME: 100 µs after they stopped, downstream frames start again. -/
def execHubLinkResume (t : Time) (tile : Fin 12) (s : State) : Out :=
  let s := s.at_ t
  let due := match (s.link.get tile).stoppedAt with | some a => decide (a + us 100 ≤ s.now) | none => false
  when (hubUp s && (s.link.get tile).hubSilent && due) (modLink tile (fun l => { l with stoppedAt := none })) s

/-- LINK_GOOD: 64 consecutive good frames. The tile then reports what it discarded (R48). -/
def execLinkGood (t : Time) (tile : Fin 12) (up : Bool) (s : State) : Out :=
  let s := s.at_ t
  let l := s.link.get tile
  if up then
    when (upReceiver s tile && l.upSilent && linkGoodDue l.upGood l.upSeen s.now)
      (fun s => hubLinkUp tile (modLink tile (fun l => { l with upSilent := false, upBad := 0 }) s)) s
  else
    when (tilePowered s tile && l.downSilent && linkGoodDue l.downGood l.downSeen s.now)
      (fun s => modTile tile (fun x => { x with tacks := x.tacks ++ x.discarded, discarded := [] })
        (modLink tile (fun l => { l with downSilent := false, downBad := 0, stepDue := true }) s)) s

/-- FCLK_LOCK: FCLK_t follows the link's character rate (R75); the next TIME frame steps tile time (R76). -/
def execFclkLock (t : Time) (tile : Fin 12) (s : State) : Out :=
  let s := s.at_ t
  let l := s.link.get tile
  when (tilePowered s tile && !l.downSilent && !l.fclk) (modLink tile (fun l => { l with fclk := true, stepDue := true })) s

/-- HOLDWIN_EXPIRY: the channel alone falls back (R47); the tile is in FALLBACK once no output channel holds. The end may come up to
0.5 % early by the drift of a free-running FCLK_t (R76). -/
def execHoldwinExpiry (t : Time) (k : Fin 96) (s : State) : Out :=
  let s := s.at_ t
  let l := (s.chan.get k).lev
  let span := match holdwin (safeRec s k) with | some w => ms w | none => 0
  let due := match l.holdEnd with | some e => decide (e ≤ s.now + span / 200) | none => false
  when ((s.tile.get (tileOf k)).state == .hold && l.holding && due)
    (fun s =>
      let s1 := fallBack k s
      if (outsOf s1 (tileOf k)).any (fun j => (s1.chan.get j).lev.holding) then s1
      else modTile (tileOf k) (fun x => { x with state := .fallback }) s1) s

/-- TILE_RESTORE: at T_E of the first epoch that the commit lead allows after the link's return, a tile in HOLD or FALLBACK goes LIVE again
(R49, R50). -/
def execTileRestore (t : Time) (tile : Fin 12) (s : State) : Out :=
  let s := s.at_ t
  let x := s.tile.get tile
  when (restorable s tile && atBoundary s && leadPassed s tile && (x.state == .hold || x.state == .fallback)) (goLive tile) s

end Sys2Proof.Machine
end

