-- ==== Sys2Proof/Machine/Tcmd.lean ====
section
/-! DEFINITION. Timed commands in the tile, their reports at the hub, and the tile's MGT slot (R44, R56, R64 to R70, R247, R366, R486). -/

namespace Sys2Proof.Machine

open Sys2Proof

/-- The tile receives commands: powered, its direction good, no LOCK latched (R486). -/
def tileHears (s : State) (t : Fin 12) : Bool := tilePowered s t && !(s.link.get t).downSilent && !(s.tile.get t).lockLatch

/-- The tile record that holds the partition sizes. -/
def tileConf (s : State) (t : Fin 12) : Rec := match (s.tile.get t).bank with | some b => b.tile | none => []

/-- A handle lies in the partition of a slot (R66). -/
def inPart (s : State) (t : Fin 12) (slot h : Nat) : Bool :=
  let p := partOf (tileConf s t) slot
  decide (p.1 ≤ h) && decide (h < p.1 + p.2)

/-- The pending buffer entry of a handle. -/
def pendingAt (s : State) (t : Fin 12) (h : Nat) : Option TEntry :=
  (s.tile.get t).pend.find? fun e => match e.kind with | .buf x _ => x == h | _ => false

/-- A stamp is late: up to 2^31 ticks before the present cycle (R65). -/
def stampLate (s : State) (t : Fin 12) (stamp : Word) : Bool :=
  decide (2 ^ 31 ≤ (stamp.toNat + (2 ^ 32 - tileTick s t)) % 2 ^ 32)

/-- One entry takes effect at its level (R67, R68, R247). A DUTY at a level that holds no word yet finds no ON and takes it as off (DESIGN
CHOICE, log entry 119). -/
def applyEntry (t : Fin 12) (e : TEntry) (s : State) : State :=
  let k := chanAt t e.c
  let r := tileRec s k
  let val (cur : Option Drive) : Drive := if e.duty then dutyDrive cur e.value else setDrive r e.value
  match e.kind with
  | .buf _ slot =>
    if slot ≤ 2 then modLev k (fun l => { l with l7 := val (some l.l7) }) s
    else modLev k (fun l => { l with l6 := some (slot, val (l.l6.map (·.2))) }) s
  | .l5 => modLev k (fun l => { l with l5 := some (val l.l5) }) s
  | .l5rel => modLev k (fun l => { l with l5 := none }) s
  | .l6rel _ slot =>
    let same (x : TEntry) : Bool :=
      x.c == e.c && (match x.kind with | .buf _ sl => sl == slot | _ => false) &&
        decide ((x.stamp.toNat + (2 ^ 32 - e.stamp.toNat)) % 2 ^ 32 < 2 ^ 31)
    modLev k (fun l => { l with l6 := match l.l6 with | some (sl, d) => if sl = slot then none else some (sl, d) | none => none })
      (cancelWhere t same s)
  | .refRel entry =>
    match (trefRecs s t).find? (fun r => trEntry r == entry) with
    | some r => if trLatch r && (trefSt (s.tile.get t) entry).fired then liftTref t r s else s
    | none => s

/-- An entry leaves the pending ones and takes effect at its level; the terminal follows apart. -/
def levelEntry (t : Fin 12) (e : TEntry) (s : State) : State :=
  applyEntry t e (modTile t (fun x => { x with
    pend := x.pend.filter (fun y => y != e)
    ran := match e.kind with | .buf h _ => h :: x.ran.filter (· != h) | _ => x.ran }) s)

/-- The report of an entry that has executed: EXEC at its stamp, LATE on arrival. A reflex release command draws none (Table 02-11). -/
def reportRun (t : Fin 12) (code : Nat) (e : TEntry) (s : State) : State :=
  match e.kind with
  | .refRel _ => s
  | _ => tack t (entryHandle e) code s

/-- The entries that execute in one cycle (R27, R67): each passes its value to its level, then the terminals follow, then the reports go. A
level-6 release of the cycle may have cancelled an entry. -/
def runEntries (t : Fin 12) (code : Nat) (due : List TEntry) (s : State) : State :=
  let s1 := forEach due (fun e s => if (s.tile.get t).pend.contains e then levelEntry t e s else s) s
  let s2 := forEach ((List.finRange 8).filter fun c => due.any (fun e => e.c == c)) (fun c s => refresh (chanAt t c) s) s1
  let done (e : TEntry) : Bool := match e.kind with | .buf h _ => (s1.tile.get t).ran.contains h | _ => true
  forEach (due.filter done) (reportRun t code) s2

/-- A received entry stays pending, or executes at receipt as LATE (R65). -/
def holdOrRun (t : Fin 12) (e : TEntry) (s : State) : State :=
  let s1 := modTile t (fun x => { x with
    pend := x.pend ++ [e]
    ran := match e.kind with | .buf h _ => x.ran.filter (· != h) | _ => x.ran }) s
  if stampLate s t e.stamp then runEntries t 1 [e] s1 else s1

/-- SET or DUTY: judged by R66, or in the MGT slot by R68. REJ_HANDLE is judged before REJ_OP (log entry 17). One in the MGT slot with a HANDLE
other than 0 is answered REJ_HANDLE with that handle: the spec names no report for it (DESIGN CHOICE, log entry 120). -/
def setOrDuty (t : Fin 12) (duty : Bool) (slot : Nat) (c : Fin 8) (handle : Byte) (stamp : Word) (value : BitVec 16) (s : State) : State :=
  let h := handle.toNat
  let r := tileRec s (chanAt t c)
  let e (k : TKind) : TEntry := { kind := k, c := c, duty := duty, stamp := stamp, value := value }
  if slot = 15 then
    if h != 0 then tack t h 8 s
    else if !setLegal r duty value then tack t h 9 s
    else
      let isL5 (x : TEntry) : Bool := x.kind == .l5 && x.c == c
      let s1 := if (s.tile.get t).pend.any isL5 then
          tack t 0 2 (modTile t (fun x => { x with pend := x.pend.filter (fun y => !isL5 y) }) s) else s
      holdOrRun t (e .l5) s1
  else if !inPart s t slot h || (pendingAt s t h).isSome then tack t h 8 s
  else if !setLegal r duty value then tack t h 9 s
  else holdOrRun t (e (.buf h slot)) s

/-- TCMD_NOP: ignored. -/
def execTcmdNop (t : Time) (_tile : Fin 12) (_slot : Nat) (_c : Fin 8) (_handle : Byte) (_stamp : Word) (_value : BitVec 16) (s : State) : Out :=
  .next (s.at_ t)

/-- TCMD_SET. -/
def execTcmdSet (t : Time) (tile : Fin 12) (slot : Nat) (c : Fin 8) (handle : Byte) (stamp : Word) (value : BitVec 16) (s : State) : Out :=
  let s := s.at_ t
  when (tileHears s tile) (setOrDuty tile false slot c handle stamp value) s

/-- TCMD_DUTY. -/
def execTcmdDuty (t : Time) (tile : Fin 12) (slot : Nat) (c : Fin 8) (handle : Byte) (stamp : Word) (value : BitVec 16) (s : State) : Out :=
  let s := s.at_ t
  when (tileHears s tile) (setOrDuty tile true slot c handle stamp value) s

/-- The cycle of a pending entry's STAMP has come or passed: a REPLACE or CANCEL is too late (R69). -/
def stampReached (s : State) (t : Fin 12) (stamp : Word) : Bool :=
  stampLate s t stamp || decide (tileTick s t = stamp.toNat)

/-- A REPLACE or CANCEL that finds no pending entry: TOOLATE when the entry has executed (R69), else REJ_HANDLE (R66). -/
def missing (t : Fin 12) (h : Nat) (s : State) : State := tack t h (if (s.tile.get t).ran.contains h then 4 else 8) s

/-- REPLACE: the entry keeps its OP and channel and takes the new stamp and value (R65, R69). -/
def tcmdReplace (t : Fin 12) (slot : Nat) (handle : Byte) (stamp : Word) (value : BitVec 16) (s : State) : State :=
  let h := handle.toNat
  if !inPart s t slot h then tack t h 8 s
  else match pendingAt s t h with
    | none => missing t h s
    | some e =>
      if stampReached s t e.stamp then tack t h 4 s
      else if !setLegal (tileRec s (chanAt t e.c)) e.duty value then tack t h 9 s
      else holdOrRun t { e with stamp := stamp, value := value }
        (tack t h 2 (modTile t (fun x => { x with pend := x.pend.filter (fun y => y != e) }) s))

/-- CANCEL (R66, R69). -/
def tcmdCancel (t : Fin 12) (slot : Nat) (handle : Byte) (s : State) : State :=
  let h := handle.toNat
  if !inPart s t slot h then tack t h 8 s
  else match pendingAt s t h with
    | none => missing t h s
    | some e =>
      if stampReached s t e.stamp then tack t h 4 s
      else tack t h 3 (modTile t (fun x => { x with pend := x.pend.filter (fun y => y != e) }) s)

/-- TCMD_REPLACE. -/
def execTcmdReplace (t : Time) (tile : Fin 12) (slot : Nat) (_c : Fin 8) (handle : Byte) (stamp : Word) (value : BitVec 16) (s : State) : Out :=
  let s := s.at_ t
  when (tileHears s tile) (tcmdReplace tile slot handle stamp value) s

/-- TCMD_CANCEL. -/
def execTcmdCancel (t : Time) (tile : Fin 12) (slot : Nat) (_c : Fin 8) (handle : Byte) (_stamp : Word) (_value : BitVec 16) (s : State) : Out :=
  let s := s.at_ t
  when (tileHears s tile) (tcmdCancel tile slot handle) s

/-- The claimed slot whose partition holds an entry. -/
def slotOf (s : State) (t : Fin 12) (h : Nat) : Option Nat := [3, 4, 5, 6, 7, 8].find? fun sl => inPart s t sl h

/-- RELEASE: MGT slot only (Table 02-10). In another slot it is answered REJ_OP: the spec names no report for it (DESIGN CHOICE, log
entry 121). -/
def tcmdRelease (t : Fin 12) (slot : Nat) (c : Fin 8) (handle : Byte) (stamp : Word) (s : State) : State :=
  let h := handle.toNat
  let e (k : TKind) : TEntry := { kind := k, c := c, duty := false, stamp := stamp, value := 0 }
  if slot != 15 then tack t h 9 s
  else if h = 0 then holdOrRun t (e .l5rel) s
  else match slotOf s t h with
    | some sl => holdOrRun t (e (.l6rel h sl)) s
    | none => tack t h 8 s

/-- TCMD_RELEASE. -/
def execTcmdRelease (t : Time) (tile : Fin 12) (slot : Nat) (c : Fin 8) (handle : Byte) (stamp : Word) (_value : BitVec 16) (s : State) : Out :=
  let s := s.at_ t
  when (tileHears s tile) (tcmdRelease tile slot c handle stamp) s

/-- TCMD_RESERVED_OP: REJ_OP. -/
def execTcmdReservedOp (t : Time) (tile : Fin 12) (_slot : Nat) (_c : Fin 8) (_op : BitVec 5) (handle : Byte) (_stamp : Word) (_value : BitVec 16) (s : State) : Out :=
  let s := s.at_ t
  when (tileHears s tile) (tack tile handle.toNat 9) s

/-- A timed command by its OP (Table 02-10). -/
def tcmdOp (t : Fin 12) (slot op : Nat) (c : Fin 8) (handle : Byte) (stamp : Word) (value : BitVec 16) (s : State) : State :=
  match op with
  | 0 => s
  | 1 => setOrDuty t false slot c handle stamp value s
  | 2 => setOrDuty t true slot c handle stamp value s
  | 3 => tcmdReplace t slot handle stamp value s
  | 4 => tcmdCancel t slot handle s
  | 5 => tcmdRelease t slot c handle stamp s
  | _ => tack t handle.toNat 9 s

/-- The eight bytes of a timed command (Table 02-9). -/
def tcmdWord (t : Fin 12) (slot : Nat) (b : List Byte) (s : State) : State :=
  tcmdOp t slot (bits (u8 b 0) 3 5) ⟨bits (u8 b 0) 0 3, Nat.mod_lt _ (by decide)⟩ (b.getD 1 0) (w32 b 2) (BitVec.ofNat 16 (u16 b 6)) s

/-- TCMD_EXECUTE: every entry with this stamp executes, in order of receipt (R67). -/
def execTcmdExecute (t : Time) (tile : Fin 12) (stamp : Word) (s : State) : Out :=
  let s := s.at_ t
  let x := s.tile.get tile
  when (tilePowered s tile && !x.lockLatch && decide (tileTick s tile = stamp.toNat))
    (runEntries tile 0 (x.pend.filter fun e => e.stamp == stamp)) s

/-! ## Reports at the hub (R69, R70, R269, R270) -/

/-- A TCMD record (Table 18-3): report code and lateness in ticks, signed. -/
def recordTcmd (source code : Nat) (late : Int) (s : State) : State := record 0x0401 source 1 code [unsigned late 32] s

/-- The lane whose command a report names: a pending one, or for TOOLATE one for which a REPLACE or CANCEL is under way, executed though it may be
(R69). -/
def laneOfReport (s : State) (t : Fin 12) (slot h code : Nat) : Option (Fin 96 × LaneCmd) :=
  (List.finRange 96).findSome? fun n =>
    match laneOf s n.val with
    | some r =>
      if laneTarget r / 8 == t.val && laneSlot r == slot then
        ((s.eng.lane.get n).cmds.find? (fun c => c.handle == h && (if code = 4 then c.asks != 0 else !c.done))).map (fun c => (n, c))
      else none
    | none => none

/-- Lateness in ticks of a report: its tile time less the intended stamp. -/
def lateness (ticks : Word) (stamp : Nat) : Int := signed ((ticks.toNat + (2 ^ 32 - stamp % 2 ^ 32)) % 2 ^ 32) 32

/-- A lane's command executed, `late` ticks after its intended stamp; RDVAL makes the lane SAFE (R276). -/
def laneExecuted (n : Fin 96) (c : LaneCmd) (late : Int) (s : State) : State :=
  let s1 := modLane n (laneRan (camCmd s n.val c) c ((c.stamp : Int) + late).toNat) s
  if c.old then s1 else if ranSafe c (s1.eng.lane.get n) then setLaneState n 3 s1 else laneItem n s1

/-- A lane's command leaves the lane's list unexecuted. -/
def laneDropped (n : Fin 96) (c : LaneCmd) (s : State) : State :=
  modLane n (fun l => { l with cmds := l.cmds.filter (fun x => x != c), known := if c.old then l.known else none }) s

/-- A REPLACE or CANCEL of a command has been reported. -/
def laneAnswered (n : Fin 96) (c : LaneCmd) (s : State) : State :=
  modLane n (fun l => { l with cmds := (l.cmds.map fun x => if x == c then { x with asks := x.asks - 1 } else x).filter fun x => !(x.old && x.done && x.asks == 0) }) s

/-- A report about a lane's command. TOOLATE may come before or after the report of the entry itself. -/
def laneReport (n : Fin 96) (c : LaneCmd) (code : Nat) (ticks : Word) (s : State) : State :=
  let late := lateness ticks c.stamp
  match code with
  | 0 => laneExecuted n c late s
  | 1 => recordTcmd (srcOf 4 n.val) 1 late (modLane n (fun l => { l with late := l.late + 1 }) (laneExecuted n c late s))
  | 2 => laneAnswered n c s
  | 4 =>
    let s0 := if c.done then laneAnswered n c s else laneExecuted n { c with asks := c.asks - 1 } late (laneAnswered n c s)
    let s1 := recordTcmd (srcOf 4 n.val) 4 late (modLane n (fun l => { l with tooLate := l.tooLate + 1 }) s0)
    -- The first axis tick after the report, and 50 µs.
    if c.cancelled && !c.old then sendPresent n ((sysTick s1 / 4000 + 1) * 4000 + 20000) s1 else s1
  | _ => laneDropped n c s

/-- The loop block whose output command a report names. -/
def loopOfReport (s : State) (t : Fin 12) (c : Fin 8) (slot h : Nat) : Option (Fin 48) :=
  (castAll s (·.loop)).findSome? fun r =>
    if lpRtype r == 0 && u8 r 5 == 0 && u16 r 6 == (chanAt t c).val && u8 r 8 == slot then
      match asFin 48 (lpIndex r) with
      | some b => if (s.eng.loop.get b).hnd == some h then some b else none
      | none => none
    else none

/-- TACK_REPORT. While its downstream direction is silent the tile sends no report (R63). -/
def execTackReport (t : Time) (tile : Fin 12) (c : Fin 8) (handle : Byte) (code : Nat) (ticks : Word) (slot : Nat) (s : State) : Out :=
  let s := s.at_ t
  when (upReceiver s tile && !(s.link.get tile).upSilent && !(s.link.get tile).downSilent)
    (fun s =>
      let s0 := modTile tile (fun x => { x with tacks := x.tacks.filter (fun k => !(k.handle == handle && k.code == code && k.ticks == ticks)) }) s
      match laneOfReport s0 tile slot handle.toNat code with
      | some (n, cmd) => laneReport n cmd code ticks s0
      | none =>
        match loopOfReport s0 tile c slot handle.toNat with
        | some b =>
          let s1 := { s0 with eng := { s0.eng with loop := s0.eng.loop.upd b (fun l => if code = 2 then l else { l with hnd := none }) } }
          if code = 1 then recordTcmd (srcOf 5 b.val) 1 (lateness ticks (s1.eng.loop.get b).sentAt) s1 else s1
        | none => s0) s

/-! ## The MGT slot (R44, R56, R366, R486) -/

/-- MGT_RESTORE_ACK: level 3 is released and the terminal takes the committed value. -/
def execMgtRestoreAck (t : Time) (tile : Fin 12) (c : Fin 8) (s : State) : Out :=
  let s := s.at_ t
  when (tileHears s tile) (ackLevel3 (chanAt tile c)) s

/-- The pending entries of the partition that a slot feeds are cancelled. -/
def partReset (t : Fin 12) (slot : Nat) (s : State) : State :=
  cancelWhere t (fun e => match e.kind with | .buf _ sl => sl == slot | _ => false) s

/-- MGT_PARTITION_RESET. -/
def execMgtPartitionReset (t : Time) (tile : Fin 12) (slot : Nat) (s : State) : Out :=
  let s := s.at_ t
  when (tileHears s tile) (partReset tile slot) s

/-- A configuration commit: a LIVE tile has its shadow bank complete (R443); any other tile takes the configuration at once (R34, R610). -/
def configCommit (t : Fin 12) (s : State) : State :=
  let b := (s.tile.get t).loading
  let s1 := modTile t (fun x => { x with loading := {} }) s
  if (s.tile.get t).state = .live then modTile t (fun x => { x with shadow := some b }) s1
  else switchBank t b (modTile t (fun x => { x with shadow := none }) s1)

/-- MGT_CONFIG_COMMIT. -/
def execMgtConfigCommit (t : Time) (tile : Fin 12) (s : State) : Out :=
  let s := s.at_ t
  when (tileHears s tile) (configCommit tile) s

/-- A role change waits for its stamp; a stamp that has passed acts at receipt (log entry 18). -/
def roleChange (t : Fin 12) (standby partnered : Bool) (stamp : Word) (s : State) : State :=
  if stampLate s t stamp then tileRole t standby partnered s
  else modTile t (fun x => { x with roleAt := some { stamp := stamp, standby := standby, partnered := partnered } }) s

/-- ROLE_CHANGE. -/
def execRoleChange (t : Time) (tile : Fin 12) (standby partnered : Bool) (stamp : Word) (s : State) : Out :=
  let s := s.at_ t
  when (tileHears s tile) (roleChange tile standby partnered stamp) s

/-- A tile's clock has come to a stamp (R366). -/
def stampDue (s : State) (t : Fin 12) (stamp : Word) : Bool := tileTick s t == stamp.toNat || stampLate s t stamp

/-- The role that a tile holds for a stamp that has come. -/
def roleDueAt (s : State) (stamp : Word) (x : Fin 12) : Option RoleAt :=
  match (s.tile.get x).roleAt with
  | some r => if r.stamp = stamp && stampDue s x stamp && tilePowered s x && !(s.tile.get x).lockLatch then some r else none
  | none => none

/-- ROLE_CHANGE_APPLY: every tile of the member whose clock has come to the stamp takes its role; a yielding member is then STANDBY (R366, R379). -/
def execRoleChangeApply (t : Time) (stamp : Word) (s : State) : Out :=
  let s := s.at_ t
  let one (x : Fin 12) (s : State) : State :=
    match roleDueAt s stamp x with
    | some r => tileRole x r.standby r.partnered s
    | none => s
  let s1 := forEach (List.finRange 12) one s
  let drops := (List.finRange 12).any fun x => match roleDueAt s stamp x with | some r => r.standby | none => false
  .next (if s.pair.yielding && drops then standAside s1 else s1)

/-- LOCK in the MGT slot: fallback at level 3 on every output, or STANDBY where PARTNERED, and the latch (R379, R486). -/
def tileLock (t : Fin 12) (s : State) : State :=
  let x := s.tile.get t
  let s1 := if x.partnered then tileRole t true true s else forEach (outsOf s t) fallBack s
  refreshTile t (modTile t (fun x => { x with lockLatch := true, state := if outputsAct x then .fallback else x.state }) s1)

/-- TILE_LOCK. -/
def execTileLock (t : Time) (tile : Fin 12) (s : State) : Out :=
  let s := s.at_ t
  when (tileHears s tile) (tileLock tile) s

/-! ## Comparators, tile reflex and the fast sense converter (R71 to R74, R77 to R79) -/

/-- What a comparator of the image decides on a value of its source: 1 from its rising threshold on, 0 from its falling threshold down, and between
them what it was (R71, R454; the thresholds themselves belong to the decisions: DEDUCED, log entry 155). -/
def cmpDecides (r : Rec) (b was : Bool) (value : Word) : Bool :=
  let o := if b then 56 else 48
  if f32 value = .nan then was else if !ltF value (w32 r o) then true else if !ltF (w32 r (o + 4)) value then false else was

/-- COMPARATOR_DECISION of a comparator that has a source in the image: one without a source gives 0, or follows R161. -/
def execComparatorDecision (t : Time) (k : Fin 96) (cmpB : Bool) (value : Word) (s : State) : Out :=
  let s := s.at_ t
  let r := tileRec s k
  let c := s.chan.get k
  when (tilePowered s (tileOf k) && (s.tile.get (tileOf k)).bank.isSome && chCmpSrc r cmpB != 0)
    (comparatorSet k cmpB (cmpDecides r cmpB (if cmpB then c.cmpB else c.cmpA) value)) s

/-- TILE_REFLEX_QUAL_EXPIRY: the condition has held for the entry's count of FCLK cycles (R72). -/
def execTileReflexQualExpiry (t : Time) (tile : Fin 12) (entry : Nat) (s : State) : Out :=
  let s := s.at_ t
  match (trefRecs s tile).find? (fun r => trEntry r == entry) with
  | none => noEffect s
  | some r =>
    let a := trefSt (s.tile.get tile) entry
    let due := match a.since with | some b => tileSpan s tile b (5 * trQual r) | none => false
    when (reflexActs (s.tile.get tile) && !a.fired && due && trHolds r 16 (cmpBits s tile)) (fireTref tile r) s

/-- The channel that the converter converts for: the one a diagnostic slot claims in its time, else the one in turn (R77, R79). -/
def senseTurn (now : Time) (x : TSns) : Fin 8 :=
  match x.claimed with
  | some (c, stop) => if now < stop then c else x.next
  | none => x.next

/-- A diagnostic slot's claim stands. -/
def senseClaimed (now : Time) (x : TSns) : Bool := match x.claimed with | some (_, stop) => decide (now < stop) | none => false

/-- The code of the quantity that the channel's SENSE names (R77). -/
def senseCode (r : Rec) (x : SenseIn) : Nat :=
  match chSense r with
  | 0 => x.current.toNat
  | 1 => x.terminal.toNat
  | _ => x.rail.toNat

/-- The epoch in which a conversion falls: the device's own while it counts epochs, else that of the grid (R78). -/
def senseEpoch (s : State) : Nat := if s.ep.counting then s.ep.e else gridEpoch s

/-- One conversion joins those of its channel and epoch (R78): an accumulation of an epoch that is over begins afresh. -/
def senseAdd (e : Nat) (c : Fin 8) (n : Nat) (x : TSns) : TSns :=
  let acc := if x.accE = e then x.acc else Bank.fill 8 (0, 0, 0)
  { x with accE := e, acc := acc.upd c fun a => (a.1 + 1, a.2.1 + n, max a.2.2 n) }

/-- FAST_SENSE_CONVERSION: of the channel in turn, or of the one that a claim names, the quantity of its SENSE (R77, R79). After a claim the rotation
goes on with the channel whose turn stood when it began (DESIGN CHOICE, log entry 122). -/
def execFastSenseConversion (t : Time) (tile : Fin 12) (code : SenseIn) (s : State) : Out :=
  let s := s.at_ t
  when (tilePowered s tile)
    (fun s => { s with sns := s.sns.upd tile fun x =>
      let c := senseTurn s.now x
      { senseAdd (senseEpoch s) c (senseCode (tileRec s (chanAt tile c)) code) x with next := if senseClaimed s.now x then x.next else x.next + 1 } }) s

end Sys2Proof.Machine
end

