-- ==== Sys2Proof/Machine/Analog.lean ====
section
/-! DEFINITION. Analog channels: conversions, range flags, compliance, limits and trims (R81 to R121, R133, R220, R221). -/

namespace Sys2Proof.Machine

open Sys2Proof

/-! ## Conversions (R86 to R90) -/

/-- Index of the last conversion whose instant floor(n × 10^9 / RATE) is not after the tile's time (R86). -/
def convIndex (s : State) (t : Fin 12) (rate : Nat) : Nat := ((tileHalf s t / 2 + 1) * rate + 999999999) / 1000000000 - 1

/-- The index of the conversion that completes now. While FCLK_t runs free the instants drift with it by up to 0.5 % of the silence, and
conversions go on one by one (R76). -/
def convNow (s : State) (k : Fin 96) (rate : Nat) : Nat :=
  let t := tileOf k
  let l := s.link.get t
  let a := (s.chan.get k).ana
  if l.fclk || a.restart then convIndex s t rate
  else
    let drift := match l.downLast with | some x => (s.now - x) / 200 | none => 0
    let n := ((tileHalf s t + drift) / 2 + 1) * rate / 1000000000
    if a.n < n then a.n + 1 else a.n

/-- The instant of conversion n in ns. -/
def convInstant (n rate : Nat) : Nat := n * 1000000000 / rate

/-- A lead conversion (R103). -/
def isLead (r : Rec) (n : Nat) : Bool := chFunc r == .rtd && decide (3 ≤ chWires r) && n % 16 == 15

/-- A test conversion (R221). -/
def isTcTest (r : Rec) (n : Nat) : Bool := chFunc r == .tc && chOpendet r && n % 64 == 63

/-- Full scale of an RTD range in ohms (Table 07-4). -/
def rtdFull (r : Rec) : Rat := if chRange r = 0 || chRange r = 2 then 400 else 4000

/-- Parked current of a MULTI plan in mA (R131). -/
def parkSum (s : State) (k : Nat) : Rat := (((itemsOf s k 0).map fun d => u8 d 3).foldl (· + ·) 0 : Nat) / (10 : Rat)

/-- A number at or below a binary32 word; false for NaN. -/
def leF (q : Rat) (w : Word) : Bool := match f32 w with | .fin x => decide (q ≤ x) | .inf neg => !neg | .nan => false
def geF (q : Rat) (w : Word) : Bool := match f32 w with | .fin x => decide (x ≤ q) | .inf neg => neg | .nan => false

/-- A value within a closed range. -/
def within (lo hi : Rat) (w : Word) : Bool := leF lo w && geF hi w

/-- UNDER limit, OVER limit and hysteresis of a channel in its unit (Tables 03-5 to 03-8); none where never set. -/
def rangeLimits (r : Rec) : Option Rat × Option Rat × Rat :=
  match chFunc r, chRange r with
  | .aiv, 0 => (some (-101 / 10), some (101 / 10), 1 / 10)
  | .aiv, 1 => (some (-1 / 10), some (101 / 10), 5 / 100)
  | .aiv, _ => (some (-202 / 100), some (202 / 100), 2 / 100)
  | .aii, 0 => (some (38 / 10), some (205 / 10), 2 / 100)
  | .aii, _ => (none, some 25, 2 / 100)
  | .rtd, 2 => (none, some 400, 0)
  | .rtd, 3 => (none, some 4000, 0)
  | .rtd, _ => (some (-200), some 850, 0)
  | .tc, 8 => (none, none, 0)
  | .tc, _ => (some (nominal r).1, some (nominal r).2, 0)
  | _, _ => (none, none, 0)

/-- UNDER with its hysteresis (R96, R101), on the filtered value (R90). -/
def underNow (r : Rec) (was : Bool) (y : Word) : Bool :=
  match (rangeLimits r).1 with
  | none => false
  | some u => if was then !leF (u + (rangeLimits r).2.2) y else !leF u y

/-- OVER with its hysteresis. -/
def overNow (r : Rec) (was : Bool) (y : Word) : Bool :=
  match (rangeLimits r).2.1 with
  | none => false
  | some o => if was then !geF (o - (rangeLimits r).2.2) y else !geF o y

/-- One flag of R133 on a MULTI loop: set after 100 ms beyond 2.0 mA on its side, cleared after 100 ms within 1.5 mA on either side. -/
def multiFlag (now : Time) (was : Bool) (since : Option Time) (beyond : Rat) : Bool × Option Time :=
  let run := if was then decide (beyond ≤ 15 / 10) && decide (-15 / 10 ≤ beyond) else decide (2 < beyond)
  match run, since with
  | false, _ => (was, none)
  | true, none => (was, some now)
  | true, some a => if ms 100 ≤ now - a then (!was, none) else (was, some a)

/-- Function-level VALID of an unfiltered conversion (R96, R101, R102, R105, R133). `res` is the resistance of an RTD and the input of a
TC. -/
def convValid (s : State) (k : Fin 96) (r : Rec) (v res : Word) : Bool :=
  let c := s.chan.get k
  match chFunc r, chRange r with
  | .aiv, 0 => within (-105 / 10) (105 / 10) v
  | .aiv, 1 => within (-1 / 2) (105 / 10) v
  | .aiv, _ => within (-21 / 10) (21 / 10) v
  | .aii, 0 => c.ana.sinkOpen.isNone && within (36 / 10) 21 v
  | .aii, _ => c.ana.sinkOpen.isNone && !c.sw.limiting && (chHartm r == 2 || geF 25 v)
  | .rtd, _ => geF (rtdFull r * 105 / 100) res
  | .tc, _ => within (-80) 80 res
  | _, _ => true

/-- Cold-junction temperature of a TC channel (R106, R107): the RTD channel named while its VALID is set, else the tile's sensor. -/
def coldJunction (s : State) (r : Rec) (sensor : Word) : Word :=
  if chCjsrc r = 0xFFFF then sensor
  else match asFin 96 (chCjsrc r) with
    | some j => if validOf s j then (s.chan.get j).ana.y else sensor
    | none => sensor

/-- The RTD resistance after its leads (R103). Before the first lead conversion of a 3- or 4-wire RTD the lead counts as 0 ohms (DESIGN CHOICE,
log entry 127). A 4-wire RTD subtracts it as a 3-wire one does, although its sense leads carry no excitation (DESIGN CHOICE, log entry 161). -/
def rtdOhms (s : State) (k : Fin 96) (r : Rec) (x : Word) : Word :=
  if chWires r = 2 then subF x (f32OfRat ((chLeadr r : Rat) / 100)) else subF x (s.chan.get k).ana.lead

/-- Resistance ratio R(t) / R(0) of IEC 60751 (R102): the Callendar–Van Dusen equation with the standard's coefficients for α = 0.003 85 /°C, which
the spec names and does not print (PRESUMED, log entry 4). -/
def cvd (t : Rat) : Rat :=
  let a : Rat := 39083 / 10000000
  let b : Rat := -5775 / 10000000000
  let c : Rat := -4183 / 1000000000000000
  if 0 ≤ t then 1 + a * t + b * t * t else 1 + a * t + b * t * t + c * (t - 100) * t * t * t

/-- The temperature between two bounds whose ratio is `w`, by halving the interval. -/
def cvdSolve : Nat → Rat → Rat → Rat → Rat
  | 0, lo, _, _ => lo
  | n + 1, lo, hi, w => let m := (lo + hi) / 2; if cvd m ≤ w then cvdSolve n m hi w else cvdSolve n lo m w

/-- Temperature of a platinum RTD of `r0` ohms at 0 °C, from its resistance (R102). -/
def rtdCelsius (r0 : Nat) (o : Word) : Word :=
  match f32 o with
  | .fin q => f32OfRat (cvdSolve 60 (-1000) 3000 (q / r0))
  | v => toF32 v

/-- Temperature of a thermocouple from its input emf in millivolts and its cold junction: the cold junction's emf is added, and the reference function
inverted (R105). -/
def tcCelsius (range : Nat) (mv cj : Word) : Word := Config.tcInverse range (addF mv (Config.tcEmf range cj))

/-- A conversion in the channel's unit (R84, R102, R105). -/
def inUnit (s : State) (k : Fin 96) (r : Rec) (x aux : Word) : Word :=
  match chFunc r with
  | .rtd =>
    let o := rtdOhms s k r x
    if chRange r = 0 then rtdCelsius 100 o else if chRange r = 1 then rtdCelsius 1000 o else o
  | .tc => if chRange r = 8 then x else tcCelsius (chRange r) x (coldJunction s r aux)
  | _ => x

/-- RTD verdicts of one sensor conversion (Table 07-4). -/
def rtdJudge (k : Fin 96) (r : Rec) (o : Word) (s : State) : State :=
  let a := (s.chan.get k).ana
  let full := rtdFull r
  let low : Option Rat := if chRange r = 0 then some 10 else if chRange r = 1 then some 100 else none
  let openN := if !geF (2 * full) o then a.openRun + 1 else 0
  let shortN := match low with | some l => if !leF l o then a.shortRun + 1 else 0 | none => 0
  let s1 := modAna k (fun a => { a with openRun := min openN 2, shortRun := min shortN 2 }) s
  let s2 :=
    if !chOpendet r then s1
    else if 2 ≤ openN then setVerdict k 0x10 s1
    else if !leF (full * 105 / 100) o then clearVerdict k 0x10 s1
    else s1
  match low with
  | none => s2
  | some l => if 2 ≤ shortN then setVerdict k 0x20 s2 else if !geF l o then clearVerdict k 0x20 s2 else s2

/-- RTD_LEAD of a lead conversion (Table 07-4). -/
def leadJudge (k : Fin 96) (lead : Word) (s : State) : State := putVerdict k 0x15 (!within (-1) 50 lead) s

/-- OPEN_WIRE of a TC test conversion (R221). -/
def tcJudge (k : Fin 96) (ohms : Word) (s : State) : State :=
  let n := if !geF 20000 ohms then (s.chan.get k).ana.openRun + 1 else 0
  let s1 := modAna k (fun a => { a with openRun := min n 2 }) s
  if 2 ≤ n then setVerdict k 0x10 s1 else if !leF 10000 ohms then clearVerdict k 0x10 s1
  else judging k (modDg k fun g => { g with judged := true }) s1

/-- The TC channels whose cold junction is an RTD channel that has lost VALID start their filters afresh (R90, R107). -/
def noteJunction (k : Fin 96) (s : State) : State :=
  if chFunc (tileRec s k) = .rtd && !validOf s k then
    forEach (allChans.filter fun j => chFunc (tileRec s j) == .tc && chCjsrc (tileRec s j) == k.val) noteInvalid s
  else s

/-- A conversion that updates the value: trim line, validity, filter and range flags. The filter starts afresh at the first conversion, and at the
first after VALID has returned (R90). -/
def convert (k : Fin 96) (n : Nat) (r : Rec) (x aux : Word) (s : State) : State :=
  let a := (s.chan.get k).ana
  let cal := inUnit s k r x aux
  let v := trimReading s k.val r cal
  let res := if chFunc r = .rtd then rtdOhms s k r x else x
  let s0 := modAna k (fun a => { a with
    n := n, inst := some (convInstant n (chRate r)), raw := v, prev := a.inst.map (fun i => (i, a.y)), filtOn := true
    valid := convValid s k r v res, restart := false
    last := (cal :: a.last).take 16, cj := if chFunc r = .tc then aux else a.cj }) s
  let s1 := if chFunc r = .rtd then rtdJudge k r res s0 else s0
  let valid := validOf s1 k
  let y := if chFilt r = 0 || !a.filtOn || (valid && !a.wasValid) then v else addF a.y (mulF (chFilta r) (subF v a.y))
  let multi := chFunc r == .aii && chHartm r == 2
  let d := f32Rat y - parkSum s k.val
  let (above, overAt) := if multi then multiFlag s.now a.overR a.overAt d else (overNow r a.overR y, none)
  let (under, underAt) := if multi then multiFlag s.now a.underR a.underAt (-d) else (underNow r a.underR y, none)
  noteJunction k (modAna k (fun a => { a with
    y := y, wasValid := valid, underR := under, overR := above, overAt := overAt, underAt := underAt }) s1)

/-- ADC_CONVERSION. `x` is the factory-calibrated conversion: volts (AIV, AOV), milliamperes (AII, AOI), ohms (RTD) or millivolts (TC), as
binary32. `aux` is the lead resistance in ohms at a lead conversion (R103), the loop resistance in ohms at a test conversion (R221), and
the tile's cold-junction sensor in °C at any other TC conversion. Inputs that are switched out convert nothing (R113, Table 11-10). The first
conversion completes at the first instant after the configuration, or a step of tile time, is complete (R86, R87). -/
def execAdcConversion (t : Time) (k : Fin 96) (x aux : Word) (s : State) : Out :=
  let s := s.at_ t
  let r := tileRec s k
  let x' := s.tile.get (tileOf k)
  let n := convNow s k (chRate r)
  let c := s.chan.get k
  let a := c.ana
  when (x'.state != .off && isAnalogF (chFunc r) && (isOutF (chFunc r) || inputOn (chFunc r) x'.standby c.lev.share)
      && (a.restart || a.n != n) && decide (a.startAt < 2 * convInstant n (chRate r)))
    (fun s =>
      if isLead r n then leadJudge k aux (modAna k (fun a => { a with n := n, restart := false, lead := aux }) s)
      else if isTcTest r n then tcJudge k aux (modAna k (fun a => { a with n := n, restart := false }) s)
      else convert k n r x aux s) s

/-! ## Compliance (R94, R95) -/

/-- COMPL_SET: headroom in millivolts. -/
def execComplSet (t : Time) (k : Fin 96) (headroom : Int) (held : Time) (s : State) : Out :=
  let s := s.at_ t
  let r := tileRec s k
  let out := chFunc r == .aoi || chFunc r == .aov
  when (out && outputsAct (s.tile.get (tileOf k)) && decide (headroom < 400) && decide (ms 2 < held) && !openVerdict s k)
    (withRefresh k (modAna k (fun a => { a with
      compl := true, complLow := chFunc r == .aoi && chComplact r == 1, almlo := almloCode s k.val r }))) s

/-- COMPL_CLEAR. -/
def execComplClear (t : Time) (k : Fin 96) (headroom : Int) (held : Time) (s : State) : Out :=
  let s := s.at_ t
  let a := (s.chan.get k).ana
  when (a.compl && !a.complLow && decide (600 ≤ headroom) && decide (ms 2 ≤ held)) (modAna k (fun a => { a with compl := false })) s

/-- COMPLACT_LOW_RETURN: the predicted headroom has stood for 1 s (Table 03-4). -/
def execComplactLowReturn (t : Time) (k : Fin 96) (predicted : Int) (held : Time) (s : State) : Out :=
  let s := s.at_ t
  when ((s.chan.get k).ana.complLow && decide (600 ≤ predicted) && decide (sec 1 ≤ held))
    (withRefresh k (modAna k (fun a => { a with compl := false, complLow := false }))) s

/-! ## Limits (R100, R112) -/

/-- ANALOG_CURRENT_LIMIT. While the sink is open LIMIT stays set: only a retry that draws less than the limit clears it. -/
def execAnalogCurrentLimit (t : Time) (k : Fin 96) (limiting : Bool) (s : State) : Out :=
  let s := s.at_ t
  let r := tileRec s k
  let c := s.chan.get k
  when (tilePowered s (tileOf k) && (chFunc r == .aii || chFunc r == .aov) && (limiting || c.ana.sinkOpen.isNone))
    (fun s => protecting k (fun s =>
      let s1 := modSw k (fun w => { w with limiting := limiting }) s
      -- I0_25 and MULTI clear VALID while LIMIT is set (Table 03-6, R133).
      if limiting && chFunc r == .aii && chRange r != 0 then modAna k (fun a => { a with valid := false, wasValid := false }) s1 else s1) s) s

/-- SINK_OPEN: burden in millivolts. -/
def execSinkOpen (t : Time) (k : Fin 96) (burden : Nat) (held : Time) (s : State) : Out :=
  let s := s.at_ t
  let c := s.chan.get k
  when (chFunc (tileRec s k) == .aii && c.sw.limiting && c.ana.sinkOpen.isNone && decide (2500 < burden) && decide (ms 1 ≤ held))
    (withRefresh k (modAna k (fun a => { a with sinkOpen := some (s.now + sec 1), valid := false, wasValid := false }))) s

/-- SINK_RETRY: 1 s after it opened. -/
def execSinkRetry (t : Time) (k : Fin 96) (s : State) : Out :=
  let s := s.at_ t
  let due := match (s.chan.get k).ana.sinkOpen with | some e => tileSpan s (tileOf k) (e - sec 1) (sec 1) | none => false
  when due (withRefresh k (modAna k (fun a => { a with sinkOpen := none }))) s

/-! ## Trims (R116 to R121) -/

/-- The trim-store record of a key (R534): serial number first, RCHECK last; the places between are the model's (log entry 19). -/
def trimBytes (serial : BitVec 64) (t : Trim) : List Byte :=
  let b := leBytes 8 serial.toNat ++ leBytes 2 t.k ++ [BitVec.ofNat 8 t.func, BitVec.ofNat 8 t.range] ++
    leBytes 4 t.zx.toNat ++ leBytes 4 t.zref.toNat ++ leBytes 4 t.sx.toNat ++ leBytes 4 t.sref.toNat ++ List.replicate 32 0
  b ++ leBytes 4 (storeCheck b)

/-- A trim stored: it takes effect at once, is journaled and queued for the trim store (R120). -/
def storeTrim (t : Trim) (s : State) : State :=
  let same (x : Trim) : Bool := x.k == t.k && x.func == t.func && x.range == t.range
  let s1 := { s with nvs := { s.nvs with
    trims := t :: s.nvs.trims.filter (fun x => !same x), store := { s.nvs.store with jobs := s.nvs.store.jobs ++ [.trim] } } }
  journal 0x0A (leBytes 8 s.nvs.store.serial.toNat ++ trimBytes s.nvs.store.serial t) s1

/-- An output channel follows its trim line afresh: its committed value, ALMLO where COMPLACT = LOW drives it, and the value of a lane that holds it
(R119, R120). -/
def trimFollow (k : Fin 96) (s : State) : State :=
  if !isOut s k || !linkUp s (tileOf k) then s
  else
    let low := almloCode s k.val (tileRec s k)
    let s1 := withRefresh k (fun s => modAna k (fun a => if a.complLow then { a with almlo := low } else a) (modLev k (fun l => { l with l7 := baseDrive s k }) s)) s
    forEach (List.finRange 96) (fun n s =>
      match laneOf s n.val with
      | some r =>
        let l := s.eng.lane.get n
        if laneTarget r != k.val || l.state = 0 then s
        else if l.state = 3 then (match l.sent with
          | some v => sendLane n 65535 (sysTick s + 12800) v false 0 s
          | none => s)
        else sendPresent n (sysTick s + 12800) s
      | none => s) s1

/-- The trim of the armed channel, the identity line where none is stored (R118). -/
def armedTrim (s : State) (a : Armed) (r : Rec) : Trim :=
  (trimOf s a.k.val r).getD { k := a.k.val, func := u8 r 2, range := chRange r, zx := a.zref, zref := a.zref, sx := a.sref, sref := a.sref }

/-- The nominal span of a channel (Table 03-9: 25 mA for AII). -/
def spanOf (r : Rec) : Rat := (nominal r).2 - (nominal r).1

/-- Absolute value. -/
def absRat (q : Rat) : Rat := if q < 0 then -q else q

/-- R118: gain within 0.99 to 1.01 and corrections within 1 % of the span. -/
def trimLegal (r : Rec) (t : Trim) : Bool :=
  let dx := f32Rat t.sx - f32Rat t.zx
  let dr := f32Rat t.sref - f32Rat t.zref
  let gain : Rat := dr / dx
  dx != 0 && decide (99 / 100 ≤ gain) && decide (gain ≤ 101 / 100) &&
    decide (absRat (f32Rat t.zref - f32Rat t.zx) ≤ spanOf r / 100) && decide (absRat (f32Rat t.sref - f32Rat t.sx) ≤ spanOf r / 100)

/-- Mean of the calibrated conversions held, as binary32. -/
def meanOf (l : List Word) : Word := f32OfRat ((l.map f32Rat).foldl (· + ·) 0 / (l.length : Rat))

/-- A refused press: recorded with a reason code, for which the spec prints no values (log entry 20). -/
def refusePress (k : Fin 96) (s : State) : State := let (v, s1) := freeW s; recordTrim 7 (srcOf 1 k.val) v.toNat 0 s1

/-- An ignored press (Table 18-4). -/
def ignorePress (span : Bool) (s : State) : State := recordTrim 6 (srcOf 12 (b2n span)) 0 0 s

/-- The drive that shows a point of the armed output channel (R119): a stamped level-5 SET in the MGT slot (R68). -/
def showPoint (a : Armed) (s : State) : State :=
  let r := castRec s a.k.val
  let q := f32Rat (if a.span then a.sref else a.zref)
  let t := tileOf a.k
  if linkUp s t && !(s.tile.get t).lockLatch then
    setOrDuty t false 15 (chanIn a.k) 0 (mgtStamp s) (BitVec.ofNat 16 (dacCode r (trimTarget s a.k.val r q))) s
  else s

/-- A capture of an input channel (R118). -/
def capture (a : Armed) (r : Rec) (span : Bool) (s : State) : State :=
  let l := (s.chan.get a.k).ana.last
  if l.isEmpty || !validOf s a.k then refusePress a.k s
  else
    let x := meanOf l
    let t := armedTrim s a r
    let t' := if span then { t with sx := x, sref := a.sref } else { t with zx := x, zref := a.zref }
    if trimLegal r t' then recordTrim (if span then 4 else 3) (srcOf 1 a.k.val) 0 x (storeTrim t' s) else refusePress a.k s

/-- A step of an output channel's shown point, or the switch to the other point (R119). -/
def stepPoint (a : Armed) (r : Rec) (span up : Bool) (s : State) : State :=
  if a.span != span then
    let a' := { a with span := span }
    showPoint a' { s with nvs := { s.nvs with armed := some a' } }
  else
    let t := armedTrim s a r
    let ref := if span then a.sref else a.zref
    let cur := f32OfRat (trimTarget s a.k.val r (f32Rat ref))
    let x := if up then addF cur a.step else subF cur a.step
    if spanOf r / 100 < absRat (f32Rat x - f32Rat ref) then refusePress a.k s
    else
      let t' := if span then { t with sx := x, sref := ref } else { t with zx := x, zref := ref }
      showPoint a (trimFollow a.k (recordTrim 5 (srcOf 1 a.k.val) 0 x (storeTrim t' s)))

/-- A press taken on the armed channel, ignored or refused (R117 to R119). -/
def press (span up : Bool) (s : State) : State :=
  match s.nvs.armed with
  | none => ignorePress span s
  | some a =>
    let r := castRec s a.k.val
    if (s.tile.get (tileOf a.k)).state != .live || isOutF (chFunc r) && decide ((s.chan.get a.k).lev.deciding < 5) then refusePress a.k s
    else if isOutF (chFunc r) then stepPoint a r span up s
    else capture a r span s

/-- Both trim buttons were released for 20 ms before a press: at no instant of that rest was a button known to be low. -/
def trimReleased (h : HeldFor) (s : State) : Bool :=
  decide (ms 20 ≤ h.rested) && (match s.nvs.low with | some a => decide (a + h.rested ≤ s.now - h.held) | none => true)

/-- TRIM_PRESS: held low for 20 ms, after both buttons were released for 20 ms. The first repeat comes when it has been held for 1 s. -/
def execTrimPress (t : Time) (span both trdHigh : Bool) (held : HeldFor) (s : State) : Out :=
  let s := s.at_ t
  when (hubUp s && decide (ms 20 ≤ held.held) && trimReleased held s)
    (fun s =>
      let s := { s with nvs := { s.nvs with low := some s.now } }
      if both then ignorePress span s
      else press span trdHigh { s with nvs := { s.nvs with press := some (span, trdHigh, s.now - held.held + sec 1) } }) s

/-- TRIM_PRESS_REPEAT: on an output channel, at 1 s and every 200 ms (R117). TRD stays as it was sampled. -/
def execTrimPressRepeat (t : Time) (held : Time) (s : State) : Out :=
  let s := s.at_ t
  match s.nvs.press, s.nvs.armed with
  | some (span, up, next), some a =>
    when (hubUp s && decide (sec 1 ≤ held) && decide (next ≤ s.now) && isOutF (chFunc (castRec s a.k.val)))
      (fun s => press span up { s with nvs := { s.nvs with press := some (span, up, next + ms 200), low := some s.now } }) s
  | _, _ => noEffect s

/-- TRIM_TIMEOUT: 600 s after arming (R121). -/
def execTrimTimeout (t : Time) (s : State) : Out :=
  let s := s.at_ t
  let due := match s.nvs.armed with | some a => decide (a.ends ≤ s.now) | none => false
  when (hubUp s && due) disarm s

end Sys2Proof.Machine
end

