-- ==== Sys2Proof/Machine/Digital.lean ====
section
/-! DEFINITION. Digital inputs, counters and pulse outputs (R155 to R179). -/

namespace Sys2Proof.Machine

open Sys2Proof

/-- DI, NAM and CNT. -/
def isDigIn (r : Rec) : Bool := chFunc r == .di || chFunc r == .nam || chFunc r == .cnt

/-- ON and OFF thresholds with their tolerance: V(IOB_k) against LMt in millivolts by ITYPE (Table 05-3), or the sensor current of a NAMUR input in
microamperes (R165). -/
def inputThreshold (r : Rec) : Int × Int × Int :=
  if chFunc r = .nam then (1750, 1550, 50)
  else if chItype r = 0 then (11500, 9500, 500)
  else (8500, 6500, 400)

/-- A comparator can take a level at an input: ON above the ON threshold, OFF below the OFF threshold, each within its tolerance; between the two
the state stays (R157, R165). A voltage below LMt reads OFF (R158). -/
def comparatorTakes (r : Rec) (level : Bool) (input : Int) : Bool :=
  let (on, off, tol) := inputThreshold r
  if level then decide (on - tol ≤ input) else decide (input ≤ off + tol)

/-- INPUT_RAW_CHANGE: the comparator takes a level at an input, millivolts at IOB_k or microamperes of a NAMUR sensor, and the filter's run starts
(R159); on DI, NAM and CNT the raw state is CMPA (R161). -/
def execInputRawChange (t : Time) (k : Fin 96) (x : CompIn) (s : State) : Out :=
  let s := s.at_ t
  when (tilePowered s (tileOf k) && isDigIn (tileRec s k) && comparatorTakes (tileRec s k) x.level x.input)
    (fun s =>
      let s1 := modDig k (fun d => if d.raw = x.level then d else { d with raw := x.level, runStart := s.now }) s
      comparatorSet k false x.level s1) s

/-- The edges that a frequency may need: the two latest and those within FGATE (R169). -/
def pruneEdges (now gate : Nat) (h : List (Nat × Nat)) : List (Nat × Nat) :=
  h.take 2 ++ (h.drop 2).filter (fun e => decide (now < e.1 + gate))

/-- An accepted edge counted (R167): a CNT counts the kind that CEDGE names. -/
def countEdge (r : Rec) (rising : Bool) (acc stamp : Nat) (d : Dig) : Dig :=
  let c := chEdgerec r
  let counts := chFunc r == .cnt && (c == 3 || (if rising then c == 1 else c == 2))
  if counts then { d with count := d.count + 1, hist := pruneEdges acc (ms (chFgate r)) ((acc, stamp) :: d.hist) } else d

/-- The FCLK tick of an acceptance instant (R160, R177). -/
def acceptTick (s : State) (k : Fin 96) : Nat := tileHalf s (tileOf k) / 5 * 5

/-- The timestamp of an edge accepted at a tick: the instant at which its run began, corrected for the 0.40 µs from the terminal to the comparator
(R159, R160). -/
def acceptStamp (r : Rec) (acc : Nat) : Nat := acc - us (chFilt r) - 800

/-- DIVMIN_LOW: LPt in millivolts below DIVMIN (R164). -/
def execDivminLow (t : Time) (tile : Fin 12) (lpt : Nat) (s : State) : Out :=
  let s := s.at_ t
  when (tilePowered s tile)
    (fun s => forEach (tileChans tile) (fun k s =>
      let r := tileRec s k
      if (chFunc r = .di || chFunc r = .cnt) && lpt < 100 * chDivmin r then modDig k (fun d => { d with divLow := true }) s else s)
      (modTile tile (fun x => { x with lpt := lpt }) s)) s

/-- DIVMIN_RECOVER: LPt at or above DIVMIN + 0.4 V for 10 ms. -/
def execDivminRecover (t : Time) (tile : Fin 12) (lpt : Nat) (held : Time) (s : State) : Out :=
  let s := s.at_ t
  when (tilePowered s tile && decide (ms 10 ≤ held))
    (fun s => forEach (tileChans tile) (fun k s =>
      if 100 * chDivmin (tileRec s k) + 400 ≤ lpt then modDig k (fun d => { d with divLow := false }) s else s)
      (modTile tile (fun x => { x with lpt := lpt }) s)) s

/-- NAMUR_LPT_BELOW_10V: NAM channels clear or regain VALID (R165). -/
def execNamurLptBelow10v (t : Time) (tile : Fin 12) (lpt : Nat) (s : State) : Out :=
  let s := s.at_ t
  when (tilePowered s tile)
    (fun s => forEach (tileChans tile) (fun k s =>
      if chFunc (tileRec s k) = .nam then modDig k (fun d => { d with namLow := decide (lpt < 10000) }) s else s)
      (modTile tile (fun x => { x with lpt := lpt }) s)) s

/-- The line state of a NAM channel changes; CMPB is the line-fault state (R161). -/
def setLine (k : Fin 96) (line : Option Bool) (s : State) : State :=
  let s1 := judging k (fun s => modDg k (fun g => { g with judged := true }) (modDig k (fun d => { d with line := line, lineJudged := true }) s)) s
  comparatorSet k true line.isSome s1

/-- NAM_LINE_FAULT: `current` in microamperes; below 0.20 mA + 0.05 mA open, above 5.50 mA − 0.05 mA short, for 5 ms. A
STANDBY member judges none (R609). -/
def execNamLineFault (t : Time) (k : Fin 96) (current : Nat) (held : Time) (s : State) : Out :=
  let s := s.at_ t
  when (tilePowered s (tileOf k) && !(s.tile.get (tileOf k)).standby && chFunc (tileRec s k) == .nam && decide (ms 5 ≤ held) && (decide (current < 250) || decide (5450 < current)))
    (setLine k (some (decide (5450 < current)))) s

/-- NAM_LINE_FAULT_CLEAR: within both limits for 5 ms. -/
def execNamLineFaultClear (t : Time) (k : Fin 96) (current : Nat) (held : Time) (s : State) : Out :=
  let s := s.at_ t
  when (tilePowered s (tileOf k) && !(s.tile.get (tileOf k)).standby && chFunc (tileRec s k) == .nam && (s.chan.get k).dig.line.isSome && decide (ms 5 ≤ held) &&
      decide (150 ≤ current) && decide (current ≤ 5550))
    (setLine k none) s

/-! ## Pulse generators (R172 to R176) -/

/-- By how much the periods of a tile may have drifted: FCLK_t runs free by up to 5 ms for each second of silence (R76). -/
def tileDrift (s : State) (t : Fin 12) : Nat :=
  let l := s.link.get t
  if l.fclk then 0 else match l.downLast with | some x => (s.now - x) / 200 | none => 0

/-- A period of the grid starts: in this FCLK cycle, or within the drift of a tile whose FCLK_t runs free. -/
def periodStarts (s : State) (k : Fin 96) (r : Rec) : Bool :=
  let d := tileDrift s (tileOf k)
  decide (pwmPos s k r < 5 + d) || decide (pwmPeriod r ≤ pwmPos s k r + d)

/-- PWM_PERIOD_START, in the FCLK cycle in which a period starts: a waiting change of levels 5 to 7 takes effect (R175), and the terminal is on for its
on time (R174). A period that drifted runs from its own start (R76). -/
def execPwmPeriodStart (t : Time) (k : Fin 96) (s : State) : Out :=
  let s := s.at_ t
  let r := tileRec s k
  when (tilePowered s (tileOf k) && chFunc r == .dout && chPgmode r == 1 && outputsAct (s.tile.get (tileOf k)) && periodStarts s k r)
    (withRefresh k (modPg k (fun g =>
      let w := g.next.getD (g.on, g.duty)
      pwmAt s (if pwmPos s k r < 5 then pwmPos s k r else 0) r w.1 w.2 g))) s

/-- PWM_ON_TIME_END: the pulse of a period, or of a train, ends, with the drift of a free-running FCLK_t (R76). -/
def execPwmOnTimeEnd (t : Time) (k : Fin 96) (s : State) : Out :=
  let s := s.at_ t
  let g := (s.chan.get k).pg
  let span := dutyTime (tileRec s k) g.duty
  let due := match g.offAt with | some a => tileSpan s (tileOf k) (a - span) span | none => false
  when (tilePowered s (tileOf k) && chPgmode (tileRec s k) != 0 && due)
    (withRefresh k (modPg k (fun g => { g with out := false, offAt := none }))) s

/-- TRAIN_PULSE: the next pulse of a train starts, or the train has ended after PCOUNT pulses (R176). -/
def execTrainPulse (t : Time) (k : Fin 96) (s : State) : Out :=
  let s := s.at_ t
  let r := tileRec s k
  let span := pwmPeriod r
  let due := match (s.chan.get k).pg.nextAt with | some a => tileSpan s (tileOf k) (a - span) span | none => false
  when (tilePowered s (tileOf k) && chFunc r == .dout && chPgmode r == 2 && due)
    (withRefresh k (modPg k (fun g => if g.left = 0 then { g with nextAt := none } else trainStart s r g))) s

end Sys2Proof.Machine
end

