-- ==== Sys2Proof/Machine/Switching.lean ====
section
/-! DEFINITION. Protected load switching: ceilings, cut-offs, thermal shutdown, clamp energy, tile trip and the sense pin (R180 to R212,
R225). Currents in milliamperes, voltages in millivolts, energies in microjoules. -/

namespace Sys2Proof.Machine

open Sys2Proof

/-! ## Ceilings (R181, R182) -/

/-- m(t) of a switch's running envelope, 1 where none runs. -/
def multiplier (s : State) (k : Fin 96) : Rat :=
  match (s.chan.get k).sw.envAt with
  | some a => envAt (envPoints (profRecs s k) (tileRec s k)) (((s.now - a : Nat) : Rat) / 20000)
  | none => 1

/-- The current ceiling of a switch in mA; a paired switch shares 24 A (R181). -/
def ceilingOf (s : State) (k : Fin 96) : Rat :=
  let r := tileRec s k
  let top : Rat := if chPairw r then 24000 else 12000
  let c := (chIlim r : Rat) * multiplier s k
  if c < top then c else top

/-- The channel that stands for a switch: of a paired output the even one, whose second switch is the odd channel's (R200, R201). -/
def mainChan (s : State) (k : Fin 96) : Fin 96 :=
  if k.val % 2 = 0 then k
  else match asFin 96 (k.val - 1) with
    | some j => if chFunc (tileRec s j) = .dout && chPairw (tileRec s j) then j else k
    | none => k

/-- The channel has a protected switch in a powered tile. -/
def hasSwitch (s : State) (k : Fin 96) : Bool := tilePowered s (tileOf k) && switching (tileRec s k)

/-- CURRENT_LIMIT (of either switch of a pair, as every event here: R201): the current reaches the ceiling, known to ±7 % or ±30 mA (R187). -/
def execCurrentLimit (t : Time) (j : Fin 96) (current : Nat) (s : State) : Out :=
  let s := s.at_ t
  let k := mainChan s j
  let c := ceilingOf s k
  let tol : Rat := if 30 < c * 7 / 100 then c * 7 / 100 else 30
  when (hasSwitch s k && (s.chan.get k).sw.on && decide (c - tol ≤ (current : Rat)))
    (protecting k (modSw k (fun w => { w with limiting := true }))) s

/-- CURRENT_BELOW_CEILING. -/
def execCurrentBelowCeiling (t : Time) (j : Fin 96) (s : State) : Out :=
  let s := s.at_ t
  let k := mainChan s j
  when (hasSwitch s k && (s.chan.get k).sw.limiting) (protecting k (modSw k (fun w => { w with limiting := false }))) s

/-! ## Cut-offs (R188 to R190) -/

/-- A LATCH record (Table 18-3): 1 SET, 2 RELEASED, 3 LOST, 4 REFUSED; the kinds mask of RELEASE; the release result. -/
def recordLatch (k : Fin 96) (ev mask result : Nat) (s : State) : State := record 0x0304 (srcOf 1 k.val) ev mask [result] s

/-- The instants of a list that lie within the last 60 s. -/
def lastMinute (now : Time) (l : List Time) : List Time := l.filter fun a => decide (now < a + sec 60)

/-- The patina counters of a channel changed. -/
def modPat (k : Fin 96) (f : Patina → Patina) (s : State) : State := { s with nvs := { s.nvs with pat := s.nvs.pat.upd k f } }

/-- A protection's judgement changes a switch: a judgement of the channel has completed (R216). -/
def judgedSw (k : Fin 96) (f : Sw → Sw) (s : State) : State := modDg k (fun g => { g with judged := true }) (modSw k f s)

/-- A cut-off of any of the three kinds: the switch opens for RETRYT, or latches as the (RETRYN + 1)-th within 60 s (R190). -/
def cutOff (k : Fin 96) (kind : CutKind) (s : State) : State :=
  let r := tileRec s k
  let times := s.now :: lastMinute s.now (s.chan.get k).sw.cutTimes
  let latched := decide (chRetryn r + 1 ≤ times.length)
  let s1 := protecting k (withRefresh k (judgedSw k (fun w => { w with
    limiting := false, cutTimes := times, cut := some { kind := kind, latched := latched, ends := s.now + ms (chRetryt r) } }))) s
  let s2 := modPat k (fun p => { p with cuts := p.cuts + 1, latches := if latched then p.latches + 1 else p.latches }) s1
  if latched then recordLatch k 1 1 0 s2 else s2

/-- SHORT_VERDICT: below LPt − 3 V while regulating at the ceiling, for 20 µs; `v` has LPt's present value (R188, R211). -/
def execShortVerdict (t : Time) (j : Fin 96) (v : AtSupply) (held : Time) (s : State) : Out :=
  let s := s.at_ t
  let k := mainChan s j
  let w := (s.chan.get k).sw
  when (hasSwitch s k && w.on && w.limiting && w.cut.isNone && decide (v.term < (v.lpt : Int) - 3000) && decide (us 20 ≤ held))
    (cutOff k .short) s

/-- OVERLOAD_VERDICT: regulating for 100 ms with the terminal at or above the present LPt − 3 V. -/
def execOverloadVerdict (t : Time) (j : Fin 96) (v : AtSupply) (held : Time) (s : State) : Out :=
  let s := s.at_ t
  let k := mainChan s j
  let w := (s.chan.get k).sw
  when (hasSwitch s k && w.on && w.limiting && w.cut.isNone && decide ((v.lpt : Int) - 3000 ≤ v.term) && decide (ms 100 ≤ held))
    (cutOff k .overload) s

/-- RETRYT_EXPIRY: the cut-off ends and the terminal takes its deciding source's present value. -/
def execRetrytExpiry (t : Time) (k : Fin 96) (s : State) : Out :=
  let s := s.at_ t
  let span := ms (chRetryt (tileRec s k))
  let due := match (s.chan.get k).sw.cut with
    | some u => !u.latched && tileSpan s (tileOf k) (u.ends - span) span
    | none => false
  when (hasSwitch s k && due) (protecting k (withRefresh k (modSw k (fun w => { w with cut := none })))) s

/-! ## Thermal shutdown (R191): temperatures in tenths of a degree -/

/-- One of a switching's junction sensors shows a shutdown, or its end; `second` names the odd channel's switch of a pair (R191, R201). -/
def sensorHot (second hot : Bool) (temp : Int) (w : Sw) : Sw :=
  if second then { w with thermal2 := hot, junction2 := temp } else { w with thermal := hot, junction := temp }

/-- The shutdown of one of a switching's sensors stands. -/
def sensorStands (second : Bool) (w : Sw) : Bool := if second then w.thermal2 else w.thermal

/-- THERMAL_SHUTDOWN: a junction at 175 °C ±5 °C opens the switch, or both of a pair; the sixteenth within 60 s latches. -/
def execThermalShutdown (t : Time) (j : Fin 96) (temp : Int) (s : State) : Out :=
  let s := s.at_ t
  let k := mainChan s j
  when (hasSwitch s k && !sensorStands (k != j) (s.chan.get k).sw && decide (1700 ≤ temp))
    (fun s =>
      let times := s.now :: lastMinute s.now (s.chan.get k).sw.thermTimes
      let latched := decide (16 ≤ times.length)
      let s1 := protecting k (withRefresh k (judgedSw k (fun w => { sensorHot (k != j) true temp w with
        thermLatch := w.thermLatch || latched, thermTimes := times }))) s
      let s2 := modPat k (fun p => { p with thermals := p.thermals + 1 }) s1
      if latched then recordLatch k 1 2 0 s2 else s2) s

/-- THERMAL_COOLED: a junction below 155 °C; of a pair both must have cooled. A latched shutdown stands until it is released. -/
def execThermalCooled (t : Time) (j : Fin 96) (temp : Int) (s : State) : Out :=
  let s := s.at_ t
  let k := mainChan s j
  when (hasSwitch s k && sensorStands (k != j) (s.chan.get k).sw && decide (temp < 1550))
    (protecting k (withRefresh k (modSw k (fun w => sensorHot (k != j) w.thermLatch temp w)))) s

/-! ## Peak and hold, controlled switch-on (R185, R186) -/

/-- VALVE_TPEAK_END: the switch regulates at IHOLD. -/
def execValveTpeakEnd (t : Time) (k : Fin 96) (s : State) : Out :=
  let s := s.at_ t
  let due := match (s.chan.get k).sw.peakEnd with | some e => decide (e ≤ s.now) | none => false
  when (hasSwitch s k && due) (modSw k (fun w => { w with peakEnd := none, hold := some (ihold (profRecs s k) (tileRec s k)) })) s

/-- CAP_RAMP_END: the terminal within 0.5 V of the present LPt. -/
def execCapRampEnd (t : Time) (k : Fin 96) (v : AtSupply) (s : State) : Out :=
  let s := s.at_ t
  when (hasSwitch s k && (s.chan.get k).sw.ramping && decide ((v.lpt : Int) ≤ v.term + 500))
    (modSw k (fun w => { w with ramping := false, slew := 0 })) s

/-! ## Clamp energy (R193 to R195, R201, R225) -/

/-- Channel window of R193. -/
def window (s : State) (k : Fin 96) : Nat := (s.chan.get k).sw.bins.foldl (· + ·) 0

/-- Tile window of R193. -/
def tileWindow (s : State) (t : Fin 12) : Nat := ((tileChans t).map (window s)).foldl (· + ·) 0

/-- Energy added to the present bin. -/
def addBin (e : Nat) : List Nat → List Nat
  | [] => [e]
  | b :: rest => (b + e) :: rest

/-- CLAMPLOCK set on a channel that does not hold it yet; recorded as a latch (R198). -/
def setLock (k : Fin 96) (s : State) : State :=
  if (s.chan.get k).sw.clampLock then s
  else recordLatch k 1 4 0 (protecting k (withRefresh k (judgedSw k (fun w => { w with clampLock := true }))) s)

/-- Energy limit of one event and of the channel window (R194, R201). -/
def eventLimit (r : Rec) : Nat := if chPairw r then 1800000 else 1000000
def windowLimit (r : Rec) : Nat := if chPairw r then 4000000 else 2000000

/-- A clamp event's energy counted, and CLAMPLOCK judged (R194). -/
def clampEnergy (k : Fin 96) (energy : Nat) (s : State) : State :=
  let r := tileRec s k
  let s1 := modPat k (fun p => { p with clampUj := p.clampUj + BitVec.ofNat 64 energy })
    (modSw k (fun w => { w with bins := addBin energy w.bins, clampEnd := some s.now }) s)
  let s2 := if windowLimit r ≤ window s1 k || eventLimit r < energy then setLock k s1 else s1
  if 8000000 ≤ tileWindow s2 (tileOf k) then
    forEach ((tileChans (tileOf k)).filter fun j => decide (0 < window s2 j)) setLock s2
  else s2

/-- CLAMP_EVENT_END: the load current has decayed. The clamp acts in every tile state, OFF included (R171); the two clamps of a pair share one
budget (R201). -/
def execClampEventEnd (t : Time) (j : Fin 96) (energy : Nat) (s : State) : Out :=
  let s := s.at_ t
  .next (clampEnergy (mainChan s j) energy s)

/-- CLAMP_ENERGY_LIMIT: the tile ends the event, in OFF too (R171), and disables the clamp stage (R225). -/
def execClampEnergyLimit (t : Time) (j : Fin 96) (energy : Nat) (s : State) : Out :=
  let s := s.at_ t
  let k := mainChan s j
  when (!(s.chan.get k).sw.clampOff && decide (eventLimit (tileRec s k) < energy))
    (fun s => withRefresh k (modSw k (fun w => { w with clampOff := true })) (clampEnergy k energy s)) s

/-- CLAMP_STAGE_REENABLE: IOA_k at or above LMt − 1.0 V for 100 ms. -/
def execClampStageReenable (t : Time) (j : Fin 96) (term : Int) (held : Time) (s : State) : Out :=
  let s := s.at_ t
  let k := mainChan s j
  when ((s.chan.get k).sw.clampOff && decide (-1000 ≤ term) && decide (ms 100 ≤ held))
    (withRefresh k (modSw k (fun w => { w with clampOff := false }))) s

/-- CLAMP_BIN_ROLL: a new bin begins and the oldest of the hundred drops out; a window of zeros is empty. -/
def execClampBinRoll (t : Time) (tile : Fin 12) (s : State) : Out :=
  let s := s.at_ t
  let roll (b : List Nat) : List Nat := let n := (0 :: b).take 100; if n.all (· == 0) then [] else n
  when (tilePowered s tile) (forEach (tileChans tile) (fun k s => modSw k (fun w => { w with bins := roll w.bins }) s)) s

/-! ## Tile trip (R204) -/

/-- Current of a channel's switching, by the currents of a tile's eight switches: a paired output has both (R201, R204). -/
def switchAmps (s : State) (currents : List Nat) (k : Fin 96) : Nat :=
  let r := tileRec s k
  let c := (chanIn k).val
  if switching r then currents.getD c 0 + (if chPairw r then currents.getD (c + 1) 0 else 0) else 0

/-- TILE_TRIP: `currents` of the eight switches; their total above 20 A −1 A for 10 ms −1 ms. -/
def execTileTrip (t : Time) (tile : Fin 12) (currents : List Nat) (held : Time) (s : State) : Out :=
  let s := s.at_ t
  let amps := switchAmps s currents
  let total := ((tileChans tile).map amps).foldl (· + ·) 0
  when (tilePowered s tile && decide (19000 < total) && decide (ms 9 ≤ held))
    (fun s =>
      let on := (tileChans tile).filter fun k => switching (tileRec s k) && (s.chan.get k).sw.on
      let above := on.filter fun k => decide ((chInom (tileRec s k) : Rat) * multiplier s k < (amps k : Rat))
      raise (0x040 + tile.val) (forEach (if above.isEmpty then on else above) (fun k s => cutOff k .trip s) s)) s

/-! ## The sense pin (R207 to R210) -/

/-- A protection stands on a channel's switch: a cut-off, a thermal shutdown or CLAMPLOCK (R208). -/
def protStands (w : Sw) : Bool := w.cut.isSome || w.thermal || w.thermal2 || w.thermLatch || w.clampLock

/-- SNS_t of a tile, with `current` in mA through the selected switching (both switches of a pair): Table 06-7. The mirror gives 0.375 V per ampere,
clamped at 2.0 V. The current is no part of State, so the level is a function of it (log entry 149). -/
def snsPin (s : State) (t : Fin 12) (current : Rat) : SnsPin :=
  let x := s.sns.get t
  let k := mainChan s (chanAt t x.ssel)
  if (s.tile.get t).state = .off then .undriven
  else if x.senseFail || protStands (s.chan.get k).sw then .fault
  else if switching (tileRec s k) then .level (min 2000 (current * 375 / 1000))
  else .level 0

/-- SSEL_CODE_TAKEN: a code stable for 1 µs; from then on SNS_t shows that channel (`snsPin`). -/
def execSselCodeTaken (t : Time) (tile : Fin 12) (code : Fin 8) (held : Time) (s : State) : Out :=
  let s := s.at_ t
  when (tilePowered s tile && decide (us 1 ≤ held)) (fun s => { s with sns := s.sns.upd tile fun x => { x with ssel := code } }) s

/-- MIRROR_CHECK, `mirror` and `sense` in mA of the selected channel: three differences in a row beyond 10 % of reading plus 50 mA make SENSEFAIL, until the tile next starts from OFF. -/
def execMirrorCheck (t : Time) (tile : Fin 12) (mirror sense : Nat) (s : State) : Out :=
  let s := s.at_ t
  let diff := if mirror < sense then sense - mirror else mirror - sense
  when (tilePowered s tile)
    (fun s =>
      if 10 * diff ≤ sense + 500 then { s with sns := s.sns.upd tile fun x => { x with mirrorBad := 0 } }
      else
        let x := s.sns.get tile
        let n := satInc x.mirrorBad 3
        let s1 := judgingTile tile (fun s => { s with sns := s.sns.set tile { x with mirrorBad := n, senseFail := x.senseFail || decide (3 ≤ n) } }) s
        if decide (3 ≤ n) && !x.senseFail then raise (0x050 + tile.val) s1 else s1) s

/-! ## Release (R199) -/

/-- Result of a release of the kinds in a mask (Table 06-4): the first refusing code in the table's order. -/
def releaseCode (s : State) (k : Fin 96) (mask : Nat) : Nat :=
  let w := (s.chan.get k).sw
  let cutL := match w.cut with | some u => u.latched | none => false
  if !linkUp s (tileOf k) || !tilePowered s (tileOf k) then 1
  else if bitOf mask 2 && (decide (1000000 < window s k) || decide (4000000 < tileWindow s (tileOf k))) then 2
  else if bitOf mask 1 && (decide (1550 ≤ w.junction) || decide (1550 ≤ w.junction2)) then 3
  else if !(bitOf mask 0 && cutL || bitOf mask 1 && w.thermLatch || bitOf mask 2 && w.clampLock) then 4
  else 0

/-- A release judged, recorded and, with RELEASED, carried out; its result. -/
def releaseLatch (k : Fin 96) (mask : Nat) (s : State) : Nat × State :=
  let code := releaseCode s k mask
  if code != 0 then (code, recordLatch k 4 mask code s)
  else
    let clear (w : Sw) : Sw := { w with
      cut := if bitOf mask 0 then (match w.cut with | some u => if u.latched then none else some u | none => none) else w.cut
      thermal := if bitOf mask 1 && w.thermLatch then false else w.thermal
      thermal2 := if bitOf mask 1 && w.thermLatch then false else w.thermal2
      thermLatch := w.thermLatch && !bitOf mask 1
      clampLock := w.clampLock && !bitOf mask 2 }
    (0, recordLatch k 2 mask 0 (protecting k (withRefresh k (modSw k clear)) s))

end Sys2Proof.Machine
end

