-- ==== Sys2Proof/Machine/Diagnostics.lean ====
section
/-! DEFINITION. Channel diagnostics: continuous verdicts, diagnostic slots, insulation watch, edge calibration (R213 to R243, R607, R609). -/

namespace Sys2Proof.Machine

open Sys2Proof

/-! ## Continuous verdicts (Table 07-4) -/

/-- Qualifying time of a continuous verdict on a channel, to set or to clear; none where this verdict is not judged so. `s` tells whether
LIMIT stands and what an AOI drives. -/
def qualTime (s : State) (k : Fin 96) (code : Nat) (set : Bool) : Option Time :=
  let r := tileRec s k
  let c := s.chan.get k
  let low := match c.lev.term with | .dac n => decide (n < dacCode r 1) | _ => true
  match code, chFunc r with
  | 0x10, .aii => if chOpendet r && chRange r = 0 && chHartm r != 2 then some (ms 100) else none
  | 0x11, .dout => if chOpendet r && !set then some 0 else none
  | 0x13, .aoi => if !chOpendet r then none else if set then (if low then none else some (ms 1)) else some (if low then 0 else ms 100)
  | 0x20, .aii => if chLoopPwr r && c.sw.limiting == set then some (ms 100) else none
  | 0x20, .aov => if c.sw.limiting == set then some (ms 100) else none
  | 0x22, .aoi => some (ms 10)
  | 0x22, .aov => some (ms 10)
  | 0x23, .off => none
  | 0x23, _ => some (if set then ms 5 else ms 100)
  | _, _ => none

/-- REVERSE is judged at a terminal (`pin` 0 to 2: IOA, IOB, IOC) that has stood for `held` (R224): not at IOB of AIV V10B and V2B nor at IOA of AOV
B10, not at IOA while its clamp conducts and for 1 ms after, nor of a VALVE while its freewheel path conducts, that is while it regulates at IHOLD.
`held` counts no time in which the clamp conducts. -/
def reverseJudged (s : State) (k : Fin 96) (pin : Fin 3) (held : Time) : Bool :=
  let c := s.chan.get k
  let r := tileRec s k
  let rested := match c.sw.clampEnd with | some e => decide (e + ms 1 + held ≤ s.now) | none => true
  match chFunc r, pin.val with
  | .aiv, 1 => chRange r == 1
  | .aov, 0 => chRange r == 0
  | .dout, 0 => rested && c.sw.hold.isNone
  | .di, 0 => rested
  | .cnt, 0 => rested
  | _, _ => true

/-- VERDICT_QUALIFIED: a STANDBY member judges REVERSE alone of these (R239). -/
def execVerdictQualified (t : Time) (k : Fin 96) (c : CodeAt) (set : Bool) (held : Time) (s : State) : Out :=
  let s := s.at_ t
  let x := s.tile.get (tileOf k)
  let due := match qualTime s k c.code set with
    | some q => decide (q ≤ held) && (c.code != 0x23 || !set || reverseJudged s k c.pin q)
    | none => false
  when (x.state != .off && (!x.standby || c.code == 0x23) && due) (withRefresh k (protecting k (putVerdict k c.code set))) s

/-- OPEN_LOAD_ON: 100 ms of counted on time without current above OPENI, sensed to ±5 mA (R222). -/
def execOpenLoadOn (t : Time) (k : Fin 96) (counted : Time) (maxCurrent : Nat) (s : State) : Out :=
  let s := s.at_ t
  let r := tileRec s k
  let c := s.chan.get k
  when (hasSwitch s k && chFunc r == .dout && chOpendet r && !(s.tile.get (tileOf k)).standby && !(standing s k).contains 0x22 && !limitOf c &&
      decide (ms 100 ≤ counted) && decide (maxCurrent ≤ chOpeni r + 5))
    (setVerdict k 0x11) s

/-- VERDICT_RECORD: a change that has stood for 16 µs (R241). -/
def execVerdictRecord (t : Time) (k : Fin 96) (s : State) : Out :=
  let s := s.at_ t
  let d := (s.chan.get k).dg
  let v := verdictOf s k
  when (hubUp s && linkUp s (tileOf k) && v != d.recorded && decide (us 16 ≤ s.now - d.changed))
    (fun s => record 0x0301 (srcOf 1 k.val) 1 (d.recorded + 256 * v) [(cswOf s k).toNat, s.ep.e % 2 ^ 32]
      (modDg k (fun d => { d with recorded := v }) s)) s

/-! ## Diagnostic slots (R236 to R240, R607, R609) -/

/-- The DIAG record of a slot. -/
def diagRec (s : State) (slot : Nat) : Rec := (castAll s (·.diag)).getD slot []

/-- The tiles of an isolation group, by its lowest tile (R232). -/
def groupTiles (s : State) (t : Nat) : List (Fin 12) := (List.finRange 12).filter fun x => isoGroup (castTile s x.val) == t

/-- The channels of an isolation group with ISO (R605). -/
def isoChans (s : State) (t : Nat) : List (Fin 96) := ((groupTiles s t).flatMap tileChans).filter fun k => chIso (castRec s k.val)

/-- Those of them whose tile is LIVE in a member that drives: in the others every slot verdict keeps its last state (R609). -/
def isoJudged (s : State) (t : Nat) : List (Fin 96) :=
  (isoChans s t).filter fun k => (s.tile.get (tileOf k)).state == .live && !(s.tile.get (tileOf k)).standby

/-- A slot covers a channel (R605). -/
def slotCovers (s : State) (r : Rec) (k : Fin 96) : Bool :=
  if dgKind r = 2 then (isoChans s (dgTile r)).contains k else diagCovers r k

/-- The conditions of R239 for a slot. -/
def slotMay (s : State) (r : Rec) : Bool :=
  let live := match asFin 12 (dgTile r) with | some t => (s.tile.get t).state == .live && !(s.tile.get t).standby | none => false
  live && (!paired s || s.pair.state == .solo || s.pair.state == .active)

/-- The run of a slot. -/
def runOf (s : State) (slot : Nat) : Option DiagRun := s.misc.diag.find? (fun d => d.slot == slot)

/-- The run of a slot changed. -/
def modRun (slot : Nat) (f : DiagRun → DiagRun) (s : State) : State :=
  { s with misc := { s.misc with diag := s.misc.diag.map fun d => if d.slot = slot then f d else d } }

/-- The one channel of an OFFTEST slot. -/
def offChan (s : State) (r : Rec) : Option (Fin 96) := allChans.find? (fun k => diagCovers r k && chFunc (castRec s k.val) == .dout)

/-- SYSTIME is at the slot's period and phase, to one FCLK cycle (R236). -/
def slotTime (s : State) (r : Rec) : Bool :=
  decide (((sysHalf s : Int) - 2000 * (dgPhase r : Int)) % (2000 * (max 1 (dgPeriod r) : Int)) < 5)

/-- DIAG_SLOT_START: the window begins on its period and phase, under R239. An OFFTEST is eligible when its switch has been off for TOFF (R223); it claims the fast
sense converter (R79). -/
def execDiagSlotStart (t : Time) (slot : Nat) (s : State) : Out :=
  let s := s.at_ t
  let r := diagRec s slot
  when (hubUp s && !r.isEmpty && slotMay s r && (runOf s slot).isNone && slotTime s r)
    (fun s =>
      let add (ok : Bool) (s : State) : State :=
        { s with misc := { s.misc with diag := s.misc.diag ++ [{ slot := slot, start := s.now, stop := s.now + us (dgWindow r), eligible := ok }] } }
      if dgKind r = 0 then
        match offChan s r with
        | none => add false s
        | some k =>
          let w := (s.chan.get k).sw
          let ok := !w.on && decide (ms (chToff (castRec s k.val)) ≤ s.now - w.changed)
          add ok { s with sns := s.sns.upd (tileOf k) fun x => { x with claimed := some (chanIn k, s.now + us (dgWindow r)) } }
      else add true s) s

/-- First epoch whose T_E lies at or after now (R607). -/
def epochFrom (s : State) : Nat :=
  let p : Int := us s.ep.p
  let d : Int := (sysHalf s : Int) - 2 * s.ep.t0
  if p = 0 then s.ep.e else ((d + p - 1) / p).toNat

/-- The manual tests that a window of a slot answers: of its kind, on a channel it covers, in effect before it began (R607). A channel to which an
insulation measurement gave no result is UNTESTED (DEDUCED, log entry 156). -/
def endTests (r : Rec) (run : DiagRun) (s : State) : State :=
  let hit (w : TestWait) : Bool := w.kind == dgKind r && slotCovers s r w.k && decide (w.since ≤ run.start)
  let result (w : TestWait) : Nat :=
    if dgKind r = 0 && !run.eligible then 2
    else if run.skipped then 1
    else if dgKind r = 3 && !bitOf run.accepted (chanIn w.k).val then 2
    else if dgKind r = 2 && !run.gave.contains w.k.val then 2
    else 0
  let e := epochFrom s
  forEach (s.misc.tests.filter hit) (fun w s => finishWith w.w 0 e (result w) 0 0 [] s)
    { s with misc := { s.misc with tests := s.misc.tests.filter fun w => !hit w } }

/-- The window of a slot is over: its run and its own claim on the converter end; a window that has begun since keeps the claim it made (R79). -/
def closeRun (slot : Nat) (s : State) : State :=
  let r := diagRec s slot
  let stop := (runOf s slot).map (·.stop)
  let s1 := { s with misc := { s.misc with diag := s.misc.diag.filter fun d => d.slot != slot } }
  if dgKind r = 0 then
    match asFin 12 (dgTile r) with
    | some t => { s1 with sns := s1.sns.upd t fun x => if x.claimed.map (·.2) = stop then { x with claimed := none } else x }
    | none => s1
  else s1

/-- The result of an off-state test (R223): V1 and V2 in millivolts. -/
def offJudge (k : Fin 96) (v1 v2 : Int) (s : State) : State :=
  let l := decide (6000 ≤ v1)
  let o := !l && decide (3500 ≤ v2)
  protecting k (fun s => putVerdict k 0x22 l (putVerdict k 0x12 o (clearVerdict k 0x11 s))) s

/-- The results of a slot go to the event queues of its tiles: whether a slot verdict stands on each channel (R57). -/
def diagEvents (r : Rec) (s : State) : State :=
  let bad (k : Fin 96) : Bool := (standing s k).any fun v => [0x12, 0x22, 0x40, 0x50, 0x52, 0x53, 0x60].contains v
  forEach (allChans.filter (slotCovers s r)) (fun k s => queueEvt (tileOf k) 4 (chanIn k).val (bad k) s) s

/-- DIAG_SLOT_END: the results take effect, go out as events, and waiting tests complete. -/
def execDiagSlotEnd (t : Time) (slot : Nat) (v1 v2 : Int) (s : State) : Out :=
  let s := s.at_ t
  match runOf s slot with
  | none => noEffect s
  | some run =>
    let r := diagRec s slot
    when (decide (run.stop ≤ s.now))
      (fun s =>
        let s1 :=
          if dgKind r = 0 && run.eligible && !run.skipped then
            (match offChan s r with | some k => offJudge k v1 v2 s | none => s)
          else s
        endTests r run (closeRun slot (if run.skipped || !run.eligible then s1 else diagEvents r s1))) s

/-- A DIAGNOTE record (Table 18-3): 1 SKIPPED, 2 DISTURBED, 3 UNTESTED, 4 PARALLEL. -/
def recordDiag (source ev other : Nat) (s : State) : State := record 0x0305 source ev 0 [other] s

/-- DIAG_WINDOW_ABORT: a condition of R239 has stopped holding; the result is SKIPPED and every verdict keeps its state (R609). -/
def execDiagWindowAbort (t : Time) (slot : Nat) (s : State) : Out :=
  let s := s.at_ t
  match runOf s slot with
  | none => noEffect s
  | some run =>
    let r := diagRec s slot
    when (!slotMay s r)
      (fun s =>
        let chans := if dgKind r = 2 then isoChans s (dgTile r) else allChans.filter (diagCovers r)
        let s1 := forEach chans (fun k s => modDg k (fun g => { g with skipped := g.skipped + 1 }) s) s
        let source := match dgKind r, offChan s r with | 0, some k => srcOf 1 k.val | _, _ => srcOf 2 (dgTile r)
        endTests r { run with skipped := true } (closeRun slot (recordDiag source 1 0 s1))) s

/-! ## Undeclared parallel outputs (R226, R227) -/

/-- Runs of followed and of failed transitions of channel `b` after `a`. -/
def followOf (s : State) (a : Fin 96) (b : Nat) : Nat × Nat :=
  match (s.chan.get a).dg.follow.find? (fun e => e.1 == b) with
  | some e => e.2
  | none => (0, 0)

/-- PARALLEL stands between a channel and another. -/
def joinPar (k : Fin 96) (other : Nat) (s : State) : State :=
  modDg k (fun g => { g with par := if g.par.contains other then g.par else other :: g.par }) s

/-- A judgement of a channel has completed (R216). -/
def judgedNow (k : Fin 96) (s : State) : State := judging k (modDg k fun g => { g with judged := true }) s

/-- One covered channel with its gate off judged at a transition of `a`, which completes a judgement of both. PARALLEL is held for each pair of channels, and ends on a channel with the last
pair it stands with. -/
def partestOne (a b : Fin 96) (follows : Bool) (s : State) : State :=
  let (f, n) := followOf s a b.val
  let e : Nat × Nat := if follows then (min (f + 1) 4, 0) else (0, min (n + 1) 16)
  let s1 := judgedNow a (judgedNow b (modDg a (fun g => { g with follow := (b.val, e) :: g.follow.filter (fun x => x.1 != b.val) }) s))
  if follows && 4 ≤ e.1 then
    let s2 := forEach [(a, b), (b, a)] (fun p s => protecting p.1 (fun s => clearVerdict p.1 0x22 (setVerdict p.1 0x40 (joinPar p.1 p.2.val s))) s) s1
    if (s.chan.get a).dg.par.contains b.val then s2 else recordDiag (srcOf 1 a.val) 4 b.val s2
  else if !follows && 16 ≤ e.2 && (s.chan.get a).dg.par.contains b.val then dropPar b a.val (dropPar a b.val s1)
  else s1

/-- PARTEST_TRANSITION: `followers` are the channels whose readback changed the same way within 20 µs. -/
def execPartestTransition (t : Time) (slot : Nat) (a : Fin 96) (followers : List Nat) (s : State) : Out :=
  let s := s.at_ t
  let r := diagRec s slot
  when ((runOf s slot).isSome && dgKind r == 1 && diagCovers r a)
    (fun s =>
      let others := allChans.filter fun b => diagCovers r b && b != a && chFunc (castRec s b.val) == .dout && !(s.chan.get b).sw.on
      forEach others (fun b s => partestOne a b (followers.contains b.val) s) s) s

/-! ## Insulation watch (R228 to R233) -/

/-- ΔU / ΔI in ohms from millivolts and nanoamperes, published as 50 MΩ above that (R228, R229). -/
def ohmsOf (du di : Int) : Rat :=
  if di = 0 then 50000000
  else
    let q : Rat := (du : Rat) * 1000000 / (di : Rat)
    if 50000000 < q then 50000000 else q

/-- A result in whole ohms for the history. -/
def wholeOhms (q : Rat) : Nat := (floorRat q).toNat

/-- One hour's lowest result. -/
def lowest (h : InsHist) (q : Rat) : InsHist :=
  { h with hourMin := some (match h.hourMin with | some m => min m (wholeOhms q) | none => wholeOhms q) }

/-- R_c of a channel without ISO: its result and history alone (R605, R233). -/
def leakNote (k : Fin 96) (q : Rat) (s : State) : State := modDg k (fun g => { g with rc := some (f32OfRat q), ins := lowest g.ins q }) s

/-- R_c of one channel with ISO judged against ISOLO (R230), and its run towards ISO_DRIFT (R233). -/
def leakJudge (k : Fin 96) (q : Rat) (bonded : Bool) (s : State) : State :=
  let lo : Rat := chIsolo (castRec s k.val)
  let g := (s.chan.get k).dg
  let nLow := if q < lo then min (g.leakLow + 1) 2 else 0
  let nHigh := if lo * 3 / 2 ≤ q then min (g.leakHigh + 1) 2 else 0
  let s1 := modDg k (fun g => { g with
    rc := some (f32OfRat q), ins := lowest g.ins q, leakLow := nLow, leakHigh := nHigh
    lowSince := if 10 * lo < q then none else match g.lowSince with | some a => some a | none => if q < 4 * lo then some s.now else none
    highSince := if 10 * lo < q then (match g.highSince with | some a => some a | none => some s.now) else none }) s
  if bonded then s1
  else if 2 ≤ nLow then setVerdict k 0x50 s1
  else if 2 ≤ nHigh then clearVerdict k 0x50 s1
  else judging k (modDg k fun g => { g with judged := true }) s1

/-- One tile's insulation state changed. -/
def modIso (t : Fin 12) (f : TIso → TIso) (s : State) : State := { s with iso := s.iso.upd t f }

/-- A good measurement of a group (R228, R230, R231): every channel of its LIVE tiles is measured, those with ISO are judged (R605, R609). -/
def isoResults (t : Fin 12) (m : IsoMeas) (s : State) : State :=
  let du := m.uPlus - m.uMinus
  let rt := ohmsOf du (m.ipePlus - m.ipeMinus)
  let chans := isoJudged s t.val
  let measured := ((groupTiles s t.val).filter fun x => (s.tile.get x).state == .live && !(s.tile.get x).standby).flatMap tileChans
  let i := s.iso.get t
  let nLow := if rt < 10000 then min (i.bondLow + 1) 2 else 0
  let nHigh := if 20000 ≤ rt then min (i.bondHigh + 1) 2 else 0
  let s1 := modIso t (fun i => { i with rT := some (f32OfRat rt), bondLow := nLow, bondHigh := nHigh, disturbedRun := 0, ins := lowest i.ins rt }) s
  let s2 := forEach chans (fun k s => clearVerdict k 0x52 (if 2 ≤ nLow then setVerdict k 0x53 s else if 2 ≤ nHigh then clearVerdict k 0x53 s else s)) s1
  let one (e : Nat × Int × Int × Bool) (s : State) : State :=
    match asFin 96 e.1 with
    | none => s
    | some k =>
      let q := ohmsOf du (e.2.1 - e.2.2.1)
      if !measured.contains k || (chFunc (castRec s k.val) == .dout && !e.2.2.2) then s
      else if !chans.contains k then leakNote k q s
      else leakJudge k q ((s.chan.get k).dg.stand.contains 0x53) s
  let s3 := forEach m.chans one s2
  let loMin := ((isoChans s t.val).map fun k => chIsolo (castRec s k.val)).min?
  let shown := (isoChans s t.val).any fun k => (s3.chan.get k).dg.stand.contains 0x50
  match loMin with
  | some lo => if rt < (lo : Rat) && !shown then raiseLevel (0x060 + t.val) s3 else calm (0x060 + t.val) s3
  | none => s3

/-- The channels to which a good measurement gave a result: a DO only with its switch on for both plateaus (R228). -/
def isoGave (s : State) (t : Fin 12) (m : IsoMeas) : List Nat :=
  (m.chans.filter fun e =>
    match asFin 96 e.1 with
    | some k => (isoJudged s t.val).contains k && (chFunc (castRec s k.val) != .dout || e.2.2.2)
    | none => false).map (·.1)

/-- ISO_MEASUREMENT_END: disturbed measurements are discarded and counted (R232); less than 2 nC moved means NOEARTH (R231). -/
def execIsoMeasurementEnd (t : Time) (slot : Nat) (meas : IsoMeas) (s : State) : Out :=
  let s := s.at_ t
  let r := diagRec s slot
  match asFin 12 (dgTile r) with
  | none => noEffect s
  | some x =>
    when ((runOf s slot).isSome && dgKind r == 2)
      (fun s =>
        if 200 < meas.variation then
          let n := (s.iso.get x).disturbedRun + 1
          let s1 := modIso x (fun i => { i with disturbedRun := min n 3, disturbed := i.disturbed + 1 }) (modRun slot (fun d => { d with skipped := true }) s)
          let s2 := recordDiag (srcOf 2 x.val) 2 0 s1
          if n = 3 then raise (0x060 + x.val) s2 else s2
        else if meas.charge < 2000 then
          let chans := isoJudged s x.val
          forEach chans (fun k s => setVerdict k 0x52 s) (modIso x (fun i => { i with disturbedRun := 0 }) (modRun slot (fun d => { d with gave := chans.map (·.val) }) s))
        else isoResults x meas (modRun slot (fun d => { d with gave := isoGave s x meas }) s)) s

/-- The hour's minimum enters a history of 90 days; after 24 hours the day's minimum does. -/
def closeHour (h : InsHist) : InsHist :=
  let hours := (h.hourMin :: h.hours).take 2160
  if h.day + 1 = 24 then
    { hourMin := none, hours := hours, day := 0, daily := (((hours.take 24).filterMap id).min? :: h.daily).take 90 }
  else { hourMin := none, hours := hours, day := h.day + 1, daily := h.daily }

/-- The daily minimum has fallen on each of five consecutive days, by at least 10 % each time, to below `top` (R233). -/
def fiveFalls (top : Nat) (l : List (Option Nat)) : Bool :=
  match l with
  | some a :: some b :: some c :: some d :: some e :: some f :: _ =>
    decide (a < top) && [(a, b), (b, c), (c, d), (d, e), (e, f)].all fun p => decide (10 * p.1 ≤ 9 * p.2)
  | _ => false

/-- ISO_DRIFT judged (R233). -/
def driftJudge (k : Fin 96) (s : State) : State :=
  let r := castRec s k.val
  let g := (s.chan.get k).dg
  let slow := match g.lowSince with | some a => decide (sec (60 * chIsorecov r) ≤ s.now - a) | none => false
  let good := match g.highSince with | some a => decide (sec 86400 ≤ s.now - a) | none => false
  if good then clearVerdict k 0x51 s
  else if slow || fiveFalls (10 * chIsolo r) g.ins.daily then setVerdict k 0x51 s
  else s

/-- INSULATION_HOURLY: every channel's history, and ISO_DRIFT of those with ISO (R233). -/
def execInsulationHourly (t : Time) (s : State) : Out :=
  let s := s.at_ t
  let hour (k : Fin 96) (s : State) : State := modDg k (fun g => { g with ins := closeHour g.ins }) s
  let s1 := forEach allChans (fun k s => if chIso (castRec s k.val) then driftJudge k (hour k s) else hour k s) s
  .next { s1 with iso := s1.iso.all fun i => { i with ins := closeHour i.ins } }

/-! ## Edge calibration (R234, R235) -/

/-- The edge calibration of a channel replaced and queued for the trim store. -/
def putEdge (e : EdgeCal) (s : State) : State :=
  { s with nvs := { s.nvs with
    edge := e :: s.nvs.edge.filter (fun x => !(x.k == e.k && x.lclass == e.lclass))
    store := { s.nvs.store with jobs := s.nvs.store.jobs ++ [.trim] } } }

/-- EDGECAL_MEASUREMENT: `ticks` of 2.5 ns from the command to LPt / 2; `level1` tells of a level 1 protection within 50 µs. -/
def execEdgecalMeasurement (t : Time) (k : Fin 96) (on : Bool) (ticks : Nat) (level1 : Bool) (s : State) : Out :=
  let s := s.at_ t
  let r := castRec s k.val
  match s.misc.diag.find? (fun d => dgKind (diagRec s d.slot) == 3 && diagCovers (diagRec s d.slot) k) with
  | none => noEffect s
  | some run =>
    when (chEdgecal r)
      (fun s =>
        let testing := s.misc.diag.any fun d => decide (dgKind (diagRec s d.slot) ≤ 1) && diagCovers (diagRec s d.slot) k
        if level1 || testing || ticks < 80 || 200000 < ticks then
          let g := (s.chan.get k).dg
          let n := min ((if on then g.discOn else g.discOff) + 1) 16
          let s1 := modDg k (fun g => if on then { g with discOn := n } else { g with discOff := n }) s
          if n = 16 then setVerdict k 0x60 s1 else s1
        else
          let e := edgeOf s k.val r
          let e' := if on then { e with on := (ticks :: e.on).take 16 } else { e with off := (ticks :: e.off).take 16 }
          let s1 := modDg k (fun g => if on then { g with discOn := 0 } else { g with discOff := 0 }) (putEdge e' s)
          clearVerdict k 0x60 (modRun run.slot (fun d => { d with accepted := d.accepted ||| 2 ^ (chanIn k).val }) s1)) s

/-- NEVER_OFF_HOURLY_RECORD: an OFFTEST channel that in the hour was never off for TOFF is recorded as UNTESTED (R238). -/
def execNeverOffHourlyRecord (t : Time) (k : Fin 96) (s : State) : Out :=
  let s := s.at_ t
  let r := castRec s k.val
  when (hubUp s && chFunc r == .dout && chOfftest r)
    (fun s =>
      let c := s.chan.get k
      let was := c.dg.everOff || (!c.sw.on && decide (ms (chToff r) ≤ s.now - c.sw.changed))
      let s1 := modDg k (fun g => { g with everOff := false }) s
      if was then s1 else recordDiag (srcOf 1 k.val) 3 0 s1) s

end Sys2Proof.Machine
end

