-- ==== Sys2Proof/Machine/Tags.lean ====
section
/-! DEFINITION. The values of this device's tags (R88, R178, R205, R228, R248, R263, R290, R294, R323, Table 14-14), the groups' leaders
(R315) and the pair status. -/

namespace Sys2Proof.Machine

open Sys2Proof

/-! ## Groups and pair as published -/

/-- Frames from a number are accepted (R352), a source silent for 10 ms being forgotten (R342); the device hears itself. -/
def heard (s : State) (d : Nat) : Bool := d == selfNum s || s.net.srcs.any (fun x => x.num == d && decide (s.now < x.last + ms 10))

/-- A verdict or none in the last three epochs: the leader as this member knows it (R315). -/
def leaderNum (s : State) (g : Group) : Nat :=
  let low := ((grpMembers (grpRec s g.num)).find? (heard s)).getD (selfNum s)
  match g.leader with
  | some (n, e) => if s.ep.e ≤ e + 3 then n else low
  | none => low

/-- This member leads the group (R315): IN with a lower number than the leader it knows, or that leader itself while IN or JOINING; where no verdict
came in the last three epochs, the lowest-numbered member that it hears, whatever its state (DEDUCED, log entry 60). -/
def isLeader (s : State) (g : Group) : Bool :=
  let recent := match g.leader with | some (_, e) => decide (s.ep.e ≤ e + 3) | none => false
  g.num == 0xFFFF || (leaderNum s g == selfNum s && (!recent || g.state == 1 || g.state == 2)) ||
    (g.state == 2 && decide (selfNum s < leaderNum s g))

/-- The group status tag (R323). -/
def groupStatus (s : State) (g : Group) : Nat :=
  g.state + 4 * b2n g.applied + 8 * b2n (isLeader s g) + 16 * (g.consec % 256) + 4096 * (g.total % 2 ^ 20)

/-- PSTATE codes (Table 11-4). -/
def pstateCode : PairState → Nat
  | .solo => 0 | .orphan => 1 | .active => 2 | .standby => 3 | .couch => 4

/-- The three witnesses as a mask. -/
def witMask (s : State) : Nat := b2n s.pair.wit.1 + 2 * b2n s.pair.wit.2.1 + 4 * b2n s.pair.wit.2.2

/-- The pair status tag (section "Availability"), from the member that drives. -/
def pairStatus (s : State) : Nat :=
  let seatB := s.pwr.straps.pairId == 1
  let (syn, arm) := match s.pair.partner with | some p => (p.synced, p.armed) | none => (false, false)
  pstateCode s.pair.state + 8 * b2n seatB + 16 * b2n syn + 32 * b2n arm + 64 * witMask s + 65536 * ((s.pair.takeovers + 65536 - s.pair.takeBase % 65536) % 65536)

/-! ## Channel tags -/

/-- The generator of a DO runs (R177): with PWM all the time (R174), within a train, and while a VALVE chops at IHOLD (R185). -/
def genRunning (r : Rec) (c : Chan) : Bool :=
  match chPgmode r with
  | 1 => true
  | 2 => c.pg.nextAt.isSome || c.pg.offAt.isSome
  | _ => c.sw.hold.isSome

/-- The readback of a DO (R177): gate on, terminal high, generator running, applied duty. An on switch that does not limit holds its
terminal above LPt / 2; the level of any other terminal is the load's and is a free value (log entry 3). -/
def readback (s : State) (k : Fin 96) : Word :=
  let c := s.chan.get k
  let r := tileRec s k
  let high := if c.sw.on && !c.sw.limiting && !c.sw.ramping then true else Config.freeBool (s.free + k.val)
  BitVec.ofNat 32 (b2n c.sw.on + 2 * b2n high + 4 * b2n (genRunning r c) + 8 * (if chPgmode r = 0 then 0 else c.pg.duty))

/-- "No such edge" of an age (R178, Table 08-4). -/
def noAge : Word := 0x7FFFFFFF

/-- Nanoseconds by which a SYSTIME instant, in half-ns, precedes another; `noAge` beyond 2,147,483,646 ns. -/
def ageNs (te : Nat) (at_ : Option Nat) : Word :=
  match at_ with
  | some a => if (te - a) / 2 ≤ 2147483646 then BitVec.ofNat 32 ((te - a) / 2) else noAge
  | none => noAge

/-- Amperes of a fast-sense current code of the last epoch: 16.0 A over 4,096 steps (R206); a paired output adds both switches. An epoch
without a conversion gives none. The peak of a pair adds each switch's own highest conversion (DESIGN CHOICE, log entry 160). -/
def ampsOf (s : State) (k : Fin 96) (f : Nat × Nat × Nat → Rat) : Option Word :=
  let one (j : Fin 96) : Option Rat := let x := (s.sns.get (tileOf j)).report.get (chanIn j); if x.1 = 0 then none else some (f x)
  match one k with
  | none => none
  | some a =>
    if chPairw (tileRec s k) then ((asFin 96 (k.val + 1)).bind one).map fun b => f32OfRat ((a + b) / 256)
    else some (f32OfRat (a / 256))

/-- The odd channel whose terminals an even one uses: the sense side of a 4-wire RTD (R104), or the second switch of a paired output (R200). -/
def lentChan (s : State) (k : Fin 96) : Bool :=
  k.val % 2 = 1 && (match asFin 96 (k.val - 1) with
    | some j => let q := tileRec s j; (chFunc q == .rtd && chWires q == 4) || (chFunc q == .dout && chPairw q)
    | none => false)

/-- In couch the value of an AOI or AII channel is the sum of both members' measured shares (R115). No frame that the spec lays out carries the
partner's share: it is a free value, and from step 8 until the roles exchange it is the outgoing member's whole value (log entry 3). -/
def withPartner (s : State) (k : Fin 96) (y : Word) : Word :=
  match (s.chan.get k).lev.share with
  | some n =>
    if n = 0 && !(s.tile.get (tileOf k)).standby then Config.freeWord (s.free + k.val)
    else if 0 < n && n < 8 then addF y (Config.freeWord (s.free + k.val))
    else y
  | none => y

/-- The value of a channel's own tag (SUB 0); none when it never had one. Bit 1 of a NAM value goes on following the comparator while a line fault
stands (DESIGN CHOICE, log entry 129). -/
def chanValue (s : State) (k : Fin 96) : Option Word :=
  let c := s.chan.get k
  let r := tileRec s k
  match chFunc r with
  | .off => if lentChan s k then some 0 else none
  | .aii | .aoi => if c.ana.inst.isSome then some (withPartner s k c.ana.y) else none
  | .aiv | .rtd | .tc | .aov => if c.ana.inst.isSome then some c.ana.y else none
  | .di | .nam => some (BitVec.ofNat 32 (b2n c.dig.filt + 2 * b2n c.dig.raw))
  | .cnt => some c.dig.pub
  | .dout => some (readback s k)

/-- The value of a channel tag by SUB (Table 14-14), `te` the SYSTIME half-ns to which ages refer. An age beyond the int32 of R88 keeps its low 32
bits (DESIGN CHOICE, log entry 126). -/
def chanTag (s : State) (k : Fin 96) (sub te : Nat) : Option Word :=
  let c := s.chan.get k
  match sub with
  | 0 => chanValue s k
  | 1 => c.ana.inst.map fun i => word32 ((te / 2 : Nat) - (i : Int))
  | 2 => some (ageNs te c.dig.lastRise)
  | 3 => some (ageNs te c.dig.lastFall)
  | 4 => some c.dig.edges
  | 5 => some c.dig.freq
  | 6 => ampsOf s k fun x => (x.2.1 : Rat) / x.1
  | 7 => ampsOf s k fun x => (x.2.2 : Rat)
  | 8 => some (f32OfRat ((window s k : Rat) / 1000000))
  | 9 => c.dg.rc
  | _ => none

/-- RAW of a channel (R58, R177): the converter code, the filtered and raw state over the low 22 bits of the edge count, the low 24 bits of the
count, or the readback. -/
def rawOf (s : State) (k : Fin 96) : Nat :=
  let c := s.chan.get k
  match chFunc (tileRec s k) with
  | .off => 0
  | .di | .nam => b2n c.dig.filt + 2 * b2n c.dig.raw + 4 * (c.dig.edges.toNat % 2 ^ 22)
  | .cnt => c.dig.count.toNat % 2 ^ 24
  | .dout => (readback s k).toNat % 2 ^ 24
  | _ => Config.adcCode c.ana.raw % 2 ^ 24

/-- An EPV or LVAL entry (R58): RAW, TSTAT, VERDICT and SCNT. TSTAT is the CSW's low 24 bits (PRESUMED, log entry 128). -/
def epvEntry (s : State) (k : Fin 96) : List Byte :=
  leBytes 3 (rawOf s k) ++ leBytes 3 ((cswOf s k).toNat % 2 ^ 24) ++ [BitVec.ofNat 8 (verdictOf s k), BitVec.ofNat 8 (s.chan.get k).ana.n]

/-! ## Axis, loop and totaliser tags -/

/-- The status tag of a context (Table 08-4). -/
def axisStatus (a : Axis) : Nat :=
  let f := a.flags
  b2n f.lost + 2 * b2n f.noref + 4 * b2n f.still + 8 * b2n f.stopReq + 16 * b2n f.rundown + 32 * b2n f.rdEnd + 64 * b2n f.qerr +
    128 * b2n f.zfault + 256 * (a.qerrCount % 256)

/-- The tags of a context in the order of Table 08-4. -/
def axisTag (s : State) (x : Fin 8) (sub te : Nat) : Option Word :=
  let a := s.eng.axis.get x
  let p := signed a.p.toNat 48
  match sub with
  | 0 => some (word32 p)
  | 1 => some (word32 (p / 2 ^ 32))
  | 2 => some (word32 (cycleNow s x))
  | 3 => some (axisVelocity a ((te : Rat) / 2))
  | 4 => some (f32OfRat (dRat a.acc * 1000000000000000000))
  | 5 => a.zlatch.map fun z => BitVec.ofNat 32 z.2.toNat
  | 6 => some (ageNs te (a.zlatch.map fun z => 2 * z.1))
  | 7 => some a.offset
  | 8 => none
  | 9 => some (BitVec.ofNat 32 (axisStatus a))
  | _ => none

/-- The status tag of a lane (R248). -/
def laneStatus (l : Lane) : Nat :=
  l.state + 256 * (l.late % 256) + 65536 * ((l.tooLate + l.uncorrected) % 256) + 16777216 * (l.clipped % 256)

/-- Total in units as binary32: the accumulator counts 2^-20 units (R291). -/
def totUnits (t : Tot) : Rat := (signed t.acc.toNat 64 : Rat) / 1048576

/-- The status tag of a totaliser (R294). -/
def totStatus (t : Tot) : Nat := b2n t.limit + 2 * b2n t.srcBad + 4 * b2n t.sat + 8 * b2n t.gap + 65536 * (t.gapN % 65536)

/-- A committed value of a writable tag; none before the first. -/
def ctlValue (s : State) (r : Rec) : Option Word := lookupO s.ep.ctl (tagIndex r)

/-! ## Any tag -/

/-- CSW of a tag that is no channel tag (Table 09-1). -/
def plainCsw (valid under above hart : Bool) : Word := BitVec.ofNat 32 (b2n valid + 512 * b2n under + 1024 * b2n above + 65536 * b2n hart)

/-- PV, OUT and status of a loop block have no value before its first sample (R302). -/
def loopShown (l : Loop) (v : Word) : Option Word := if l.ran then some v else none

/-- VALUE and CSW of a tag now, ages referred to `te`; none when it has no value (R302). -/
def tagNow (s : State) (r : Rec) (te : Nat) : Option (Word × Word) :=
  let n := tagNum r
  let ok (v : Option Word) : Option (Word × Word) := v.map fun v => (v, plainCsw true false false false)
  match tagKind r with
  | 1 =>
    match asFin 96 n with
    | some k =>
      if (s.tile.get (tileOf k)).state == .off || !linkUp s (tileOf k) then none
      else (chanTag s k (tagSub r) te).map fun v => (v, cswOf s k)
    | none => none
  | 2 => match asFin 12 n with
    -- R_T belongs to the group, whose lowest tile measures it (R232).
    | some t => ok ((asFin 12 (isoGroup (castTile s t.val))).bind fun g => (s.iso.get g).rT)
    | none => none
  | 3 => match asFin 96 n with
    | some l => if tagSub r = 0 then ok (ctlValue s r) else ok (some (BitVec.ofNat 32 (laneStatus (s.eng.lane.get l))))
    | none => none
  | 4 => match asFin 8 n with
    | some x => if tagSub r = 8 then ok (ctlValue s r) else ok (axisTag s x (tagSub r) te)
    | none => none
  | 5 => match asFin 48 n with
    | some b =>
      let l := s.eng.loop.get b
      ok (match tagSub r with | 0 => loopShown l l.pv | 1 => loopShown l l.out | 2 => loopShown l l.status | 3 => some l.sp | 4 => some l.mv | _ => some (BitVec.ofNat 32 l.want))
    | none => none
  | 6 => match asFin 96 n with
    | some i =>
      let t := s.eng.tot.get i
      ok (match tagSub r with
        | 0 => ctlValue s r
        | 1 => some (f32OfRat (totUnits t))
        | 2 => some (BitVec.ofNat 32 t.acc.toNat)
        | 3 => some (BitVec.ofNat 32 (t.acc.toNat / 2 ^ 32))
        | _ => some (BitVec.ofNat 32 (totStatus t)))
    | none => none
  | 7 => if tagSub r = 1 then ok (ctlValue s r) else ok ((groupOf s n).map fun g => BitVec.ofNat 32 (groupStatus s g))
  | 8 => ok (some (BitVec.ofNat 32 (pairStatus s)))
  | 9 =>
    let tag := s.misc.hartTags.find? (fun x => x.item == n)
    let csw := match tag with | some h => plainCsw h.valid h.under h.above h.hart | none => 0
    match statusItem s n with
    | some v => some (v, csw)
    | none => tag.map fun h => (h.value, csw)
  | _ => none

/-- The tags that a predicate names take their values for the present epoch (R300, R302, R304). -/
def latchTags (p : Rec → Bool) (te : Nat) (s : State) : State :=
  let fresh := ((castAll s (·.tag)).filter p).filterMap fun r => (tagNow s r te).map fun v => (tagIndex r, { value := v.1, csw := v.2, epoch := s.ep.e })
  { s with ep := { s.ep with tags := fresh.foldl (fun l (e : Nat × TagRec) => insertK e.1 e.2 l) s.ep.tags } }

/-- The own tag with a local index has a value in the present epoch. -/
def tagAt (s : State) (idx : Nat) : Option TagRec :=
  match lookupO s.ep.tags idx with
  | some t => if t.epoch = s.ep.e then some t else none
  | none => none

/-- Device number and local index of a tag (R303); none when malformed. -/
def tagParts (t : Word) : Option (Nat × Nat) :=
  if bits t.toNat 25 7 != 0 then none else some (bits t.toNat 15 10, bits t.toNat 0 15)

/-- A device number that names this device: its own, or its pair's logical number (R374). -/
def isSelf (s : State) (d : Nat) : Bool := d == s.net.num || some d == logicalNum s

end Sys2Proof.Machine
end

