-- ==== Sys2Proof/Machine/Axes.lean ====
section
/-! DEFINITION. Encoders, axis contexts, cam and time lanes, run-down and hub reflex qualification (R244 to R283, R356). -/

namespace Sys2Proof.Machine

open Sys2Proof

/-- A local context's number as a context. -/
def ctx (x : Fin 4) : Fin 8 := ⟨x.val, by omega⟩

/-! ## OFFSET (R262, R272) -/

/-- A new OFFSET moves c in one step at a tick: listed crossings move with it, and each lane whose value at the new position differs from
its present value sends it 50 µs later. A committed write clears NOREF (R258). -/
def setOffset (x : Fin 8) (v : Word) (committed : Bool) (tick : Nat) (s : State) : State :=
  let a := s.eng.axis.get x
  let d := int32 v - int32 a.offset
  let s1 := modAxis x (fun a => { a with offset := v, flags := if committed then { a.flags with noref := false } else a.flags }) s
  if d = 0 then s1
  else
    forEach (camLanes s1 x [1, 2, 3]) (fun n s =>
      let s := modLane n (fun l => { l with cmds := l.cmds.map fun c => { c with cross := c.cross + d } }) s
      match laneOf s n.val with
      | none => s
      | some r =>
        let l := s.eng.lane.get n
        let v := presentValue s n r tick
        let open_ := match l.rdAt with | some a => decide (tick + 20000 < a) | none => true
        if (l.state = 1 || l.state = 2) && open_ && v != l.value then sendLane n 65535 (tick + 20000) v false 0 s else s) s1

/-- A value for an int32 OFFSET: between whole numbers the spec states no rounding, so the model leaves it free (log entry 21). -/
def offsetOf (v : Word) (s : State) : Word × State :=
  match f32 v with
  | .fin q => if q.den = 1 then (word32 q.num, s) else let (up, s1) := freeB s; (word32 (floorRat q + (if up then 1 else 0)), s1)
  | _ => freeW s

/-- The output of a loop block to a tag takes effect at its instant (R285). -/
def settleOne (b : Fin 48) (s : State) : State :=
  match (s.eng.loop.get b).outAt with
  | none => s
  | some (at_, v) =>
    if sysHalf s < at_ then s
    else
      let s1 := { s with eng := { s.eng with loop := s.eng.loop.upd b fun l => { l with outAt := none } } }
      match ((castAll s (·.loop)).find? (fun r => lpRtype r == 0 && lpIndex r == b.val)).bind (fun r => tagRec s (u16 r 6)) with
      | none => s1
      | some t =>
        if tagKind t = 4 then
          (match asFin 8 (tagNum t) with
            | some x => let (w, s2) := offsetOf v s1; setOffset x w false (at_ / 5) s2
            | none => s1)
        else
          match asFin 48 (tagNum t) with
          | some j => { s1 with eng := { s1.eng with loop := s1.eng.loop.upd j fun l => { l with sp := v } } }
          | none => s1

/-- Every due loop output to a tag. -/
def settle (s : State) : State := forEach (List.finRange 48) settleOne s

/-! ## Encoder lines (R254 to R258) -/

/-- Timestamp of an edge accepted now (R256), in ns at 5 ns resolution. -/
def edgeStamp (s : State) (r : Rec) : Nat := (sysNs s - (axEfilt r + 1) * 5 - Config.receiverDelay) / 5 * 5

/-- What accepted levels count (R255): none for no count, the sign in forward terms. -/
def countOf (decode : Nat) (a b a' b' : Bool) : Option Int :=
  let da := a != a'
  let db := b != b'
  match decode with
  | 0 => if da then some (if a' != b then 1 else -1) else if db then some (if b' == a then 1 else -1) else none
  | 1 => if da then some (if a' != b then 1 else -1) else none
  | 2 => if da && !b && !db then some (if a' then 1 else -1) else none
  | _ => if da && a' then some (if b then -1 else 1) else none

/-- A quadrature error (R255, R258). -/
def quadError (x : Fin 8) (r : Rec) (s : State) : State :=
  let times := s.now :: ((s.eng.axis.get x).qerrTimes.filter fun a => decide (s.now < a + sec 1))
  let s1 := modAxis x (fun a => { a with qerrTimes := times, qerrCount := satInc a.qerrCount (2 ^ 32 - 1), flags := { a.flags with qerr := true } }) s
  if axQerrmax r < times.length then axisLost x s1 else s1

/-- Edges that R259 may still use: those back to VTMO + VWIN before now, and the newest before them. -/
def pruneAxis (r : Rec) (now : Nat) (l : List (Nat × BitVec 48)) : List (Nat × BitVec 48) :=
  let span := axVtmo r * 1000000 + axVwin r * 1000
  l.filter (fun e => decide (now ≤ e.1 + span)) ++ (l.find? (fun e => decide (e.1 + span < now))).toList

/-- Position and cycle position at T_E follow an edge that is accepted later and whose timestamp lies at or before T_E (R263). -/
def lateEdge (x : Fin 8) (stamp : Nat) (d : Int) (s : State) : State :=
  if !s.ep.counting || epochHalf s s.ep.e < (2 * stamp : Int) then s
  else
    let a := s.eng.axis.get x
    let p := signed a.pE.toNat 48 + d
    let now : BitVec 48 := BitVec.ofNat 48 (unsigned p 48)
    let value (sub : Nat) : Word := word32 (match sub with
      | 0 => p
      | 1 => signed now.toNat 48 / 2 ^ 32
      | _ => cycleAt (((axisOf s x.val).map axModlen).getD 0) a.offsetE now)
    let mine := (castAll s (·.tag)).filter fun r => tagKind r == 4 && tagNum r == x.val && decide (tagSub r ≤ 2)
    let tags := s.ep.tags.map fun e =>
      match mine.find? (fun r => tagIndex r == e.1) with
      | some r => if e.2.epoch = s.ep.e then (e.1, { e.2 with value := value (tagSub r) }) else e
      | none => e
    modAxis x (fun a => { a with pE := now }) { s with ep := { s.ep with tags := tags } }

/-- Z position and Z age at T_E follow a latch that is accepted later and whose timestamp lies at or before T_E (R263, Table 08-4). -/
def lateZ (x : Fin 8) (stamp : Nat) (p : BitVec 48) (s : State) : State :=
  let te := epochHalf s s.ep.e
  if !s.ep.counting || te < (2 * stamp : Int) then s
  else
    let mine := (castAll s (·.tag)).filter fun r => tagKind r == 4 && tagNum r == x.val && (tagSub r == 5 || tagSub r == 6)
    let put (l : List (Nat × TagRec)) (r : Rec) : List (Nat × TagRec) :=
      let v : Word := if tagSub r = 5 then BitVec.ofNat 32 p.toNat else ageNs te.toNat (some (2 * stamp))
      insertK (tagIndex r) { value := v, csw := BitVec.ofNat 32 1, epoch := s.ep.e } l
    { s with ep := { s.ep with tags := mine.foldl put s.ep.tags } }

/-- A level is accepted after EFILT + 1 consecutive equal samples (R254); until then the line keeps the one that it had. -/
def accepted (r : Rec) (l : EncLine) (was : Bool) : Bool := if axEfilt r < l.samples then l.level else was

/-- Lines A and B found good again are taken at the level that they had then, without counting (R258). -/
def linesBack (a b : EncLine) (c : Axis) : Axis :=
  let n := c.line.val
  let backA := n % 2 == 1 && a.back.isSome
  let backB := n / 2 % 2 == 1 && b.back.isSome
  { c with
    a := if backA then a.back.getD c.a else c.a
    b := if backB then b.back.getD c.b else c.b
    line := ⟨(n - (if backA then 1 else 0) - (if backB then 2 else 0)) % 8, by omega⟩ }

/-- One sample of A and B: lines that are good again, then the levels that it accepts. -/
def encoderEdge (x : Fin 4) (la lb : EncLine) (s' : State) : State :=
  match axisOf s' x.val with
  | none => s'
  | some r =>
      let s := modAxis (ctx x) (linesBack la lb) s'
      let a := accepted r la (s.eng.axis.get (ctx x)).a
      let b := accepted r lb (s.eng.axis.get (ctx x)).b
      withHref (fun s =>
        let c := s.eng.axis.get (ctx x)
        let s1 := modAxis (ctx x) (fun c => { c with a := a, b := b }) s
        let faulty := c.line.val % 4 != 0
        if c.a != a && c.b != b && axDecode r < 3 then (if faulty then s1 else quadError (ctx x) r s1)
        else if c.flags.lost then s1
        else match countOf (axDecode r) c.a c.b a b with
          | none => s1
          | some d =>
            let d := if axDirinv r then -d else d
            let p := c.p + BitVec.ofNat 48 (unsigned d 48)
            lateEdge (ctx x) (edgeStamp s r) d
              (modAxis (ctx x) (fun c => { c with p := p, edges := (edgeStamp s r, p) :: pruneAxis r (sysNs s) c.edges }) s1)) s

/-- ENCODER_EDGE. -/
def execEncoderEdge (t : Time) (x : Fin 4) (a b : EncLine) (s : State) : Out :=
  let s := s.at_ t
  when (hubUp s) (beside (encoderEdge x a b)) s

/-- A Z edge of a context that latches on it. -/
def zEdge (x : Fin 4) (s : State) : State :=
  match axisOf s x.val with
  | none => s
  | some r =>
    if axZlatch r then
      lateZ (ctx x) (edgeStamp s r) (s.eng.axis.get (ctx x)).p (modAxis (ctx x) (fun c => { c with zlatch := some (edgeStamp s r, c.p) }) s)
    else s

/-- Z_EDGE. -/
def execZEdge (t : Time) (z : ZLine) (s : State) : Out :=
  let s := s.at_ t
  let held := match axisOf s z.enc.val with | some r => decide (axEfilt r < z.samples) | none => false
  when (hubUp s && held) (beside (zEdge z.enc)) s

/-- A line fault of a configured context: line 0 is A, 1 is B, 2 is Z. -/
def encoderFault (x : Fin 4) (line : Fin 3) (s : State) : State :=
  let m := 2 ^ line.val
  if (axisOf s x.val).isNone then s
  else
    withHref (fun s =>
      let c := s.eng.axis.get (ctx x)
      let s1 := modAxis (ctx x) (fun c => { c with line := if bitOf c.line.val line.val then c.line else ⟨(c.line.val + m) % 8, by omega⟩ }) s
      if line.val = 2 then
        (if c.flags.zfault then s1 else recordAxis (ctx x) 4 (modAxis (ctx x) (fun c => { c with flags := { c.flags with zfault := true } }) s1))
      else axisLost (ctx x) s1) s

/-- ENCODER_LINE_FAULT. -/
def execEncoderLineFault (t : Time) (x : Fin 4) (line : Fin 3) (held : Time) (s : State) : Out :=
  let s := s.at_ t
  when (hubUp s && decide (us 1 ≤ held)) (beside (encoderFault x line)) s

/-- The last quadrature error is 100 ms past (R258). -/
def qerrPast (c : Axis) (now : Time) : Bool := c.qerrTimes.head?.all fun q => decide (q + ms 100 ≤ now)

/-- A LOST context whose lines are sound again: a line that no sample had shown to be good is taken at its present level without counting. -/
def lostClear (x : Fin 4) (a b : Bool) (s : State) : State :=
  let c := s.eng.axis.get (ctx x)
  if (axisOf s x.val).isSome && c.flags.lost && qerrPast c s.now then
    withHref (modAxis (ctx x) fun c => { c with
      a := if c.line.val % 2 = 1 then a else c.a, b := if c.line.val / 2 % 2 = 1 then b else c.b
      line := ⟨c.line.val / 4 * 4 % 8, by omega⟩
      flags := { c.flags with lost := false } }) s
  else s

/-- LOST_CLEAR. -/
def execLostClear (t : Time) (x : Fin 4) (a b : Bool) (held : Time) (s : State) : Out :=
  let s := s.at_ t
  when (hubUp s && decide (ms 100 ≤ held)) (beside (lostClear x a b)) s

/-! ## The axis tick (R259, R260) -/

/-- v_w, t_m, a and STILL of a local context at a tick. Before the context has run for AWIN there is no v_w' and no t_m', and a is a free
value (log entry 3). -/
def axisCompute (x : Fin 8) (r : Rec) (s : State) : State :=
  let now := sysNs s
  let c := s.eng.axis.get x
  let vtmo := axVtmo r * 1000000
  let es := c.edges.filter fun e => decide (e.1 ≤ now)
  let push (ta : Nat) (pa : BitVec 48) (vw : Rat) (tm2 : Nat) (acc : BitVec 64) (still : Bool) (s : State) : State :=
    modAxis x (fun c => { c with
      ta := ta, pa := pa, vw := dBits vw, tm2 := tm2, acc := acc
      hist := (now, dBits vw, tm2) :: c.hist.filter (fun h => decide (now ≤ h.1 + axAwin r * 1000))
      flags := { c.flags with still := still } }) s
  match es with
  | [] => push c.ta c.p 0 (2 * c.ta) 0 true s
  | (ta, pa) :: _ =>
    if ta + vtmo < now then push ta pa 0 (2 * ta) 0 true s
    else
      let near := es.filter fun e => decide (now ≤ e.1 + vtmo)
      let (tb, pb) := match es.find? (fun e => decide (e.1 + axVwin r * 1000 ≤ ta)) with
        | some e => e
        | none => near.getLast?.getD (ta, pa)
      let (vw, tm2) : Rat × Nat :=
        if tb = ta then (0, 2 * ta) else (d64 ((signed (pa - pb).toNat 48 : Rat) / ((ta : Int) - (tb : Int) : Int)), ta + tb)
      match c.hist.find? (fun h => h.1 + axAwin r * 1000 == now) with
      | some (_, v0, m0) =>
        let a := if tm2 = m0 then 0 else d64 (d64 (vw - dRat v0) / (((tm2 : Int) - (m0 : Int) : Int) / 2 : Rat))
        push ta pa vw tm2 (dBits a) false s
      | none =>
        let (w0, s1) := freeW s
        let (w1, s2) := freeW s1
        push ta pa vw tm2 (BitVec.ofNat 64 (w0.toNat + 2 ^ 32 * w1.toNat)) false s2

/-- The AXS payload of a context (Table 10-10). -/
def axsBytes (x : Fin 8) (c : Axis) : List Byte :=
  [BitVec.ofNat 8 x.val, BitVec.ofNat 8 (b2n c.flags.lost + 2 * b2n c.flags.noref + 4 * b2n c.flags.rundown + 8 * b2n c.flags.still)] ++
    leBytes 6 c.pa.toNat ++ leBytes 8 c.ta ++ leBytes 8 c.vw.toNat ++ leBytes 8 (unsigned (2 * (c.ta : Int) - c.tm2) 64) ++ leBytes 8 c.acc.toNat

/-- An AXS frame of a tick: dropped and counted where no port of the segment ring sends it within 5 µs (R356). -/
def axsSend (x : Fin 8) (c : Axis) (s : State) : State :=
  let late := [0, 1].all fun p => decide (s.now + us 5 < (s.net.port.get p).xbusy)
  if !netUp s || late then { s with net := { s.net with axsDropped := s.net.axsDropped + 1 } }
  else castSend 4 scopeSeg (s.net.axsExp.contains (selfNum s, x.val)) (axsBytes x c) s

/-- The publications of a local context after a tick: AXS (R356), and the shadow item to the partner (Table 11-8). -/
def axisPublish (x : Fin 8) (r : Rec) (s : State) : State :=
  let c := s.eng.axis.get x
  let s1 := if axPub r && !(paired s && !drivesLogical s) then axsSend x c s else s
  if drivesLogical s then jnlSend 1 1 0 ([2, 0] ++ leBytes 2 x.val ++ leBytes 6 c.pa.toNat ++ [0, 0] ++ leBytes 8 c.ta ++ List.replicate 4 0) s1 else s1

/-- A stop order makes lanes in RUN enter RUNDOWN at the next tick, and the third consecutive slow tick ends run-down (R275, R276). -/
def axisRundown (x : Fin 8) (r : Rec) (s : State) : State :=
  let c := s.eng.axis.get x
  let s1 := if c.flags.stopReq then forEach (camLanes s x [1]) (fun n s => setLaneState n 2 s) s else s
  if !c.flags.rundown then s1
  else
    let slow := decide (axisSpeed c (sysNs s : Rat) * 1000000000 ≤ (axVend r : Rat))
    let n := if slow then c.slowTicks + 1 else 0
    let s2 := modAxis x (fun c => { c with slowTicks := n }) s1
    if 3 ≤ n then endRundown x false s2 else s2

/-! ## Predictions (R266, R267) -/

/-- Square root in binary64. -/
def sqrt64 (q : Rat) : Rat :=
  if q ≤ 0 then 0
  else
    let e := (log2Rat q - 400) / 2
    d64 (((isqrt (q * pow2 (-(2 * e))).floor.toNat : Nat) : Rat) * pow2 e)

/-- Next crossing of `x` in one direction: time from t_a in ns, and p just after it; none when it is unreachable. -/
def predict (c : Axis) (m : Nat) (rev : Bool) (x : Int) : Option (Rat × Int) :=
  let ca := cycleAt m c.offset c.pa
  let d : Int :=
    if rev then (if 2 ≤ m then (ca - x) % (m : Int) + 1 else ca - x + 1)
    else (if 2 ≤ m then (x - ca - 1) % (m : Int) + 1 else x - ca)
  let sg (q : Rat) : Rat := if rev then -q else q
  let va := sg (axisV c (c.ta : Rat))
  let a := sg (dRat c.acc)
  let disc := d64 (d64 (va * va) + d64 (d64 (2 * a) * (d : Rat)))
  if d ≤ 0 || decide (disc < 0) then none
  else
    let den := d64 (va + sqrt64 disc)
    if den ≤ 0 then none
    else some (d64 (((2 * d : Int) : Rat) / den), signed c.pa.toNat 48 + (if rev then -d else d))

/-- The value of a lane before a crossing: of the entry that precedes it in the direction of travel (R267). -/
def valueBefore (r : Rec) (es : List Rec) (m : Nat) (rev : Bool) (x : Int) : Word :=
  if !rev then camValue r es m (if 2 ≤ m then (x - 1) % (m : Int) else x - 1)
  else
    let fs := es.filter fun e => entDir e != 0
    match fs.find? (fun e => decide (x < entX e)) with
    | some e => entValue e
    | none => if 2 ≤ m then (fs.head?.map entValue).getD (laneInit r) else laneInit r

/-- An entry's next crossing: the time to it from t_a, its stamp, its direction and the position after it: the nearer of the crossings at which it
acts. -/
def entryStamp (s : State) (c : Axis) (m : Nat) (r : Rec) (es : List Rec) (k : Fin 96) (e : Rec) : Option (Rat × Int × Bool × Int) :=
  let one (rev : Bool) : Option (Rat × Int × Bool × Int) :=
    (predict c m rev (entX e)).map fun q =>
      let lead := leadOf s k r (valueBefore r es m rev (entX e)) (entValue e)
      (q.1, nearLater (((c.ta : Rat) + q.1 - lead) * 2 / 5), rev, q.2)
  let cs := (if entDir e != 1 then (one false).toList else []) ++ (if entDir e != 0 then (one true).toList else [])
  match cs with
  | [] => none
  | [a] => some a
  | a :: b :: _ => some (if b.1 < a.1 then b else a)

/-! ## Issue, re-stamping and cancelling (R268 to R271) -/

/-- What the engine does for one entry at a tick; `clip` where the stamp has been raised (R250). `rest` ends an unsent REPLACE or CANCEL, counted
UNCORRECTED where its entry's stamp has come within 40 µs (R268). -/
inductive CamAct where
  | cancel (n : Fin 96) (c : LaneCmd)
  | issue (n : Fin 96) (entry stamp : Nat) (clip : Bool) (v : Word) (rev : Bool) (cross : Int)
  | replace (n : Fin 96) (c : LaneCmd) (stamp : Nat) (clip : Bool) (cross : Int)
  | rest (n : Fin 96) (c : LaneCmd) (counted : Bool)
deriving DecidableEq, Repr

/-- A crossing that the position has passed. -/
def passed (pa : BitVec 48) (c : LaneCmd) : Bool :=
  let d := signed (unsigned (signed pa.toNat 48 - c.cross) 48) 48
  if c.rev then decide (d ≤ 0) else decide (0 ≤ d)

/-- A stamp lies before the RDVAL stamp that the lane awaits (R276). -/
def beforeRd (l : Lane) (st : Int) : Bool := match l.rdAt with | some a => decide (st < (a : Int)) | none => true

/-- A pending command of a lane, behind the stamp `prev` of the one before it in the lane's order (R250, R268): its act, and the stamp that it then has.
One whose stamp would not lie before RDVAL is cancelled (R276). -/
def camPending (l : Lane) (n : Fin 96) (r : Rec) (next : Option (Rat × Int × Bool × Int)) (tick : Nat) (x : LaneCmd) (prev : Int) : List CamAct × Int :=
  if x.entry = 65535 || x.old then ([], max prev x.stamp)
  else if x.stamp < tick + 16000 then (if x.want then [.rest n x true] else [], max prev x.stamp)
  else match next with
    | none => ([.cancel n x], prev)
    | some (_, st, rev, cross) =>
      let d := st - (x.stamp : Int)
      let own := if (laneTol r : Int) < d || d < -(laneTol r : Int) then st else (x.stamp : Int)
      let at_ := max own (prev + 1)
      if rev != x.rev || !beforeRd l at_ then ([.cancel n x], prev)
      else if at_ = x.stamp then (if x.want then [.rest n x false] else [], at_)
      else ([.replace n x at_.toNat (decide (own < at_)) cross], at_)

/-- First issues of a lane in the order of their crossings, each raised behind the one before it, so that values reach the target in entry order
(R250): entry, crossing, stamp, direction, position after it. -/
def camIssues (l : Lane) (n : Fin 96) (es : List Rec) (last : Nat) : Int → List (Nat × Rat × Int × Bool × Int) → List CamAct
  | _, [] => []
  | prev, (i, _, st, rev, cross) :: rest =>
    let at_ := max st (prev + 1)
    (if decide (at_ ≤ (last : Int)) && beforeRd l at_ then [.issue n i at_.toNat (decide (st < at_)) (entValue (es.getD i [])) rev cross] else []) ++
      camIssues l n es last at_ rest

/-- A stable insertion by crossing time. -/
def insertCross (a : Nat × Rat × Int × Bool × Int) : List (Nat × Rat × Int × Bool × Int) → List (Nat × Rat × Int × Bool × Int)
  | [] => [a]
  | b :: bs => if a.2.1 < b.2.1 then a :: b :: bs else b :: insertCross a bs

/-- One cam lane at a tick (R268): its pending commands in the order of their issue, then the entries that have none. A lane's first command of a run has
no previous one. -/
def camLane (s : State) (n : Fin 96) (r : Rec) (k : Fin 96) (c : Axis) (m tick : Nat) : List CamAct :=
  let l := s.eng.lane.get n
  let es := laneEntries s r
  let next (i : Nat) : Option (Rat × Int × Bool × Int) := (es[i]?).bind (entryStamp s c m r es k)
  let start : Int := if l.sent.isSome then (l.lastStamp : Int) else -(2 ^ 64)
  let (acts, prev) := (l.cmds.filter fun x => !x.done && !x.cancelled && !(x.entry == 65535 && l.rdAt == some x.stamp)).foldl (fun (a : List CamAct × Int) x =>
    let b := camPending l n r (next x.entry) tick x a.2
    (a.1 ++ b.1, b.2)) ([], start)
  let idle := (List.range es.length).filter fun i => !l.cmds.any fun x => x.entry == i && !x.done && !x.old
  let fresh := idle.filterMap fun i => (next i).bind fun p =>
    if l.cmds.any fun x => x.entry == i && x.done && x.rev == p.2.2.1 && x.cross == p.2.2.2 then none else some (i, p)
  acts ++ camIssues l n es (tick + laneIssue r * 400) prev (fresh.foldl (fun acc a => insertCross a acc) [])

/-- Every entry of the cam lanes of a context. -/
def camActs (s : State) (x : Fin 8) (r : Rec) : List CamAct :=
  let c := s.eng.axis.get x
  (camLanes s x [1, 2]).flatMap fun n =>
    match laneOf s n.val with
    | none => []
    | some lr =>
      match asFin 96 (laneTarget lr) with
      | none => []
      | some k => if laneLive s k then camLane s n lr k c (axModlen r) (sysTick s) else []

/-- A REPLACE or CANCEL of a lane's command stays unsent at this tick. -/
def leaveUnsent (n : Fin 96) (c : LaneCmd) (s : State) : State :=
  modLane n (fun l => { l with cmds := l.cmds.map fun x => if x == c then { x with want := true } else x }) s

/-- A frame from an instant on, the `j`th after the first, of a slot. -/
def laterFrame (s : State) (slot : Nat) : Nat → Nat → Nat
  | 0, start => slotFrame s slot start
  | j + 1, start => laterFrame s slot j (slotFrame s slot start + 1)

/-- A REPLACE or CANCEL that finds its frame before the next axis tick, with its entry's stamp still 40 µs ahead, goes out now. Any other stays
unsent: the next tick decides on it afresh, with what is new then, or drops it (R268). -/
def goesNow (s : State) (f : Nat) (c : LaneCmd) : Bool := decide (f < sysHalf s + us 10) && inTime f c.stamp

/-- The `i`th CANCEL of its link slot at a tick: CANCELs take the slot's next places before all else (R268). -/
def tickCancel (i : Nat) (n : Fin 96) (c : LaneCmd) (s : State) : State :=
  match laneOf s n.val with
  | none => s
  | some r =>
    match asFin 96 (laneTarget r) with
    | none => s
    | some k =>
      if goesNow s (laterFrame s (laneSlot r) (i / 2) (sysHalf s)) c then
        tileSend (tileOf k) (laneSlot r) (chanIn k).val 4 c.handle 0 0 (markCancel n c (slotTake s (tileOf k) (laneSlot r)).2)
      else leaveUnsent n c s

/-- A REPLACE with the stamp that its lane's order gives it (R250, R268). -/
def sendReplace (n : Fin 96) (c : LaneCmd) (st : Nat) (clip : Bool) (cross : Int) (s : State) : State :=
  match laneOf s n.val with
  | none => s
  | some r =>
    match asFin 96 (laneTarget r) with
    | none => s
    | some k =>
      let (f, s1) := slotTake s (tileOf k) (laneSlot r)
      if !goesNow s f c then leaveUnsent n c s
      else
        tileSend (tileOf k) (laneSlot r) (chanIn k).val 3 c.handle st c.val
          (modLane n (fun l => { l with
            clipped := l.clipped + b2n clip
            last := if l.last = c.stamp then st else max l.last st
            cmds := l.cmds.map fun x => if x == c then { x with stamp := st, cross := cross, want := false, asks := x.asks + 1 } else x }) s1)

/-- An unsent REPLACE or CANCEL ended: no longer called for, or dropped and counted UNCORRECTED. -/
def endUnsent (n : Fin 96) (c : LaneCmd) (counted : Bool) (s : State) : State :=
  modLane n (fun l => { l with
    uncorrected := l.uncorrected + b2n counted, cmds := l.cmds.map fun x => if x == c then { x with want := false } else x }) s

/-- A stable insertion by stamp. -/
def insertBy (f : CamAct → Int) (a : CamAct) : List CamAct → List CamAct
  | [] => [a]
  | b :: bs => if f a < f b then a :: b :: bs else b :: insertBy f a bs

/-- Stamp of an action, for the order of R268. -/
def actStamp : CamAct → Int
  | .cancel _ c => c.stamp
  | .issue _ _ st _ _ _ _ => st
  | .replace _ _ st _ _ => st
  | .rest _ c _ => c.stamp

/-- Actions in stamp order. -/
def byStamp (l : List CamAct) : List CamAct := l.foldl (fun acc a => insertBy actStamp a acc) []

/-- One action sent. -/
def doAct (a : CamAct) (s : State) : State :=
  match a with
  | .cancel n c => tickCancel 0 n c s
  | .issue n i st clip v rev cross => putLane n i st clip v rev cross s
  | .replace n c st clip cross => sendReplace n c st clip cross s
  | .rest n c counted => endUnsent n c counted s

/-- The lane and link slot of a CANCEL. -/
def cancelSlot (s : State) (a : CamAct) : Option (Nat × Nat) :=
  match a with
  | .cancel n _ => (laneOf s n.val).map fun r => (laneTarget r / 8, laneSlot r)
  | _ => none

/-- CANCELs sent, each with its number within its link slot. -/
def doCancels : List CamAct → List CamAct → State → State
  | _, [], s => s
  | sent, a :: rest, s =>
    doCancels (a :: sent) rest (match a with
      | .cancel n c => tickCancel (sent.filter fun b => cancelSlot s b == cancelSlot s a).length n c s
      | _ => s)

/-- CANCELs first, then first issues, then REPLACEs, the latter two in stamp order (R268). -/
def doActs (l : List CamAct) (s : State) : State :=
  let es := l.filter fun a => match a with | .rest .. => true | _ => false
  let cs := l.filter fun a => match a with | .cancel .. => true | _ => false
  let is := l.filter fun a => match a with | .issue .. => true | _ => false
  let rs := l.filter fun a => match a with | .replace .. => true | _ => false
  forEach (byStamp is ++ byStamp rs) doAct (doCancels [] cs (forEach es doAct s))

/-- The configured contexts with their records. -/
def contexts (s : State) : List (Fin 8 × Rec) := (List.finRange 8).filterMap fun x => (axisOf s x.val).map fun r => (x, r)

/-- A lane that holds its value reaches SAFE at its RDVAL stamp (R276), and commands whose crossing has passed are dropped from the list. -/
def laneTick (n : Fin 96) (s : State) : State :=
  let l := s.eng.lane.get n
  match laneOf s n.val with
  | none => s
  | some r =>
    let s1 := if (l.state = 1 || l.state = 2) && (match l.rdAt with | some a => decide (a ≤ sysTick s) | none => false) then setLaneState n 3 s else s
    match asFin 8 (laneCtx r) with
    | some x =>
      if laneCam r && l.cmds.any (·.done) then
        let pa := (s.eng.axis.get x).pa
        modLane n (fun l => { l with cmds := l.cmds.filter fun c => !(c.done && c.asks == 0 && passed pa c) }) s1
      else s1
    | none => s1

/-- One axis tick of every context and lane. -/
def axisTick (s : State) : State :=
  withHref (fun s =>
    let s0 := settle s
    let cs := contexts s0
    let s1 := forEach (cs.filter fun e => e.1.val < 4) (fun e s => axisPublish e.1 e.2 (axisCompute e.1 e.2 s)) s0
    let s2 := forEach cs (fun e s => axisRundown e.1 e.2 s) s1
    let s3 := forEach (List.finRange 96) laneTick s2
    doActs (cs.flatMap fun e => camActs s3 e.1 e.2) s3) s

/-- AXIS_TICK. -/
def execAxisTick (t : Time) (s : State) : Out :=
  let s := s.at_ t
  when (hubUp s && sysNs s % 10000 == 0) (beside axisTick) s

/-! ## Followers (R261, R263) -/

/-- The state of an AXS frame's source taken over by its followers; its RUNDOWN is a stop order. A frame received by T_E + 20 µs with t_a at or
before T_E gives the epoch's axis tags (R263). -/
def axsTake (src : Nat) (bytes : List Byte) (s : State) : State :=
  let f := u8 bytes 1
  let mine (x : Fin 8) (r : Rec) : Bool := decide (4 ≤ x.val) && axSrcdev r == src && axSrcctx r == u8 bytes 0 % 4
  withHref (fun s =>
      forEach ((contexts s).filter fun e => mine e.1 e.2) (fun e s =>
        let x := e.1
        let ta := u64 bytes 8
        let s1 := modAxis x (fun c => { c with
          pa := BitVec.ofNat 48 (uN bytes 2 6), p := BitVec.ofNat 48 (uN bytes 2 6), ta := ta
          vw := BitVec.ofNat 64 (u64 bytes 16), tm2 := (2 * (ta : Int) - (u64 bytes 24 : Int)).toNat, acc := BitVec.ofNat 64 (u64 bytes 32)
          lastAxs := some s.now
          stopHeld := bitOf f 2
          flags := { c.flags with still := bitOf f 3, noref := c.flags.noref || bitOf f 1, lost := c.flags.lost && bitOf f 0 } }) s
        let s2 := if bitOf f 0 then axisLost x s1 else s1
        let s3 := if bitOf f 2 then stopOrder x s2 else s2
        let te := epochHalf s s.ep.e
        if s.ep.counting && decide ((2 * ta : Int) ≤ te) && decide ((sysHalf s : Int) ≤ te + us 20) then
          latchTags (fun r => tagKind r == 4 && tagNum r == x.val && tagSub r != 7 && tagSub r != 8) te.toNat s3
        else s3) s) s

/-- AXS_FRAME_RECEIVED. -/
def execAxsFrameReceived (t : Time) (src : Nat) (bytes : List Byte) (s : State) : Out :=
  let s := s.at_ t
  when (hubUp s && bytes.length == 40) (beside (axsTake src bytes)) s

/-- A follower that has heard no AXS frame for 50 µs is LOST. -/
def axsSilence (x : Fin 8) (s : State) : State :=
  let due := match (s.eng.axis.get x).lastAxs with | some a => decide (a + us 50 ≤ s.now) | none => true
  if decide (4 ≤ x.val) && (axisOf s x.val).isSome && due then withHref (axisLost x) s else s

/-- AXS_SILENCE. -/
def execAxsSilence (t : Time) (x : Fin 8) (s : State) : Out :=
  let s := s.at_ t
  when (hubUp s) (beside (axsSilence x)) s

/-! ## TIME lanes (R251, R252) -/

/-- Tick, value and the value before it of the entry instant with a number (R252). -/
def timeEntry (s : State) (n : Fin 96) (r : Rec) (i : Nat) : Option (Int × Word × Word) :=
  let es := laneEntries s r
  let l := s.eng.lane.get n
  if es.isEmpty then none
  else if laneOneshot r then
    (es[i]?).map fun e => (((l.startAt + entOffset e : Nat) : Int), entValue e, if i = 0 then laneInit r else (es[i - 1]?.map entValue).getD (laneInit r))
  else
    -- Numbers count from the first entry of the cycle before cycle 0, so that every instant from SYSTIME 0 on has one.
    let m : Int := (i / es.length : Nat) - 1
    let e := es.getD (i % es.length) []
    let before := es.getD ((i + es.length - 1) % es.length) []
    some ((laneTphase r : Int) + m * (laneTcyc r : Int) + (entOffset e : Int), entValue e, entValue before)

/-- The next entry's command of a TIME lane in RUN, once its stamp is no further than ISSUE ahead. A lane whose tile is not LIVE lets its entries
pass (R48, R273). -/
def timeIssue (lane : Fin 96) (s : State) : State :=
  match laneOf s lane.val with
  | none => s
  | some r =>
    match asFin 96 (laneTarget r), timeEntry s lane r (s.eng.lane.get lane).nextEntry with
    | some k, some (tick, v, before) =>
      let st := nearLater ((tick : Rat) - leadOf s k r before v * 2 / 5)
      if !laneCam r && (s.eng.lane.get lane).state == 1 && decide (st ≤ (sysTick s + laneIssue r * 400 : Nat)) then
        let i := (s.eng.lane.get lane).nextEntry
        let s1 := modLane lane (fun l => { l with nextEntry := l.nextEntry + 1 }) s
        if laneLive s k then sendLane lane (if laneOneshot r then i else i % max 1 (laneEntries s r).length) st v false 0 s1 else s1
      else s
    | _, _ => s

/-- TIME_LANE_ISSUE. -/
def execTimeLaneIssue (t : Time) (lane : Fin 96) (s : State) : Out :=
  let s := s.at_ t
  when (hubUp s) (beside (timeIssue lane)) s

/-! ## Control tags (R247 to R249, R275, R277) -/

/-- RUN takes effect at T_E (R248, R249); refused and recorded, under the lane as SOURCE (DEDUCED, log entry
138), on a context that is LOST, NOREF or under a stop order. -/
def laneRun (n : Fin 96) (r : Rec) (tick : Nat) (s : State) : State :=
  let l := s.eng.lane.get n
  let start (s : State) : State :=
    let s1 := setLaneState n 1 (modLane n (fun l => { l with startAt := tick, nextEntry := firstEntry r (laneEntries s r) tick tick, rdAt := none }) s)
    if !laneCam r && laneOneshot r then sendLane n 65535 tick (laneInit r) false 0 s1 else sendPresent n tick s1
  if l.state = 1 || l.state = 2 then s
  else if laneCam r then
    match asFin 8 (laneCtx r) with
    | some x =>
      let f := (s.eng.axis.get x).flags
      if f.stopReq || f.lost || f.noref then recordAxisOf (srcOf 4 n.val) x 5 s else start s
    | none => s
  else start s

/-- A committed write of a lane's control tag: 1 RUN, 0 STOP; other values do nothing (log entry 22). -/
def laneCtl (n : Fin 96) (v : Word) (tick : Nat) (s : State) : State :=
  match laneOf s n.val with
  | none => s
  | some r =>
    if v = 1 then laneRun n r tick s
    else if v = 0 && (s.eng.lane.get n).state != 0 then laneIdle n tick s
    else s

/-- A stop source of a context still asserts (R277). -/
def stopAsserted (s : State) (x : Fin 8) : Bool :=
  (s.eng.axis.get x).stopHeld ||
  (castAll s (·.href)).any (fun r => hrStop r && hrAction r == x.val && (hrefSt s (hrEntry r)).fired) ||
  s.ep.groups.any (fun g => g.applied && grpHspol (grpRec s g.num) == 2 && (grpRdctx (grpRec s g.num)).any (fun c => isSelf s c.1 && c.2 == x.val))

/-- A committed write of a STOP tag: 1 a stop order, 2 clears it or is refused (R275, R277); other values do nothing (log entry 22). -/
def stopCtl (x : Fin 8) (v : Word) (s : State) : State :=
  if v = 1 then stopOrder x s
  else if v = 2 then
    (if stopAsserted s x then recordAxis x 5 s
     else modAxis x (fun a => { a with flags := { a.flags with stopReq := false, rdEnd := false } }) s)
  else s

/-! ## Run-down and hub reflex timers -/

/-- Run-down that has lasted TRDMAX ends. -/
def trdmaxEnd (x : Fin 8) (s : State) : State :=
  match axisOf s x.val with
  | none => s
  | some r =>
    let c := s.eng.axis.get x
    if c.flags.rundown && decide (c.stopAt + ms (axTrdmax r) ≤ s.now) then endRundown x false (recordAxis x 3 s) else s

/-- TRDMAX_EXPIRY. -/
def execTrdmaxExpiry (t : Time) (x : Fin 8) (s : State) : Out :=
  let s := s.at_ t
  when (hubUp s) (beside (trdmaxEnd x)) s

/-- A hub reflex entry whose condition has held for QUAL fires (R281). -/
def qualFire (entry : Nat) (s : State) : State :=
  match (castAll s (·.href)).find? (fun r => hrEntry r == entry) with
  | none => s
  | some r =>
    let a := hrefSt s entry
    let due := match a.since with | some b => decide (b + us (hrQual r) ≤ s.now) | none => false
    if !a.fired && due && !hrefKept s r && (hrCond r).any (termHolds s) then withHref (fireHref r false) s else s

/-- HUB_REFLEX_QUAL_EXPIRY. -/
def execHubReflexQualExpiry (t : Time) (entry : Nat) (s : State) : Out :=
  let s := s.at_ t
  when (hubUp s) (beside (qualFire entry)) s

end Sys2Proof.Machine
end

