-- ==== Sys2Proof/Machine/Loops.lean ====
section
/-! DEFINITION. The loop service and the totalisers (R284 to R294). -/

namespace Sys2Proof.Machine

open Sys2Proof

/-! ## Fixed-point numbers (R288, Table 08-7) -/

/-- Nearest whole number to n / 2^w, ties away from zero. -/
def rndAway (n : Int) (w : Nat) : Int :=
  let h : Int := 2 ^ (w - 1)
  if w = 0 then n else if 0 ≤ n then (n + h) / 2 ^ w else -((-n + h) / 2 ^ w)

/-- Saturation to a signed width. -/
def satI (w : Nat) (n : Int) : Int :=
  let top : Int := 2 ^ (w - 1)
  if n < -top then -top else if top - 1 < n then top - 1 else n

/-- Saturated Q2.29 and Q2.61. -/
def s29 (n : Int) : Int := satI 32 n
def s61 (n : Int) : Int := satI 64 n

/-- A sum of Q2.29 numbers, each step saturating. -/
def sum29 (a : Int) (l : List Int) : Int := l.foldl (fun x y => s29 (x + y)) (s29 a)

/-- A value limited to a range. -/
def clampI (lo hi x : Int) : Int := if x < lo then lo else if hi < x then hi else x

/-- Nearest Q2.29 number to a rational, ties away from zero, saturating. -/
def q29 (q : Rat) : Int :=
  let x := q * 536870912
  s29 (if x < 0 then -floorRat (-x + 1 / 2) else floorRat (x + 1 / 2))

/-- A Q2.29 number that the spec leaves open (log entry 3). -/
def free29 (s : State) : Int × State := let (w, s1) := freeW s; (int32 w, s1)

/-- Quotient of two binary32 numbers; a NaN stands for a quotient that R286's spans never give. -/
def divF (a b : Word) : Word :=
  match f32 a, f32 b with
  | .fin x, .fin y => if y = 0 then qnan else f32OfRat (x / y)
  | .inf n, .fin y => toF32 (.inf (n != decide (y < 0)))
  | .fin _, .inf _ => 0
  | _, _ => qnan

/-- x_n = (x − LO) / (HI − LO) in binary32, rounded to Q2.29 (R286). A NaN has no stated result. -/
def normQ (x lo hi : Word) (s : State) : Int × State :=
  match f32 (divF (subF x lo) (subF hi lo)) with
  | .fin q => (q29 q, s)
  | .inf neg => (if neg then -2147483648 else 2147483647, s)
  | .nan => free29 s

/-- OLO + u × (OHI − OLO) in binary32 (R286). -/
def denormQ (u : Int) (olo ohi : Word) : Word := addF olo (mulF (f32OfRat ((u : Rat) / 536870912)) (subF ohi olo))

/-! ## Loop records (Table 14-18) -/

def lpNeg (r : Rec) : Bool := u8 r 2 = 1
def lpMode0 (r : Rec) : Nat := u8 r 3
def lpSafe (r : Rec) : Bool := u8 r 4 = 1
def lpToTag (r : Rec) : Bool := u8 r 5 = 1
def lpTarget (r : Rec) : Nat := u16 r 6
def lpSlot (r : Rec) : Nat := u8 r 8
def lpSpsrc (r : Rec) : Nat := u8 r 9
def lpPv (r : Rec) : Word := w32 r 12
def lpFf (r : Rec) : Word := w32 r 16
/-- TS and LPHASE in microseconds. -/
def lpTs (r : Rec) : Nat := u32 r 20
def lpPhase (r : Rec) : Nat := u32 r 24
def lpLo (r : Rec) : Word := w32 r 28
def lpHi (r : Rec) : Word := w32 r 32
def lpOlo (r : Rec) : Word := w32 r 36
def lpOhi (r : Rec) : Word := w32 r 40
def lpKp (r : Rec) : Int := (u32 r 44 : Nat)
def lpKi (r : Rec) : Int := (u64 r 48 : Nat)
def lpKd (r : Rec) : Int := (u32 r 56 : Nat)
def lpKf (r : Rec) : Int := signed (u32 r 60) 32
def lpAd (r : Rec) : Int := (u32 r 64 : Nat)
def lpB (r : Rec) : Int := (u32 r 68 : Nat)
def lpUlo (r : Rec) : Int := signed (u32 r 72) 32
def lpUhi (r : Rec) : Int := signed (u32 r 76) 32
def lpRl (r : Rec) : Int := signed (u32 r 80) 32
def lpLsafe (r : Rec) : Int := signed (u32 r 84) 32

/-- The record of a loop block and of a totaliser. -/
def loopRec (s : State) (b : Nat) : Option Rec := (castAll s (·.loop)).find? fun r => lpRtype r == 0 && lpIndex r == b
def totRec (s : State) (n : Nat) : Option Rec := (castAll s (·.loop)).find? fun r => lpRtype r == 1 && lpIndex r == n

/-- One loop block changed. -/
def modLoop (b : Fin 48) (f : Loop → Loop) (s : State) : State := { s with eng := { s.eng with loop := s.eng.loop.upd b f } }

/-- One totaliser changed. -/
def modTot (n : Fin 96) (f : Tot → Tot) (s : State) : State := { s with eng := { s.eng with tot := s.eng.tot.upd n f } }

/-! ## Inputs (R284, R285) -/

/-- A value as binary32 by its KIND. -/
def asF32 (isFloat : Bool) (v : Word) : Word := if isFloat then v else f32OfRat (int32 v : Rat)

/-- The newest value of a full tag not later than `lim` (SYSTIME ns), with its VALID: a local channel by its conversion instant, a remote
tag by its epoch. A remote value older than one epoch is stale (log entry 23). A local tag of another kind has no conversion instant in the spec: its
value at s_n is taken (DESIGN CHOICE, log entry 170). -/
def readTag (s : State) (tag : Word) (lim : Nat) : Option (Word × Bool) :=
  match tagParts tag with
  | none => none
  | some (d, idx) =>
    if isSelf s d then
      match tagRec s idx with
      | none => none
      | some r =>
        match tagNow s r (sysHalf s) with
        | none => none
        | some (v, csw) =>
          let ok := bitOf csw.toNat 0
          match asFin 96 (tagNum r) with
          | some k =>
            if tagKind r = 1 && tagSub r = 0 && isAnalogF (chFunc (tileRec s k)) then
              let a := (s.chan.get k).ana
              (if (match a.inst with | some i => decide (i ≤ lim) | none => false) then some (v, ok)
               else match a.prev with | some (_, y) => some (y, ok) | none => none)
            else some (asF32 (tagFloat r) v, ok)
          | none => some (asF32 (tagFloat r) v, ok)
    else
      match (s.ep.rlast ++ s.ep.rprev).find? (fun e => e.1 == tag && decide (epochHalf s e.2.epoch ≤ (2 * lim : Nat))) with
      | some (_, t) => if s.ep.e ≤ t.epoch + 1 then some (t.value, bitOf t.csw.toNat 0 && !bitOf t.csw.toNat 20) else none
      | none => none

/-! ## Tracking (R289, R290, R321) -/

/-- The command that a target's terminal applies, as a normalised output; none where the terminal carries none. -/
def appliedU (s : State) (k : Fin 96) (r : Rec) : Option (State → Int × State) :=
  let c := s.chan.get k
  let cr := tileRec s k
  match c.lev.term with
  | .sw on =>
    let duty : Nat := match (decider c.lev).2 with | .word o d => if o then d else 0 | _ => if on then 10000 else 0
    some fun s => (q29 ((duty : Rat) / 10000), s)
  | .dac n =>
    let v : Rat :=
      if chFunc cr = .aoi then (n : Rat) * 24 / 65536
      else if chRange cr = 0 then (n : Rat) * 21 / 2 / 65536
      else ((n : Rat) - 32768) * 21 / 2 / 32768
    let q := match trimOf s k.val cr with
      | none => v
      | some t => lineAt (f32Rat t.zx) (f32Rat t.zref) (f32Rat t.sx) (f32Rat t.sref) v
    some (normQ (f32OfRat q) (lpOlo r) (lpOhi r))
  | _ => none

/-- The group of a channel applies SAFE, so that its loop blocks track and give nothing (R321). -/
def groupSafe (s : State) (k : Nat) : Bool := match groupOf s (chanGroup s k) with | some g => g.safe | none => false

/-- The inner block of a cascade that a block drives. -/
def innerOf (s : State) (r : Rec) : Option (Fin 48) :=
  if !lpToTag r then none
  else match tagRec s (lpTarget r) with
    | some t => if tagKind t = 5 then asFin 48 (tagNum t) else none
    | none => none

/-- What the output of a block in TRACK follows. -/
inductive Track where
  | applied (k : Fin 96)
  | inner (j : Fin 48)
  | hold
  | safe
deriving DecidableEq, Repr

/-- A block is in CASC: its committed mode, and in effect as its last sample showed it (R290). -/
def inCasc (s : State) (j : Fin 48) : Bool := (s.eng.loop.get j).want = 2 && (s.eng.loop.get j).mode = 2

/-- Whether a block tracks at this sample, and what it follows. -/
def trackOf (s : State) (r : Rec) (l : Loop) (pvOk : Bool) : Option Track :=
  let bad : Option Track := if pvOk then none else some (if lpSafe r then .safe else .hold)
  if lpToTag r then
    match innerOf s r with
    | some j => if !inCasc s j then some (.inner j) else if l.first then some (.inner j) else bad
    | none => if l.first then some .hold else bad
  else
    match asFin 96 (lpTarget r) with
    | none => bad
    | some k =>
      -- A tile whose link is silent reports nothing, so u stays at the last command that it reported.
      if !linkUp s (tileOf k) then some .hold
      else if l.first || (s.chan.get k).lev.deciding < 6 || !laneLive s k || groupSafe s k.val then some (.applied k)
      else bad

/-- A block that drives a channel whose tile reports nothing has not yet seen what the tile held (R290). -/
def waitsTile (s : State) (r : Rec) : Bool :=
  !lpToTag r && (match asFin 96 (lpTarget r) with | some k => !linkUp s (tileOf k) | none => false)

/-! ## One sample (R285 to R289) -/

/-- The quantities of a sample that do not depend on the mode. -/
structure LoopIn where
  sp : Int
  pv : Int
  ff : Int
deriving DecidableEq, Repr

/-- P, D and F of R287; D is AUTO's alone, and starts at 0 with the first AUTO sample (R289). -/
def loopTerms (r : Rec) (l : Loop) (auto : Bool) (x : LoopIn) : Int × Int × Int :=
  let sg (n : Int) : Int := if lpNeg r then -n else n
  let p := s29 (sg (s29 (rndAway (lpKp r * s29 (s29 (rndAway (lpB r * x.sp) 30) - x.pv)) 24)))
  let prev := if l.fresh then x.pv else l.pvPrev
  let dn := if l.fresh then 0 else l.d
  let d := if auto then s29 (s29 (rndAway (lpAd r * dn) 32) - s29 (sg (s29 (rndAway (lpKd r * s29 (x.pv - prev)) 24)))) else 0
  let f := s29 (rndAway (lpKf r * x.ff) 23)
  (p, d, f)

/-- The AUTO step: u, I, and whether the rate limit acted. -/
def loopAuto (r : Rec) (l : Loop) (x : LoopIn) (p d f : Int) : Int × Int × Bool :=
  let sg (n : Int) : Int := if lpNeg r then -n else n
  let e := s29 (sg (s29 (x.sp - x.pv)))
  let two32 : Int := 4294967296
  let lo := s61 (sum29 (lpUlo r) [-p, -d, -f] * two32)
  let hi := s61 (sum29 (lpUhi r) [-p, -d, -f] * two32)
  let i := clampI lo hi (s61 (l.i + s61 (rndAway (lpKi r * e) 24)))
  let raw := sum29 p [s29 (rndAway i 32), d, f]
  let lim := clampI (s29 (l.u - lpRl r)) (s29 (l.u + lpRl r)) raw
  (clampI (lpUlo r) (lpUhi r) lim, i, lim != raw)

/-- Output of a block to its target or tag (R284 to R286). -/
def loopOut (b : Fin 48) (r : Rec) (s : State) : State :=
  let l := s.eng.loop.get b
  if lpToTag r then
    match innerOf s r with
    | some j => if inCasc s j then modLoop b (fun l => { l with outAt := some (sysHalf s + us 50, l.out) }) s else s
    | none => modLoop b (fun l => { l with outAt := some (sysHalf s + us 50, l.out) }) s
  else
    match asFin 96 (lpTarget r) with
    | none => s
    | some k =>
      if !laneLive s k || groupSafe s k.val then s
      else
        let cr := castRec s k.val
        let v : Option Nat :=
          if chFunc cr = .dout then some (1 + 2 * (clampI 0 10000 (rndAway (l.u * 10000) 29)).toNat)
          else setValue (driveOf s k.val cr l.out)
        match v, freeHandle s (tileOf k) (lpSlot r) with
        | some v, some h =>
          let st := sysTick s + 20000
          tileSend (tileOf k) (lpSlot r) (chanIn k).val 1 h st v (modLoop b (fun l => { l with hnd := some h, sentAt := st }) (slotTake s (tileOf k) (lpSlot r)).2)
        | _, _ => s

/-- LOOP item to the partner (Table 11-8). -/
def loopItem (b : Fin 48) (s : State) : State :=
  let l := s.eng.loop.get b
  if drivesLogical s then
    jnlSend 1 1 0 ([1, 0] ++ leBytes 2 b.val ++ leBytes 4 (l.n % 2 ^ 32) ++ leBytes 8 (unsigned l.i 64) ++ leBytes 4 (unsigned l.d 32) ++ leBytes 4 (unsigned l.u 32)) s
  else s

/-- The status tag of a block (R290). -/
def loopStatus (r : Rec) (mode : Nat) (u : Int) (rate pvBad : Bool) : Word :=
  BitVec.ofNat 32 (mode + 4 * b2n (u == lpUlo r) + 8 * b2n (u == lpUhi r) + 16 * b2n rate + 32 * b2n pvBad)

/-- The normalised inputs of a sample: SP, PV (the previous one where it is bad) and FF, with the free values that a missing FF takes. -/
def loopInputs (r : Rec) (l : Loop) (pvF : Word) (pvOk : Bool) (lim : Nat) (s : State) : LoopIn × State :=
  let (pv, s1) := if pvOk then normQ pvF (lpLo r) (lpHi r) s else (l.pvPrev, s)
  let (sp, s2) := normQ l.sp (lpLo r) (lpHi r) s1
  let (ff, s3) := if lpFf r = 0xFFFFFFFF then (0, s2) else match readTag s2 (lpFf r) lim with
    | some (v, _) => normQ v (lpLo r) (lpHi r) s2
    | none => free29 s2
  ({ sp := sp, pv := pv, ff := ff }, s3)

/-- Mode, u, I and whether the rate limit acted, of one sample: a mirrored block keeps its values, a tracking one follows, AUTO and CASC step, MAN
moves towards MV. -/
def loopStep (r : Rec) (l : Loop) (x : LoopIn) (p d f : Int) (mirrored : Bool) (track : Option Track) (s : State) : (Nat × Int × Int × Bool) × State :=
  let follow (u : Int) : Int := s61 (sum29 u [-p, -d, -f] * 4294967296)
  if mirrored then ((3, l.u, l.i, false), s)
  else match track with
    | some .safe => ((3, lpLsafe r, follow (lpLsafe r), false), s)
    | some .hold => ((3, l.u, follow l.u, false), s)
    | some (.applied k) =>
      (match appliedU s k r with
        | some g => let (u, s') := g s; ((3, u, follow u, false), s')
        | none => ((3, l.u, follow l.u, false), s))
    | some (.inner j) => let (u, s') := normQ (s.eng.loop.get j).sp (lpOlo r) (lpOhi r) s; ((3, u, follow u, false), s')
    | none =>
      if l.want == 1 || l.want == 2 then let (u, i, rt) := loopAuto r l x p d f; ((l.want, u, i, rt), s)
      else
        let (mv, s') := normQ l.mv (lpOlo r) (lpOhi r) s
        let u := clampI (s29 (l.u - lpRl r)) (s29 (l.u + lpRl r)) mv
        ((0, u, follow u, u != mv), s')

/-- One sample of a block. -/
def loopSample (b : Fin 48) (r : Rec) (s : State) : State :=
  let l := s.eng.loop.get b
  let lim := sysNs s - 20000
  let pvIn := readTag s (lpPv r) lim
  let pvOk := match pvIn with | some (_, ok) => ok | none => false
  let pvF := match pvIn with | some (v, _) => v | none => l.pv
  let (x, s3) := loopInputs r l pvF pvOk lim s
  let mirrored := paired s && !drivesLogical s
  let track := trackOf s r l pvOk
  let auto := !mirrored && track.isNone && (l.want == 1 || l.want == 2)
  let (p, d, f) := loopTerms r l auto x
  let ((mode, u, i, rate), s4) := loopStep r l x p d f mirrored track s3
  let s5 := modLoop b (fun l => { l with
    mode := mode, u := u, i := i, d := if mirrored then l.d else d, pvPrev := x.pv
    pv := pvF, out := denormQ u (lpOlo r) (lpOhi r), status := loopStatus r mode u rate (!pvOk)
    n := (sysHalf s - us (lpPhase r)) / us (lpTs r), fresh := !auto, first := l.first && waitsTile s r, ran := true }) s4
  loopItem b (loopOut b r s5)

/-- A block's sample where the instant is one of s_n = LPHASE + n × TS. -/
def sampleDue (block : Fin 48) (s : State) : State :=
  match loopRec s block.val with
  | none => s
  | some r =>
    let half := sysHalf s
    if decide (us (lpPhase r) ≤ half) && decide (0 < lpTs r) && (half - us (lpPhase r)) % us (lpTs r) == 0 then loopSample block r (settle s)
    else s

/-- LOOP_SAMPLE. -/
def execLoopSample (t : Time) (block : Fin 48) (s : State) : Out :=
  let s := s.at_ t
  when (hubUp s) (beside (sampleDue block)) s

/-! ## Totalisers (R291 to R294) -/

def ttCount (r : Rec) : Bool := u8 r 2 = 1
def ttFwd (r : Rec) : Bool := u8 r 3 = 1
def ttHold (r : Rec) : Bool := u8 r 4 = 1
def ttSource (r : Rec) : Nat := u32 r 12
def ttLfc (r : Rec) : Word := w32 r 16
def ttTlim (r : Rec) : Word := w32 r 20
def ttKt (r : Rec) : FVal := f64 (u64 r 28)

/-- The accumulator moved by whole 2^-20 units, saturating (R291). -/
def addAcc (n : Int) (t : Tot) : Tot :=
  let x := signed t.acc.toNat 64 + n
  let y := s61 x
  { t with acc := BitVec.ofNat 64 (unsigned y 64), sat := t.sat || y != x }

/-- The total is at or above TLIM; NaN is no limit (R294). -/
def overLimit (r : Rec) (t : Tot) : Bool :=
  match f32 (ttTlim r) with
  | .nan => false
  | .inf neg => neg
  | .fin q => decide (q ≤ totUnits t)

/-- A product in binary64; one beyond its range stands for more than any accumulator holds. -/
def sat64 (q : Rat) : Rat :=
  match round64 q with
  | .fin x => x
  | .inf neg => if neg then -(2 ^ 1100) else 2 ^ 1100
  | .nan => 0

/-- KT × x × the period in seconds, or KT × x for a count, in binary64, then in whole 2^-20 units, ties to even. -/
def ttDelta (r : Rec) (x : Rat) (p : Option Nat) : Int :=
  let kt : Rat := match ttKt r with | .fin q => q | _ => 0
  let a := sat64 (kt * x)
  let d := match p with | some us => sat64 (a * d64 ((us : Rat) / 1000000)) | none => a
  roundInt (d * 1048576)

/-- The increment of a rate source, with its SRCBAD (R291, R292). -/
def rateStep (r : Rec) (s : State) (t : Tot) : Int × Bool × Option (Word × Time) :=
  let good := match tagAt s (ttSource r) with
    | some g => if bitOf g.csw.toNat 0 && isFin g.value then some g.value else none
    | none => none
  let inc (v : Word) : Int :=
    let q := f32Rat v
    let m := if q < 0 then -q else q
    if (match f32 (ttLfc r) with | .fin l => decide (m < l) | .inf neg => !neg | .nan => false) || (ttFwd r && q < 0) then 0
    else ttDelta r q (some s.ep.p)
  match good with
  | some v => (inc v, false, some (v, s.now))
  | none =>
    match t.lastRate with
    | some (v, at_) => (if ttHold r && decide (s.now ≤ at_ + sec 60) then inc v else 0, true, t.lastRate)
    | none => (0, true, none)

/-- A totaliser's increment of the epoch, once: its journal entry (R293) and the limit (R294). -/
def totIncrement (n : Fin 96) (s : State) : State :=
  match totRec s n.val with
  | none => s
  | some r =>
    let e := s.ep.e
    let o := s.eng.tot.get n
    if o.lastEpoch == some e then s
    else
      withHref (fun s =>
        let lost := match o.lastEpoch with | some l => if e = 0 then 0 else e - 1 - l | none => 0
        let (d, bad, rate, cnt) : Int × Bool × Option (Word × Time) × Option Word :=
          if ttCount r then
            let c := match asFin 96 (ttSource r) with | some k => (s.chan.get k).dig.offset + (s.chan.get k).dig.countE | none => 0
            (match o.lastCount with
              | some c0 => (ttDelta r (int32 (c - c0) : Rat) none, false, none, some c)
              | none => (0, false, none, some c))
          else let (d, bad, rate) := rateStep r s o; (d, bad, rate, none)
        let gap := !ttCount r && decide (0 < lost)
        let o1 : Tot := { o with srcBad := bad, lastRate := rate, lastCount := cnt, lastEpoch := some e, gap := gap, gapN := if gap then lost else o.gapN, preset := none }
        let o2 := if o.preset.isSome then o1 else addAcc d o1
        let o3 := { o2 with limit := o2.limit || overLimit r o2, past := ((e, o2.acc, cnt) :: o2.past).take 1366 }
        let s1 := journal 7 ([BitVec.ofNat 8 n.val] ++ List.replicate 7 0 ++ leBytes 6 e ++ [0, 0] ++ leBytes 8 o3.acc.toNat) (modTot n (fun _ => o3) s)
        latchTags (fun r => tagKind r == 6 && tagNum r == n.val && tagSub r != 0) (epochHalf s e).toNat s1) s

/-- TOTALISER_INCREMENT. -/
def execTotaliserIncrement (t : Time) (n : Fin 96) (s : State) : Out :=
  let s := s.at_ t
  when (hubUp s && s.ep.counting) (beside (totIncrement n)) s

/-- A committed PRESET replaces the accumulator at T_E (R294); a value with no stated count of units is a free value (log entry 3). -/
def presetTot (n : Fin 96) (r : Rec) (v : Word) (s : State) : State :=
  let put (x : Int) (s : State) : State :=
    let y := s61 x
    modTot n (fun o =>
      let o1 := { o with acc := BitVec.ofNat 64 (unsigned y 64), sat := y != x, preset := some v }
      { o1 with limit := o1.limit && overLimit r o1 }) s
  match f32 v with
  | .fin q => put (roundInt (q * 1048576)) s
  | .inf neg => put (if neg then -(2 ^ 64) else 2 ^ 64) s
  | .nan => let (w, s1) := freeW s; let (w', s2) := freeW s1; put (signed (w.toNat + 2 ^ 32 * w'.toNat) 64) s2

end Sys2Proof.Machine
end

