-- ==== Sys2Proof/Machine/Groups.lean ====
section
/-! DEFINITION. Commit groups: readiness, tokens, verdicts, deferral, fallback and host silence (R308 to R323, R355). -/

namespace Sys2Proof.Machine

open Sys2Proof

/-! ## Who takes part -/

/-- The number of the own group (R308). -/
def ownGroup : Nat := 0xFFFF

/-- The number by which groups name this device: a pair's members share the logical one (R308). -/
def grpSelf (s : State) : Nat := (logicalNum s).getD s.net.num

/-- A STANDBY or ORPHAN member of a pair sends nothing under the logical number (R373). -/
def mute (s : State) : Bool := paired s && !drivesLogical s

/-- A GROUP record (Table 18-3): 1 DEFER, 2 EXCLUDE, 3 REJOIN, 4 SPLIT, 5 NOVERDICT, 6 GRPMISMATCH, 7 SILENT, 8 RESUME, 9 DEPART, 10 REFUSED,
with the epoch and up to four members. -/
def recordGroup (g ev e : Nat) (devs : List Nat) (s : State) : State :=
  record 0x0501 (srcOf 6 (if g = ownGroup then 0xFFF else g)) ev 0
    (e % 2 ^ 32 :: (List.range 4).map fun i => match devs[i]? with | some d => d % 1024 + 2 ^ 31 | none => 0) s

/-- The output channels of a group (R308). -/
def groupChans (s : State) (g : Nat) : List (Fin 96) :=
  allChans.filter fun k => isOutF (chFunc (castRec s k.val)) && chanGroup s k.val == g

/-- Membership slot of a group for its stall source (Table 15-1): the order of the GRP records; slot 8 is the own group. -/
def stallSlot (s : State) (g : Nat) : Nat :=
  if g = ownGroup then 8 else ((castAll s (·.grp)).filter fun r => grpNum r != ownGroup).findIdx fun r => grpNum r == g

/-- DEFERMAX; the own group keeps the default of Table 09-2 (R310). -/
def deferMax (s : State) (g : Nat) : Nat := if g = ownGroup then 4 else grpDefermax (grpRec s g)

/-- LAGPOL = EXCLUDE; the own group has no member to exclude (R310). -/
def excludes (s : State) (g : Nat) : Bool := g != ownGroup && grpExclude (grpRec s g)

/-! ## Commit sets -/

/-- The sets that a group would apply at epoch `e`: deferred sets in order, then its own (R21). -/
def dueSets (s : State) (g e : Nat) : List CSet :=
  s.ep.held.filter (fun c => c.group == g) ++ s.ep.sets.filter (fun c => c.group == g && decide (c.epoch ≤ e))

/-- The works of some sets, each once. -/
def worksOf (l : List CSet) : List WorkRef :=
  (l.flatMap (·.items)).foldl (fun a i => if a.contains i.w then a else a ++ [i.w]) []

/-- The act of an activation or a revert. -/
def isSwitch : SetAct → Bool
  | .activate => true
  | .revert => true
  | _ => false

/-- Every LIVE tile holds a complete shadow bank (R443, R610). -/
def shadowsReady (s : State) : Bool :=
  (List.finRange 12).all fun t => (s.tile.get t).state != .live || (s.tile.get t).shadow.isSome

/-- Low 32 bits of the maquette's identity hash. -/
def maqId (s : State) : Option Nat := s.img.maq.map fun i => u32 i.id 0

/-- The ACTIVE member sends a maquette that has passed staging to its partner (R375). -/
def sendMaquette (b : List Byte) (s : State) : State :=
  if drivesLogical s then
    let heard := match s.pair.partner with | some p => p.pstate == 3 || p.pstate == 4 | none => false
    imageItems (b.length / 1504 + 1) 0 b { s with pair := { s.pair with maqSent := if heard then maqId s else none } }
  else s

/-- A SYNCED partner holds the maquette, as far as it has been sent to it whole; one that is not SYNCED does not hold an activation up (R375,
DEDUCED, log entry 177). -/
def partnerHolds (s : State) : Bool :=
  !drivesLogical s || !(match s.pair.partner with | some p => p.synced | none => false) || (s.pair.maqSent.isSome && s.pair.maqSent == maqId s)

/-- What R314 and R443 ask of one item: ACCEPT, and for an activation its image and every LIVE tile's shadow bank. -/
def itemReady (s : State) (i : SetItem) : Bool :=
  (match workOf s i.w with | some w => w.accepted || w.final.isSome | none => true) &&
    (match i.act with
      | .activate => s.img.maqState == .armed && shadowsReady s && partnerHolds s
      | .revert => s.img.lastGood.isSome && shadowsReady s
      | _ => true)

/-- Readiness for epoch `e` as of now, less the GHASH that only the token shows (R314). -/
def readyNow (s : State) (g : Group) (e : Nat) : Bool :=
  s.net.locked && s.ep.joined && g.state != 0 && ((dueSets s g.num e).flatMap (·.items)).all (itemReady s)

/-- A work counts as deferred to an epoch (R318). -/
def deferWork (e : Nat) (r : WorkRef) (s : State) : State :=
  postNotice r e (modWork r (fun w => { w with deferred := true, set := w.set.map fun p => (p.1, e) }) s)

/-- The sets of a group up to `e` move to the next epoch in their order (R21, R22). -/
def holdSets (g e : Nat) (s : State) : State :=
  let due (c : CSet) : Bool := c.group == g && decide (c.epoch ≤ e)
  let s1 := { s with ep := { s.ep with sets := s.ep.sets.filter (fun c => !due c), held := s.ep.held ++ s.ep.sets.filter due } }
  forEach (worksOf (s1.ep.held.filter fun c => c.group == g)) (deferWork (e + 1)) s1

/-- A group defers epoch `e` (R317): counted, recorded, its sets moved, and under HOLDGROUP the stall source raised (R319). -/
def deferEpoch (g e : Nat) (nr : List Nat) (s : State) : State :=
  match groupOf s g with
  | none => s
  | some x =>
    let n := x.consec + 1
    let s1 := holdSets g e (recordGroup g 1 e nr (modGroup g (fun x => { x with consec := n, total := x.total + 1 }) s))
    let m := deferMax s g
    if !excludes s g && (n = m || m < n && (n - m) % 256 = 0) then raise (0x0B0 + stallSlot s g) s1 else s1

/-! ## Host silence (R321) -/

/-- The contexts of this device that a group's RUNDOWN names. -/
def namedCtx (s : State) (g : Nat) : List (Fin 8) :=
  (grpRdctx (grpRec s g)).filterMap fun c => if c.1 = grpSelf s then asFin 8 c.2 else none

/-- A named context of this device has not set RDEND (R355). -/
def rundownPending (s : State) (g : Nat) : Bool := (namedCtx s g).any fun x => !(s.eng.axis.get x).flags.rdEnd

/-- HSPOL = RUNDOWN. -/
def hsRundown (s : State) (g : Nat) : Bool := grpHspol (grpRec s g) == 2

/-- The device whose WDH rules a group; the own group's is the device itself (R310). -/
def ctlDev (s : State) (g : Nat) : Option Nat := if g = ownGroup then some (grpSelf s) else grpCtldev (grpRec s g)

/-- Host silence begins for the groups of a CTLDEV (R321, R502). -/
def beginSilence (d : Nat) (s : State) : State :=
  { s with ep := { s.ep with groups := s.ep.groups.map fun g => if ctlDev s g.num = some d then { g with silence := true, served := false } else g } }

/-! ## Tokens (R355, Table 10-9) -/

/-- Fields of a TOK payload. -/
def tkGroup (b : List Byte) : Nat := bits (u16 b 0) 0 10
def tkEpoch (b : List Byte) : Nat := uN b 2 6
def tkPhase (b : List Byte) : Nat := u8 b 8
def tkFlags (b : List Byte) : Nat := u8 b 9
def tkNrCount (b : List Byte) : Nat := u16 b 10
def tkNr (b : List Byte) : List Nat := ((List.range 4).map fun i => u16 b (12 + 2 * i)).filterMap fun e => if bitOf e 15 then some (bits e 0 10) else none
def tkHash (b : List Byte) : Nat := u32 b 20
def tkLag (b : List Byte) : Nat := u16 b 24

/-- A TOK payload. -/
def tokBytes (g e phase flags nrCount : Nat) (nr : List Nat) (hash lag : Nat) : List Byte :=
  leBytes 2 g ++ leBytes 6 e ++ [BitVec.ofNat 8 phase, BitVec.ofNat 8 flags] ++ leBytes 2 nrCount ++
    ((List.range 4).flatMap fun i => leBytes 2 (match nr[i]? with | some d => d + 32768 | none => 0)) ++ leBytes 4 hash ++ leBytes 2 lag

/-- Readiness as fixed for an epoch. -/
def fixedReady (g : Group) (e : Nat) : Bool := match g.ready with | some (e', b) => e' == e && b | none => false

/-- The members that the token visits, ascending (R315, R355). -/
def visited (s : State) (g : Nat) : List Nat := (grpMembers (grpRec s g)).filter fun d => d == grpSelf s || heard s d

/-- The member after this one in visiting order. -/
def nextMember (s : State) (g : Nat) : Nat :=
  let l := visited s g
  match l.find? (fun d => decide (grpSelf s < d)) with
  | some d => d
  | none => l.headD (grpSelf s)

/-- The token visits this member: OUT becomes JOINING; a differing GHASH makes it not ready; its bits are written (R309, R311, R355). -/
def visit (g : Nat) (b : List Byte) (s : State) : List Byte × State :=
  match groupOf s g with
  | none => (b, s)
  | some x =>
    let e := tkEpoch b
    let same := tkHash b = ghash (grpRec s g)
    let ok := fixedReady x e && same
    let s1 := modGroup g (fun x => { x with
      state := if x.state = 0 then 1 else x.state
      ready := match x.ready with | some (e', r) => some (e', r && (same || e' != e)) | none => none
      readyRun := if x.state = 3 then (if ok then x.readyRun + 1 else 0) else x.readyRun
      visits := insertK (grpSelf s) e x.visits }) s
    let s2 := if same then s1 else recordGroup g 6 e [grpSelf s] s1
    let add := x.state = 2 && !ok
    let n := tkNrCount b + b2n add
    let nr := if add && (tkNr b).length < 4 then tkNr b ++ [grpSelf s] else tkNr b
    let pend := bitOf (tkFlags b) 4 || ((x.silence || x.applied) && hsRundown s g && rundownPending s g)
    (tokBytes g e 0 (4 * b2n (decide (4 < n)) + 16 * b2n pend) n nr (tkHash b) (tkLag b + b2n (x.state == 3)), s2)

/-! ## Verdicts -/

/-- This member takes the verdict of an epoch: exclusion of a member that the token showed not ready (R319, R355), deferral (R317), or a commit that
sets the count to 0. A leader that the verdict excludes leads no longer: the lowest member heard that it does not name follows it (DEDUCED, log
entry 60). -/
def takeVerdict (g : Nat) (v : Verdict) (nr : List Nat) (s : State) : State :=
  match groupOf s g with
  | none => s
  | some x =>
    let out := v.exclude && x.state == 2 && lookupO x.visits (grpSelf s) == some v.epoch && !fixedReady x v.epoch
    let s1 := modGroup g (fun x => { x with
      verdict := some v
      leader := match x.leader with
        | some (n, _) => if v.exclude && nr.contains n then (visited s g).find? (fun d => !nr.contains d) |>.map (·, v.epoch) else x.leader
        | none => none
      state := if out then 3 else x.state
      readyRun := if out then 0 else x.readyRun }) s
    let s2 := if v.exclude then recordGroup g 2 v.epoch nr s1 else s1
    if v.commit then modGroup g (fun x => { x with consec := 0 }) s2 else deferEpoch g v.epoch nr s2

/-- The scope of a verdict: SEGMENT when every member lies in this device's segment (R355). -/
def verdictScope (s : State) (g : Nat) : Nat :=
  if (grpMembers (grpRec s g)).all fun d => d / 32 == selfNum s / 32 then scopeSeg else scopeSys

/-- Whether an IN member is left ready after an exclusion. The leader knows it of itself; of the others the token names those that are not ready
and counts those that lag, but does not tell IN from JOINING: where such a member is left, the answer is free (log entry 24). -/
def restReady (x : Group) (self others : Nat) (b : List Byte) (s : State) : Bool × State :=
  if x.state = 2 && fixedReady x (tkEpoch b) then (true, s)
  else if tkNrCount b + tkLag b < others + b2n ((tkNr b).contains self || x.state = 3) then freeB s
  else (false, s)

/-- Whether the leader knows of the host's silence: from its own state, and of another CTLDEV's WDH by no frame that the spec names, so that the
answer is free while that device is heard (R321, log entry 25). -/
def leaderSilence (g : Nat) (x : Group) (s : State) : Bool × State :=
  if x.silence then (true, s)
  else match ctlDev s g with
    | some d => if d = grpSelf s then (false, s) else freeB s
    | none => (false, s)

/-- The leader decides a returned token and sends the verdict (R315, R319, R355): RDDONE with every SILENT verdict whose token came back with RDPEND
clear. A group whose token bound does not fit a changed period defers (R297). -/
def decideToken (g : Nat) (b : List Byte) (s : State) : State :=
  match groupOf s g with
  | none => s
  | some x =>
    let e := tkEpoch b
    let n := tkNrCount b
    let exclude := !x.tight && excludes s g && decide (deferMax s g ≤ x.consec) && decide (0 < n)
    let (rest, sa) := if exclude then restReady x (grpSelf s) ((visited s g).length - 1) b s else (true, s)
    let (silence, sb) := leaderSilence g x sa
    let commit := !x.tight && (if exclude then rest else n == 0)
    let rdDone := silence && !bitOf (tkFlags b) 4
    let flags := b2n commit + 2 * b2n silence + 4 * b2n (bitOf (tkFlags b) 2) + 8 * b2n exclude + 16 * b2n rdDone
    let s1 := modGroup g (fun x => { x with launched := none, silence := silence, leader := some (selfNum s, e) }) sb
    let scope := verdictScope s g
    let s2 := if mute s then s1 else castSend 2 scope (scope == scopeSys) (tokBytes g e 1 flags n (tkNr b) (tkHash b) (tkLag b)) s1
    takeVerdict g { epoch := e, commit := commit, silent := silence, exclude := exclude, rdDone := rdDone } (tkNr b) s2

/-- The token goes on to the next member; at the last it has returned. -/
def passToken (g : Nat) (b : List Byte) (s : State) : State :=
  let d := nextMember s g
  if d = grpSelf s then decideToken g b s else if mute s then s else uniSend 2 d b s

/-- The leader launches the token of epoch `e` and visits itself first (R315). -/
def launch (g e : Nat) (s : State) : State :=
  let s1 := modGroup g (fun x => { x with launched := some e, visits := (visited s g).foldl (fun l d => insertK d e l) x.visits }) s
  let (b, s2) := visit g (tokBytes g e 0 0 0 [] (ghash (grpRec s g)) 0) s1
  passToken g b s2

/-- TOK_VERDICT: its sender is the leader. A member whose GHASH differs records it where the token did not visit it (R309). -/
def execTokVerdict (t : Time) (src : Nat) (bytes : List Byte) (s : State) : Out :=
  let s := s.at_ t
  let g := tkGroup bytes
  let e := tkEpoch bytes
  match groupOf s g with
  | none => noEffect s
  | some x =>
    let taken := (match x.verdict with | some v => v.epoch == e | none => false) || x.noVerdict == some e
    when (hubUp s && s.ep.counting && tkPhase bytes == 1 && grpHas (grpRec s g) (grpSelf s) && e == s.ep.e + 1 && !taken)
      (fun s =>
        let f := tkFlags bytes
        let s1 := if tkHash bytes != ghash (grpRec s g) && lookupO x.visits (grpSelf s) != some e then recordGroup g 6 e [grpSelf s] s else s
        takeVerdict g { epoch := e, commit := bitOf f 0, silent := bitOf f 1, exclude := bitOf f 3, rdDone := bitOf f 4 } (tkNr bytes)
          (modGroup g (fun x => { x with leader := some (src, e), silence := x.silence || bitOf f 1 }) s1)) s

/-- A member without a verdict defers and records NOVERDICT (R316). -/
def noVerdict (g e : Nat) (s : State) : State :=
  deferEpoch g e [] (recordGroup g 5 e [] (modGroup g (fun x => { x with noVerdict := some e, launched := none }) s))

/-- This member holds no verdict of a numbered group whose token visits it. -/
def lacksVerdict (x : Group) (e : Nat) : Bool :=
  x.num != ownGroup && x.state != 0 && x.noVerdict != some e && (match x.verdict with | some v => v.epoch != e | none => true)

/-- TOKEN_DEADLINE: T_E − 100 µs of the coming epoch. -/
def execTokenDeadline (t : Time) (s : State) : Out :=
  let s := s.at_ t
  let e := s.ep.e + 1
  when (hubUp s && s.ep.counting && decide (epochHalf s e ≤ (sysHalf s + us 100 : Nat)))
    (fun s => forEach ((s.ep.groups.filter fun x => lacksVerdict x e).map (·.num)) (fun g s => noVerdict g e s) s) s

/-- MEMBER_DEPART: the token has not visited the member for three consecutive epochs and no frame of its number has come for 5 ms. The departure
takes effect at the next token (R312). -/
def execMemberDepart (t : Time) (group member : Nat) (s : State) : Out :=
  let s := s.at_ t
  match groupOf s group with
  | none => noEffect s
  | some x =>
    let unvisited := match lookupO x.visits member with | some e => decide (e + 3 ≤ s.ep.e) | none => true
    let listed := member / 32 != s.net.num / 32 && s.net.pmaps.any fun p => p.1 / 32 == member / 32 && decide (s.now < p.2.2 + ms 5) && bitOf p.2.1.toNat (member % 32)
    let silent := if member = grpSelf s then (match s.net.ownBack with | some b => decide (b + ms 5 ≤ s.now) | none => true)
      else s.net.srcs.all (fun q => q.num != member || decide (q.last + ms 5 ≤ s.now)) && !listed
    when (hubUp s && s.ep.counting && group != ownGroup && grpHas (grpRec s group) member && unvisited && silent)
      (modGroup group (fun x => { x with leaving := if x.leaving.contains member then x.leaving else x.leaving ++ [member] })) s

/-! ## Fallback at level 7 and its end (R319 to R323) -/

/-- A channel's level 7 and what the tile shows of it. -/
def setBase (k : Fin 96) (d : Drive) (s : State) : State := withRefresh k (modLev k fun l => { l with l7 := d }) s

/-- Group fallback on one channel: FBVAL, or with FBACK = HOLD outside SAFE the last committed value. -/
def groupFall (safe : Bool) (k : Fin 96) (s : State) : State :=
  let fb := safe || fbSafe (safeRec s k)
  let s1 := modLev k (fun l => { l with grpFb := true, l7fb := fb }) s
  if fb && tileReached s (tileOf k) then setBase k (fbDrive s1 k) s1 else s1

/-- The end of group fallback: each channel of a LIVE tile restores by its RESTORE (R44, R320, R323). In a tile that is not LIVE, or that its hub
does not reach, it restores by its RESTORE when the tile is LIVE again (R14, R50). -/
def groupRestore (k : Fin 96) (s : State) : State :=
  let s1 := modLev k (fun l => { l with grpFb := false, l7fb := false }) s
  if (s.tile.get (tileOf k)).state = .live && tileReached s (tileOf k) then restoreChan k (restoreAck (safeRec s k)) s1
  else modLev k (fun l => { l with ackWait := l.ackWait || restoreAck (safeRec s k) }) s1

/-- A member's fallback ends without a restore: the channel follows its tile's state over the committed value (Table 09-3, OUT). -/
def groupUnfall (k : Fin 96) (s : State) : State :=
  let s1 := modLev k (fun l => { l with grpFb := false, l7fb := false }) s
  if (s.tile.get (tileOf k)).state = .live && tileReached s (tileOf k) then setBase k (comDrive s1 k) s1 else s1

/-- A departure takes effect at the token of epoch `e` (R312): this member itself is OUT, and the fallback of a lag ends with it; of another
member the leader records it, and a departed CTLDEV begins host silence (R321). -/
def departs (e g member : Nat) (s : State) : State :=
  match groupOf s g with
  | none => s
  | some x =>
    if member = grpSelf s then
      let s1 := modGroup g (fun x => { x with state := 0, readyRun := 0, rejoin := false }) s
      if x.state = 3 && !x.safe then forEach ((groupChans s g).filter fun k => (s.chan.get k).lev.grpFb) groupUnfall s1 else s1
    else
      let s1 := if isLeader s x then recordGroup g 9 e [member] s else s
      if ctlDev s g = some member then modGroup g (fun x => { x with silence := true, served := false }) s1 else s1

/-- The departures of a group that wait for the token of epoch `e`. -/
def departGroup (e g : Nat) (s : State) : State :=
  match groupOf s g with
  | none => s
  | some x => modGroup g (fun x => { x with leaving := [] }) (forEach x.leaving (departs e g) s)

/-- The departures of every group. -/
def departAll (e : Nat) (s : State) : State := forEach (s.ep.groups.map (·.num)) (departGroup e) s

/-- TOK_FRAME: the token of the coming epoch. -/
def execTokFrame (t : Time) (bytes : List Byte) (s : State) : Out :=
  let s := s.at_ t
  let g := tkGroup bytes
  let e := tkEpoch bytes
  when (hubUp s && s.ep.counting && tkPhase bytes == 0 && grpHas (grpRec s g) (grpSelf s) && e == s.ep.e + 1 && (groupOf s g).isSome)
    (fun s =>
      if (match groupOf s g with | some x => x.launched == some e | none => false) then decideToken g bytes s
      else let (b, s1) := visit g bytes (departGroup e g s); passToken g b s1) s

/-- Level 6 of a loop block's target released within its partition (R247). -/
def loopRelease (r : Rec) (s : State) : State :=
  if lpToTag r then s
  else match asFin 96 (lpTarget r) with
    | some k =>
      if laneLive s k then tileSend (tileOf k) 15 (chanIn k).val 5 (partOf (castTile s (tileOf k).val) (lpSlot r)).1 (sysTick s) 0 s else s
    | none => s

/-- SAFE on some channels of a group (Table 09-6): overrides released, lanes IDLE, loop blocks in TRACK, FBVAL at level 7, FALLBACK. -/
def groupSafeOn (ks : List (Fin 96)) (s : State) : State :=
  let mine (n : Nat) : Bool := ks.any fun k => k.val == n
  let lanes := (List.finRange 96).filter fun n =>
    (s.eng.lane.get n).state != 0 && (match laneOf s n.val with | some r => mine (laneTarget r) | none => false)
  let s0 := if (match s.nvs.armed with | some a => mine a.k.val | none => false) then disarm s else s
  let s1 := forEach lanes (fun n s => laneIdle n (sysTick s) s) s0
  let s2 := forEach ((castAll s (·.loop)).filter fun r => lpRtype r == 0 && !lpToTag r && mine (lpTarget r)) loopRelease s1
  let free (k : Fin 96) (s : State) : State :=
    modChan k (fun c => { c with ovr := none, lev := if tileReached s (tileOf k) then { c.lev with l5 := none } else c.lev }) s
  forEach ks (fun k s => groupFall true k (free k s)) s2

/-- The channels of a group that a lane of a named context drives (Table 09-6). -/
def drivenByNamed (s : State) (g : Nat) (k : Fin 96) : Bool :=
  (castAll s (·.clane)).any fun r => laneTarget r == k.val && (namedCtx s g).any fun x => x.val == laneCtx r

/-- HSPOL applied at T_E (R321). -/
def applyHspol (g : Nat) (s : State) : State :=
  let s1 := recordGroup g 7 s.ep.e [] (modGroup g (fun x => { x with applied := true }) s)
  match grpHspol (grpRec s g) with
  | 1 => groupSafeOn (groupChans s g) (modGroup g (fun x => { x with safe := true }) s1)
  | 2 => forEach (namedCtx s g) stopOrder s1
  | _ => s1

/-- RDDONE: SAFE on the channels that no lane of a named context drives. -/
def applyRdDone (g : Nat) (s : State) : State :=
  groupSafeOn ((groupChans s g).filter fun k => !drivenByNamed s g k) (modGroup g (fun x => { x with safe := true }) s)

/-- A committed write of 1 to RESUME (R323). A CTLDEV that is not heard is not IN; whether the WDH of one that is heard has been served, and whether
it is IN, reaches this device in no frame that the spec names: the answer is a free value (log entry 25). -/
def resume (g : Nat) (s : State) : State :=
  match groupOf s g with
  | none => s
  | some x =>
    if !x.silence && !x.applied then s
    else
      let own := ctlDev s g == some (grpSelf s)
      let there := match ctlDev s g with | some d => heard s d | none => false
      let (ok, s1) := if own then (x.served && (g == ownGroup || x.state == 2), s) else if there then freeB s else (false, s)
      if !ok then recordGroup g 10 s.ep.e [] s1
      else
        let s2 := recordGroup g 8 s.ep.e []
          (modGroup g (fun x => { x with silence := false, applied := false, safe := false, served := false }) s1)
        if x.safe then forEach ((groupChans s g).filter fun k => (s.chan.get k).lev.grpFb) groupRestore s2 else s2

end Sys2Proof.Machine
end

