-- ==== Sys2Proof/Machine/Activate.lean ====
section
/-! DEFINITION. An activation or a revert at T_(E_A): banks, engines, groups and image roles (R443 to R447, R608, Table 13-12). -/

namespace Sys2Proof.Machine

open Sys2Proof

/-- The old and the incoming image agree on what `f` reads of them; without an old image nothing agrees. -/
def sameIn {α : Type} [DecidableEq α] (old : Option Image) (new : Image) (f : Image → α) : Bool :=
  match old with | some o => f o == f new | none => false

/-- A record stands at the same owner reference, its section and its index, in both images (R445). -/
def refKept (old : Option Image) (new : Image) (f : Image → List Rec) (r : Rec) : Bool :=
  match old with | some o => ((f o).zip (f new)).any fun p => p.1 == r && p.2 == r | none => false

/-! ## Engines -/

/-- A lane's index in its section, its record and its entries in an image. -/
def laneText (n : Nat) (i : Image) : Option (Nat × Rec × List Rec) :=
  ((i.tlane.zipIdx ++ i.clane.zipIdx).find? fun r => laneNo r.1 == n).map fun r =>
    (r.2, r.1, ((if laneCam r.1 then i.cent else i.tent).drop (laneFirst r.1)).take (laneCount r.1))

/-- A changed lane: IDLE, its level 6 released at the boundary (R247), then afresh. Called under the old cast. -/
def laneAfresh (n : Fin 96) (s : State) : State :=
  let s1 := if (laneOf s n.val).isSome then laneIdle n (sysTick s) s else s
  modLane n (fun _ => {}) s1

/-- A hub reflex entry that leaves or changes: released, its state forgotten. Called under the old cast. -/
def hrefAfresh (r : Rec) (s : State) : State :=
  let s1 := if (hrefSt s (hrEntry r)).fired then flashHref r false s else s
  { s1 with eng := { s1.eng with href := s1.eng.href.filter fun a => a.entry != hrEntry r } }

/-- A changed totaliser: its old total is recorded; it starts at 0. -/
def totAfresh (old : Option Rec) (n : Fin 96) (s : State) : State :=
  let a := (s.eng.tot.get n).acc.toNat
  let s1 := if old.isSome then record 0x0403 (srcOf 5 (256 + n.val)) 1 0 [a % 2 ^ 32, a / 2 ^ 32] s else s
  modTot n (fun _ => {}) s1

/-- The engines' records that change, set afresh under the old cast. The spec names no levels of A and B for a context that is configured: the model
takes both low, whatever the lines of a context without a record did, and so it does after a hub reset (DESIGN CHOICE, log entry 166). -/
def enginesAfresh (old : Option Image) (new : Image) (s : State) : State :=
  let lane (n : Nat) (i : Image) := laneText n i
  let axis (x : Nat) (i : Image) := i.axis.zipIdx.find? fun r => axCtx r.1 == x
  let loop (t b : Nat) (i : Image) := i.loop.zipIdx.find? fun r => lpRtype r.1 == t && lpIndex r.1 == b
  let s1 := forEach ((List.finRange 96).filter fun n => !sameIn old new (lane n.val)) laneAfresh s
  let gone := ((old.map (·.href)).getD []).filter fun r => !refKept old new (·.href) r
  let s2 := forEach gone hrefAfresh s1
  let s3 := forEach ((List.finRange 48).filter fun b => !sameIn old new (loop 0 b.val)) (fun b s =>
    let s := match old.bind (loop 0 b.val) with | some r => loopRelease r.1 s | none => s
    modLoop b (fun _ => { want := ((loop 0 b.val new).map fun r => lpMode0 r.1).getD 0 }) s) s2
  let s4 := forEach ((List.finRange 96).filter fun n => !sameIn old new (loop 1 n.val)) (fun n s => totAfresh ((old.bind (loop 1 n.val)).map (·.1)) n s) s3
  forEach ((List.finRange 8).filter fun x => !sameIn old new (axis x.val)) (fun x s => modAxis x (fun _ => {}) s) s4

/-! ## Channels, HART and diagnostics -/

/-- A channel's plan and items in an image. -/
def planText (k : Nat) (i : Image) : Option (Rec × List Rec) :=
  (i.plan.find? fun r => planK r == k).map fun r => (r, (i.item.drop (planFirst r)).take (planCount r))

/-- The index of a channel's plan in its section. -/
def planAt (k : Nat) (i : Image) : Option Nat := i.plan.findIdx? fun r => planK r == k

/-- The hub's side of one channel under the new cast (Tables 13-12 and 04-9). A present HART turn completes under its old plan; a change of FUNC and
HARTM = OFF end it, and a write in flight as UNKNOWN (R153). A trim disarms with a change of FUNC or RANGE alone, as R121 lists, whatever else of the
record changes (DESIGN CHOICE, log entry 162). With a new FUNC that has HART the new plan then starts from its beginning (DEDUCED,
log entry 132). -/
def chanSwitch (old : Option Image) (new : Image) (k : Fin 96) (s : State) : State :=
  let same := sameIn old new fun i => i.chan.getD k.val []
  let r := castRec s k.val
  let rangeOf (i : Image) := slice (i.chan.getD k.val []) 2 2
  let s0 := if !sameIn old new rangeOf && (match s.nvs.armed with | some a => a.k == k | none => false) then disarm s else s
  let s1 := if same then s0 else modChan k (fun c => { c with com := none, ovr := none, dig := { c.dig with pub := 0, offset := 0 } }) s0
  let s2 := if sameIn old new (planText k.val) && sameIn old new (planAt k.val) then s1
    else match old.bind (planText k.val) with
      | some p => if (s1.chan.get k).hart.turn.isSome then modHart k (fun h => { h with old := some (h.old.getD p) }) s1 else freshPlan k s1
      | none => freshPlan k s1
  let func (i : Image) := u8 (i.chan.getD k.val []) 2
  if sameIn old new func && chHartm r != 0 then s2
  else hartInterrupt k (freshPlan k (modemStop k s2))

/-- The first resource of a manual test's kind that the cast does not claim for a channel (R240). -/
def testMissing (s : State) (k : Fin 96) (kind : Nat) : Option Nat :=
  let t := (tileOf k).val
  if !chOvr (castRec s k.val) then some (0x11000000 + k.val)
  else if (castAll s (·.diag)).any fun r => dgKind r == kind && slotCovers s r k then none
  else match kind with
    | 2 => some (0x0A000000 + isoGroup (castTile s t))
    | 3 => some (0x05000000 + t * 16 + 12)
    | _ => some (0x09000000 + k.val)

/-- Waiting manual tests judged again against the new cast (R608). -/
def testsAgain (s : State) : State :=
  forEach s.misc.tests (fun w s =>
    match testMissing s w.k w.kind with
    | none => s
    | some res => finishClaim w.w res { s with misc := { s.misc with tests := s.misc.tests.filter fun x => x != w } }) s

/-- Diagnostic windows of changed records end without a result, and give the converter back. -/
def diagSwitch (old : Option Image) (new : Image) (s : State) : State :=
  let keeps (d : DiagRun) : Bool := sameIn old new fun i => i.diag.getD d.slot []
  let was (d : DiagRun) : Rec := ((old.map (·.diag)).getD []).getD d.slot []
  let gone := (s.misc.diag.filter fun d => !keeps d && dgKind (was d) == 0).filterMap fun d => (asFin 12 (dgTile (was d))).map (·, d.stop)
  forEach gone (fun t s => { s with sns := s.sns.upd t.1 fun x => if x.claimed.map (·.2) = some t.2 then { x with claimed := none } else x })
    { s with misc := { s.misc with diag := s.misc.diag.filter keeps } }

/-! ## Groups -/

/-- The memberships under an image: a group that stays keeps its state, any other is OUT; the own group is IN (R308, R311). -/
def groupsOf (i : Image) (old : List Group) : List Group :=
  let own := match old.find? (fun g => g.num == ownGroup) with | some g => g | none => { num := ownGroup, state := 2 }
  own :: (i.grp.filter fun r => grpNum r != ownGroup).map fun r =>
    match old.find? (fun g => g.num == grpNum r) with
    | some g => g
    | none => { num := grpNum r }

/-- Sets of a group that the new image lacks pass to the own group: accepted work is never lost (R446, log entry 26). -/
def setsInto (gs : List Group) (l : List CSet) : List CSet :=
  l.map fun c => if gs.any fun g => g.num == c.group then c else { c with group := ownGroup }

/-- Groups, sets and committed control values under a new cast. Control values of unchanged tags stay. -/
def epochSwitch (old : Option Image) (new : Image) (s : State) : State :=
  let gs := groupsOf new s.ep.groups
  let kept (e : Nat × Word) : Bool := sameIn old new fun i => i.tag.find? fun r => tagIndex r == e.1
  { s with ep := { s.ep with
    groups := gs
    sets := setsInto gs s.ep.sets
    held := setsInto gs s.ep.held
    ctl := s.ep.ctl.filter kept } }

/-! ## Images -/

/-- An IMAGE record (Table 18-3): 1 STAGED, 2 ACTIVATED, 3 REVERTED, 4 CASTBAD, 5 NOTICE, 6 LGBAD. -/
def recordImage (ev : Nat) (i : Image) (s : State) : State :=
  record 0x0901 (srcOf 11 2) ev 0 [hdrImgver i.hdr, u32 i.id 0, u32 i.id 4] s

/-- FLOOR of an image header (Table 13-1). -/
def hdrFloor (h : Rec) : Nat := u32 h 20

/-- Roles move in the store without copying (R447); a revert exchanges cast and last-good (R449). The floor follows the new cast (R430). -/
def swapRoles (new : Image) (revert : Bool) (s : State) : State :=
  let m := s.img
  let floor := max m.floor (hdrFloor new.hdr)
  if revert then { s with img := { m with castPart := m.lgPart, lgPart := m.castPart, cast := some new, lastGood := m.cast, floor := floor } }
  else { queueErases purposeImage (imageBlocks m.lgPart.val) s with img := { m with
    castPart := m.maqPart
    lgPart := m.castPart
    maqPart := m.lgPart
    part := m.part.set m.lgPart []
    cast := some new
    lastGood := m.cast
    maq := none
    maqState := .empty
    floor := floor } }

/-- The journaled activation (Table 11-16, ROLE). -/
def journalRole (e : Nat) (s : State) : State :=
  journal 0x0B ([s.img.castPart.val, s.img.maqPart.val, s.img.lgPart.val].map (BitVec.ofNat 8) ++ List.replicate 5 0 ++ leBytes 6 e ++ [0, 0]) s

/-- A tile reflex entry that moves to another owner reference is released; the new bank evaluates its condition afresh (R445). -/
def trefMoved (old : Option Image) (new : Image) (t : Fin 12) (s : State) : State :=
  let gone := ((old.map (·.tref)).getD []).filter fun r => trTile r == t.val && new.tref.contains r && !refKept old new (·.tref) r
  forEach gone (fun r s => match asFin 8 (trTgt r) with
    | some c => modLev (chanAt t c) (fun l => { l with tileReflex := none }) s
    | none => s) (modTile t (fun x => { x with tref := x.tref.filter fun a => !gone.any fun r => trEntry r == a.entry }) s)

/-- Every LIVE tile switches banks; shadow banks are spent (R443, R444). -/
def banksSwitch (old : Option Image) (new : Image) (s : State) : State :=
  forEach (List.finRange 12) (fun t s =>
    let x := s.tile.get t
    let s1 := if x.state = .live then switchBank t (x.shadow.getD (bankOf new t)) (trefMoved old new t s) else pushConfig t s
    modTile t (fun x => { x with shadow := none }) s1) s

/-- Group fallback stands again on channels that start afresh in a group under SAFE or LAGGING (R319, R322). -/
def fallAgain (s : State) : State :=
  forEach allChans (fun k s =>
    if !isOutF (chFunc (castRec s k.val)) then s
    else match groupOf s (chanGroup s k.val) with
      | some g => if (g.safe || g.state == 3) && !(s.chan.get k).lev.l7fb then groupFall g.safe k s else s
      | none => s) s

/-- The switch at T_(E_A) of a maquette or a last-good image. -/
def activate (new : Image) (revert : Bool) (e : Nat) (w : WorkRef) (s : State) : State :=
  let old := s.img.cast
  let s1 := diagSwitch old new (enginesAfresh old new s)
  let s2 := swapRoles new revert s1
  let s3 := forEach allChans (chanSwitch old new) s2
  let hart (x : HartTag) : Bool := sameIn old new fun i => i.item[x.item]?
  let s4 := epochSwitch old new (banksSwitch old new { s3 with misc := { s3.misc with hartTags := s3.misc.hartTags.filter hart } })
  let changed (n : Nat) : Bool := !sameIn old new fun i => i.chan.getD (n / 2) []
  let s5 := { s4 with eng := { s4.eng with comp := s4.eng.comp.allIdx fun n b => b && !changed n } }
  let s6 := fallAgain (forEach ((castAll s5 (·.href)).filter fun r => !refKept old new (·.href) r) evalHref s5)
  let s7 := testsAgain s6
  let s8 := { s7 with img := { s7.img with castEpoch := e, roleDue := some (e, w, s7.now), activator := none } }
  journalRole e (recordImage (if revert then 3 else 2) new (forEach allChans hartResume s8))

end Sys2Proof.Machine
end

