-- ==== Sys2Proof/Machine/Boundary.lean ====
section
/-! DEFINITION. The epoch boundary (R18 to R22, R295 to R298, R313 to R323, R444): latching, applying, readiness and tokens; and the
loading of committed sets. -/

namespace Sys2Proof.Machine

open Sys2Proof

/-! ## Latching (R18, R19, R78, R169, R214) -/

/-- Frequency of counted edges (acceptance instant, timestamp; newest first; half-ns) at `te`, in hertz (R169). -/
def freqOf (both : Bool) (gate timeo te : Nat) (h : List (Nat × Nat)) : Rat :=
  let full : Nat := if both then 2 else 1
  let rate (n d : Nat) : Rat := if d = 0 then 0 else (n * 2000000000 : Nat) / ((full * d : Nat) : Rat)
  let now := h.filter fun e => decide (e.1 ≤ te)
  let inGate := now.filter fun e => decide (te < e.1 + gate)
  let span (l : List (Nat × Nat)) : Rat :=
    match l.head?, l.getLast? with
    | some a, some b => rate (l.length - 1) (a.2 - b.2)
    | _, _ => 0
  if 2 ≤ inGate.length then span inGate
  else
    let pair := now.take 2
    let f := match pair with | [_, b] => if te ≤ b.1 + timeo then span pair else 0 | _ => 0
    match now.head? with
    | some a => let lim := rate 1 (te - a.2); if 0 < te - a.2 && lim < f then lim else f
    | none => f

/-- The frequency of a CNT channel at T_E; OVER above 100 kHz. -/
def freqLatch (te : Nat) (k : Fin 96) (s : State) : State :=
  let r := tileRec s k
  if chFunc r = .cnt then
    let f := freqOf (chEdgerec r == 3) (ms (chFgate r)) (ms (chFtimeo r)) te (s.chan.get k).dig.hist
    modDig k (fun d => { d with freq := f32OfRat f, freqOver := decide (100000 < f) }) s
  else s

/-- The COUNT item of a channel to the partner (Table 11-8). -/
def countItem (e : Nat) (k : Fin 96) (s : State) : State :=
  let f := chFunc (castRec s k.val)
  if f = .cnt || f = .di || f = .nam then
    let d := (s.chan.get k).dig
    jnlSend 1 1 0 ([3, 0] ++ leBytes 2 k.val ++ leBytes 6 e ++ [0, 0] ++ leBytes 4 d.pub.toNat ++ leBytes 4 d.edges.toNat ++ List.replicate 4 0) s
  else s

/-- The epoch edge reports of a tile: the latest accepted rising and falling edge of each channel since the last epoch boundary (R162). -/
def edgeReports (s : State) (t : Fin 12) : List Evt :=
  (List.finRange 8).flatMap fun c =>
    let d := (s.chan.get (chanAt t c)).dig
    let rep (on : Bool) (a : Option Nat) : List Evt := (a.map fun i => { kind := 0, idx := c.val, on := on, time := i }).toList
    rep true d.riseRep ++ rep false d.fallRep

/-- Counts and CSW of a channel at T_E. Behind a silent link the published count stands still (R168). -/
def latchChan (up : Bool) (k : Fin 96) (s : State) : State :=
  let w := cswOf s k
  modDig k (fun d =>
    { d with edgesE := d.edges, countE := if up then d.count else d.countE, pub := if up then d.offset + d.count else d.pub })
    (modDg k (fun d => { d with csw := w }) s)

/-- What latches at T_E: SENSE reports, counts, frequencies, CSWs and every tag, before any output of the epoch is applied. -/
def latch (e : Nat) (s : State) : State :=
  let te := (epochHalf s e).toNat
  let s1 := { s with sns := s.sns.all fun x => { x with report := (if x.accE + 1 = e then x.acc else Bank.fill 8 (0, 0, 0)), accE := e, acc := Bank.fill 8 (0, 0, 0) } }
  let s2 := forEach allChans (freqLatch te) s1
  let s3 := forEach allChans (fun k s => latchChan (linkUp s (tileOf k)) k s) s2
  let s4 := latchTags (fun _ => true) te s3
  let s5 := { s4 with
    free := s4.free + 96
    tile := s4.tile.allIdx fun t x => match asFin 12 t with | some t => { x with edgeReps := x.edgeReps ++ edgeReports s4 t } | none => x
    chan := s4.chan.allIdx fun k c => { c with
      epv := (match asFin 96 k with | some k => epvEntry s4 k | none => c.epv), dig := { c.dig with riseRep := none, fallRep := none } }
    eng := { s4.eng with axis := s4.eng.axis.all fun a => { a with pE := a.p, offsetE := a.offset, flags := { a.flags with qerr := false } } }
    ep := { s4.ep with published := ((castAll s4 (·.tag)).filter tagPublished).map tagIndex } }
  if drivesLogical s5 then forEach allChans (countItem e) s5 else s5

/-- The entry and the edge report of one channel latched again with an edge accepted in the FCLK cycle of T_E after the boundary was made: the edge
belongs to that epoch (R177). -/
def edgeAtGrid (acc : Nat) (k : Fin 96) (rising : Bool) (s : State) : State :=
  let te := (epochHalf s s.ep.e).toNat
  if !s.ep.counting || acc / 5 != te / 5 then s
  else
    let d0 := (s.chan.get k).dig
    let rep : List Evt := ((if rising then d0.riseRep else d0.fallRep).map fun a => { kind := 0, idx := (chanIn k).val, on := rising, time := a }).toList
    let s1 := latchChan (linkUp s (tileOf k)) k (freqLatch te k s)
    let s2 := latchTags (fun r => tagKind r == 1 && tagNum r == k.val) te s1
    let s3 := modChan k (fun c => { c with
      epv := epvEntry s2 k
      dig := { c.dig with riseRep := if rising then none else c.dig.riseRep, fallRep := if rising then c.dig.fallRep else none } }) s2
    let s4 := modTile (tileOf k) (fun x => { x with edgeReps := x.edgeReps ++ rep }) s3
    if drivesLogical s4 then countItem s.ep.e k s4 else s4

/-- EDGE_ACCEPT: the raw state has held for FILT. A NAMUR input under a line fault keeps its state (R166). The published
count follows at the next T_E or value frame (R168). -/
def execEdgeAccept (t : Time) (k : Fin 96) (s : State) : Out :=
  let s := s.at_ t
  let tile := tileOf k
  let r := tileRec s k
  let d := (s.chan.get k).dig
  when (tilePowered s tile && isDigIn r && d.raw != d.filt && d.line.isNone && tileSpan s tile d.runStart (us (chFilt r)))
    (fun s =>
      let rising := d.raw
      let acc := acceptTick s k
      let stamp := acceptStamp r acc
      let s1 := modDig k (fun d =>
        let d1 := countEdge r rising acc stamp { d with filt := rising, edges := d.edges + 1 }
        if rising then { d1 with lastRise := some stamp, riseRep := some stamp } else { d1 with lastFall := some stamp, fallRep := some stamp }) s
      let named := chEdgerec r == 3 || (if rising then chEdgerec r == 1 else chEdgerec r == 2)
      let s2 := if named && chFunc r != .cnt then queueEvtAt stamp tile 0 (chanIn k).val rising s1 else s1
      edgeAtGrid acc k rising (if chFunc r = .nam then s2 else comparatorSet k true rising s2)) s

/-! ## What a set does (R21, R411) -/

/-- A committed channel value: it stands beneath FBVAL while group fallback holds (R322), waits for the restore of a rejoined member's channels at
the same T_E (R320), and reaches a tile that is not LIVE when it is
restored (R49). A NaN that keeps the present output is recorded (R112). A word that the tile refuses changes nothing (R172). -/
def writeChan (k : Fin 96) (v : Word) (s : State) : State :=
  if driveOf s k.val (castRec s k.val) v = .keep then recordGeneric 1 k.val s
  else if wordRefused (castRec s k.val) v then s
  else
    let s1 := modChan k (fun c => { c with com := some v }) s
    if (s.chan.get k).lev.l7fb || (s.chan.get k).lev.grpFb || (s.tile.get (tileOf k)).state != .live || !linkUp s (tileOf k) then s1
    else modLev k (fun l => { l with l7 := driveOf s k.val (tileRec s k) v }) s1

/-- A committed MODE: TRACK is refused and recorded (R289); values above 3 do nothing (log entry 22). -/
def writeMode (b : Fin 48) (v : Word) (s : State) : State :=
  if v = 3 then recordGeneric 5 b.val s
  else if v.toNat < 3 then modLoop b (fun l => { l with want := v.toNat }) s
  else s

/-- A committed write of one tag, under the record against which it was checked (R446). -/
def writeTag (r : Rec) (v : Word) (tick : Nat) (s : State) : State :=
  let n := tagNum r
  let s1 := if tagKind r != 1 && tagRec s (tagIndex r) = some r then { s with ep := { s.ep with ctl := insertK (tagIndex r) v s.ep.ctl } } else s
  match tagKind r with
  | 1 => match asFin 96 n with | some k => writeChan k v s1 | none => s1
  | 3 => match asFin 96 n with | some l => laneCtl l v tick s1 | none => s1
  | 4 => match asFin 8 n with
    | some x => if tagSub r = 7 then setOffset x v true tick s1 else if tagSub r = 8 then stopCtl x v s1 else s1
    | none => s1
  | 5 => match asFin 48 n with
    | some b =>
      (match tagSub r with
        | 3 => modLoop b (fun l => { l with sp := v }) s1
        | 4 => modLoop b (fun l => { l with mv := v }) s1
        | 5 => writeMode b v s1
        | _ => s1)
    | none => s1
  | 6 => match asFin 96 n with
    | some i => (match totRec s1 n with | some q => if tagSub r = 0 then presetTot i q v s1 else s1 | none => s1)
    | none => s1
  | 7 => if tagSub r = 1 && v = 1 then resume n s1 else s1
  | _ => s1

/-- A channel that waits for its acknowledgement is released (R44); nothing reaches a tile whose link is silent (R14). -/
def ackChan (k : Fin 96) (s : State) : State :=
  if tileReached s (tileOf k) then ackLevels k s else s

/-- An override set or released, at the hub and at T_E in the tile (Table 01-3, R68). A NaN that keeps the present output is recorded
(R112). -/
def setOvr (k : Fin 96) (v : Option Word) (s : State) : State :=
  let d := v.map (driveOf s k.val (tileRec s k))
  let s1 := if d = some .keep then recordGeneric 1 k.val s else s
  let up := tileReached s (tileOf k)
  if v.any (wordRefused (castRec s k.val)) then s
  else modChan k (fun c => { c with ovr := v, lev := if up then { c.lev with l5 := d } else c.lev }) s1

/-! ## Couch at T_E0 and T_(EC+1) (R376 to R378) -/

/-- Every tile of this member is LIVE. -/
def allLive (s : State) : Bool := s.tile.list.all fun t => t.state == .live

/-- This member's seat, 0 for A and 1 for B. -/
def ownSeat (s : State) : Nat := s.pwr.straps.pairId

/-- The code of Table 11-9 that refuses a couch at the ACTIVE member; none when it begins. BUSY is judged first, then SAMESEAT, NOTARMED
and NOTLIVE (log entry 28); of the partner's tiles its SYNCED bit speaks. A couch that is refused never begins, and ends no other (DEDUCED, log
entry 141). -/
def couchRefusal (seat : Nat) (s : State) : Option Nat :=
  let p := s.pair.partner
  if s.pair.couch.isSome then some 3
  else if seat = ownSeat s then some 2
  else if !(match p with | some p => p.armed | none => false) then some 1
  else if !allLive s || !(match p with | some p => p.synced | none => false) then some 4
  else none

/-- Both members enter COUCH: trims disarmed, the outgoing member with the whole share, HART turns to end. -/
def enterCouch (incoming : Bool) (e : Nat) (w : Option WorkRef) (s : State) : State :=
  let s1 := disarm s
  let s2 := { s1 with pair := { s1.pair with state := .couch, couch := some { e0 := e, incoming := incoming, w := w } } }
  forEach allChans (fun k s => modHart k (fun h => { h with couchHold := incoming || h.turn.isNone }) s) (setShares (some (if incoming then 0 else 8)) s2)

/-- A committed couch at T_E0. -/
def startCouch (seat e : Nat) (w : WorkRef) (s : State) : State :=
  if s.pair.state = .standby then
    (if s.pair.armed && seat = ownSeat s && s.pair.couch.isNone && allLive s then enterCouch true e (some w) s else s)
  else match couchRefusal seat s with
    | some c => finishDone w c (recordPair 3 c s)
    | none => enterCouch false e (some w) (cchSend 1 e (epochHalf s e / 2).toNat seat s)

/-- The slowest AIV or TC conversion period times three, in half-ns (R377). -/
def settleSpan (s : State) : Nat :=
  (allChans.map fun k =>
    let r := castRec s k.val
    if chFunc r = .aiv || chFunc r = .tc then 6000000000 / chRate r else 0).foldl max 0

/-- The outgoing member names t_C once every HART turn under way at T_E0 has ended and the inputs have settled (R377). -/
def chooseEc (e : Nat) (s : State) : State :=
  match s.pair.couch with
  | none => s
  | some c =>
    let ready := allChans.all (fun k => (s.chan.get k).hart.turn.isNone) && decide (epochHalf s c.e0 + settleSpan s ≤ epochHalf s (e + 1))
    if !c.incoming && c.ec.isNone && decide (c.e0 < e) && ready then
      let tc := (epochHalf s (e + 1)).toNat + us 30
      cchSend 2 (e + 1) (tc / 2) 0 { s with pair := { s.pair with couch := some { c with ec := some (e + 1), tc := some tc } } }
    else s

/-- Roles exchange at T_(EC+1): the new ACTIVE member sends TAKEN, the other is STANDBY and SYNCED: it holds the journal whose writer it was, and
every item of the work it drove (Table 11-10). HART goes on where its window has ended already (R154). -/
def exchange (e : Nat) (s : State) : State :=
  match s.pair.couch with
  | none => s
  | some c =>
    if c.step = 8 && c.ec = some (e - 1) && 0 < e then
      let tick := (epochTick s e).toNat
      let s1 := finishCouch 0 (if c.incoming then s else cchSend 3 e (epochHalf s e / 2).toNat 0 s)
      let s2 := { s1 with pair := { s1.pair with
        couch := none
        state := if c.incoming then .active else .standby
        synced := !c.incoming
        items := if c.incoming then s1.pair.items else usedItems s1
        armed := false
        partnered := false
        actSince := if c.incoming then e else s1.pair.actSince }
                          host := if c.incoming then s1.host else { s1.host with jnl := { s1.host.jnl with acked := s1.host.jnl.head } }
                          net := if c.incoming then { s1.net with lseq := ((s1.pair.partner.map (·.lfseq)).getD 0 + 65536) % 2 ^ 22 } else s1.net }
      let s3 := setShares none (everyTileRole (!c.incoming) false s2)
      let s4 := sendRoles (!c.incoming) false tick s3
      forEach allChans hartResume (if c.incoming then cchSend 0x11 e (epochHalf s e / 2).toNat 0 s4 else s4)
    else s

/-! ## Applying (R21, R30, R444, R446) -/

/-- One item but an activation. -/
def applyItem (e tick : Nat) (i : SetItem) (s : State) : State :=
  match i.act with
  | .tag r v => writeTag r v tick s
  | .ack k => ackChan k s
  | .ovr k v => setOvr k (some v) s
  | .ovrel k => setOvr k none s
  | .couch seat => startCouch seat e i.w s
  | .activate => s
  | .revert => s

/-- The channel whose levels a set item changes. -/
def itemChan : SetAct → Option (Fin 96)
  | .tag r _ => if tagKind r = 1 then asFin 96 (tagNum r) else none
  | .ack k => some k
  | .ovr k _ => some k
  | .ovrel k => some k
  | _ => none

/-- The items of some sets, in order (R411, R412); the terminals follow once every source of the cycle has changed (R27). -/
def applySets (e : Nat) (l : List CSet) (s : State) : State :=
  let items := l.flatMap (·.items)
  let s1 := forEach items (applyItem e (epochTick s e).toNat) s
  forEach (allChans.filter fun k => items.any fun i => itemChan i.act == some k) refresh s1

/-- The sets of a group that apply together at `e`, and those that move because an activation would meet older sets (R446). -/
def splitSets (l : List CSet) : List CSet × List CSet :=
  match l.findIdx? (fun c => c.items.any fun i => isSwitch i.act) with
  | some (n + 1) => (l.take (n + 1), l.drop (n + 1))
  | _ => (l, [])

/-- A group's sets taken out for epoch `e`; what stays behind moves on as one deferral. -/
def takeSets (g e : Nat) (s : State) : List CSet × State :=
  let (now, later) := splitSets (dueSets s g e)
  let due (c : CSet) : Bool := c.group == g && decide (c.epoch ≤ e)
  let s1 := { s with ep := { s.ep with
    sets := s.ep.sets.filter fun c => !due c
    held := s.ep.held.filter (fun c => c.group != g) ++ later } }
  if later.isEmpty then (now, s1)
  else (now, forEach (worksOf later) (deferWork (e + 1))
    (recordGroup g 1 e [] (modGroup g (fun x => { x with consec := x.consec + 1, total := x.total + 1 }) s1)))

/-- The sets of several groups taken out, in the groups' order. -/
def takeAll (e : Nat) : List Nat → State → List CSet × State
  | [], s => ([], s)
  | g :: gs, s =>
    let (a, s1) := takeSets g e s
    let (b, s2) := takeAll e gs s1
    (a ++ b, s2)

/-- DONE of a work whose set applied at `e`: RESTOREACK answers the channels that waited; couches and activations complete by their own
rules (R30, R376, R447). -/
def doneWork (e : Nat) (before : State) (l : List SetItem) (r : WorkRef) (s : State) : State :=
  let mine := l.filter fun i => i.w == r
  let own := mine.any fun i => match i.act with | .couch _ => true | a => isSwitch a
  let waited := (mine.filter fun i => match i.act with | .ack k => (before.chan.get k).lev.ackWait | _ => false).length
  if own then s else finishWith r 0 e waited 0 0 [] s

/-- The groups whose sets apply at `e`: IN, with COMMIT (R315, Table 09-3). -/
def committing (e : Nat) (s : State) : List Nat :=
  (s.ep.groups.filter fun g => g.state == 2 && (match g.verdict with | some v => v.epoch == e && v.commit | none => false)).map (·.num)

/-- Everything that applies at T_E: deferred sets from before an activation, the switch of image, then the epoch's own sets. -/
def applyAll (e : Nat) (s : State) : State :=
  let gs := committing e s
  let (sets, s1) := takeAll e gs s
  let items := sets.flatMap (·.items)
  let switch := items.find? fun i => isSwitch i.act
  let isSet (c : CSet) : Bool := c.items.any fun i => isSwitch i.act
  let early (c : CSet) : Bool := switch.isSome && decide (c.epoch < e) && !isSet c
  let (first, rest) := (sets.filter early, sets.filter fun c => !early c)
  let s2 := applySets e first s1
  let s3 := match switch with
    | some i =>
      (match (if i.act = .revert then s2.img.lastGood else s2.img.maq) with
        | some new => activate new (i.act == .revert) e i.w s2
        | none => s2)
    | none => s2
  let s4 := applySets e rest s3
  let s5 := forEach (worksOf sets) (doneWork e s items) s4
  let applied := gs.filter fun g => sets.any fun c => c.group == g && !c.items.isEmpty
  let s6 := forEach applied (fun g s => journal 6 (leBytes 2 g ++ [0, 0] ++ leBytes 6 e ++ List.replicate 6 0) s) s5
  { s6 with
    plinth := if applied.isEmpty then s6.plinth else { s6.plinth with lastEpoch := e }
    flt := if gs.isEmpty then s6.flt else { s6.flt with firstCommit := match s6.flt.firstCommit with | some t => some t | none => some s6.now } }

/-! ## Groups at T_E -/

/-- A JOINING member that is ready for `e` is IN for it; SPLIT is recorded where the epoch before passed without a verdict (R311, R316). -/
def enterIn (e : Nat) (x : Group) (s : State) : State :=
  let s1 := if x.state = 1 && fixedReady x e then modGroup x.num (fun x => { x with state := 2 }) s else s
  let commit := match x.verdict with | some v => v.epoch == e && v.commit | none => false
  match x.noVerdict with
  | some n => if commit then recordGroup x.num 4 n [] (modGroup x.num (fun x => { x with noVerdict := none }) s1) else s1
  | none => s1

/-- Sets that a COMMIT passed over because this member is not IN move on (Table 09-3, R319). -/
def passOver (e : Nat) (x : Group) (s : State) : State :=
  if x.state != 2 && (s.ep.sets.any fun c => c.group == x.num && decide (c.epoch ≤ e)) then holdSets x.num e s else s

/-- After the sets: exclusion's fallback, a rejoined member's restore, HSPOL and RDDONE (R319 to R321). `before` is the state before the sets: a
host silence that a RESUME has just ended does not begin again with the same verdict (R321, R323). -/
def afterSets (e : Nat) (before : State) (g : Nat) (s : State) : State :=
  match groupOf s g with
  | none => s
  | some x =>
    let v := match x.verdict with | some v => if v.epoch = e then some v else none | none => none
    let has (f : Verdict → Bool) : Bool := match v with | some v => f v | none => false
    let s1 := if x.state = 3 && has (·.exclude) && !x.safe then forEach (groupChans s g) (groupFall false) s else s
    let s2 := if x.rejoin && x.state = 2 then
        let t := modGroup g (fun x => { x with rejoin := false }) s1
        if x.safe then t else forEach ((groupChans t g).filter fun k => (t.chan.get k).lev.grpFb) groupRestore t
      else s1
    let was := match groupOf before g with | some y => y.applied | none => false
    let begins := !x.applied && !was && (if g = ownGroup then x.silence else has (·.silent))
    let s3 := if begins then applyHspol g s2 else s2
    if (x.applied || begins) && !x.safe && hsRundown s g && has (·.rdDone) then applyRdDone g s3 else s3

/-- Readiness for the next epoch fixed (R314); a LAGGING member with 16 ready epochs is IN again (R320). The own group's verdict is its
readiness. -/
def fixReady (e : Nat) (g : Nat) (s : State) : State :=
  match groupOf s g with
  | none => s
  | some x =>
    let back := x.state = 3 && decide (16 ≤ x.readyRun)
    let s1 := if back then recordGroup g 3 (e + 1) [grpSelf s] (modGroup g (fun x => { x with state := 2, rejoin := true, readyRun := 0 }) s) else s
    match groupOf s1 g with
    | none => s1
    | some y =>
      let ok := readyNow s1 y e
      let s2 := modGroup g (fun x => { x with ready := some (e, ok) }) s1
      if g = ownGroup then
        let v : Verdict := { epoch := e, commit := ok, silent := y.silence, exclude := false, rdDone := y.silence && !(hsRundown s1 g && rundownPending s1 g) }
        let s3 := modGroup g (fun x => { x with verdict := some v, consec := if ok then 0 else x.consec }) s2
        if ok then s3 else deferEpoch g e [grpSelf s] s3
      else s2

/-- The tokens that this member launches for an epoch (R315). -/
def launchAll (e : Nat) (s : State) : State :=
  let mine := s.ep.groups.filter fun x => x.num != ownGroup && isLeader s x && grpHas (grpRec s x.num) (grpSelf s) && !mute s
  forEach (mine.map (·.num)) (fun g s => launch g e s) s

/-! ## What else an epoch moves -/

/-- Every group's bound judged against the P in force: one that does not fit defers (R297). -/
def judgeBounds (s : State) : State :=
  { s with ep := { s.ep with groups := s.ep.groups.map fun g => { g with
      tight := g.num != ownGroup && !boundFits s.ep.p (grpMembers (grpRec s g.num)) } } }

/-- A change of period at its change epoch (R297). -/
def changePeriod (s : State) : State :=
  let p := s.ep
  let tec := epochHalf s p.ec
  if p.pchg && decide (tec ≤ (sysHalf s : Int)) then
    { s with ep := { p with t0 := tec / 2 - (p.ec : Int) * (p.pn : Int) * 1000, p := p.pn, pchg := false } }
  else s

/-- The copy of the engines that a rehearsal starts with: as the maquette's activation would leave them (R445, log entry 148). -/
def rehBegin (s : State) : Option Reh :=
  s.img.maq.map fun i => { eng := (enginesAfresh s.img.cast i s).eng, absent := rehAbsent s i }

/-- The maquette's tags at T_E, and the channels that differ so far. -/
def rehBoundary (e : Nat) (s : State) : State :=
  let s1 := beside (fun s => latch e (settle s)) s
  match rehOf s with
  | none => s
  | some _ => { s with reh := s1.reh.map fun h => { h with differ := h.differ ++ (allChans.filter fun k =>
      !h.differ.contains k.val && rehDiffers h s (fun k a d => reflexDrive s k a d) k).map (·.val) } }

/-- The rehearsal's epochs: it begins at the first boundary and ends after N more (R440). -/
def rehearseTick (e : Nat) (s : State) : State :=
  if s.img.maqState != .rehearsing || s.img.rehearser.isNone || s.img.rehearseEnd.isSome then s
  else if s.img.rehearseFirst = 0 then { s with img := { s.img with rehearseFirst := e }, reh := rehBegin s }
  else
    let n := s.img.rehearseLeft - 1
    { rehBoundary e s with img := { s.img with rehearseLeft := n, rehearseEnd := if n = 0 then some 0 else none, maqState := if n = 0 then .staged else .rehearsing } }

/-- Each port's load over the last epoch in percent of P; above 90 % its source is raised (R360, Table 15-1). -/
def portLoads (s : State) : State :=
  let above := (List.finRange 5).filter fun p => decide (9 * s.ep.p * 1000 < (s.net.port.get p).bytes * 8 * 10)
  let s1 := { s with net := { s.net with port := s.net.port.all fun p => { p with load := p.bytes * 800 / max 1 (s.ep.p * 1000), bytes := 0 } } }
  forEach above (fun p s => raise (portSource p) (recordPort p 5 (s.net.port.get p).load s)) s1

/-- The export lists take force (R563). -/
def exports (s : State) : State :=
  let img := ((List.range 32).map fun i => reg s (0x0C40 + 4 * i)).filterMap fun v => if bitOf v 15 then some (bits v 0 10) else none
  let axs := ((List.range 8).map fun i => reg s (0x0CC0 + 4 * i)).filterMap fun v => if bitOf v 31 then some (bits v 0 10, bits v 16 2) else none
  { s with net := { s.net with imgExp := img, axsExp := axs } }

/-- QUIET tiles drive from the first committed epoch of the own group (R34). -/
def quietLive (e : Nat) (s : State) : State :=
  if (committing e s).contains ownGroup then
    forEach ((List.finRange 12).filter fun t => (s.tile.get t).state == .quiet) (fun t s => if restorable s t then goLive t s else s) s
  else s

/-! ## The own image (Table 10-8) -/

/-- A record of the own image: no value reads 0 with ABSENT (log entry 29). -/
def ownRec (s : State) (idx : Nat) : Nat × Word × Word :=
  match tagAt s idx with
  | some r => (idx, r.value, r.csw)
  | none => (idx, 0, cswAbsent)

/-- A run under way: its first index and its records so far; frames are lists of runs. -/
structure ImgPack where
  frames : List (List (Nat × List (Word × Word)))
  runs : List (Nat × List (Word × Word))
  size : Nat
deriving DecidableEq, Repr

/-- One record added: to the present run, to a new run, or to a new frame of at most 1,520 B. -/
def packRec (p : ImgPack) (r : Nat × Word × Word) : ImgPack :=
  let joins := match p.runs.getLast? with | some u => u.1 + u.2.length == r.1 | none => false
  if joins && p.size + 8 ≤ 1520 then
    { p with runs := p.runs.dropLast ++ (p.runs.getLast?.map fun u => (u.1, u.2 ++ [r.2])).toList, size := p.size + 8 }
  else if p.size + 12 ≤ 1520 then { p with runs := p.runs ++ [(r.1, [r.2])], size := p.size + 12 }
  else { frames := p.frames ++ [p.runs], runs := [(r.1, [r.2])], size := 24 }

/-- The frames of an image. -/
def packAll (l : List (Nat × Word × Word)) : List (List (Nat × List (Word × Word))) :=
  let p := l.foldl packRec { frames := [], runs := [], size := 12 }
  if p.runs.isEmpty then p.frames else p.frames ++ [p.runs]

/-- Frames of the own image of the present epoch that have not been sent by its end: they are dropped (R354). -/
def imageFrames (s : State) : Nat := if s.ep.ownDone = s.ep.e || mute s then 0 else (packAll (s.ep.published.map (ownRec s))).length

/-- A frame of the own image that has not left its port. -/
def lateImage (s : State) (x : Sent) : Bool := x.own && sentKind x.bytes == 1 && waitsAt x.port s.now x

/-- Frames of the own image still waiting at the end of its epoch leave their queues; one of which no copy has left counts as dropped (R354). -/
def lateImages (s : State) : State :=
  let late := s.net.sent.filter (lateImage s)
  let left := s.net.sent.filter fun x => !lateImage s x
  let gone := (late.filter fun x => !left.any fun y => y.own && y.bytes.drop 2 == x.bytes.drop 2).map fun x => x.bytes.drop 2
  let again (p : Fin 5) (s : State) : State :=
    putQueue p.val p ((s.net.sent.filter (waitsAt p.val s.now)).filter fun x => !lateImage s x) s
  let s1 := forEach ((List.finRange 5).filter fun p => late.any fun x => x.port == p.val) again s
  { s1 with ep := { s1.ep with imgDropped := s1.ep.imgDropped + gone.eraseDups.length } }

/-- One tick of WDH (R501). -/
def wdhTick (s : State) : State :=
  { s with pwr := { s.pwr with wdh := if s.pwr.wdh.en then { s.pwr.wdh with t := s.pwr.wdh.t + 1 } else s.pwr.wdh } }

/-- Everything at T_E of epoch `e`. -/
def boundary (e : Nat) (s : State) : State :=
  let s := raiseDrops (lateImages s)
  let s0 := settle { s with ep := { s.ep with imgDropped := s.ep.imgDropped + imageFrames s } }
  let s1 := latch e (exchange e { s0 with ep := { s0.ep with e := e } })
  let s2 := forEach ((s1.ep.groups.filter fun x => lacksVerdict x e).map (·.num)) (fun g s => noVerdict g e s) s1
  let s3 := forEach s2.ep.groups (enterIn e) s2
  let s4 := forEach s3.ep.groups (passOver e) (applyAll e s3)
  let s5 := forEach (s4.ep.groups.map (·.num)) (afterSets e s1) s4
  let s6 := quietLive e s5
  let s7 := chooseEc e (exports (portLoads (rehearseTick e s6)))
  let s8 := wdhTick s7
  let s9 := forEach (s8.ep.groups.map (·.num)) (fixReady (e + 1)) s8
  launchAll (e + 1) (departAll (e + 1) (judgeBounds s9))

/-- The epoch number of the present instant (R296). -/
def epochNow (s : State) : Nat := gridEpoch s

/-- T_E of the own grid at a device that has not joined epochs: only WDH counts (R501). -/
def ownGrid (s : State) : State :=
  if s.pwr.wdhGrid < epochNow s then wdhTick { s with pwr := { s.pwr with wdhGrid := epochNow s } } else s

/-- EPOCH_BOUNDARY: a device that counts epochs, at the T_E that follows its present epoch (R18, R298). -/
def execEpochBoundary (t : Time) (s : State) : Out :=
  let s := s.at_ t
  let s1 := changePeriod s
  if s.ep.counting then when (hubUp s && decide (s.ep.e < epochNow s1)) (fun _ => withHref (boundary (epochNow s1)) s1) s
  else when (hubUp s) (fun _ => ownGrid s1) s

/-- COMMIT_SET_CLOSE: at T_(E−1) − GUARD the set of E closes (R313). -/
def execCommitSetClose (t : Time) (s : State) : Out :=
  let s := s.at_ t
  when (hubUp s && s.ep.counting && decide (epochHalf s (s.ep.e + 1) - (guardHalf s : Int) ≤ (sysHalf s : Int)))
    (fun s => { s with ep := { s.ep with closed := s.ep.e + 2 } }) s

/-! ## Loading (R315, Table 09-4) -/

/-- The level-7 value and the override action of each channel in some items; the last of each stands. -/
def loadOf (l : List SetItem) : List (Nat × Word) × List (Nat × Option Word) :=
  l.foldl (fun a i =>
    match i.act with
    | .tag r v => if tagKind r = 1 then (insertK (tagNum r) v a.1, a.2) else a
    | .ovr k v => (a.1, insertK k.val (some v) a.2)
    | .ovrel k => (a.1, insertK k.val none a.2)
    | _ => a) ([], [])

/-- One committed value as a timed command in slot 1, stamped T_E, under the handle of its channel-in-tile. -/
def loadValue (tick : Nat) (x : Nat × Word) (s : State) : State :=
  match asFin 96 x.1 with
  | some k =>
    if !laneLive s k || (s.chan.get k).lev.l7fb then s
    else match wordSet s k.val (tileRec s k) x.2 with
      | some v => tileSend (tileOf k) 1 (chanIn k).val 1 (chanIn k).val tick v s
      | none => s
  | none => s

/-- One override or its release in the MGT slot with handle 0 (R68). -/
def loadOvr (tick : Nat) (x : Nat × Option Word) (s : State) : State :=
  match asFin 96 x.1 with
  | some k =>
    if !laneLive s k then s
    else match x.2 with
      | none => tileSend (tileOf k) 15 (chanIn k).val 5 0 tick 0 s
      | some v => match wordSet s k.val (tileRec s k) v with
        | some n => tileSend (tileOf k) 15 (chanIn k).val 1 0 tick n s
        | none => s
  | none => s

/-- COMMIT_LOAD: at T_E − 84 µs the sets of committing groups go to the tiles; with an activation they apply from the new bank at T_E
(R444). -/
def execCommitLoad (t : Time) (s : State) : Out :=
  let s := s.at_ t
  let e := s.ep.e + 1
  when (hubUp s && s.ep.counting && s.ep.loaded != e && decide (epochHalf s e ≤ (sysHalf s + us 84 : Nat)))
    (fun s =>
      let joins := (s.ep.groups.filter fun g => g.state == 1 && fixedReady g e).map (·.num)
      let s0 := forEach joins (modGroup · fun g => { g with state := 2 }) s
      let items := ((committing e s0).flatMap fun g => (splitSets (dueSets s g e)).1).flatMap (·.items)
      let tick := (epochTick s e).toNat
      let s1 := { s with ep := { s.ep with loaded := e } }
      if items.any fun i => isSwitch i.act then s1
      else let (v, o) := loadOf items; forEach o (loadOvr tick) (forEach v (loadValue tick) s1)) s

end Sys2Proof.Machine
end

