-- ==== Sys2Proof/Machine/Container.lean ====
section
/-! DEFINITION. The container of an image: its bytes, header, directory and sections, its identity and signature, and the checks of
staging classes 1 and 2 (R422 to R430, R450, R611). -/

namespace Sys2Proof.Machine

open Sys2Proof

/-! ## Bytes and sections -/

/-- The bytes of a partition from address `a`: `n` of them, an unlisted one 0. -/
def flatBytes : Nat → Nat → List Host.Cell → List Byte
  | _, 0, _ => []
  | _, n + 1, [] => List.replicate (n + 1) 0
  | a, n + 1, (k, b) :: rest => if k = a then b :: flatBytes (a + 1) n rest else 0 :: flatBytes (a + 1) n ((k, b) :: rest)

/-- 32 MiB (R422). -/
def imageMax : Nat := 33554432

/-- TOTLEN of an image (Table 13-1). -/
def totLen (b : List Byte) : Nat := u32 b 8

/-- The image that a partition holds, TOTLEN bytes; none where MAGIC or TOTLEN cannot be read (NOIMAGE, Table 13-8). -/
def imageBytes (m : List Host.Cell) : Option (List Byte) :=
  let h := cellReads m 0 64
  if u32 h 0 != 0x4C524943 || totLen h == 0 then none else some (flatBytes 0 (max 64 (min (totLen h) imageMax)) m)

/-- A directory entry (Table 13-2). -/
structure DirEnt where
  code : Nat
  off : Nat
  len : Nat
  nrec : Nat
deriving DecidableEq, Repr

/-- The directory: NSECT entries from offset 64, at most 16. -/
def directory (b : List Byte) : List DirEnt :=
  (List.range (min 16 (u16 b 14))).map fun i =>
    { code := u16 b (64 + 16 * i), off := u32 b (68 + 16 * i), len := u32 b (72 + 16 * i), nrec := u32 b (76 + 16 * i) }

/-- The entry of a section; an absent section has length 0. -/
def section_ (b : List Byte) (code : Nat) : DirEnt :=
  ((directory b).find? fun d => d.code == code).getD { code := code, off := 0, len := 0, nrec := 0 }

/-- Image offset of a field of a section's directory entry. -/
def dirField (b : List Byte) (code o : Nat) : Nat :=
  match (directory b).findIdx? fun d => d.code == code with
  | some n => 64 + 16 * n + o
  | none => 0xFFFFFFFF

/-- `n` records of `size` bytes from the front of a list. -/
def chunk (size : Nat) : Nat → List Byte → List Rec
  | 0, _ => []
  | n + 1, l => l.take size :: chunk size n (l.drop size)

/-- Record size of a section's primary records (Table 14-1). -/
def recSize (code : Nat) : Nat :=
  match code with
  | 0x08 => 48 | 0x0A => 16 | 0x0B => 192 | 0x0C => 16 | 0x0D => 32 | 0x0F => 96 | 0x10 => 32 | 0x11 => 32 | 0x03 => 32
  | 0x12 => 256 | _ => 64

/-- Entry size of a section's second table; 0 where it has none (Table 14-1). -/
def entSize (code : Nat) : Nat :=
  match code with
  | 0x06 => 16 | 0x07 => 16 | 0x0D => 32 | _ => 0

/-- Primary records that the section's LENGTH has room for, at most NREC. -/
def primCount (d : DirEnt) : Nat := min d.nrec (d.len / recSize d.code)

/-- The primary records of a section. -/
def primary (b : List Byte) (code : Nat) : List Rec :=
  let d := section_ b code
  chunk (recSize code) (primCount d) (b.drop d.off)

/-- Entries of a section's second table (R450). -/
def entCount (d : DirEnt) : Nat := if entSize d.code = 0 then 0 else (d.len - d.nrec * recSize d.code) / entSize d.code

/-- The second table of a section. -/
def second (b : List Byte) (code : Nat) : List Rec :=
  let d := section_ b code
  chunk (entSize code) (entCount d) (b.drop (d.off + d.nrec * recSize code))

/-- Offset of the SIG section: the length of the signed range (R425). -/
def sigOff (b : List Byte) : Nat := (section_ b 0x12).off

/-- IMGID as R425 computes it. -/
def imageId (b : List Byte) : List Byte := sha256 (b.take (sigOff b))

/-- An image decoded: its records by section. -/
def decodeImage (b : List Byte) : Image :=
  let ch := primary b 0x04
  { id := imageId b
    hdr := b.take 64
    claim := primary b 0x03
    chan := ch.take 96
    tile := (ch.drop 96).take 12
    prof := primary b 0x05
    tlane := primary b 0x06
    tent := second b 0x06
    clane := primary b 0x07
    cent := second b 0x07
    tref := primary b 0x08
    href := primary b 0x09
    safe := primary b 0x0A
    grp := primary b 0x0B
    tag := primary b 0x0C
    plan := primary b 0x0D
    item := second b 0x0D
    axis := primary b 0x0E
    loop := primary b 0x0F
    diag := primary b 0x10
    pair := (primary b 0x11).headD [] }

/-! ## Findings -/

/-- An error at an image offset. -/
def errAt (code off : Nat) : Finding := { code := code, cls := code / 256, offset := off }

/-- An error at an offset where a condition fails. -/
def failIf (c : Bool) (code off : Nat) : List Finding := if c then [errAt code off] else []

/-- RESERVED for each byte of a range that is not 0 (R10). -/
def reserved (b : List Byte) (off n owner : Nat) : List Finding :=
  ((List.range n).filter fun i => u8 b (off + i) != 0).map fun i => { errAt 0x103 (off + i) with ownerA := owner }

/-! ## Class 1: header and directory (R422 to R424) -/

/-- Required sections. -/
def requiredSections : List Nat := [0x03, 0x04, 0x0C, 0x12]

/-- Checks of the header. -/
def headerFindings (b : List Byte) : List Finding :=
  let flags := u16 b 6
  let any := bitOf flags 0
  failIf (u16 b 4 != 1) 0x101 4
    ++ failIf (flags / 4 != 0) 0x103 6
    ++ failIf (any && bitOf flags 1) 0x102 6
    ++ failIf (totLen b % 64 != 0 || imageMax < totLen b || totLen b != sigOff b + 256) 0x101 8
    ++ failIf (!any && bits (u16 b 12) 10 6 != 0) 0x101 12
    ++ failIf (u16 b 14 < 4 || 16 < u16 b 14) 0x101 14
    ++ reserved b 49 15 0

/-- Checks of one directory entry against those before it. -/
def entryFindings (b : List Byte) (i : Nat) (prev : Option DirEnt) (d : DirEnt) : List Finding :=
  let at_ := 64 + 16 * i
  let first := 64 + 16 * min 16 (u16 b 14)
  let start := match prev with | some p => max first (p.off + p.len) | none => first
  let same := ((directory b).take i).any fun p => p.code == d.code
  let below := match prev with | some p => decide (d.code < p.code) | none => false
  failIf (d.code < 3 || 0x12 < d.code || same) 0x102 at_
    ++ failIf (below && !same) 0x101 at_
    ++ failIf (d.code == 0x11 && !bitOf (u16 b 6) 1) 0x102 at_
    ++ reserved b (at_ + 2) 2 0
    ++ failIf (d.off % 64 != 0 || d.off < start || totLen b < d.off + d.len) 0x101 (at_ + 4)
    ++ failIf (d.len == 0 || d.code == 0x12 && d.len != 256) 0x101 (at_ + 8)
    ++ failIf (d.nrec == 0 && !requiredSections.contains d.code) 0x102 at_

/-- Checks of the directory from entry `i` on. -/
def dirFindings (b : List Byte) : Nat → Option DirEnt → List DirEnt → List Finding
  | _, _, [] => []
  | i, prev, d :: rest => entryFindings b i prev d ++ dirFindings b (i + 1) (some d) rest

/-- A required section that is missing, a missing PAIR section, and a last section that is not SIG. -/
def missingFindings (b : List Byte) : List Finding :=
  let codes := (directory b).map (·.code)
  let need := requiredSections ++ if bitOf (u16 b 6) 1 then [0x11] else []
  ((need.filter fun c => !codes.contains c).map fun _ => errAt 0x102 0xFFFFFFFF)

/-- Bytes between the directory and the first section, between sections and behind the last. -/
def gapFindings (b : List Byte) : Nat → List DirEnt → List Finding
  | from_, [] => reserved b from_ (totLen b - from_) 0
  | from_, d :: rest => reserved b from_ (d.off - from_) 0 ++ gapFindings b (max from_ (d.off + d.len)) rest

/-- Reserved bytes of one record: offset and count, from Tables 13-4, 13-6 and 14-5 to 14-20. -/
def reservedFields (code i : Nat) (r : Rec) : List (Nat × Nat) :=
  match code with
  | 0x03 => [(9, 3)]
  | 0x04 => if 96 ≤ i then [(16, 48)] else []
  | 0x05 => [(3, 1), (60, 4)]
  | 0x06 => [(7, 1), (56, 8)]
  | 0x07 => [(7, 1), (56, 8)]
  | 0x08 => [(5, 1), (10, 6)]
  | 0x09 => [(12, 4), (56, 8)]
  | 0x0A => [(12, 4)]
  | 0x0B => [(36, 28)]
  | 0x0C => [(10, 6)]
  | 0x0D => [(16, 16)]
  | 0x0E => [(36, 28)]
  | 0x0F => if lpRtype r = 0 then [(10, 2), (88, 8)] else []
  | 0x10 => [(24, 8)]
  | 0x11 => [(7, 1), (24, 8)]
  | 0x12 => [(160, 96)]
  | _ => []

/-- Owner reference of a record (section "Container"). -/
def ownerRef (code i : Nat) : Nat := code * 2 ^ 24 + i

/-- RESERVED findings of the records of a section, and of its schedule entries (Table 14-8). -/
def recordReserved (b : List Byte) (d : DirEnt) : List Finding :=
  let rows := (primary b d.code).zipIdx.flatMap fun (r, i) =>
    (reservedFields d.code i r).flatMap fun (o, n) => reserved b (d.off + i * recSize d.code + o) n (ownerRef d.code i)
  let base := d.off + d.nrec * recSize d.code
  let ents := if d.code = 0x06 || d.code = 0x07 then
      (List.range (entCount d)).flatMap fun i => reserved b (base + 16 * i + 13) 3 0
    else []
  rows ++ ents

/-- Every failure of class 1. -/
def containerFindings (b : List Byte) : List Finding :=
  headerFindings b ++ dirFindings b 0 none (directory b) ++ missingFindings b
    ++ gapFindings b (64 + 16 * (directory b).length) (directory b)
    ++ (directory b).flatMap (recordReserved b)

/-! ## Class 2: authority (R426, R427, R429, R430) -/

/-- The 64 key bytes QX and QY of the SIG section. -/
def sigKey (b : List Byte) : List Byte := slice b (sigOff b) 64

/-- The key is in a slot that is written and not revoked (R427). -/
def keyOk (s : State) (b : List Byte) : Bool :=
  s.sec.ikey.list.any fun k => !k.revoked && k.digest == some (sha256 (sigKey b))

/-- The signature is good (R426). -/
def signatureOk (b : List Byte) : Bool :=
  let o := sigOff b
  slice b (o + 128) 32 == imageId b &&
    ecdsaVerify (uN b o 32, uN b (o + 32) 32) (b.take o) (uN b (o + 64) 32) (uN b (o + 96) 32)

/-- R426 and R427: none when both hold, else KEY or SIGNATURE. -/
def verifyCode (s : State) (b : List Byte) : Option Nat :=
  if !keyOk s b then some 0x200 else if !signatureOk b then some 0x201 else none

/-- What R361 asks of an image and the seat: a PAIRED image needs PAIRID A or B, an image without PAIR needs SOLO; the seat's physical
number is the device's own. A coupler, which cannot be a pair member (R363), is refused in the same way (DEDUCED, log entry 143). -/
def seatFinding (s : State) (b : List Byte) : List Finding :=
  let id := s.pwr.straps.pairId.val
  if !bitOf (u16 b 6) 1 then failIf (id != 2) 0x205 6
  else
    let o := (section_ b 0x11).off
    if 2 ≤ id || s.net.coupler then [errAt 0x205 6]
    else failIf (u16 b (o + 2 + 2 * id) != s.net.num) 0x205 (o + 2 + 2 * id)

/-- Every failure of class 2. -/
def authorityFindings (s : State) (b : List Byte) : List Finding :=
  let paired := bitOf (u16 b 6) 1
  let dev := bits (u16 b 12) 0 10
  let fits := bitOf (u16 b 6) 0 || s.net.numValid && dev == s.net.num || (paired && u16 b (section_ b 0x11).off == dev)
  failIf (!keyOk s b) 0x200 (sigOff b)
    ++ failIf (!signatureOk b) 0x201 (sigOff b)
    ++ failIf (u32 b 16 < s.img.floor) 0x202 16
    ++ failIf (u32 b 16 < u32 b 20) 0x202 20
    ++ failIf (!fits) 0x203 12
    ++ failIf (Config.revId < u8 b 48) 0x204 48
    ++ seatFinding s b

end Sys2Proof.Machine
end

