-- ==== Sys2Proof/Machine/Cuts.lean ====
section
/-! DEFINITION. Epoch images and cuts (R299 to R307, R354, R417, R418). -/

namespace Sys2Proof.Machine

open Sys2Proof

/-! ## Images of an epoch -/

/-- One image queue changed. -/
def modIq (n : Fin 16) (f : IQ → IQ) (s : State) : State := { s with ep := { s.ep with iq := s.ep.iq.upd n f } }

/-- An image has every frame of its epoch, locked (R300). -/
def imageWhole (i : RImage) : Bool :=
  !i.unlocked && (match i.last with | some n => (List.range (n + 1)).all i.parts.contains | none => false)

/-- The number under which images are held: the attached device's own lie under its physical number, whatever number of its own or its pair's names
them (R300). -/
def imageKey (s : State) (dev : Nat) : Nat := if isSelf s dev then s.net.num else dev

/-- The image held of a device for an epoch. -/
def imageOf (s : State) (dev e : Nat) : Option RImage := s.ep.rimg.find? fun i => i.dev == imageKey s dev && i.epoch == e

/-- The read set of a queue (R417). -/
def readSet (q : IQ) : List Nat := (q.tags.map fun t => bits t.toNat 15 10).eraseDups

/-- A member has delivered an epoch (R300). -/
def delivered (s : State) (e d : Nat) : Bool :=
  match imageOf s d e with
  | some i => imageWhole i || isSelf s d
  | none => false

/-- A tag's value in the images of an epoch; a record marked ABSENT is none (log entry 29). -/
def valueAt (s : State) (e : Nat) (t : Word) : Option TagRec :=
  match tagParts t with
  | none => none
  | some (d, idx) =>
    if !delivered s e d then none
    else ((imageOf s d e).bind fun i => i.recs.find? fun r => r.1 == idx).bind fun r =>
      if r.2.2 &&& cswAbsent = 0 then some { value := r.2.1, csw := r.2.2, epoch := e } else none

/-- Images that no enabled queue still needs are dropped. -/
def dropImages (s : State) : State :=
  let need (i : RImage) : Bool := s.ep.iq.list.any fun q => q.en && decide (q.done < i.epoch) && (readSet q).any (fun d => imageKey s d == i.dev)
  { s with ep := { s.ep with rimg := s.ep.rimg.filter need } }

/-! ## One cut -/

/-- Register fields of an image queue. -/
def iqSize (s : State) (n : Nat) : Nat := 2 ^ bits (reg s (iqReg n + 0x10)) 0 4
def iqCr (s : State) (n : Nat) : Nat := bits (reg s (iqReg n + 0x10)) 8 6
def iqCutdl (s : State) (n : Nat) : Nat := bits (reg s (iqReg n + 0x18)) 0 20
def iqMaskhold (s : State) (n : Nat) : Nat := bits (reg s (iqReg n + 0x1C)) 0 16

/-- Bytes from one entry of a queue to the next (Table 12-3). -/
def iqEntry (q : IQ) : Nat := 64 * ((32 + 16 * q.tags.length + 63) / 64)

/-- The last-good record of a tag before an epoch: the newest that this device holds (R305, R306). -/
def lastGood (s : State) (q : IQ) (e : Nat) (t : Word) : Option TagRec :=
  let find (l : List (Word × TagRec)) : List TagRec := (l.filter fun x => x.1 == t).map (·.2)
  let own := match tagParts t with | some (d, idx) => if isSelf s d then (lookupO s.ep.tags idx).toList else [] | none => []
  (find q.lastGood ++ find s.ep.rlast ++ find s.ep.rprev ++ own).foldl (fun (a : Option TagRec) r =>
    if r.epoch < e then (match a with | some b => if b.epoch < r.epoch then some r else a | none => some r) else a) none

/-- The record of one tag as a mode presents it, and its count of substitutions (R305). -/
def present (s : State) (q : IQ) (masked : Bool) (hold e : Nat) (t : Word) : TagRec × Nat :=
  match valueAt s e t with
  | some r => (r, 0)
  | none =>
    if !masked then ({ value := 0, csw := cswAbsent, epoch := e }, 0)
    else match lastGood s q e t with
      | none => ({ value := 0, csw := 0, epoch := 0 }, 0)
      | some r =>
        let n := ((q.subst.find? fun x => x.1 == t).map (·.2)).getD 0 + 1
        ({ r with csw := if hold < n then r.csw &&& ~~~1#32 else r.csw }, n)

/-- A cut record (Table 09-1). -/
def recordBytes (t : Word) (r : TagRec) : List Byte := leBytes 4 t.toNat ++ leBytes 4 r.value.toNat ++ leBytes 4 r.csw.toNat ++ leBytes 4 r.epoch

/-- A cut with no free entry: skipped and counted (R307); the record's detail word is a free value (log entry 3). -/
def skipCut (n : Fin 16) (e : Nat) (s : State) : State :=
  let (v, s1) := freeW s
  record 0x0801 (srcOf 7 (0x200 + n.val)) 6 0 [v.toNat] (modIq n (fun q => { q with done := e, skips := (q.skips + 1) % 2 ^ 32, skipNow := true }) s1)

/-- Cut `e` written to its queue: records first, header last (R418). -/
def writeCut (n : Fin 16) (e : Nat) (s : State) : State :=
  let q := s.ep.iq.get n
  let masked := crMasked s (iqCr s n.val)
  let late := (readSet q).filter fun d => !delivered s e d
  let rows := q.tags.map fun t => (t, present s q masked (iqMaskhold s n.val) e t)
  let te := (epochHalf s e).toNat / 2
  let at_ := reg64 s (iqReg n.val) + q.wr * iqEntry q
  let flags := b2n q.phase + 2 * b2n (!late.isEmpty) + 4 * b2n q.skipNow
  let head := leBytes 6 e ++ [BitVec.ofNat 8 flags, 0] ++ leBytes 4 q.tags.length ++ leBytes 2 late.length ++ [0, 0] ++ leBytes 8 te ++
    leBytes 4 q.skips ++ leBytes 4 (min (sysNs s - te) 0xFFFFFFFF)
  let s1 := hostWrite at_ head (hostWrite (at_ + 32) (rows.flatMap fun x => recordBytes x.1 x.2.1) s)
  let wrap := q.wr + 1 = iqSize s n.val
  let good := rows.filterMap fun x => if (valueAt s e x.1).isSome then some (x.1, x.2.1) else none
  signal (bits (reg s (iqReg n.val + 0x10)) 16 6) (modIq n (fun q => { q with
    wr := if wrap then 0 else q.wr + 1
    used := q.used + 1
    phase := if wrap then !q.phase else q.phase
    skipNow := false
    done := e
    lastGood := good ++ q.lastGood.filter fun x => !good.any fun y => y.1 == x.1
    subst := rows.filterMap fun x => if x.2.2 = 0 then none else some (x.1, x.2.2) }) s1)

/-- Cut `e` delivered, or skipped where the queue has no free entry (R307). -/
def deliverCut (n : Fin 16) (e : Nat) (s : State) : State :=
  let q := s.ep.iq.get n
  if iqSize s n.val ≤ q.used then skipCut n e s else writeCut n e s

/-- The queue's next cut, once its time has come: every member has delivered, or the deadline (R301). -/
def cutDue (n : Fin 16) (s : State) : Bool :=
  let q := s.ep.iq.get n
  let e := q.done + 1
  q.en && hubUp s && decide (e ≤ s.ep.e) &&
    ((readSet q).all (delivered s e) || decide (epochHalf s e + (us (iqCutdl s n.val) : Int) ≤ (sysHalf s : Int)))

/-- Every cut of a queue that is due, in order. -/
def cutsDue : Nat → Fin 16 → State → State
  | 0, _, s => s
  | k + 1, n, s => if cutDue n s then cutsDue k n (deliverCut n ((s.ep.iq.get n).done + 1) s) else s

/-- A queue's cuts up to the present epoch, each delivered or skipped once it is due. -/
def cutsOf (n : Fin 16) (s : State) : State := cutsDue (s.ep.e - (s.ep.iq.get n).done) n s

/-- Every queue looked at, and spent images dropped. -/
def cutsAll (s : State) : State := dropImages (forEach (List.finRange 16) cutsOf s)

/-! ## IMG frames (Table 10-8) -/

/-- One IMG payload. -/
def imgBytes (e : Nat) (unlocked last : Bool) (part : Nat) (runs : List (Nat × List (Word × Word))) : List Byte :=
  leBytes 6 e ++ [BitVec.ofNat 8 (b2n unlocked + 2 * b2n last), BitVec.ofNat 8 part] ++ leBytes 2 runs.length ++ [0, 0] ++
    runs.flatMap fun u => leBytes 2 u.1 ++ leBytes 2 u.2.length ++ u.2.flatMap fun r => leBytes 4 r.1.toNat ++ leBytes 4 r.2.toNat

/-- IMG_SEND: from T_E + 25 µs the own image is complete; its frames leave before T_(E+1), and count as dropped where no ring takes them (R354). A member that does not drive its pair
sends none (R373). -/
def execImgSend (t : Time) (s : State) : Out :=
  let s := s.at_ t
  let e := s.ep.e
  let te := epochHalf s e
  when (hubUp s && s.ep.counting && s.ep.ownDone != e && decide (te + (us 25 : Nat) ≤ (sysHalf s : Int)) && decide ((sysHalf s : Int) < epochHalf s (e + 1)))
    (fun s =>
      let own : RImage :=
        { dev := s.net.num, epoch := e, parts := [0], last := some 0, unlocked := false,
          recs := s.ep.tags.filterMap fun x => if x.2.epoch = e then some (x.1, x.2.value, x.2.csw) else none }
      let s1 := { s with ep := { s.ep with ownDone := e, imgSent := e, rimg := s.ep.rimg ++ [own] } }
      let frames := packAll (s.ep.published.map (ownRec s))
      let send (x : Nat × List (Nat × List (Word × Word))) (s : State) : State :=
        castSend 1 scopeSeg (s.net.imgExp.contains (selfNum s)) (imgBytes e (!s.net.locked) (x.1 + 1 == frames.length) x.1 x.2) s
      let s2 :=
        if mute s then s1
        else if !netUp s then { s1 with ep := { s1.ep with imgDropped := s1.ep.imgDropped + frames.length } }
        else forEach ((List.range frames.length).zip frames) send s1
      cutsAll s2) s

/-- The records of an IMG payload's runs. -/
def imgRuns : Nat → List Byte → List (Nat × Word × Word)
  | 0, _ => []
  | k + 1, b =>
    let first := bits (u16 b 0) 0 15
    let n := u16 b 2
    (List.range n).map (fun i => (first + i, w32 b (4 + 8 * i), w32 b (8 + 8 * i))) ++ imgRuns k (b.drop (4 + 8 * n))

/-- IMG_FRAME_RECEIVED: a frame joins its image; its values are last-good from then on, late or not (R300, R306). An image sent UNLOCKED
counts as no value. -/
def execImgFrameReceived (t : Time) (src : Nat) (bytes : List Byte) (s : State) : Out :=
  let s := s.at_ t
  when (hubUp s && !isSelf s src)
    (fun s =>
      let e := uN bytes 0 6
      let unlocked := bitOf (u8 bytes 6) 0
      let part := u8 bytes 7
      let recs := imgRuns (u16 bytes 8) (bytes.drop 12)
      let i := (imageOf s src e).getD { dev := src, epoch := e, parts := [], last := none, unlocked := false, recs := [] }
      let j := { i with
        parts := part :: i.parts
        last := if bitOf (u8 bytes 6) 1 then some part else i.last
        unlocked := i.unlocked || unlocked
        recs := i.recs ++ recs }
      let fresh := if unlocked then [] else (recs.filter fun r => r.2.2 &&& cswAbsent == 0).map fun r =>
        ((BitVec.ofNat 32 (src * 32768 + r.1), { value := r.2.1, csw := r.2.2, epoch := e }) : Word × TagRec)
      let older (x : Word × TagRec) : Bool := !fresh.any fun y => y.1 == x.1 && decide (x.2.epoch ≤ y.2.epoch)
      let newer (y : Word × TagRec) : Bool := !s.ep.rlast.any fun x => x.1 == y.1 && decide (y.2.epoch < x.2.epoch)
      cutsAll { s with ep := { s.ep with
        rimg := j :: s.ep.rimg.filter fun x => !(x.dev == src && x.epoch == e)
        rlast := fresh.filter newer ++ s.ep.rlast.filter older
        rprev := s.ep.rlast.filter (fun x => !older x && !fresh.any fun y => y.1 == x.1 && y.2.epoch == x.2.epoch) ++
          s.ep.rprev.filter fun x => !s.ep.rlast.any fun y => y.1 == x.1 && !older y } }) s

/-- CUT_DEADLINE: T_E + CUTDL of the queue's next cut; members still missing are late (R301). -/
def execCutDeadline (t : Time) (iq : Fin 16) (s : State) : Out :=
  let s := s.at_ t
  when (cutDue iq s) (fun s => dropImages (cutsOf iq s)) s

end Sys2Proof.Machine
end

