-- ==== Sys2Proof/Machine/Pelrun.lean ====
section
/-! DEFINITION. The Pelrun network: ports, forwarding, time and heartbeats (R325 to R353). -/

namespace Sys2Proof.Machine

open Sys2Proof

/-! ## Ports (R327, R328) -/

/-- A port carries frames: it is UP or DEGRADED. -/
def portOn (s : State) (p : Fin 5) : Bool := (s.net.port.get p).state == 1 || (s.net.port.get p).state == 2

/-- The ring ports in use (Table 10-2). -/
def ringIn (s : State) : List (Fin 5) := if s.net.coupler then [0, 1, 2, 3] else [0, 1]

/-- A ring port is UP: the device leaves DOWN (Table 10-7). -/
def netRise (s : State) : State :=
  if s.net.state = 0 then { s with net := { s.net with state := if s.net.numValid then 2 else 1, listenAt := s.now } } else s

/-- PORT_UP. -/
def execPortUp (t : Time) (port : Fin 5) (held : Time) (s : State) : Out :=
  let s := s.at_ t
  when (hubAlive s && (s.net.port.get port).state == 0 && decide (ms 1 ≤ held) && !s.flt.blocks.any (fun b => b.1 == portSource port)
      && (port.val == 4 || (ringIn s).contains port))
    (fun s =>
      let s1 := recordPort port 1 (s.net.port.get port).bad (modPort port (fun p => { p with state := 1, errs := [] }) s)
      if port.val = 4 then s1 else netRise s1) s

/-- The device leaves a joined state: it takes part in epochs no longer and runs in holdover (R298, Table 10-7). -/
def netLeave (state : Nat) (s : State) : State :=
  { s with net := { s.net with state := state, holdover := s.ep.counting }, ep := { s.ep with joined := false, joinAt := none } }

/-- Every ring port is without synchronisation. -/
def ringsDown (s : State) : Bool := (ringIn s).all fun p => !portOn s p

/-- PORT_DOWN: recorded, and the port's source raised. A lost partner link abandons a couch before step 1 (R378). -/
def execPortDown (t : Time) (port : Fin 5) (s : State) : Out :=
  let s := s.at_ t
  when (hubAlive s && portOn s port)
    (fun s =>
      let s1 := raise (portSource port) (recordPort port 2 (s.net.port.get port).bad (modPort port (fun p => { p with state := 0, downAt := s.now, cand := none, echo := none }) s))
      if port.val = 4 then couchCause { s1 with pair := { s1.pair with linkLostAt := match s1.pair.linkLostAt with | some a => some a | none => some s1.now } }
      else if ringsDown s1 && (s1.net.state == 1 || s1.net.state == 2) then netLeave 0 s1
      else s1) s

/-- Bad frames and invalid code groups counted; more than 100 within 1 s make the port DEGRADED. -/
def portErrors (p : Fin 5) (n : Nat) (s : State) : State :=
  let x := s.net.port.get p
  let bad := min 65535 (x.bad + n)
  let errs := (List.replicate (min n 128) s.now ++ x.errs.filter fun e => decide (s.now < e + sec 1)).take 128
  let s1 := modPort p (fun x => { x with bad := bad, errs := errs }) s
  if 100 < errs.length && x.state = 1 then raise (portSource p) (recordPort p 3 bad (modPort p (fun x => { x with state := 2 }) s1)) else s1

/-- A bad frame counted. -/
def portError (p : Fin 5) (s : State) : State := portErrors p 1 s

/-! ## Good frames (R335, R342, Table 10-4) -/

/-- KIND and SCOPE are legal on a ring (Tables 10-3, 10-4). -/
def kindLegal (kind scope : Nat) : Bool :=
  match kind with
  | 1 => scope == scopeSeg
  | 2 => scope != scopeLink
  | 3 => scope == scopeLink
  | 4 => scope == scopeSeg
  | 5 => scope == scopeUni || scope == scopeSeg
  | 6 => scope == scopeUni
  | 7 => scope == scopeUni
  | 8 => scope == scopeSeg || scope == scopeSys
  | _ => false

/-- KIND and SCOPE are legal on the partner link: SHD, JNL and CCH, of scope LINK (R369). -/
def prtLegal (b : List Byte) : Bool := decide (u8 b 0 < 64) && decide (9 ≤ frKind b) && decide (frKind b ≤ 11) && frScope b == scopeLink

/-- The reserved header bits are 0, and KIND and SCOPE are legal. -/
def headerLegal (b : List Byte) : Bool := decide (u8 b 0 < 64) && kindLegal (frKind b) (frScope b)

/-- Distance from `a` up to `b` in the sequence numbers of R337. -/
def fseqGap (a b : Nat) : Nat := (b + (2 ^ 22 - a % 2 ^ 22)) % 2 ^ 22

/-- The verdict of R342 on a good frame: the window after it where it is accepted. -/
def judgeFseq (now : Time) (w : Src) (f : Nat) : Option Src :=
  let up := fseqGap w.high f
  let back := fseqGap f w.high
  if 1 ≤ up && up < 2 ^ 21 then
    some { w with high := f, seen := (f :: w.seen).filter (fun x => decide (fseqGap x f < 1024)), last := now }
  else if back < 1024 && !w.seen.contains f then some { w with seen := f :: w.seen, last := now }
  else none

/-- A frame of an unnumbered device: the sequence rule leaves it out (R331). -/
def isUnnum (b : List Byte) : Bool := frKind b == 8 && frSrc b == 0 && bitOf (u8 (frPayload b) 9) 5

/-- The window of one source put before those of the others. -/
def putSrc (w : Src) (l : List Src) (s : State) : State := { s with net := { s.net with srcs := w :: l } }

/-- The verdict applied: whether the frame is accepted, and the windows after it. -/
def judged (now : Time) (f : Nat) (w : Src) (s : State) : Bool × State :=
  match judgeFseq now w f with
  | some w' => (true, putSrc w' (s.net.srcs.filter fun x => x.num != w.num) s)
  | none => (false, s)

/-- A good frame judged: whether it is the first copy, and the windows after it. A source silent for 10 ms is forgotten. -/
def acceptFrame (b : List Byte) (s : State) : Bool × State :=
  if isUnnum b then (true, s)
  else match s.net.srcs.find? (fun w => w.num == frSrc b && decide (s.now < w.last + ms 10)) with
    | none => (true, putSrc { num := frSrc b, high := frFseq b, seen := [frFseq b], last := s.now } (s.net.srcs.filter fun w => w.num != frSrc b) s)
    | some w => judged s.now (frFseq b) w s

/-! ## Forwarding (R339 to R343) -/

/-- A frame with another TTL. -/
def withTtl (b : List Byte) (ttl : Nat) : List Byte := b.take 1 ++ [BitVec.ofNat 8 ttl] ++ b.drop 2

/-- A frame passed to an output port; a normal frame that finds the queue of 32 KiB full is dropped, counted and raised (R340). -/
def passOn (p : Nat) (b : List Byte) (v : Bool) (s : State) : State :=
  match asFin 5 p with
  | none => s
  | some i =>
    let x := s.net.port.get i
    if !portOn s i then s
    else if queueFull p b s then
      raise (portSource i) (recordPort i 4 (x.drops + 1) (modPort i (fun x => { x with drops := satInc x.drops (2 ^ 32 - 1) }) s))
    else portOut p b v s

/-- SRC is the device itself: its physical number, or the logical number while it is the sending member. -/
def ownFrame (s : State) (src : Nat) : Bool :=
  s.net.numValid && src == s.net.num || drivesLogical s && some src == logicalNum s

/-- An MGT frame that answers SETNUM (Table 10-12). -/
def mgtReplySetnum (b : List Byte) : Bool := u8 (frPayload b) 0 == 0x83

/-- A frame of a kind that couplers bring from the backbone into a segment: SYSTEM, UNICAST to that segment, and IMG and AXS (R343). -/
def bridgedIn (s : State) (b : List Byte) : Bool :=
  frScope b == scopeSys || frScope b == scopeUni && frDst b / 32 == s.net.num / 32 || frScope b == scopeSeg && (frKind b == 1 || frKind b == 4)

/-- A numbered coupler removes from the backbone every frame of its own segment, and from its segment ring what was bridged from another one. The
answer of an unnumbered device to SETNUM never crossed the backbone (R331, R343). -/
def couplerRemoves (s : State) (backbone : Bool) (b : List Byte) : Bool :=
  s.net.coupler && s.net.numValid &&
    (if backbone then frSrc b / 32 == s.net.num / 32
     else frSrc b / 32 != s.net.num / 32 && bridgedIn s b && !(frKind b == 5 && mgtReplySetnum b))

/-- An IMG or AXS frame that the export lists name. -/
def exported (s : State) (b : List Byte) : Bool :=
  if frKind b = 1 then s.net.imgExp.contains (frSrc b)
  else frKind b == 4 && s.net.axsExp.any fun e => e.1 == frSrc b && e.2 == bits (u8 (frPayload b) 0) 0 2

/-- A numbered coupler bridges the frame to its other ring (R331, R343). Its lists name what leaves its own segment; what stands on the backbone was
exported by the source's couplers. -/
def bridges (s : State) (backbone : Bool) (b : List Byte) : Bool :=
  let seg := s.net.num / 32
  s.net.coupler && s.net.numValid && !isUnnum b &&
    (if backbone then frSrc b / 32 != seg && bridgedIn s b
     else frSrc b / 32 == seg && (frScope b == scopeUni && frDst b / 32 != seg || frScope b == scopeSys || frScope b == scopeSeg && exported s b))

/-- The frame goes on along its ring. -/
def forwards (s : State) (backbone : Bool) (b : List Byte) : Bool :=
  !ownFrame s (frSrc b) && !(frScope b == scopeUni && s.net.numValid && frDst b == s.net.num) && frScope b != scopeLink &&
    decide (1 < frTtl b) && (isUnnum b || !couplerRemoves s backbone b)

/-- The other port of a ring. -/
def otherPort (p : Nat) : Nat := if p % 2 = 0 then p + 1 else p - 1

/-- A ring port's frame: bad ones are counted and their forwarded copy ends in /V/; good ones are judged, forwarded and bridged. -/
def ringFrame (p : Fin 4) (b : List Byte) (bad : Bool) (s : State) : State :=
  let port : Fin 5 := ⟨p.val, by omega⟩
  let backbone := decide (2 ≤ p.val)
  let on (v : Bool) (s : State) : State :=
    if headerLegal b && forwards s backbone b then passOn (otherPort p.val) (withTtl b (frTtl b - 1)) v s else s
  if bad || !headerLegal b then on true (portError port s)
  else
    let (first, s1) := if ownFrame s (frSrc b) then (false, { s with net := { s.net with ownBack := some s.now } }) else acceptFrame b s
    let s2 := on false s1
    if first && bridges s2 backbone b then
      (ringPorts (!backbone)).foldl (fun s q => passOn q (withTtl b (if backbone then 32 else 64)) false s) s2
    else s2

/-- A frame of a port: on a ring port forwarded and judged; on the partner link only a bad one is counted, and a good one comes with the row of
its kind (R335, R369). Without bytes there is none. -/
def takeFrame (p : Fin 5) (b : List Byte) (bad : Bool) (s : State) : State :=
  if b.isEmpty then s
  else match asFin 4 p.val with
    | some q => ringFrame q b bad s
    | none => if bad || !prtLegal b then portError p s else s

/-- PELRUN_FRAME: forwarding runs while the hub is out of reset (R344). What a frame tells this device arrives with the row of its kind. -/
def execPelrunFrame (t : Time) (port : Fin 5) (bytes : List Byte) (fin : FrameEnd) (s : State) : Out :=
  let s := s.at_ t
  when (hubAlive s && portOn s port) (fun s => takeFrame port bytes (fin.v || !frCheckOk bytes) (portErrors port fin.codes (raiseDrops s))) s

/-- SOURCE_FORGOTTEN. -/
def execSourceForgotten (t : Time) (src : Nat) (s : State) : Out :=
  let s := s.at_ t
  when (hubAlive s) (fun s => { s with net := { s.net with srcs := s.net.srcs.filter fun w => w.num != src || decide (s.now < w.last + ms 10) } }) s

/-! ## Time (R345 to R350, R513) -/

/-- The PRIO that the device advertises. -/
def ownPrio (s : State) : Nat := if s.net.prioHeld then 255 else reg s 0x0828 % 256

/-- A candidate advertised within the last 1 ms whose MSEQ advanced within that time (R345). -/
def candLive (s : State) (c : Cand) : Bool :=
  decide (s.now < c.seen + ms 1) && (match c.adv with | some a => decide (s.now < a + ms 1) | none => false)

/-- The live candidates, each with its port. -/
def candidates (s : State) : List (Fin 4 × Cand) :=
  (List.finRange 4).filterMap fun p =>
    match (s.net.port.get ⟨p.val, by omega⟩).cand with
    | some c => if candLive s c then some (p, c) else none
    | none => none

/-- (PRIO, number) of one candidate is lower (R345). -/
def candBetter (a b : Nat × Nat) : Bool := decide (a.1 < b.1) || a.1 == b.1 && decide (a.2 < b.2)

/-- The upstream of R347: the best candidate, then the lowest DIST, then the lower port; only where it beats the own candidacy. -/
def upstream (s : State) : Option (Fin 4 × Cand) :=
  let own := (ownPrio s, s.net.num)
  (candidates s).foldl (fun best x =>
    if !candBetter (x.2.prio, x.2.num) own then best
    else match best with
      | none => some x
      | some b =>
        if candBetter (x.2.prio, x.2.num) (b.2.prio, b.2.num) || (x.2.prio, x.2.num) == (b.2.prio, b.2.num) && decide (x.2.dist < b.2.dist)
        then some x else best) none

/-- The device is the time master: JOINED, and no candidacy beats its own. -/
def isMaster (s : State) : Bool := s.net.state == 3 && ownPrio s != 255 && (upstream s).isNone

/-- Lock is gained: the device joins at the first T_E at least 2 × P later (R298, R348). -/
def timeLock (s : State) : State :=
  calm 0x01B { s with
    net := { s.net with locked := true, lockedAt := s.now, holdover := false, goodRun := 0, badRun := 0 }
    ep := { s.ep with joinAt := if s.net.state = 3 then some (sysHalf s + 2 * us s.ep.p) else none } }

/-- Lock is lost: the device goes on in holdover (R298, R348). -/
def timeUnlock (s : State) : State :=
  keepSync (raiseLevel 0x01B { s with
    net := { s.net with locked := false, holdover := s.ep.counting, goodRun := 0, badRun := 0 }
    ep := { s.ep with joined := false, joinAt := none } })

/-- The upstream chosen again, and the master's lock (R347, R348). -/
def chooseUpstream (s : State) : State :=
  let up := (upstream s).map (·.1)
  let lost := if up.isSome || isMaster s then none else match s.net.upLostAt with | some a => some a | none => some s.now
  let s1 := { s with net := { s.net with upPort := up, upLostAt := lost, goodRun := if up = s.net.upPort then s.net.goodRun else 0 } }
  if isMaster s1 && !s1.net.locked then timeLock s1 else s1

/-- SYSTIME in 1/256 ns. -/
def sys256 (s : State) : Nat := sysHalf s * 128

/-- The 9 bytes of a TIM time field (R346). -/
def timeField (v : Nat) : List Byte := leBytes 8 (v / 256) ++ [BitVec.ofNat 8 (v % 256)]

/-- A TIM time field read, in 1/256 ns. -/
def fieldTime (b : List Byte) (i : Nat) : Nat := 256 * u64 b i + u8 b (i + 8)

/-- The candidate that the device advertises on a port: number, PRIO, DIST, MSEQ (R345, Table 10-5). A coupler's bridge counts as one hop more
between its rings (R347). -/
def advertised (s : State) (p : Fin 5) : Nat × Nat × Nat × Nat :=
  match upstream s with
  | some (u, c) => (c.num, c.prio, min 255 (c.dist + (if u.val / 2 = p.val / 2 then 1 else 2)), c.mseq)
  | none => (s.net.num, ownPrio s, if isMaster s then 0 else 255, s.net.mseq)

/-- The TIM payload for one port (Table 10-5). -/
def timPayload (s : State) (p : Fin 5) : List Byte :=
  let (num, prio, dist, mseq) := advertised s p
  let (etx, erx) := ((s.net.port.get p).echo).getD (0, 0)
  let e := s.ep
  timeField (sys256 s) ++ timeField etx ++ timeField erx ++ leBytes 2 (num % 1024) ++
    [BitVec.ofNat 8 prio, BitVec.ofNat 8 dist, BitVec.ofNat 8 (b2n s.net.locked + 2 * b2n e.pchg)] ++ leBytes 4 (mseq % 2 ^ 32) ++
    leBytes 8 (unsigned e.t0 64) ++ leBytes 4 e.p ++ leBytes 4 (if e.pchg then e.pn else 0) ++ leBytes 6 (if e.pchg then e.ec else 0) ++ [0, 0]

/-- One TIM frame on one ring port; its TX is kept for 1 ms (R347). -/
def timOut (p : Fin 5) (s : State) : State :=
  if !portOn s p then s
  else
    let b := timPayload s p
    let (q, s1) := takeFseq false s
    portSend p.val (frameBytes 3 scopeLink 1 s.net.num s.net.num q b)
      (modPort p (fun x => { x with txs := (sys256 s, s.now) :: x.txs.filter fun e => decide (s.now < e.2 + ms 1) }) s1)

/-- TIM_SEND: the master advances MSEQ. -/
def execTimSend (t : Time) (s : State) : Out :=
  let s := s.at_ t
  when (netUp s)
    (fun s =>
      let s := raiseDrops s
      let s1 := if isMaster s then { s with net := { s.net with mseq := (s.net.mseq + 1) % 2 ^ 32 } } else s
      forEach (ringIn s1) timOut s1) s

/-- The neighbour's candidate after a TIM: a number first seen, or seen with an unchanged MSEQ, has not advanced. PRIO 255 is no candidacy. -/
def takeCand (now : Time) (b : List Byte) (old : Option Cand) : Option Cand :=
  let num := bits (u16 b 27) 0 10
  let mseq := u32 b 32
  let adv := match old with
    | some c =>
      if c.num != num then none
      else let d := (mseq + (2 ^ 32 - c.mseq)) % 2 ^ 32; if 1 ≤ d && d < 2 ^ 31 then some now else c.adv
    | none => none
  if u8 b 29 = 255 then none
  else some { prio := u8 b 29, num := num, dist := u8 b 30, locked := bitOf (u8 b 31) 0, mseq := mseq, adv := adv, seen := now }

/-- The epoch grid taken from the upstream's TIM (R295, R297). A change whose T_EC has come is this device's own to make. -/
def takeGrid (b : List Byte) (s : State) : State :=
  let t0 := signed (u64 b 36) 64
  let p := u32 b 44
  let pchg := bitOf (u8 b 31) 1
  let ec := uN b 52 6
  if pchg && decide (2 * t0 + ((ec * us p : Nat) : Int) ≤ (sysHalf s : Int)) then s
  else { s with ep := { s.ep with t0 := t0, p := p, pchg := pchg, pn := u32 b 48, ec := ec } }

/-- Steering by one valid TIM of the upstream: a step where unlocked and beyond 1 µs; lock after 64 within ±2 ns of a locked upstream; unlock
after 8 beyond ±20 ns (R348). `off` is the offset in 1/256 ns. -/
def steer (off : Int) (upLocked : Bool) (s : State) : State :=
  let n := s.net
  let s1 := { s with net := { n with offset := off } }
  if !n.locked then
    if 256000 < off.natAbs then { s1 with sysOff := s1.sysOff + off / 128, net := { s1.net with goodRun := 0 } }
    else if upLocked && off.natAbs ≤ 512 then
      (if 63 ≤ n.goodRun then timeLock s1 else { s1 with net := { s1.net with goodRun := n.goodRun + 1 } })
    else { s1 with net := { s1.net with goodRun := 0 } }
  else if 5120 < off.natAbs then
    (if 7 ≤ n.badRun then timeUnlock s1 else { s1 with net := { s1.net with badRun := n.badRun + 1 } })
  else { s1 with net := { s1.net with badRun := 0 } }

/-- TIM_RECEIVED. -/
def execTimReceived (t : Time) (port : Fin 4) (_src : Nat) (bytes : List Byte) (s : State) : Out :=
  let s := s.at_ t
  let p : Fin 5 := ⟨port.val, by omega⟩
  when (hubUp s && portOn s p && decide (60 ≤ bytes.length))
    (fun s =>
      let t4 : Int := sys256 s
      let tx := fieldTime bytes 0
      let etx := fieldTime bytes 9
      let off : Int := (((fieldTime bytes 18 : Int) - etx) + ((tx : Int) - t4)) / 2
      let delay : Int := ((t4 - etx) - ((tx : Int) - fieldTime bytes 18)) / 2
      let valid := (s.net.port.get p).txs.any fun e => e.1 == etx && decide (s.now ≤ e.2 + ms 1)
      let s1 := chooseUpstream (modPort p (fun x => { x with
        cand := takeCand s.now bytes x.cand
        echo := some (tx, sys256 s)
        lastTim := some s.now
        lastValid := if valid then some s.now else x.lastValid
        delay := if valid then delay else x.delay
        offset := if valid then off else x.offset }) s)
      if s1.net.upPort != some port then s1
      else
        let s2 := takeGrid bytes s1
        if valid then steer off (bitOf (u8 bytes 31) 0) { s2 with net := { s2.net with delay := delay } } else s2) s

/-- UPSTREAM_LOSS: another choice without the port that gives no valid TIM. -/
def execUpstreamLoss (t : Time) (s : State) : Out :=
  let s := s.at_ t
  match s.net.upPort with
  | none => noEffect s
  | some p =>
    let q : Fin 5 := ⟨p.val, by omega⟩
    let quiet := match (s.net.port.get q).lastValid with | some a => decide (a + us 250 ≤ s.now) | none => true
    when (hubUp s && quiet)
      (fun s =>
        let s1 := chooseUpstream (modPort q (fun x => { x with cand := none }) s)
        if s1.net.upPort.isNone && s1.net.locked && !isMaster s1 then { s1 with net := { s1.net with holdover := true } } else s1) s

/-- NO_UPSTREAM_UNLOCK. -/
def execNoUpstreamUnlock (t : Time) (s : State) : Out :=
  let s := s.at_ t
  let due := match s.net.upLostAt with | some a => decide (a + ms 10 ≤ s.now) | none => false
  when (hubUp s && s.net.locked && s.net.upPort.isNone && !isMaster s && due) timeUnlock s

/-- CANDIDATE_FORGOTTEN. -/
def execCandidateForgotten (t : Time) (port : Fin 4) (s : State) : Out :=
  let s := s.at_ t
  let p : Fin 5 := ⟨port.val, by omega⟩
  let stale := match (s.net.port.get p).cand with | some c => !candLive s c | none => false
  when (hubUp s && stale) (fun s => chooseUpstream (modPort p (fun x => { x with cand := none }) s)) s

/-- PRIO_RESTORE (R513). -/
def execPrioRestore (t : Time) (s : State) : Out :=
  let s := s.at_ t
  let long := s.net.locked && decide (s.net.lockedAt + sec 1 ≤ s.now)
  let noTim := decide (s.net.startedAt + ms 10 ≤ s.now) && s.net.port.list.all fun p => match p.lastTim with | some a => decide (a + ms 10 ≤ s.now) | none => true
  when (hubUp s && s.net.prioHeld && (long || noTim)) (fun s => chooseUpstream { s with net := { s.net with prioHeld := false } }) s

/-! ## Heartbeats, joining and leaving (R351 to R353) -/

/-- PMAP of a coupler: the positions of its segment heard within 5 ms. -/
def pmapOf (s : State) : Nat :=
  if !s.net.coupler then 0
  else (s.net.srcs.filter fun w => w.num / 32 == s.net.num / 32 && decide (s.now < w.last + ms 5)).foldl (fun m w => m ||| 2 ^ (w.num % 32)) 0

/-- The HBT payload (Table 10-6). -/
def hbtPayload (s : State) : List Byte :=
  let unnum := s.net.state == 1
  let st := s.net.state + 8 * b2n s.net.locked + 16 * b2n s.net.coupler + 32 * b2n unnum + 64 * b2n (paired s)
  let lg := match logicalNum s with | some n => n + 1024 | none => 0
  leBytes 8 s.nvs.store.serial.toNat ++ [BitVec.ofNat 8 (ownPrio s), BitVec.ofNat 8 st] ++ leBytes 2 lg ++ leBytes 4 (pmapOf s)

/-- HBT_SEND: JOINED, UNNUM and DUPNUM devices send heartbeats (R331, R332, R351). -/
def execHbtSend (t : Time) (s : State) : Out :=
  let s := s.at_ t
  when (hubUp s && !s.pwr.failing && (s.net.state == 1 || s.net.state == 3 || s.net.state == 4))
    (fun s =>
      let src := if s.net.state = 1 then 0 else s.net.num
      let b := hbtPayload s
      let scope := if s.net.coupler then scopeSys else scopeSeg
      let (q, s1) := takeFseq false s
      forEach (ringIn s1) (fun p s => portSend p.val (frameBytes 8 scope (if 2 ≤ p.val then 64 else 32) src src q b) s) s1) s

/-- HBT_RECEIVED: PMAP of couplers kept; another serial number under the own number makes the device DUPNUM. -/
def execHbtReceived (t : Time) (src : Nat) (bytes : List Byte) (s : State) : Out :=
  let s := s.at_ t
  let f := u8 bytes 9
  when (hubUp s && !bitOf f 5)
    (fun s =>
      let s := { s with net := { s.net with hbts := (src, BitVec.ofNat 8 f, s.now) :: s.net.hbts.filter fun p => p.1 != src } }
      let s1 := if bitOf f 4 then { s with net := { s.net with pmaps := (src, w32 bytes 12, s.now) :: s.net.pmaps.filter fun p => p.1 != src } } else s
      if s1.net.numValid && src = s1.net.num && u64 bytes 0 != s1.nvs.store.serial.toNat && (s1.net.state == 2 || s1.net.state == 3) then
        raise 0x095 (recordArgs 0x0602 (srcOf 8 0) [u32 bytes 0, u32 bytes 4] (netLeave 4 s1))
      else s1) s

/-- LISTEN_END: JOINED; a device that is locked already joins epochs by the instant of its lock (R298). -/
def execListenEnd (t : Time) (s : State) : Out :=
  let s := s.at_ t
  when (hubUp s && s.net.state == 2 && decide (s.net.listenAt + ms 10 ≤ s.now))
    (fun s =>
      let at_ : Nat := ((s.net.lockedAt + 2 * us s.ep.p : Nat) + s.sysOff).toNat
      chooseUpstream { s with net := { s.net with state := 3 }, ep := { s.ep with joinAt := if s.net.locked then some at_ else none } }) s

/-- ALL_PORTS_DOWN. -/
def execAllPortsDown (t : Time) (s : State) : Out :=
  let s := s.at_ t
  let long := (ringIn s).all fun p => !portOn s p && decide ((s.net.port.get p).downAt + ms 10 ≤ s.now)
  when (hubUp s && s.net.state == 3 && long) (netLeave 0) s

end Sys2Proof.Machine
end

