-- ==== Sys2Proof/Machine/Pairs.lean ====
section
/-! DEFINITION. The partner pair: the partner link, arming, couch and takeover (R364 to R381). -/

namespace Sys2Proof.Machine

open Sys2Proof

/-- The device sits on a seat of a pair carrier (R361). -/
def seated (s : State) : Bool := s.pwr.straps.pairId != 2

/-! ## The SHD frame (Table 11-4) -/

/-- PARTNERED as shown to the partner: the member's setting once every tile that runs holds it (R371). -/
def partneredShown (s : State) : Bool := s.pair.partnered && s.tile.list.all fun x => x.state == .off || x.partnered

/-- The SHD payload. -/
def shdPayload (s : State) : List Byte :=
  let p := s.pair
  let (out, inc) := match p.couch with | some c => (!c.incoming, c.incoming) | none => (false, false)
  [BitVec.ofNat 8 (pstateCode p.state + 8 * b2n p.synced + 16 * b2n (partneredShown s) + 32 * b2n p.armed + 64 * b2n p.yielding),
   BitVec.ofNat 8 (b2n (s.pwr.straps.pairId == 1) + 2 * b2n s.net.locked + 4 * b2n out + 8 * b2n inc)] ++
    leBytes 2 ((logicalNum s).getD 0) ++ leBytes 6 s.ep.e ++ leBytes 8 (sysNs s) ++ leBytes 4 (castId s) ++
    leBytes 4 s.host.jnl.head ++ leBytes 4 s.host.jnl.acked ++ leBytes 6 p.actSince ++
    [BitVec.ofNat 8 (jfmtOf s), BitVec.ofNat 8 (witMask s)] ++ leBytes 3 s.net.lseq ++ List.replicate 5 0

/-- SHD_SEND: every 10 µs from hub start. -/
def execShdSend (t : Time) (s : State) : Out :=
  let s := s.at_ t
  when (hubUp s && seated s) (fun s => let s := keepSync s; prtSend 9 (shdPayload s) s) s

/-- The partner's frame read. -/
def shdOf (b : List Byte) (now : Time) : Shd :=
  { pstate := bits (u8 b 0) 0 3
    synced := bitOf (u8 b 0) 3
    partnered := bitOf (u8 b 0) 4
    armed := bitOf (u8 b 0) 5
    yielding := bitOf (u8 b 0) 6
    castId := w32 b 18
    jhead := u32 b 22
    jacked := u32 b 26
    actSince := uN b 30 6
    jfmt := u8 b 36
    lfseq := uN b 38 3 % 2 ^ 22
    epoch := uN b 4 6
    at_ := now }

/-! ## Shadowing (R370, R371, R373) -/

/-- Everything that items show, sent once when the partner takes up its place: R370 asks for one item of every kind in use. -/
def shadowAll (s : State) : State :=
  let loops := (List.finRange 48).filter fun b => (castAll s (·.loop)).any fun r => lpRtype r == 0 && lpIndex r == b.val
  let s1 := forEach loops (fun b s =>
    let l := s.eng.loop.get b
    jnlSend 1 1 0 ([1, 0] ++ leBytes 2 b.val ++ leBytes 4 (l.n % 2 ^ 32) ++ leBytes 8 (unsigned l.i 64) ++ leBytes 4 (unsigned l.d 32) ++ leBytes 4 (unsigned l.u 32)) s) s
  let s2 := forEach allChans (countItem s.ep.e) s1
  let s3 := forEach ((List.finRange 96).filter fun n => (laneOf s n.val).isSome) laneItem s2
  let s4 := forEach allChans (fun k s => forEach (s.chan.get k).hart.drops (fun d s => hartItem k d.addr s) s) s3
  forEach (allChans.filter fun k => isOutF (chFunc (castRec s k.val))) (fun k s =>
    jnlSend 1 1 0 ([6, 0] ++ leBytes 2 k.val ++ leBytes 4 (cswOf s k).toNat ++ List.replicate 16 0) s) s4

/-- The journal bytes that a partner lacks, newest entries back to its count (R372, R386). -/
def missingBytes : Nat → List JEntry → List Byte
  | _, [] => []
  | n, e :: older => if n = 0 then [] else let b := jBytes e; missingBytes (n - b.length) older ++ b

/-- What the partner has not got sent again: it reports the same JACKED twice running. -/
def resendJournal (p : Shd) (s : State) : State :=
  let lack := min 131072 ((s.host.jnl.head + (2 ^ 32 - p.jacked)) % 2 ^ 32)
  let b := missingBytes lack s.host.jnl.log.reverse
  jnlChunks 128 ((s.host.jnl.head + (2 ^ 32 - b.length)) % 131072) b s

/-- The cast sent to a STANDBY partner that shows another in a frame of the present epoch, so that it has had its chance to switch; once for each cast
(R375). -/
def sendCast (p : Shd) (s : State) : State :=
  if castId s = p.castId.toNat || p.epoch < s.ep.e || s.pair.castSent = some (castId s) then s
  else match imageBytes (s.img.part.get s.img.castPart) with
    | some b => imageItems (b.length / 1504 + 1) 0 b { s with pair := { s.pair with castSent := some (castId s), maqSent := none } }
    | none => s

/-- A staged maquette sent to a partner that takes up its place (R375). -/
def sendStaged (s : State) : State :=
  match s.img.maq, imageBytes (s.img.part.get s.img.maqPart) with
  | some _, some b => if s.pair.maqSent = maqId s then s else sendMaquette b s
  | _, _ => s

/-- The part of a drive decision that R365 takes on the partner's state. -/
def negotiate (p : Shd) (s : State) : State :=
  if s.pair.state != .orphan then s
  else if p.pstate = 2 || p.pstate = 4 then
    sendRoles true false (roleTick s) { s with pair := { s.pair with state := .standby, orphanSince := none } }
  else if p.pstate = 1 && paired s then
    let pref := match s.img.cast with | some i => prPrefB i.pair == (s.pwr.straps.pairId == 1) | none => false
    if pref then goActive s
    else if p.castId != 0 then sendRoles true false (roleTick s) { s with pair := { s.pair with state := .standby, orphanSince := none } }
    else s
  else s

/-- Two ACTIVE members: the earlier ACTSINCE stands aside, seat B at a tie (R368). Between a YIELD and its STAMP both members show ACTIVE, one of
them YIELDING: that is the yield and no conflict (DEDUCED, log entry 140). -/
def dualActive (before : Option Shd) (p : Shd) (s : State) : State :=
  if s.pair.state != .active || p.pstate != 2 || s.pair.yielding || p.yielding then { s with pair := { s.pair with dualSeen := false } }
  else
    let known := s.pair.dualSeen && (match before with | some b => b.pstate == 2 | none => false)
    let s1 := if known then s else raise 0x096 (recordPair 4 0 { s with pair := { s.pair with dualSeen := true } })
    let aside := decide (s.pair.actSince < p.actSince) || s.pair.actSince == p.actSince && s.pwr.straps.pairId == 1
    if aside then everyTileRole true false (sendRoles true false (sysTick s1) (standAside s1)) else s1

/-- Arming and disarming in the order of R371. -/
def arming (before : Option Shd) (p : Shd) (s : State) : State :=
  match s.pair.state with
  | .standby =>
    let syn := syncedNow s
    { s with pair := { s.pair with synced := syn, armed := syn && (s.pair.armed || p.partnered) } }
  | .active =>
    if !s.pair.partnered && p.synced && p.pstate = 3 then sendRoles false true (roleTick s) { s with pair := { s.pair with partnered := true } }
    else if s.pair.partnered && !p.armed && ((match before with | some b => b.armed | none => false) || !p.synced) then clearPartnered s
    else s
  | .couch =>
    let incoming := match s.pair.couch with | some c => c.incoming | none => false
    if incoming then (if syncedNow s then s else couchCause { s with pair := { s.pair with synced := false, armed := false } })
    else if !p.synced || !p.armed then couchCause s else s
  | _ => s

/-- SHD_RECEIVED. -/
def execShdReceived (t : Time) (bytes : List Byte) (s : State) : Out :=
  let s := s.at_ t
  when (hubUp s && seated s && decide (46 ≤ bytes.length))
    (fun s =>
      let before := s.pair.partner
      let p := shdOf bytes s.now
      let s1 := { s with pair := { s.pair with partner := some p, linkLostAt := none, orphanSince := none, wit := (false, s.pair.wit.2.1, s.pair.wit.2.2) } }
      let s2 := arming before p (dualActive before p (negotiate p s1))
      let s3 := partnerAccepts s2
      if s3.pair.state != .active || p.pstate != 3 then s3
      else
        let fresh := match before with | some b => b.pstate != 3 | none => true
        let stuck := match before with | some b => b.jacked == p.jacked && p.jacked != s3.host.jnl.head | none => false
        let s4 := if fresh then sendStaged (shadowAll (sendCast p { s3 with pair := { s3.pair with castSent := none, maqSent := none } })) else sendCast p s3
        if stuck then resendJournal p s4 else s4) s

/-- ORPHWAIT_EXPIRY: the partner unheard, W2 asserting and no WITNESS channel under foreign drive for ORPHWAIT without a break, as each
WITNESS_ASSERT since has found them (R367). -/
def execOrphwaitExpiry (t : Time) (s : State) : Out :=
  let s := s.at_ t
  let wait := match s.img.cast with | some i => ms (prOrphwait i.pair) | none => 0
  let due := match s.pair.orphanSince with | some a => decide (a + wait ≤ s.now) | none => false
  when (hubUp s && seated s && s.pair.state == .orphan && paired s && s.pair.wit.2.1 && due) goActive s

/-- ARMED_LINK_LOSS: 1 ms without a takeover. -/
def execArmedLinkLoss (t : Time) (s : State) : Out :=
  let s := s.at_ t
  let due := match s.pair.linkLostAt with | some a => decide (a + ms 1 ≤ s.now) | none => false
  when (hubUp s && s.pair.state == .standby && s.pair.armed && due) becomeOrphan s

/-- PARTNERED_LINK_LOSS: PARTNERED stays for 2 ms. -/
def execPartneredLinkLoss (t : Time) (s : State) : Out :=
  let s := s.at_ t
  let due := match s.pair.linkLostAt with | some a => decide (a + ms 2 ≤ s.now) | none => false
  when (hubUp s && s.pair.state == .active && s.pair.partnered && due) clearPartnered s

/-! ## Shadow items (R373, Table 11-8) -/

/-- LOOP: the block of a STANDBY member takes I, D and u (R290). -/
def takeLoop (b : List Byte) (s : State) : State :=
  match asFin 48 (u16 b 2) with
  | some i => modLoop i (fun l => { l with i := signed (u64 b 8) 64, d := signed (u32 b 16) 32, u := signed (u32 b 20) 32 }) s
  | none => s

/-- Own position of a context at an instant: after its latest own edge up to then, or present where it has kept none so old. -/
def posAt (a : Axis) (ns : Nat) : BitVec 48 :=
  match a.edges.find? (fun e => decide (e.1 ≤ ns)) with
  | some e => e.2
  | none => a.p

/-- AXIS: three consecutive ticks with more than one count between the own position and p_a at t_a move the own position by the difference. -/
def takeAxis (b : List Byte) (s : State) : State :=
  match asFin 8 (u16 b 2) with
  | none => s
  | some x =>
    let a := s.eng.axis.get x
    let d := signed ((uN b 4 6 + (2 ^ 48 - (posAt a (u64 b 12)).toNat)) % 2 ^ 48) 48
    if d.natAbs ≤ 1 then modAxis x (fun a => { a with shadowDiff := 0 }) s
    else if a.shadowDiff < 2 then modAxis x (fun a => { a with shadowDiff := a.shadowDiff + 1 }) s
    else
      let d := BitVec.ofInt 48 d
      recordAxis x 1 (modAxis x (fun a => { a with p := a.p + d, pa := a.pa + d, edges := a.edges.map (fun e => (e.1, e.2 + d)), shadowDiff := 0 }) s)

/-- COUNT: the published count continues from the item with the own edges since its epoch boundary; for an item of another epoch than the present
one, with those since it came. -/
def takeCount (b : List Byte) (s : State) : State :=
  let now := uN b 4 6 == s.ep.e
  match asFin 96 (u16 b 2) with
  | some k => modDig k (fun d =>
      let off := w32 b 12 - (if now then d.countE else d.count)
      { d with offset := off, pub := off + (d.pub - d.offset), edges := w32 b 16 + (if now then d.edges - d.edgesE else 0)
               edgesE := if now then w32 b 16 else d.edgesE }) s
  | none => s

/-- LANE: a lane that differs adopts the ACTIVE member's state; the difference is recorded. -/
def takeLane (b : List Byte) (s : State) : State :=
  match asFin 96 (u16 b 2) with
  | none => s
  | some n =>
    let l := s.eng.lane.get n
    if l.state = u8 b 4 && l.lastEntry = u16 b 6 && l.lastStamp = u64 b 8 then s
    else recordGeneric 4 n.val (modLane n (fun l => { l with state := u8 b 4, lastEntry := u16 b 6, lastStamp := u64 b 8 }) s)

/-- HART: drop identities and the place in the cycle list (R154); the list starts again after the ad hoc window, turn 255. -/
def takeHart (b : List Byte) (s : State) : State :=
  match asFin 96 (u16 b 2) with
  | none => s
  | some k =>
    let long := slice b 8 5
    hartFlag k <| modHart k (fun h => { modDrop (u8 b 5) (fun d => { d with state := u8 b 6, revision := u8 b 7, longAddr := if allZero long then [] else long }) h with
      nextTurn := (u8 b 4 + 1) % 256 }) s

/-- PROT: the partner's protections, which W3 leaves out (R380). -/
def takeProt (b : List Byte) (s : State) : State := { s with pair := { s.pair with prot := insertK (u16 b 2) (w32 b 4) s.pair.prot } }

/-- One item of 24 bytes. -/
def takeItem (b : List Byte) (s : State) : State :=
  let code := u8 b 0
  let s1 := { s with pair := { s.pair with items := if s.pair.items.contains code then s.pair.items else code :: s.pair.items } }
  match code with
  | 1 => takeLoop b s1
  | 2 => takeAxis b s1
  | 3 => takeCount b s1
  | 4 => takeLane b s1
  | 5 => takeHart b s1
  | 6 => takeProt b s1
  | _ => s

/-- JNL_STATE: `bytes` are the items. -/
def execJnlState (t : Time) (bytes : List Byte) (s : State) : Out :=
  let s := s.at_ t
  when (hubUp s && mirrors s) (forEach (List.range (bytes.length / 24)) fun i s => takeItem (slice bytes (24 * i) 24) s) s

/-! ## Couch (R376 to R378) -/

/-- CCH_COUCHSET: the incoming member enters COUCH with its own commit of the set, or here; where it cannot, it abandons the couch. -/
def execCchCouchset (t : Time) (epoch seat : Nat) (s : State) : Out :=
  let s := s.at_ t
  when (hubUp s && s.pair.state == .standby && seat == ownSeat s && s.pair.couch.isNone)
    (fun s => if s.pair.armed && allLive s then enterCouch true epoch none s else cchSend 4 epoch (sysNs s) 0 s) s

/-- CCH_COUCHGO names t_C. -/
def execCchCouchgo (t : Time) (epoch stamp : Nat) (s : State) : Out :=
  let s := s.at_ t
  match s.pair.couch with
  | some c => when (hubUp s && c.incoming && c.step == 0) (fun s => { s with pair := { s.pair with couch := some { c with ec := some epoch, tc := some (2 * stamp) } } }) s
  | none => noEffect s

/-- COUCH_STEP: step k at t_C + k × 25 µs; both members move by one eighth. From the first step no HART frame is transmitted until 1 ms after
the last (R154). -/
def execCouchStep (t : Time) (s : State) : Out :=
  let s := s.at_ t
  match s.pair.couch with
  | none => noEffect s
  | some c =>
    let k := c.step + 1
    let due := match c.tc with | some a => decide (a + k * us 25 ≤ sysHalf s) | none => false
    when (hubUp s && decide (k ≤ 8) && due)
      (fun s =>
        let s1 := { s with pair := { s.pair with couch := some { c with step := k }, hartWindow := if k = 8 then some (s.now + ms 1) else s.pair.hartWindow } }
        setShares (some (if c.incoming then k else 8 - k)) (holdHart true s1)) s

/-- COUCH_HART_WINDOW_END: HART may transmit again; the new ACTIVE member goes on in the cycle list. -/
def execCouchHartWindowEnd (t : Time) (s : State) : Out :=
  let s := s.at_ t
  let due := match s.pair.hartWindow with | some a => decide (a ≤ s.now) | none => false
  when (hubUp s && due) (fun s => forEach allChans hartResume (holdHart false { s with pair := { s.pair with hartWindow := none } })) s

/-- CCH_COUCHEND names the epoch at whose T_E the roles exchange. -/
def execCchCouchend (t : Time) (epoch : Nat) (s : State) : Out :=
  let s := s.at_ t
  match s.pair.couch with
  | some c => when (hubUp s && c.incoming && decide (0 < epoch)) (fun s => { s with pair := { s.pair with couch := some { c with ec := some (epoch - 1) } } }) s
  | none => noEffect s

/-- What a COUCHABORT of the partner says: a partner that has never shown COUCH could not enter it at T_E0, for want of ARMED or of a LIVE tile; else the
couch is abandoned (Table 11-9, DEDUCED, log entry 178). -/
def abortCode (s : State) : Nat :=
  match s.pair.partner with
  | some p => if p.pstate = 4 then 5 else if p.armed then 4 else 1
  | none => 5

/-- CCH_COUCHABORT: before step 1 the couch is abandoned. -/
def execCchCouchabort (t : Time) (epoch : Nat) (s : State) : Out :=
  let s := s.at_ t
  match s.pair.couch with
  | some c => when (hubUp s && c.step == 0 && c.e0 == epoch) (fun s => leaveCouch (finishCouch (abortCode s) s)) s
  | none => noEffect s

/-! ## Takeover (R379 to R381) -/

/-- The member may take its partner's place: STANDBY, or incoming in a couch. -/
def mayTake (s : State) : Bool := mirrors s && paired s

/-- Ticks of an instant in nanoseconds. -/
def nsTick (ns : Nat) : Nat := 2 * ns / 5

/-- CCH_YIELD: the partner's tiles take the ACTIVE role at STAMP. -/
def execCchYield (t : Time) (_epoch stamp _reason : Nat) (s : State) : Out :=
  let s := s.at_ t
  when (hubUp s && mayTake s) (becomeActive stamp (nsTick stamp) 0) s

/-- CCH_TAKEN: the sender drives from STAMP, so this member does not. -/
def execCchTaken (t : Time) (_epoch _stamp : Nat) (s : State) : Out :=
  let s := s.at_ t
  when (hubUp s && seated s)
    (fun s =>
      if s.pair.state = .orphan then sendRoles true false (roleTick s) { s with pair := { s.pair with state := .standby, orphanSince := none } }
      else if drivesLogical s && !s.pair.yielding then
        everyTileRole true false (sendRoles true false (sysTick s) (standAside s))
      else s) s

/-- How many of three hold. -/
def count3 (a b c : Bool) : Nat := b2n a + b2n b + b2n c

/-- W1: PRT is DOWN, or no good SHD frame for 100 µs (Table 11-12). -/
def linkWitness (s : State) : Bool :=
  (s.net.port.get 4).state == 0 || match s.pair.partner with | some p => decide (p.at_ + us 100 ≤ s.now) | none => true

/-- A WITNESS channel is expected driven: the own evaluation without level 4 drives it (R380). A static DAC code counts as its command. -/
def expectDriven (s : State) (k : Fin 96) : Bool :=
  let r := castRec s k.val
  match chFunc r, (s.chan.get k).lev.base with
  | .dout, .sw on => on
  | .aoi, .dac c => decide (32768 ≤ 24 * c)
  | .aov, .dac c => if chRange r = 0 then decide (65536 ≤ 21 * c) else decide (32768 ≤ 21 * ((c : Int) - 32768).natAbs)
  | _, _ => false

/-- A terminal voltage in mV that counts as undriven (R380). -/
def undriven (s : State) (k : Fin 96) (mv : Int) : Bool :=
  match chFunc (castRec s k.val) with
  | .dout => decide (2 * mv < ((s.tile.get (tileOf k)).lpt : Int))
  | .aoi => decide (mv < 50)
  | _ => decide (mv.natAbs < 100)

/-- The last PROT item of a channel shows a level-1 protection in the partner: LIMIT, THERMAL, CLAMPLOCK or a cut-off (Tables 01-3, 07-1). -/
def partnerProtects (s : State) (k : Fin 96) : Bool :=
  match lookupO s.pair.prot k.val with
  | some w => bits w.toNat 5 3 != 0 || decide (0x30 ≤ bits w.toNat 24 8) && decide (bits w.toNat 24 8 ≤ 0x3B)
  | none => false

/-- The WITNESS channels of the cast: those of the mask, and with a mask of zero every AOI, AOV and DO channel (R363, Table 14-20). -/
def witnessChans (s : State) : List (Fin 96) :=
  match s.img.cast with
  | some i =>
    let mask := prWitness i.pair
    let out (k : Fin 96) : Bool := let f := chFunc (i.chan.getD k.val []); f == .aoi || f == .aov || f == .dout
    allChans.filter fun k => if mask.isEmpty then out k else mask.contains k.val
  | none => []

/-- W3: every WITNESS channel that is expected driven has been undriven for 50 µs; it abstains where none is. -/
def fieldWitness (field : List (Fin 96 × Int × Time)) (s : State) : Bool :=
  let l := (witnessChans s).filter fun k => expectDriven s k && !partnerProtects s k
  !l.isEmpty && l.all fun k => field.any fun e => e.1 == k && undriven s k e.2.1 && decide (us 50 ≤ e.2.2)

/-- A WITNESS channel shows foreign drive: a driven terminal that this member does not drive (R367). -/
def foreignDrive (field : List (Fin 96 × Int × Time)) (s : State) : Bool :=
  (witnessChans s).any fun k => (s.tile.get (tileOf k)).standby && field.any fun e => e.1 == k && !undriven s k e.2.1

/-- WITNESS_ASSERT: the three witnesses as they stand now (Table 11-12). W1 is the loss of the partner link (R371); W2 also drives source 0x097
(R489). Two of three make an ARMED member take over, and end the couch of an outgoing member from step 1 on (R378). -/
def execWitnessAssert (t : Time) (equal still : Time) (field : List (Fin 96 × Int × Time)) (s : State) : Out :=
  let s := s.at_ t
  when (hubUp s && seated s)
    (fun s =>
      let w1 := linkWitness s
      let w2 := decide (us 5 ≤ equal) || decide (us 500 ≤ still)
      let w3 := fieldWitness field s
      let lost := if w1 then (match s.pair.linkLostAt with | some a => some a | none => some s.now) else none
      let alone := if w1 && w2 && !foreignDrive field s then (match s.pair.orphanSince with | some a => some a | none => some s.now) else none
      let s1 := { s with pair := { s.pair with wit := (w1, w2, w3), linkLostAt := lost, orphanSince := alone } }
      let s2 := if w2 then raiseLevel 0x097 s1 else calm 0x097 s1
      let two := decide (2 ≤ count3 w1 w2 w3)
      let stamp := sysNs s2 + 20000
      let outgoing := match s2.pair.couch with | some c => !c.incoming && decide (1 ≤ c.step) | none => false
      if two && mayTake s2 && s2.pair.armed then becomeActive stamp (nsTick stamp) (witMask s2) s2
      else if two && outgoing then surviveCouch (nsTick stamp) s2
      else
        let s3 := if w1 then couchCause s2 else s2
        if w1 && s3.pair.state = .standby && !s3.pair.armed then becomeOrphan s3 else s3) s

/-- YIELD_HOLDOFF_END: what the yield held off takes effect. -/
def execYieldHoldoffEnd (t : Time) (s : State) : Out :=
  let s := s.at_ t
  match s.pair.holdOff with
  | none => noEffect s
  | some (stop, cause, src) =>
    when (decide (stop ≤ s.now) && hubAlive s)
      (fun s =>
        let s1 := { s with pair := { s.pair with holdOff := none } }
        if cause = 15 then lockNow src s1 else if s1.pwr.failing then s1 else hubReset cause src s1) s

end Sys2Proof.Machine
end

