-- ==== Sys2Proof/Machine/RingCtl.lean ====
section
/-! DEFINITION. Doorbells, ring and queue enables, and the host watchdog (R391 to R398, R409, R415, R417, R498, R501, R502, R565, R575). -/

namespace Sys2Proof.Machine

open Sys2Proof

/-! ## Records of the host interface -/

/-- A RING record: 1 ERROR, 2 ENREFUSED, 3 IGNORED, 4 CQREFUSED, 5 FORGETREFUSED, 6 SKIP. Its detail word, which the spec does not print,
is a free value (log entry 3). -/
def recordRing (inst ev : Nat) (s : State) : State :=
  let (v, s1) := freeW s
  record 0x0801 (srcOf 7 inst) ev 0 [v.toNat] s1

/-- A doorbell write that R391 or R575 rules out: counted and recorded. -/
def dbIgnore (inst : Nat) (s : State) : State :=
  recordRing inst 3 { s with host := { s.host with dbIgn := satInc s.host.dbIgn 65535 } }

/-- A doorbell write whose GEN differs (R397): counted. -/
def genIgnore (s : State) : State := { s with host := { s.host with genIgn := satInc s.host.genIgn 65535 } }

/-- A BAR2 write taken: one aligned 32-bit write at the offset of its doorbell (R391). -/
def doorbell (n off size at_ inst : Nat) (legal : Bool) (f : State → State) (s : State) : State :=
  if size = 4 && off = at_ && n < 64 && legal then f s else dbIgnore inst s

/-! ## Doorbells -/

/-- CR_TAIL_DOORBELL: INDEX and GEN of CRn (R397, R398). -/
def execCrTailDoorbell (t : Time) (n off size : Nat) (value : Word) (s : State) : Out :=
  let s := s.at_ t
  when (hubAlive s)
    (doorbell n off size 0 n true fun s =>
      match asFin 64 n with
      | none => s
      | some r =>
        let idx := bits value.toNat 0 16
        if crSize s n ≤ idx then dbIgnore n s
        else if bits value.toNat 16 16 != (s.host.cr.get r).gen then genIgnore s
        else modCr r (fun c => { c with tail := idx }) s) s

/-- CQ_HEAD_UPDATE: entries released (R397, R398). -/
def execCqHeadUpdate (t : Time) (n off size : Nat) (value : Word) (s : State) : Out :=
  let s := s.at_ t
  when (hubAlive s)
    (doorbell n off size 4 (0x300 + n) true fun s =>
      match asFin 64 n with
      | none => s
      | some q =>
        let idx := bits value.toNat 0 16
        if cqSize s n ≤ idx then dbIgnore (0x300 + n) s
        else if bits value.toNat 16 16 != (s.host.cq.get q).gen then genIgnore s
        else modCq q (fun c => { c with head := idx }) s) s

/-- A head update of an image queue releases the entries from the last head to the new one. -/
def releaseIq (size head : Nat) (q : IQ) : IQ := { q with head := head, used := q.used - (head + size - q.head % size) % size }

/-- IQ_HEAD_UPDATE: on pages 0 to 15 (R418, R575). -/
def execIqHeadUpdate (t : Time) (n off size : Nat) (value : Word) (s : State) : Out :=
  let s := s.at_ t
  when (hubAlive s)
    (doorbell n off size 8 (0x200 + n) (n < 16) fun s =>
      match asFin 16 n with
      | none => s
      | some q =>
        if iqSize s n ≤ value.toNat then dbIgnore (0x200 + n) s
        else cutsAll (modIq q (releaseIq (iqSize s n) value.toNat) s)) s

/-- Size of EQ0 in bytes. -/
def eq0Size (s : State) : Nat := 2 ^ bits (reg s 0x1F10) 0 5

/-- EQ0_HEAD_UPDATE: on page 0 (R419, R575). -/
def execEq0HeadUpdate (t : Time) (n off size : Nat) (value : Word) (s : State) : Out :=
  let s := s.at_ t
  when (hubAlive s)
    (doorbell n off size 12 0x100 (n == 0) fun s =>
      if value.toNat % 4 != 0 || eq0Size s ≤ value.toNat then dbIgnore 0x100 s
      else { s with host := { s.host with eq0Head := value.toNat, eq0Paused := false } }) s

/-! ## The host watchdog (R498, R501, R502) -/

/-- A WDH fault: 2 EARLY, 3 SEQUENCE, 4 EXPIRE. Source 0x020 is raised and host silence begins; t and the key start again. -/
def wdhFault (code : Nat) (s : State) : State :=
  let w := s.pwr.wdh
  beginSilence (grpSelf s) (raise 0x020 { s with pwr := { s.pwr with wdh := { w with
    t := 0, key := 0x5C, last := code, faults := (w.faults + 1) % 65536 } } })

/-- A good service: t restarts, the expected key alternates, and the groups that this device rules have been served (R323). -/
def wdhGood (s : State) : State :=
  let w := s.pwr.wdh
  { s with
    pwr := { s.pwr with wdh := { w with t := 0, key := if w.key = 0x5C then 0xA3 else 0x5C, last := 1, good := (w.good + 1) % 65536 } }
    ep := { s.ep with groups := s.ep.groups.map fun g => if ctlDev s g.num = some (grpSelf s) then { g with served := true } else g } }

/-- One service judged; a write with other bits set counts as a wrong key. -/
def wdhService (value : Word) (s : State) : State :=
  let w := s.pwr.wdh
  if !w.en then s
  else if w.t < w.close then wdhFault 2 s
  else if value.toNat = w.key.toNat then wdhGood s
  else wdhFault 3 s

/-- WDH_HEARTBEAT: page 0, offset 0x800. -/
def execWdhHeartbeat (t : Time) (n off size : Nat) (value : Word) (s : State) : Out :=
  let s := s.at_ t
  when (hubUp s) (doorbell n off size 0x800 0x400 (n == 0) (wdhService value)) s

/-- WDH_EXPIRE: t has reached CLOSE + OPEN. -/
def execWdhExpire (t : Time) (s : State) : Out :=
  let s := s.at_ t
  let w := s.pwr.wdh
  when (hubUp s && w.en && decide (w.close + w.open_ ≤ w.t)) (wdhFault 4) s

/-! ## Completion queues -/

/-- A queue's base is aligned to 4 KiB (R394). -/
def baseOk (s : State) (off : Nat) : Bool := reg64 s off % 4096 == 0

/-- A log2 size within Table 12-3's range for command rings and completion queues. -/
def sizeOk (n : Nat) : Bool := 6 ≤ n && n ≤ 16

/-- The generations of ring and queue n journaled (R397). -/
def journalGen (n : Nat) (s : State) : State :=
  journal 8 (leBytes 2 n ++ leBytes 2 ((s.host.cr.list.map (·.gen)).getD n 0) ++ leBytes 2 ((s.host.cq.list.map (·.gen)).getD n 0) ++ [0, 0]) s

/-- CQn enabled, or refused (R396 to R398, R421, R565). -/
def cqOn (q : Fin 64) (s : State) : State :=
  if (s.host.cq.get q).en then s
  else if !s.pwr.ready || !sizeOk (bits (reg s (cqReg q.val + 0xC)) 4 5) || !baseOk s (cqReg q.val) then
    recordRing (0x300 + q.val) 2 (modCq q (fun c => { c with enRef := true }) s)
  else
    journalGen q.val (modCq q (fun c => { c with
      en := true
      enRef := false
      log2 := bits (reg s (cqReg q.val + 0xC)) 4 5
      gen := (c.gen + 1) % 65536
      head := 0
      wr := 0
      phase := true
      unsignalled := 0
      firstAt := none }) s)

/-- CQn disabled, only while every CR bound to it is DISABLED (R396). -/
def cqOff (q : Fin 64) (s : State) : State :=
  if (List.finRange 64).any (fun n => crCq s n.val == q.val && (s.host.cr.get n).state != 0) then recordRing (0x300 + q.val) 4 s
  else modCq q (fun c => { c with en := false }) s

/-- CQ_ENABLE. -/
def execCqEnable (t : Time) (n : Fin 64) (on : Bool) (s : State) : Out :=
  let s := s.at_ t
  when (hubAlive s) (if on then cqOn n else cqOff n) s

/-- COMPLETION_POST: a held completion finds room (R415). -/
def execCompletionPost (t : Time) (cq : Fin 64) (s : State) : Out :=
  let s := s.at_ t
  let q := s.host.cq.get cq
  match q.held with
  | [] => noEffect s
  | (c, irq) :: rest =>
    when (hubUp s && q.en && !cqFull s cq) (fun s => cqWrite cq c irq (modCq cq (fun q => { q with held := rest }) s)) s

/-- CQ_MODERATION_TIMER: CTIME has passed since the first unsignalled completion (R393). -/
def execCqModerationTimer (t : Time) (cq : Fin 64) (s : State) : Out :=
  let s := s.at_ t
  let due := match (s.host.cq.get cq).firstAt with | some a => decide (a + us (bits (reg s (cqReg cq.val + 8)) 16 16) ≤ s.now) | none => false
  when (hubAlive s && due) (cqSignal cq) s

/-! ## Command rings (Table 12-4) -/

/-- A local work of a ring. -/
def ringWork (s : State) (n : Nat) (w : Work) : Bool := w.ref.origin == s.net.num && w.ref.ring == n

/-- ACCEPT with REPOST for every ACCEPTed work of the ring without its final completion, under the new GEN (R421). -/
def repostRing (n : Nat) (s : State) : State :=
  forEach (s.host.work.filter fun w => ringWork s n w && w.accepted && w.final.isNone) (fun w s => repost ((workOf s w.ref).getD w) s) s

/-- CRn enabled, or refused (R396, R397, R421, R565). -/
def crOn (n : Fin 64) (s : State) : State :=
  let c := s.host.cr.get n
  let cqUp := match asFin 64 (crCq s n.val) with | some q => (s.host.cq.get q).en | none => false
  if c.state == 1 || c.state == 3 then s
  else if c.state == 2 || !s.pwr.ready || !cqUp || !sizeOk (bits (reg s (crReg n.val + 0x10)) 0 5) || !baseOk s (crReg n.val) then
    recordRing n.val 2 (modCr n (fun c => { c with enRef := true }) s)
  else
    let gen := (c.gen + 1) % 65536
    let s1 := modCr n (fun c => { c with state := 1, gen := gen, fetch := 0, tail := 0, reposted := false, enRef := false, prev := [] }) s
    let masked := crMasked s n.val
    let renew (w : Work) : Work := if ringWork s n.val w && w.final.isNone then { w with gen := gen, masked := masked } else w
    let s2 := { s1 with host := { s1.host with work := s1.host.work.map renew } }
    modCr n (fun c => { c with reposted := true }) (repostRing n.val (journalGen n.val s2))

/-- CR_ENABLE. -/
def execCrEnable (t : Time) (n : Fin 64) (s : State) : Out :=
  let s := s.at_ t
  when (hubUp s) (crOn n) s

/-- EN cleared. -/
def crOff (n : Fin 64) (s : State) : State :=
  modCr n (fun c => { c with state := if c.state = 1 then 2 else if c.state = 3 then 0 else c.state }) s

/-- CR_DISABLE. -/
def execCrDisable (t : Time) (n : Fin 64) (s : State) : Out :=
  let s := s.at_ t
  when (hubAlive s) (crOff n) s

/-- Every fetched descriptor of the ring has its first completion. -/
def ringDrained (s : State) (n : Nat) : Bool :=
  let mine (r : WorkRef) : Bool := r.origin == s.net.num && r.ring == n
  s.host.buf.all (fun f => !mine f.ref) && s.host.firsts.all (fun f => !mine f.ref) && s.host.reqs.all (fun q => q.ring != n || q.answered)

/-- DRAIN_COMPLETE. -/
def execDrainComplete (t : Time) (n : Fin 64) (s : State) : Out :=
  let s := s.at_ t
  when (hubAlive s && (s.host.cr.get n).state == 2 && ringDrained s n.val) (modCr n fun c => { c with state := 0 }) s

/-- A read of a ring or of a payload has failed: the ring goes to ERROR (R396). -/
def ringFails (n : Fin 64) (kind : Nat) (s : State) : State :=
  recordRing n.val 1 (hostErr kind (modCr n (fun c => { c with state := 3 }) s))

/-- RING_ERROR. -/
def execRingError (t : Time) (n : Fin 64) (kind : Fin 4) (s : State) : Out :=
  let s := s.at_ t
  when (hubUp s && (s.host.cr.get n).state == 1) (ringFails n kind.val) s

/-- Class J, and epoch-bound, of each opcode of Table 12-7. -/
def opInfo (op : Nat) : Option (Bool × Bool) :=
  match op with
  | 0x0000 | 0x0001 | 0x0102 | 0x0500 | 0x0600 | 0x0800 | 0x0801 | 0x0802 => some (false, false)
  | 0x0100 | 0x0101 | 0x0103 | 0x0303 | 0x0304 | 0x0403 | 0x0404 | 0x0700 => some (true, true)
  | 0x0200 | 0x0300 | 0x0301 | 0x0302 | 0x0305 | 0x0400 | 0x0401 | 0x0402 | 0x0405 | 0x0406 | 0x0407 | 0x0501 | 0x0701 | 0x0702 => some (true, false)
  | _ => none

/-- Class J of an opcode (Table 12-7). -/
def classJOp (op : Nat) : Bool := match opInfo op with | some (j, _) => j | none => false

/-- A class J descriptor of the ring lacks its final completion: as work, in the fetch buffer, or sent to another device (R409). -/
def ringOwes (s : State) (n : Nat) : Bool :=
  (s.host.work.any fun w => ringWork s n w && w.classJ && w.final.isNone) ||
    (s.host.buf.any fun f => f.ref.origin == s.net.num && f.ref.ring == n && classJOp (u16 f.bytes 0)) ||
    s.host.reqs.any fun q => q.ring == n && classJOp q.opcode

/-- CRn_CTL.FORGET (R409). -/
def crForget (n : Fin 64) (s : State) : State :=
  let busy := ringOwes s n.val
  if (s.host.cr.get n).state != 0 || busy then recordRing n.val 5 (modCr n (fun c => { c with forgetRef := true }) s)
  else
    let s1 := { s with host := { s.host with work := s.host.work.filter fun w => !(ringWork s n.val w && w.classJ) } }
    journal 9 (refBytes { origin := s.net.num, ring := n.val, seq := 0 })
      (modCr n (fun c => { c with forgetRef := false, high := eraseK s.net.num c.high }) s1)

/-- FORGET. -/
def execForget (t : Time) (n : Fin 64) (s : State) : Out :=
  let s := s.at_ t
  when (hubAlive s) (crForget n) s

/-! ## Image queues (R417, R565) -/

/-- NTAGS, with 0 meaning 32,768. -/
def iqNtags (s : State) (n : Nat) : Nat := let v := bits (reg s (iqReg n + 0x14)) 0 16; if v = 0 then 32768 else v

/-- IQn enabled with its tag list as read, or refused. -/
def iqOn (n : Fin 16) (readOk : Bool) (tags : List Word) (s : State) : State :=
  let size := bits (reg s (iqReg n.val + 0x10)) 0 4
  let crUp := match asFin 64 (iqCr s n.val) with | some r => (s.host.cr.get r).state != 0 | none => false
  if (s.ep.iq.get n).en then s
  else if !s.pwr.ready || size < 1 || 12 < size || !baseOk s (iqReg n.val) || !crUp then
    recordRing (0x200 + n.val) 2 (modIq n (fun q => { q with enRef := true }) s)
  else if !readOk || tags.any (fun t => (tagParts t).isNone) then
    recordRing (0x200 + n.val) 2 (modIq n (fun q => { q with enRef := true, tlErr := true }) s)
  else modIq n (fun _ => { en := true, tags := tags, done := s.ep.e }) s

/-- IQ_ENABLE. -/
def execIqEnable (t : Time) (n : Fin 16) (readOk : Bool) (tags : List Word) (s : State) : Out :=
  let s := s.at_ t
  when (hubAlive s && (!readOk || tags.length == iqNtags s n.val)) (iqOn n readOk tags) s

end Sys2Proof.Machine
end

