-- ==== Sys2Proof/Machine/Formats.lean ====
section
/-! DEFINITION. The checks of a descriptor (R399 to R407, R446, R603): its target, its format, its claims, and what it puts into a
commit set. -/

namespace Sys2Proof.Machine

open Sys2Proof

/-! ## Fields (Table 12-5) -/

def dOp (b : List Byte) : Nat := u16 b 0
def dFlags (b : List Byte) : Nat := u16 b 2
def dInd (b : List Byte) : Bool := bitOf (dFlags b) 0
def dFence (b : List Byte) : Bool := bitOf (dFlags b) 1
def dSeq (b : List Byte) : Word := w32 b 4
def dEpoch (b : List Byte) : Nat := uN b 8 6
def dTarget (b : List Byte) : Nat := u32 b 16
def dLen (b : List Byte) : Nat := u32 b 20
def dAddr (b : List Byte) : Nat := u64 b 24

/-- The attached device as a TARGET (R401). -/
def anyDev : Nat := 0xFFFFFFFF

/-- Opcodes whose work lies in the cast: without one they complete NOCAST. -/
def needsCast (op : Nat) : Bool :=
  [0x0100, 0x0101, 0x0102, 0x0103, 0x0200, 0x0400, 0x0403, 0x0404, 0x0406, 0x0407, 0x0700].contains op

/-! ## Targets (R401, R374, R416) -/

/-- Where a descriptor is executed. -/
inductive Place where
  | here
  | bad
  | remote (d : Nat)
deriving DecidableEq, Repr

/-- The descriptor names a tag: TAGWRITE, or TAGREAD without a list. -/
def namesTag (b : List Byte) : Bool := dOp b == 0x0100 || dOp b == 0x0102 && u16 b 32 == 0 && !dInd b

/-- A device number as a target: the logical number for a pair; a member's physical number only in families 0x07xx and 0x08xx (R374). -/
def placeOf (s : State) (op d : Nat) : Place :=
  if !s.net.numValid then .bad
  else if some d = logicalNum s then (if op = 0x0701 || op = 0x0702 then .bad else .here)
  else if (d = s.net.num || some d = partnerNum s) && ((logicalNum s).isSome && op / 256 != 7 && op / 256 != 8 || op = 0x0700) then .bad
  else if d = s.net.num then .here
  else .remote d

/-- Where a fetched descriptor is executed. The pair family names a member or a pair by its number (Table 12-7). -/
def place (s : State) (b : List Byte) : Place :=
  let op := dOp b
  let t := dTarget b
  if op = 0x0000 || op = 0x0001 || op = 0x0802 then (if t = anyDev then .here else .bad)
  else if namesTag b then
    (match tagParts (BitVec.ofNat 32 t) with
      | some (d, _) => placeOf s op d
      | none => .bad)
  else if t = anyDev then (if op / 256 = 7 then .bad else .here)
  else if 1024 ≤ t then .bad
  else placeOf s op t

/-- The descriptor names another device than this one and its pair. -/
def namesOther (s : State) (b : List Byte) : Bool := match place s b with | .remote _ => true | _ => false

/-- A STANDBY member's rings: what concerns the pair travels to the ACTIVE member; what names another device goes there itself, and a wrong TARGET is
rejected here (R374, DEDUCED, log entry 173). -/
def toPartner (s : State) (b : List Byte) : Bool :=
  let fam := dOp b / 256
  let byNum := !namesTag b && some (dTarget b) = logicalNum s
  s.pair.state == .standby && paired s && (opInfo (dOp b)).isSome && place s b == .here &&
    (byNum || namesTag b || (1 ≤ fam && fam ≤ 4) || dOp b == 0x0700)

/-! ## Format failures (R603, Table 12-10) -/

/-- A failing field: its byte offset, the reason and the list index. -/
structure Bad where
  off : Nat
  reason : Nat
  idx : Nat := 0
deriving DecidableEq, Repr

/-- Reasons of Table 12-10. -/
def rReserved : Nat := 1
def rOpcode : Nat := 2
def rTarget : Nat := 3
def rLen : Nat := 4
def rEpoch : Nat := 5
def rReadonly : Nat := 6
def rMultigroup : Nat := 7
def rStaleseq : Nat := 8
def rParam : Nat := 9
def rPayload : Nat := 10
def rNocast : Nat := 11
def rSeqreuse : Nat := 12

/-- A failure where a condition holds. -/
def bad (c : Bool) (off reason : Nat) : List Bad := if c then [{ off := off, reason := reason }] else []

/-- The first failing field in ascending byte order; the first of a list where they lie in the payload. -/
def firstBad (l : List Bad) : Option Bad :=
  l.foldl (fun a x => match a with | none => some x | some y => if x.off < y.off then some x else some y) none

/-- DETAIL of a format failure. -/
def badDetail (x : Bad) : Word := formatDetail x.reason x.off (x.idx % 65536)

/-- INLINE bytes that an opcode uses. -/
def usedInline (b : List Byte) : List (Nat × Nat) :=
  let ind := dInd b
  match dOp b with
  | 0x0001 => [(32, 8)]
  | 0x0100 => [(32, 4)]
  | 0x0101 => if ind then [(32, 2)] else [(32, 2), (40, 8 * min 2 (u16 b 32))]
  | 0x0102 => [(32, 2), (40, 8)]
  | 0x0103 => [(32, 12)]
  | 0x0200 => if ind then [(32, 7), (40, 8)] else [(32, 7), (40, 20)]
  | 0x0300 => [(32, 4)]
  | 0x0301 => [(40, 8)]
  | 0x0302 => [(32, 4), (40, 8)]
  | 0x0303 | 0x0304 => [(32, 2)]
  | 0x0400 => [(32, 2), (36, 12)]
  | 0x0401 => [(32, 2)]
  | 0x0402 => [(32, 4)]
  | 0x0403 => [(32, 2), (36, 4)]
  | 0x0404 => [(32, 2)]
  | 0x0405 | 0x0406 => [(32, 3)]
  | 0x0407 => [(32, 1), (34, 2)]
  | 0x0500 => [(32, 6), (40, 8), (48, 5)]
  | 0x0501 => if ind then [] else [(32, 24)]
  | 0x0600 => [(32, 1), (40, 8)]
  | 0x0700 => [(32, 1)]
  | 0x0800 => [(32, 4), (40, 8)]
  | 0x0801 => if ind then [(32, 4), (40, 8)] else [(32, 4), (40, 16)]
  | 0x0802 => [(32, 10)]
  | _ => []

/-- The first non-zero INLINE byte that the opcode does not use; bytes 56 to 59 hold PCHECK with INDIRECT (R10, Table 12-5). -/
def reservedInline (b : List Byte) : List Bad :=
  let used := usedInline b ++ (if dInd b then [(56, 4)] else [])
  match (List.range 28).find? (fun i => u8 b (32 + i) != 0 && !used.any fun u => u.1 ≤ 32 + i && 32 + i < u.1 + u.2) with
  | some i => [{ off := 32 + i, reason := rReserved }]
  | none => []

/-- Opcodes that name a return address (R403). -/
def hasRaddr (op : Nat) : Bool := [0x0102, 0x0200, 0x0301, 0x0302, 0x0500, 0x0600, 0x0800].contains op

/-- The fields that every descriptor has. -/
def commonBad (s : State) (b : List Byte) (epochBound : Bool) : List Bad :=
  bad (dFlags b / 8 != 0) 2 rReserved ++
  bad (if epochBound then (chooseEpoch s (dEpoch b)).isNone else dEpoch b != 0) 8 rEpoch ++
  bad (u16 b 14 != 0) 14 rReserved ++
  bad (!dInd b && dLen b != 0) 20 rLen ++
  bad (if dInd b then dAddr b % 4 != 0 else dAddr b != 0) 24 rParam ++
  bad (hasRaddr (dOp b) && u64 b 40 % 4 != 0) 40 rParam ++
  reservedInline b

/-! ## Tag tables (R446) -/

/-- The record with a local index in an image's tag table. -/
def tagIn (i : Image) (idx : Nat) : Option Rec := i.tag.find? fun r => tagIndex r == idx

/-- The commit group of an output channel under an image (R308). -/
def chanGroupIn (i : Image) (k : Nat) : Nat :=
  match i.grp.find? (fun r => grpNum r != ownGroup && (grpChans r).contains k) with
  | some r => grpNum r
  | none => ownGroup

/-- The commit group of a writable tag under an image. -/
def tagGroupIn (i : Image) (r : Rec) : Nat := if tagKind r = 1 then chanGroupIn i (tagNum r) else tagGroup r

/-- The image that an activation or revert would bring: the maquette that passed staging, or the last-good image. -/
def comingImage (s : State) (op : Nat) : Option Image :=
  if op = 0x0303 then (if s.img.maqState = .staged || s.img.maqState = .rehearsing || s.img.maqState = .armed then s.img.maq else none)
  else s.img.lastGood

/-- The incoming image for a set of epoch `e`: an ACCEPTed activation or revert stands in a set at or before it (R446). -/
def incomingAt (s : State) (e : Nat) : Option Image :=
  (s.host.work.find? fun w => (w.opcode == 0x0303 || w.opcode == 0x0304) && w.accepted && w.final.isNone &&
    (match w.set with | some (_, ea) => ea ≤ e | none => false)).bind fun w => comingImage s w.opcode

/-- A tag write judged under a table: the reason, and whether the value is at fault (R178, R172, R446). -/
def writeBad (i : Image) (incoming : Bool) (idx : Nat) (v : Word) : Option (Nat × Bool) :=
  match tagIn i idx with
  | none => some (rParam, false)
  | some r =>
    if !tagWritable r then some (if incoming then rParam else rReadonly, false)
    else if tagKind r = 1 && !valueLegal (i.chan.getD (tagNum r) []) v then some (rParam, true)
    else none

/-- The pairs of a write: TAGWRITE's own, or the list of TAGWRITEN. -/
def pairsOf (b payload : List Byte) : List (Word × Word) :=
  if dOp b = 0x0100 then [(w32 b 16, w32 b 32)]
  else if dInd b then (List.range (u16 b 32)).map fun i => (w32 payload (8 * i), w32 payload (8 * i + 4))
  else (List.range (min 2 (u16 b 32))).map fun i => (w32 b (40 + 8 * i), w32 b (44 + 8 * i))

/-- Offsets of the tag and the value of pair `i`. -/
def pairOff (b : List Byte) (i : Nat) : Nat × Nat :=
  if dOp b = 0x0100 then (16, 32) else if dInd b then (0xFF, 0xFF) else (40 + 8 * i, 44 + 8 * i)

/-- The tag table that a write into the set of epoch `e` is checked against, and whether it is the incoming one. -/
def tableAt (s : State) (e : Nat) : Option (Image × Bool) :=
  match incomingAt s e with
  | some i => some (i, true)
  | none => s.img.cast.map fun i => (i, false)

/-- One pair judged; `g` is the commit group of the pairs before it. -/
def pairBad (s : State) (i : Image) (incoming : Bool) (b : List Byte) (g : Option Nat) (n : Nat) (p : Word × Word) : List Bad × Option Nat :=
  let (offT, offV) := pairOff b n
  match tagParts p.1 with
  | none => ([{ off := offT, reason := rTarget, idx := n }], g)
  | some (d, idx) =>
    if placeOf s 0x0100 d != .here then ([{ off := offT, reason := rMultigroup, idx := n }], g)
    else match writeBad i incoming idx p.2, tagIn i idx with
      | some (reason, atV), _ => ([{ off := if atV then offV else offT, reason := reason, idx := n }], g)
      | none, some r =>
        let h := tagGroupIn i r
        (match g with
          | some g => if g = h then ([], some g) else ([{ off := offT, reason := if incoming then rParam else rMultigroup, idx := n }], some g)
          | none => ([], some h))
      | none, none => ([], g)

/-- Every pair judged in list order. -/
def pairsBad (s : State) (i : Image) (incoming : Bool) (b : List Byte) : Nat → Option Nat → List (Word × Word) → List Bad
  | _, _, [] => []
  | n, g, p :: rest =>
    let (l, g') := pairBad s i incoming b g n p
    l ++ pairsBad s i incoming b (n + 1) g' rest

/-- The writes of a descriptor as items of a set, each under its record. -/
def writeActs (i : Image) (l : List (Word × Word)) : List SetAct :=
  l.filterMap fun p => (tagParts p.1).bind fun t => (tagIn i t.2).map fun r => SetAct.tag r p.2

/-! ## Opcodes (Table 12-7) -/

/-- Channel k of bytes 32 to 33. -/
def dK (b : List Byte) : Nat := u16 b 32

/-- A channel that does not exist. -/
def kBad (b : List Byte) : List Bad := bad (96 ≤ dK b) 32 rParam

/-- FUNC of the descriptor's channel in the cast. -/
def kFunc (s : State) (b : List Byte) : Func := chFunc (castRec s (dK b))

/-- Channels of a RESTOREACK mask. -/
def maskChans (b : List Byte) : List (Fin 96) := allChans.filter fun k => bitOf (u8 b (32 + k.val / 8)) (k.val % 8)

/-- Smallest and largest trim step in the channel's unit (R116). -/
def stepRange (f : Func) : Rat × Rat := if f = .aoi then (1 / 2000, 1 / 10) else (1 / 20000, 1 / 100)

/-- A binary32 parameter with a default for NaN. -/
def orDefault (w : Word) (q : Rat) : Word := if isNan w then f32OfRat q else w

/-- Default ZREF, SREF and step of a channel (R116). -/
def trimDefaults (r : Rec) : Rat × Rat × Rat :=
  let f := chFunc r
  let (lo, hi) := if f = .aii || f = .aoi then (4, 20) else nominal r
  (lo, hi, 1 / 1000)

/-- ZREF, SREF and step of a TRIMARM, defaults filled in. -/
def trimArgs (r : Rec) (b : List Byte) : Word × Word × Word :=
  let (z, h, st) := trimDefaults r
  (orDefault (w32 b 36) z, orDefault (w32 b 40) h, orDefault (w32 b 44) st)

/-- TRIMARM: an analog channel, references at least half the nominal span apart, a legal step (R116). -/
def trimArmBad (s : State) (b : List Byte) : List Bad :=
  let r := castRec s (dK b)
  let (z, h, st) := trimArgs r b
  let lo := f32Rat (f32OfRat (stepRange (chFunc r)).1)
  let hi := f32Rat (f32OfRat (stepRange (chFunc r)).2)
  kBad b ++ bad (!isAnalogF (chFunc r)) 32 rParam ++
    bad (!isFin z || !isFin h || decide (2 * absRat (f32Rat h - f32Rat z) < absRat (spanOf r))) 36 rParam ++
    bad (isOutF (chFunc r) && (!isFin st || decide (f32Rat st < lo) || decide (hi < f32Rat st))) 44 rParam

/-- The target channel of a REFLEXREL entry; none where no entry of that number has one (R73, R281). -/
def reflexChan (s : State) (b : List Byte) : Option (Fin 96) :=
  let e := u16 b 34
  if u8 b 32 = 0 then
    ((castAll s (·.tref)).find? fun r => trTile r == e / 64 && trEntry r == e % 64).bind fun r => asFin 96 (8 * trTile r + trTgt r)
  else ((castAll s (·.href)).find? fun r => hrEntry r == e && !hrStop r).bind fun r => asFin 96 (hrTarget r)

/-- Fields of a check unit's setup (Table 19-9). -/
def cuReg (n : Nat) : Nat := 0x4400 + 64 * n
def cuWidth (s : State) (n : Nat) : Nat := bits (reg s (cuReg n)) 0 7
def cuFoldw (s : State) (n : Nat) : Nat := bits (reg s (cuReg n)) 16 7

/-- The setup lies within Table 18-5. -/
def cuLegal (s : State) (n : Nat) : Bool :=
  let w := cuWidth s n
  1 ≤ w && w ≤ 64 && cuFoldw s n ≤ 64 && cuFoldw s n % 8 == 0 &&
    decide (reg64 s (cuReg n + 4) < 2 ^ w) && decide (reg64 s (cuReg n + 0xC) < 2 ^ w) && decide (reg64 s (cuReg n + 0x14) < 2 ^ w)

/-- The sealed records held, oldest first (R546, R551). -/
def recHeld (s : State) : List RecRec := s.recd.stored ++ s.recd.sealed_

/-- FIRSTSEQ names the oldest record, a record that is held, or one older than every record held (R551). -/
def firstSeqOk (s : State) (f : Word) : Bool :=
  f == 0xFFFFFFFF || (recHeld s).any (fun r => r.seq == f) ||
    (match (recHeld s).head? with | some o => (let d := (o.seq - f).toNat; 1 ≤ d && d < 2 ^ 31) | none => false)

/-- The tags that a TAGREAD reads. -/
def readTags (b payload : List Byte) : List Word :=
  if namesTag b then [w32 b 16] else (List.range (u16 b 32)).map fun i => w32 payload (4 * i)

/-- One tag to be read. -/
def readBad (s : State) (b : List Byte) (n : Nat) (t : Word) : List Bad :=
  let off := if namesTag b then 16 else 0xFF
  match tagParts t with
  | none => [{ off := off, reason := rTarget, idx := n }]
  | some (d, idx) =>
    if placeOf s 0x0102 d != .here then [{ off := off, reason := rMultigroup, idx := n }]
    else if (castAll s (·.tag)).any fun r => tagIndex r == idx then [] else [{ off := off, reason := rParam, idx := n }]

/-- ACCEPTed writes that an activation's image would refuse, in journal order (R446): SEQ of the first. -/
def activateBad (s : State) (b : List Byte) : List Bad :=
  match comingImage s (dOp b), chooseEpoch s (dEpoch b) with
  | some i, some (ea, _) =>
    let late (w : Work) : Bool := w.accepted && w.final.isNone && (match w.set with | some (_, e) => ea ≤ e | none => false)
    let writes (w : Work) : List (Nat × Word × Rec) := w.acts.filterMap fun a => match a with | .tag r v => some (tagIndex r, v, r) | _ => none
    let fails (w : Work) : Bool :=
      let l := writes w
      let gs := (l.filterMap fun p => tagIn i p.1).map (tagGroupIn i)
      l.any (fun p => (writeBad i true p.1 p.2.1).isSome) || gs.any fun g => some g != gs.head?
    match s.host.work.find? (fun w => late w && fails w) with
    | some w => [{ off := 0xFE, reason := rParam, idx := w.ref.seq.toNat % 65536 }]
    | none => []
  | _, _ => []

/-- The fields of one opcode. `far`: the descriptor came from another device. -/
def opBad (s : State) (far : Bool) (b payload : List Byte) : List Bad :=
  let ind := dInd b
  let len := dLen b
  let count := u16 b 32
  match dOp b with
  | 0x0100 | 0x0101 =>
    let n := dOp b == 0x0101
    let lens := n && (count = 0 || (if far then 181 else 4096) < count || 2 < count && !ind)
    bad (n && ind && len != 8 * count) 20 rLen ++ bad lens 32 rLen ++
      (if lens then [] else match tableAt s (((chooseEpoch s (dEpoch b)).map (·.1)).getD 0) with
        | some (i, incoming) => pairsBad s i incoming b 0 none (pairsOf b payload)
        | none => [])
  | 0x0102 =>
    if namesTag b then readBad s b 0 (w32 b 16)
    else
      let lens := count = 0 || (if far then 92 else 4096) < count
      bad (!ind) 2 rParam ++ bad (ind && len != 4 * count) 20 rLen ++ bad lens 32 rLen ++
        (if lens then [] else ((List.range count).zip (readTags b payload)).flatMap fun x => readBad s b x.1 x.2)
  | 0x0103 =>
    let gs := (maskChans b).map fun k => chanGroup s k.val
    bad (gs.any fun g => some g != gs.head?) 32 rMultigroup
  | 0x0200 =>
    let n := u8 b 38
    kBad b ++ bad (chHartm (castRec s (dK b)) = 0) 32 rParam ++ bad (63 < u8 b 34) 34 rParam ++ bad (u8 b 35 != 31 && u16 b 36 != 0) 36 rParam ++
      bad (!ind && 12 < n || u8 b 35 = 31 && 253 < n) 38 rLen ++ bad (ind && len != n) 20 rLen
  | 0x0300 =>
    bad (!ind) 2 rParam ++ bad (len % 4 != 0 || 1048576 < len || 33554432 < u32 b 32 + len) 20 rLen ++ bad (u32 b 32 % 4 != 0) 32 rParam
  | 0x0302 => bad (u32 b 32 = 0 || 1048576 < u32 b 32) 32 rParam
  | 0x0303 | 0x0304 => bad ((groupOf s (u16 b 32)).isNone) 32 rParam ++ activateBad s b
  | 0x0400 => trimArmBad s b
  | 0x0401 => kBad b
  | 0x0402 => kBad b ++ bad (u8 b 34 = 0 || 6 < u8 b 34) 34 rParam
  | 0x0403 => kBad b ++ bad (!isOutF (kFunc s b)) 32 rParam ++ bad (!valueLegal (castRec s (dK b)) (w32 b 36)) 36 rParam
  | 0x0404 => kBad b ++ bad (!isOutF (kFunc s b)) 32 rParam
  | 0x0405 => kBad b ++ bad (7 < u8 b 34) 34 rReserved
  | 0x0406 => kBad b ++ bad (3 < u8 b 34) 34 rParam
  | 0x0407 => bad (1 < u8 b 32) 32 rParam ++ bad ((reflexChan s b).isNone) 34 rParam
  | 0x0500 =>
    bad (!firstSeqOk s (w32 b 32)) 32 rParam ++ bad (u16 b 36 = 0 || 4096 < u16 b 36) 36 rParam ++
      bad (u32 b 48 % 4 != 0 || u32 b 48 < 512 || 1048576 < u32 b 48) 48 rParam ++ bad (5 < u8 b 52) 52 rParam
  | 0x0501 => bad (ind && (len % 4 != 0 || len < 4 || 480 < len)) 20 rLen
  | 0x0600 =>
    bad (!ind) 2 rParam ++ bad (ind && (len = 0 || 16777216 < len)) 20 rLen ++ bad (3 < u8 b 32 || !cuLegal s (u8 b 32)) 32 rParam
  | 0x0700 => bad (1 < u8 b 32) 32 rParam
  | 0x0800 => bad (u16 b 34 = 0 || 256 < u16 b 34) 34 rLen
  | 0x0801 =>
    bad (u16 b 34 = 0 || 256 < u16 b 34 || 2 < u16 b 34 && !ind) 34 rLen ++ bad (ind && len != 4 * u16 b 34) 20 rLen
  | 0x0802 => bad (1023 < u16 b 40) 41 rReserved
  | _ => []

/-- The format check (R407, R603). -/
def formatBad (s : State) (far : Bool) (b payload : List Byte) (payloadOk : Bool) : Option Bad :=
  match opInfo (dOp b) with
  | none => some { off := 0, reason := rOpcode }
  | some (_, e) =>
    firstBad (bad (needsCast (dOp b) && s.img.cast.isNone) 0 rNocast ++ bad (place s b = .bad || far && namesOther s b) 16 rTarget ++ commonBad s b e ++
      bad (!payloadOk) 0xFF rPayload ++ opBad s far b (if payloadOk then payload else []))

/-! ## Claims (R25, R240, R433) -/

/-- OVR k as a resource identifier (Table 13-5). -/
def ovrRes (k : Nat) : Nat := 0x11000000 + k

/-- The resource that the cast does not claim for a descriptor. -/
def claimMissing (s : State) (b : List Byte) : Option Nat :=
  let k := dK b
  let slot (k : Nat) : Option Nat := if chOvr (castRec s k) then none else some (ovrRes k)
  match dOp b with
  | 0x0200 | 0x0400 | 0x0403 | 0x0404 => slot k
  | 0x0406 => (asFin 96 k).bind fun k => testMissing s k (u8 b 34)
  | 0x0407 => (reflexChan s b).bind fun k => slot k.val
  | _ => none

/-! ## Commit sets -/

/-- The group and the items of an epoch-bound descriptor whose set is that of epoch `e`. -/
def actsOf (s : State) (e : Nat) (b payload : List Byte) : Nat × List SetAct :=
  let k := dK b
  match dOp b with
  | 0x0100 | 0x0101 =>
    (match tableAt s e with
      | some (i, _) =>
        let l := writeActs i (pairsOf b payload)
        ((l.head?.map fun a => match a with | .tag r _ => tagGroupIn i r | _ => ownGroup).getD ownGroup, l)
      | none => (ownGroup, []))
  | 0x0103 =>
    let ks := maskChans b
    ((ks.head?.map fun k => chanGroup s k.val).getD ownGroup, ks.map SetAct.ack)
  | 0x0303 => (u16 b 32, [.activate])
  | 0x0304 => (u16 b 32, [.revert])
  | 0x0403 => (chanGroup s k, ((asFin 96 k).map fun k => SetAct.ovr k (w32 b 36)).toList)
  | 0x0404 => (chanGroup s k, ((asFin 96 k).map SetAct.ovrel).toList)
  | 0x0700 => (ownGroup, [.couch (u8 b 32)])
  | _ => (ownGroup, [])

end Sys2Proof.Machine
end

