-- ==== Sys2Proof/Machine/Descriptors.lean ====
section
/-! DEFINITION. Fetching, checking, forwarding and admitting descriptors (R313, R357, R358, R396, R407 to R416, R521, R604). -/

namespace Sys2Proof.Machine

open Sys2Proof

/-! ## Rejections and replays -/

/-- A descriptor of the fetch buffer as a work, before anything is known of it. -/
def asWork (s : State) (f : Fetched) : Work :=
  { ref := f.ref, opcode := dOp f.bytes, bytes := f.bytes, payload := f.payload, check := w32 f.bytes 60,
    classJ := match opInfo (dOp f.bytes) with | some (j, _) => j | none => false
    gen := f.gen, masked := f.ref.origin == s.net.num && crMasked s f.ref.ring, waits := f.waits }

/-- A rejection: a final completion that changes nothing else (R407). -/
def reject (f : Fetched) (status : Nat) (detail : Word) (s : State) : State :=
  let w := asWork s f
  deliver w (mkCpl s w 2 status 0 0 detail 0) [] s

/-- The high mark H of an origin's ring (R408). -/
def highOf (s : State) (r : WorkRef) : Option Word := (asFin 64 r.ring).bind fun n => lookupO (s.host.cr.get n).high r.origin

/-- H set. -/
def setHigh (r : WorkRef) (s : State) : State :=
  match asFin 64 r.ring with
  | some n => modCr n (fun c => { c with high := insertK r.origin r.seq c.high }) s
  | none => s

/-- The sequence verdicts of R408. -/
inductive SeqV where
  | fresh
  | replay
  | reuse
  | again
  | stale
deriving DecidableEq, Repr

/-- The verdict on a descriptor that passes its other checks. -/
def seqVerdict (s : State) (w : Work) : SeqV :=
  let old := s.host.work.find? fun x => x.ref == w.ref && x.classJ
  match highOf s w.ref with
  | none => .fresh
  | some h =>
    let d := (w.ref.seq - h).toNat
    if 1 ≤ d && d < 2 ^ 31 then .fresh
    else match old with
      | some x => if x.check = w.check then .replay else .reuse
      | none => if w.classJ then .stale else .again

/-- A replay draws the recorded completions, or waits as one more copy for the final one (R30, R408). -/
def replay (w : Work) (s : State) : State :=
  match workOf s w.ref with
  | none => s
  | some x =>
    let acc := { mkCpl s x 1 1 x.accEpoch 0 0 0 with cflags := 2, gen := w.gen }
    let s1 := if x.accepted then deliver x acc [] s else s
    match x.final with
    | some c => deliver x { c with cflags := 2, gen := w.gen } [] s1
    | none => modWork x.ref (fun x => { x with copies := x.copies + 1 }) s1

/-! ## Admission -/

/-- The journal's DESC entry of a work (Table 11-16). -/
def descBody (w : Work) : List Byte :=
  leBytes 2 w.ref.origin ++ leBytes 2 w.ref.ring ++ leBytes 4 w.check.toNat ++ leBytes 6 ((w.set.map (·.2)).getD 0) ++ [0, 0] ++ w.bytes ++
    (if w.opcode = 0x0300 then [] else w.payload)

/-- A work that has passed its checks: class J is journaled and draws ACCEPT as R29 and R372 say; IMGLOAD draws it with its own row (R438). -/
def admitWork (w : Work) (s : State) : State :=
  if !w.classJ then { s with host := { s.host with work := s.host.work ++ [w] } }
  else
    let s1 := journal 1 (descBody w) { s with host := { s.host with work := s.host.work ++ [w] } }
    let s2 := modWork w.ref (fun w => { w with jend := s1.host.jnl.head }) s1
    if w.opcode = 0x0300 then (if holdOk s2 then s2 else { s2 with nvs := { s2.nvs with store := { s2.nvs.store with jobs := s2.nvs.store.jobs ++ [.journal (some w.ref)] } } })
    else acceptOrWait w.ref s2

/-- The commit set of an epoch-bound work by R313, with its items; a work that is not epoch-bound has none. -/
def withSet (s : State) (w : Work) : Work :=
  match opInfo w.opcode, chooseEpoch s (dEpoch w.bytes) with
  | some (_, true), some (e, late) =>
    let (g, acts) := actsOf s e w.bytes w.payload
    { w with set := some (g, e), acts := acts, deferred := late }
  | _, _ => w

/-- A descriptor taken in after every check: H moves where it is new (R408); it is held back by earlier work (R413, R414). -/
def takeIn (f : Fetched) (v : SeqV) (s : State) : State :=
  let w := withSet s (asWork s f)
  let s1 := if v = .fresh then setHigh w.ref s else s
  if v = .again && (workOf s1 w.ref).isSome then modWork w.ref (fun x => { x with copies := x.copies + 1 }) s1
  else admitWork { w with fenced := w.opcode != 1 && waitsOpen s1 w.waits } s1

/-- A descriptor put back into the fetch buffer. -/
def putBack (f : Fetched) (s : State) : State := { s with host := { s.host with buf := s.host.buf ++ [f] } }

/-- Format, PCHECK, SEQ and claims, in this order (R407); a request outside the cast's claims is refused at the gate, raising 0x016 (R16, R520); then the wait for the epoch join, unjournaled (R604). -/
def checkRest (f : Fetched) (far : Bool) (s : State) : State :=
  let b := f.bytes
  let w := asWork s f
  match formatBad s far b f.payload f.payloadOk with
  | some x => reject f 0x10 (badDetail x) s
  | none =>
    if dInd b && u32 b 56 != descCheck f.ref.ring f.ref.seq.toNat f.payload then reject f 0x11 1 s
    else match seqVerdict s w with
      | .reuse => reject f 0x10 (formatDetail rSeqreuse 4 0) s
      | .stale => reject f 0x10 (formatDetail rStaleseq 4 0) s
      | .replay => replay w s
      | v =>
        match claimMissing s b with
        | some res => reject f 0x12 (BitVec.ofNat 32 res) (gateRefuse s)
        | none =>
          let bound := match opInfo w.opcode with | some (_, e) => e | none => false
          if bound && !s.ep.everJoined then putBack f s else takeIn f v s

/-! ## Forwarding (R357, R358, R374) -/

/-- A REQ payload (Table 10-11). -/
def reqBytes (ring : Nat) (first resend : Bool) (prev : Word) (desc data : List Byte) : List Byte :=
  leBytes 2 ring ++ [BitVec.ofNat 8 (b2n first + 2 * b2n resend), 0] ++ leBytes 4 prev.toNat ++ desc ++ data

/-- A request noted as sent to a target, over the rings or as a JNL FWD item to the partner. -/
def noteReq (fwd : Bool) (f : Fetched) (d : Nat) (frame : List Byte) (s : State) : State :=
  let q : ReqOut := { ring := f.ref.ring, seq := f.ref.seq, target := d, frame := frame, sent := s.now, resends := 0, gen := f.gen,
                      masked := crMasked s f.ref.ring, opcode := dOp f.bytes, answered := false, fwd := fwd }
  { s with host := { s.host with reqs := s.host.reqs ++ [q] } }

/-- A descriptor for another device: refused beyond 1,448 B, TIMEOUT where the target is not heard, otherwise sent in a REQ frame. -/
def forward (f : Fetched) (d : Nat) (s : State) : State :=
  let b := f.bytes
  if !f.payloadOk then reject f 0x10 (formatDetail rPayload 0xFF 0) s
  else if dInd b && 1448 < dLen b then reject f 0x10 (formatDetail rLen 20 0) s
  else if !heard s d then reject f 0x21 0 s
  else match asFin 64 f.ref.ring with
    | none => s
    | some n =>
      let prev := lookupO (s.host.cr.get n).prev d
      let p := reqBytes n.val prev.isNone false (prev.getD 0) b f.payload
      uniSend 6 d p (noteReq false f d p (modCr n (fun c => { c with prev := insertK d f.ref.seq c.prev }) s))

/-- The indirect payload that a JNL FWD item has room for: a normal frame's 1,520 B less its 8 and the request's 72 (R369, Table 10-3; DESIGN CHOICE, log
entry 174). -/
def fwdRoom : Nat := 1440

/-- A descriptor that the STANDBY member passes to the ACTIVE one in a JNL FWD item (R374). -/
def forwardPair (f : Fetched) (s : State) : State :=
  match partnerNum s with
  | none => s
  | some d =>
    let p := reqBytes f.ref.ring true false 0 f.bytes f.payload
    if !f.payloadOk then reject f 0x10 (formatDetail rPayload 0xFF 0) s
    else if dInd f.bytes && fwdRoom < dLen f.bytes then reject f 0x10 (formatDetail rLen 20 0) s
    else jnlSend 3 1 0 p (noteReq true f d p s)

/-- Where a descriptor of this device's rings goes: none for here. MGT work is always begun here (R359). -/
def routeOf (s : State) (b : List Byte) : Option Nat :=
  if toPartner s b then partnerNum s
  else match opInfo (dOp b), place s b with
    | some _, .remote d => if dOp b / 256 = 8 then none else some d
    | _, _ => none

/-- An earlier descriptor of the same ring waits in the buffer: for the epoch join, for Studio, or for the same target (R410, R604). -/
def blocked (s : State) (f : Fetched) (route : Option Nat) : Bool :=
  s.host.buf.any fun g => g.ref.origin == f.ref.origin && g.ref.ring == f.ref.ring &&
    (g.ref.origin != s.net.num || (routeOf s g.bytes).isNone || routeOf s g.bytes == route)

/-- A forwarded descriptor waits for earlier work of its ring elsewhere than at its own target (R413, R414). -/
def heldBack (s : State) (f : Fetched) (d : Nat) : Bool :=
  let sameTarget (r : WorkRef) : Bool := s.host.reqs.any fun q => q.ring == r.ring && q.seq == r.seq && q.target == d
  waitsOpen s (f.waits.filter fun r => !sameTarget r)

/-- One descriptor of the buffer parsed: CHECK, CRn_ALLOW, then its place (R407, R416). -/
def parse (f : Fetched) (s : State) : State :=
  let b := f.bytes
  let own := f.ref.origin == s.net.num
  let fam := dOp b / 256
  if !s.flt.studioUp then putBack f s
  else
    let route := if own then routeOf s b else none
    if blocked s f route then putBack f s
    else if u32 b 60 != descCheck f.ref.ring f.ref.seq.toNat (b.take 60) then reject f 0x11 0 s
    else if own && (8 < fam || !bitOf (reg s (crReg f.ref.ring + 0x10)) (20 + fam)) then reject f 0x13 0 s
    else match route with
      | some d =>
        if toPartner s b then forwardPair f s
        else if heldBack s f d then putBack f s
        else forward f d s
      | none => checkRest f (!own) s

/-- Every buffered descriptor parsed again, in order. -/
def parseAll (s : State) : State := forEach s.host.buf parse { s with host := { s.host with buf := [] } }

/-! ## Fetching -/

/-- A ring has an open FENCE (R414). -/
def fenceOpen (s : State) (origin ring : Nat) : Bool :=
  s.host.work.any (fun w => w.ref.origin == origin && w.ref.ring == ring && w.opcode == 1 && w.final.isNone) ||
    s.host.buf.any (fun f => f.ref.origin == origin && f.ref.ring == ring && dOp f.bytes == 1)

/-- The works that a fetched descriptor waits for. -/
def waitsFor (s : State) (origin ring : Nat) (b : List Byte) : List WorkRef :=
  (if dOp b = 1 then openWorks s origin (fun r => decide (r < 64) && bitOf (u64 b 32) r) else []) ++
    (if dFence b || fenceOpen s origin ring then openWorks s origin (· == ring) else [])

/-- Room for a fetch: the ring's queue holds no more completions than its SIZE (R415), and the fetch buffer has an entry (R521). DEDUCED, log
entry 182: the completions a CQ holds are those that the journal holds for it. -/
def fetchRoom (s : State) (n : Fin 64) : Bool :=
  (match asFin 64 (crCq s n.val) with | some q => decide ((s.host.cq.get q).held.length ≤ cqSize s q.val) | none => false) &&
    decide (s.host.firsts.length < 4096)

/-- The fetch index moves and its shadow is written (R396). -/
def fetchNext (n : Fin 64) (s : State) : State :=
  let next := ((s.host.cr.get n).fetch + 1) % crSize s n.val
  hostWrite (reg64 s (crReg n.val + 8)) (leBytes 4 next) (modCr n (fun c => { c with fetch := next }) s)

/-- A descriptor copied into the fetch buffer and, while Studio runs, parsed. -/
def fetched (n : Fin 64) (b payload : List Byte) (ok : Bool) (s : State) : State :=
  let r : WorkRef := { origin := s.net.num, ring := n.val, seq := dSeq b }
  let f : Fetched := { ref := r, bytes := b, payload := payload, payloadOk := ok, gen := (s.host.cr.get n).gen,
                       waits := waitsFor s s.net.num n.val b }
  let old := s.host.firsts.any fun x => x.ref == r
  let entry : First := { ref := r, target := (routeOf s b).getD 1024 }
  parse f { s with host := { s.host with firsts := if old then s.host.firsts else s.host.firsts ++ [entry] } }

/-- DESCRIPTOR_FETCH. -/
def execDescriptorFetch (t : Time) (ring : Fin 64) (bytes payload : List Byte) (rd : HostRead) (s : State) : Out :=
  let s := s.at_ t
  let c := s.host.cr.get ring
  let whole := bytes.length == 64 && payload.length == (if dInd bytes then dLen bytes else 0)
  when (hubUp s && c.state == 1 && c.fetch != c.tail && fetchRoom s ring)
    (fun s =>
      match rd with
      | .ringFail k => ringFails ring k.val s
      | .payloadFail k =>
        if bytes.length = 64 && dInd bytes then ringFails ring k.val (fetched ring bytes [] false (fetchNext ring s)) else s
      | .good => if whole then fetched ring bytes payload true (fetchNext ring s) else s) s

/-- The journal entry of a work is in the store: it counts towards ACCEPT (R29), and the entries before it are in the spill. -/
def storedEntry (w : WorkRef) (s : State) : State :=
  let kept (x : Work) : Nat := (s.host.jnl.head + (2 ^ 32 - x.jend)) % 2 ^ 32
  let left := match workOf s w with | some x => min s.host.jnl.unspilled (kept x) | none => s.host.jnl.unspilled
  let s1 := modWork w (fun x => { x with stored := true }) { s with host := { s.host with jnl := { s.host.jnl with unspilled := left } } }
  match workOf s1 w with
  | some x => if x.opcode != 0x0300 && mayAccept s1 x then acceptWork w s1 else s1
  | none => s1

/-- STORE_ACCEPT: the store write of a journal entry completes. -/
def execStoreAccept (t : Time) (w : WorkRef) (s : State) : Out :=
  let s := s.at_ t
  when (hubAlive s && !blockHeld s 0x0A8 && s.nvs.store.jobs.contains (.journal (some w)))
    (fun s => storedEntry w { s with nvs := { s.nvs with store := { s.nvs.store with jobs := s.nvs.store.jobs.erase (.journal (some w)) } } }) s

/-- A fenced work begins to take effect: an epoch-bound one reaches the device now (R413, R604). One that names no epoch joins the earliest open
set and counts no deferral; one whose named set has closed counts one. -/
def unfence (w : Work) (s : State) : State :=
  let s1 := modWork w.ref (fun w => { w with fenced := false }) s
  match w.set, chooseEpoch s1 (dEpoch w.bytes) with
  | some (_, e), some (e', late) =>
    if e < e' then (if late then deferWork e' w.ref s1 else modWork w.ref (fun w => { w with set := w.set.map fun p => (p.1, e') }) s1)
    else s1
  | _, _ => s1

/-- FENCE_RELEASE: the work of a fenced descriptor, or a forwarded one that its FENCE held back. -/
def execFenceRelease (t : Time) (w : WorkRef) (s : State) : Out :=
  let s := s.at_ t
  match workOf s w with
  | some x => when (hubUp s && x.fenced && !waitsOpen s x.waits) (unfence x) s
  | none => when (hubUp s && s.host.buf.any fun f => f.ref == w) parseAll s

/-- GATE_JOURNAL: Studio asks for the buffered descriptors up to this one (R520): Armature checks each and refuses what the cast does not claim
(R16). -/
def execGateJournal (t : Time) (w : WorkRef) (s : State) : Out :=
  let s := s.at_ t
  when (hubUp s && s.flt.studioUp && s.host.buf.any (fun f => f.ref == w)) parseAll s

/-! ## REQ and RSP (R357, R358) -/

/-- A REQ's predecessor has been taken: it is the first, or SEQ at or below the last taken, or at or below H. -/
def prevTaken (s : State) (src : Nat) (p : List Byte) : Bool :=
  let ring := bits (u16 p 0) 0 6
  let prev := w32 p 4
  let upTo (h : Word) : Bool := (h - prev).toNat < 2 ^ 31
  bitOf (u8 p 2) 0 || (s.host.reqLast.any fun x => x.1 == src && x.2.1 == ring && upTo x.2.2) ||
    (match highOf s { origin := src, ring := ring, seq := 0 } with | some h => upTo h | none => false)

/-- One REQ taken as fetched work of (origin, ring). -/
def takeReq (src : Nat) (p : List Byte) (s : State) : State :=
  let b := slice p 8 64
  let r : WorkRef := { origin := src, ring := bits (u16 p 0) 0 6, seq := dSeq b }
  let f : Fetched := { ref := r, bytes := b, payload := p.drop 72, payloadOk := true, gen := 0, waits := waitsFor s src r.ring b }
  let old := s.host.firsts.any fun x => x.ref == r
  let rest := s.host.reqLast.filter fun x => !(x.1 == src && x.2.1 == r.ring)
  parse f { s with host := { s.host with
    firsts := if old then s.host.firsts else s.host.firsts ++ [{ ref := r }]
    reqLast := (src, r.ring, r.seq) :: rest } }

/-- Held REQ frames whose predecessor has now been taken. -/
def takeHeld : Nat → Nat → State → State
  | 0, _, s => s
  | n + 1, src, s =>
    match s.host.reqHeld.find? (fun h => h.1 == src && prevTaken s src h.2.1) with
    | none => s
    | some h => takeHeld n src (takeReq src h.2.1 { s with host := { s.host with reqHeld := s.host.reqHeld.erase h } })

/-- A REQ payload judged: a bad descriptor CHECK never reaches the device; one without its predecessor is held. -/
def reqIn (src : Nat) (p : List Byte) (s : State) : State :=
  let b := slice p 8 64
  if b.length != 64 || u32 b 60 != descCheck (bits (u16 p 0) 0 6) (dSeq b).toNat (b.take 60) || (p.drop 72).length != (if dInd b then dLen b else 0) then s
  else if prevTaken s src p then takeHeld s.host.reqHeld.length src (takeReq src p s)
  else if s.host.reqHeld.any (fun h => h.1 == src && h.2.1.take 1 == p.take 1 && slice h.2.1 8 64 == b) then s
  else { s with host := { s.host with reqHeld := s.host.reqHeld ++ [(src, p, s.now)] } }

/-- A REQ payload whose descriptor names this device by its physical number (R374). -/
def reqOwn (s : State) (p : List Byte) : Bool :=
  let b := slice p 8 64
  !namesTag b && s.net.numValid && dTarget b == s.net.num

/-- REQ_RECEIVED: of a pair only the member that drives executes and answers what names the pair; each takes what names its own physical number
(R374). -/
def execReqReceived (t : Time) (src : Nat) (bytes : List Byte) (s : State) : Out :=
  let s := s.at_ t
  when (netUp s && (!mute s || reqOwn s bytes) && src < 1024) (reqIn src bytes) s

/-- REQ_HOLD_EXPIRY. -/
def execReqHoldExpiry (t : Time) (src ring : Nat) (seq : Word) (s : State) : Out :=
  let s := s.at_ t
  when (hubUp s)
    (fun s =>
      let gone (h : Nat × List Byte × Time) : Bool :=
        h.1 == src && bits (u16 h.2.1 0) 0 6 == ring && w32 h.2.1 12 == seq && decide (h.2.2 + ms 2 ≤ s.now)
      { s with host := { s.host with reqHeld := s.host.reqHeld.filter fun h => !gone h } }) s

/-- The final completion of a forwarded descriptor that this device itself decides. -/
def endReq (q : ReqOut) (status : Nat) (s : State) : State :=
  let c : Cpl := { seq := q.seq, ring := q.ring, stage := 2, status := status, epoch := 0, opcode := q.opcode, result := 0, gen := q.gen,
                   detail := 0, rlen := 0, srcdev := q.target, cflags := 4 }
  deliverRef { origin := s.net.num, ring := q.ring, seq := q.seq } { cpl := c, masked := q.masked, irq := bitOf (u16 q.frame 10) 2 }
    { s with host := { s.host with reqs := s.host.reqs.erase q } }

/-- Cut records as a MASKED ring shows them: a tag that has never had a value carries a CSW of 0 (R404). -/
def maskEmpty : Nat → List Byte → List Byte
  | 0, b => b
  | n + 1, b =>
    let r := b.take 16
    let none_ := u32 r 4 == 0 && w32 r 8 == cswAbsent && u32 r 12 == 0
    if b.length < 16 then b else (if none_ then r.take 8 ++ List.replicate 8 0 else r) ++ maskEmpty n (b.drop 16)

/-- A returned completion posted with REMOTE and the ring's own GEN; its data go to RADDR first (R358, R403, R416). -/
def rspIn (src : Nat) (b : List Byte) (s : State) : State :=
  let ring := bits (u16 b 0) 0 6
  let c := cplOf (slice b 4 32)
  match s.host.reqs.find? (fun q => q.ring == ring && q.seq == c.seq && q.target == src) with
  | none => s
  | some q =>
    let data := if q.masked && q.opcode == 0x0102 then maskEmpty (b.length / 16) (b.drop 36) else b.drop 36
    let raddr := u64 q.frame 48
    let s1 := if c.stage = 2 && !data.isEmpty && raddr != 0 then hostWrite raddr data s else s
    let keep (x : ReqOut) : Option ReqOut := if x == q then (if c.stage = 2 then none else some { x with answered := true }) else some x
    deliverRef { origin := s.net.num, ring := ring, seq := c.seq }
      { cpl := { c with ring := ring, gen := q.gen, cflags := c.cflags ||| 4 }, masked := q.masked, irq := bitOf (u16 q.frame 10) 2 }
      { s1 with host := { s1.host with reqs := s1.host.reqs.filterMap keep } }

/-- RSP_RECEIVED. -/
def execRspReceived (t : Time) (src : Nat) (bytes : List Byte) (s : State) : Out :=
  let s := s.at_ t
  when (hubUp s && decide (36 ≤ bytes.length)) (rspIn src bytes) s

/-- REQ_RESEND: after 2 ms without RSP, three times; then OUTCOME_UNKNOWN. -/
def execReqResend (t : Time) (ring : Fin 64) (seq : Word) (s : State) : Out :=
  let s := s.at_ t
  match s.host.reqs.find? (fun q => q.ring == ring.val && q.seq == seq) with
  | none => noEffect s
  | some q =>
    when (hubUp s && !q.answered && !q.fwd && decide (q.sent + ms 2 ≤ s.now))
      (fun s =>
        if 3 ≤ q.resends then endReq q 0x20 s
        else
          let again (x : ReqOut) : ReqOut := if x == q then { x with sent := s.now, resends := x.resends + 1 } else x
          let p := q.frame.take 2 ++ [BitVec.ofNat 8 (u8 q.frame 2 ||| 2)] ++ q.frame.drop 3
          uniSend 6 q.target p { s with host := { s.host with reqs := s.host.reqs.map again } }) s

/-- JNL_FWD: a descriptor of the STANDBY's rings, at the member that drives (R374). -/
def execJnlFwd (t : Time) (bytes : List Byte) (s : State) : Out :=
  let s := s.at_ t
  match partnerNum s with
  | none => noEffect s
  | some d => when (hubUp s && drivesLogical s) (reqIn d bytes) s

/-- JNL_CPL: its completion, at the STANDBY member. -/
def execJnlCpl (t : Time) (bytes : List Byte) (s : State) : Out :=
  let s := s.at_ t
  match partnerNum s with
  | none => noEffect s
  | some d => when (hubUp s && decide (36 ≤ bytes.length)) (rspIn d bytes) s

end Sys2Proof.Machine
end

