-- ==== Sys2Proof/Machine/CheckUnits.lean ====
section
/-! DEFINITION. The four check units (R554 to R556, Table 19-9): register jobs, CUJOBs, and what each does to the other. -/

namespace Sys2Proof.Machine

open Sys2Proof

/-! ## The setup of a unit -/

def cuRefin (s : State) (n : Nat) : Bool := bitOf (reg s (cuReg n)) 8
def cuRefout (s : State) (n : Nat) : Bool := bitOf (reg s (cuReg n)) 9
def cuPoly (s : State) (n : Nat) : Nat := reg64 s (cuReg n + 4)
def cuInit (s : State) (n : Nat) : Nat := reg64 s (cuReg n + 0xC)
def cuXorout (s : State) (n : Nat) : Nat := reg64 s (cuReg n + 0x14)
def cuFold (s : State) (n : Nat) : List Byte := leBytes (cuFoldw s n / 8) (reg64 s (cuReg n + 0x1C))

/-- The register after feeding bytes. -/
def cuFeed (s : State) (n : Nat) (r : Nat) (b : List Byte) : Nat := crcFeed (cuWidth s n) (cuPoly s n) (cuRefin s n) r b

/-- The register after the fold. -/
def cuBegin (s : State) (n : Nat) : Nat := cuFeed s n (cuInit s n) (cuFold s n)

/-- The result of a job. -/
def cuEnd (s : State) (n : Nat) (r : Nat) : Nat := crcEnd (cuWidth s n) (cuRefout s n) (cuXorout s n) r

/-- A job runs: CUn_STAT.BUSY. -/
def cuBusy (c : CU) : Bool := c.job.isSome || c.busy

/-- The next CUJOB begins where the unit is free. -/
def cuNext (n : Fin 4) (s : State) : State :=
  modCu n (fun c => if c.job.isNone && !c.queue.isEmpty then { c with busy := true } else c) s

/-! ## Register jobs -/

/-- A START: ignored under an illegal setup, and with BUSYREF while a job runs. -/
def cuStartJob (n : Fin 4) (s : State) : State :=
  let c := s.cu.get n
  if !cuLegal s n.val then s
  else if cuBusy c then sourceSets (0x442C + 64 * n.val) 2 (modCu n (fun c => { c with busyRef := true }) s)
  else modCu n (fun c => { c with job := some (BitVec.ofNat 64 (cuBegin s n.val)), lastAt := s.now, done := false }) s

/-- A word of a register job. -/
def cuDataWord (n : Fin 4) (w : Word) (s : State) : State :=
  match (s.cu.get n).job with
  | none => s
  | some r => modCu n (fun c => { c with job := some (BitVec.ofNat 64 (cuFeed s n.val r.toNat (leBytes 4 w.toNat))), lastAt := s.now }) s

/-- The last word of a register job; a byte count of 0 or above 4 is ignored. -/
def cuLastWord (n : Fin 4) (k : Nat) (w : Word) (s : State) : State :=
  match (s.cu.get n).job with
  | none => s
  | some r =>
    if k = 0 || 4 < k then s
    else
      let v := cuEnd s n.val (cuFeed s n.val r.toNat (leBytes k w.toNat))
      cuNext n (modCu n (fun c => { c with job := none, done := true, result := BitVec.ofNat 64 v }) s)

/-- The unit is held in a C3 reset (Table 15-3). -/
def cuHeld (s : State) (n : Fin 4) : Bool := blockHeld s (0x0A0 + n.val)

/-- CU_START. -/
def execCuStart (t : Time) (n : Fin 4) (s : State) : Out :=
  let s := s.at_ t
  when (hubAlive s && !cuHeld s n) (cuStartJob n) s

/-- CU_DATA. -/
def execCuData (t : Time) (n : Fin 4) (word : Word) (s : State) : Out :=
  let s := s.at_ t
  when (hubAlive s && !cuHeld s n) (cuDataWord n word) s

/-- CU_LAST. -/
def execCuLast (t : Time) (n : Fin 4) (nbytes : Fin 8) (word : Word) (s : State) : Out :=
  let s := s.at_ t
  when (hubAlive s && !cuHeld s n) (cuLastWord n nbytes.val word) s

/-- CU_ABORT: a CUJOB waits, and 10 ms have passed since the job's last word or its START. -/
def execCuAbort (t : Time) (n : Fin 4) (s : State) : Out :=
  let s := s.at_ t
  let c := s.cu.get n
  when (hubAlive s && c.job.isSome && !c.queue.isEmpty && decide (c.lastAt + ms 10 ≤ s.now))
    (fun s => cuNext n (sourceSets (0x442C + 64 * n.val) 1 (modCu n (fun c => { c with job := none, aborted := true }) s))) s

/-! ## CUJOB -/

/-- A CUJOB takes its place behind those of its unit. -/
def cuQueue (n : Fin 4) (r : WorkRef) (s : State) : State := cuNext n (modCu n (fun c => { c with queue := c.queue ++ [r] }) s)

/-- CUJOB_DONE: the running CUJOB writes its 8 bytes to RADDR and completes; the next of its unit begins. -/
def execCujobDone (t : Time) (n : Fin 4) (s : State) : Out :=
  let s := s.at_ t
  let c := s.cu.get n
  match c.queue with
  | [] => noEffect s
  | r :: rest =>
    when (hubUp s && !cuHeld s n && c.busy)
      (fun s =>
        let data := ((workOf s r).map (·.payload)).getD []
        let v := cuEnd s n.val (cuFeed s n.val (cuBegin s n.val) data)
        cuNext n (finishData r 0 (leBytes 8 v) (modCu n (fun c => { c with queue := rest, busy := false }) s))) s

end Sys2Proof.Machine
end

