-- ==== Sys2Proof/Machine/Opcodes.lean ====
section
/-! DEFINITION. What each descriptor does once it has passed its checks (Table 12-7), but for images and management: one meaning per
opcode over the shared taking-up of a work. -/

namespace Sys2Proof.Machine

open Sys2Proof

/-! ## Taking up a work -/

/-- Every earlier class J work of the same origin and ring has been taken up or is complete (R411). -/
def earlierTaken (s : State) (w : Work) : Bool :=
  (s.host.work.takeWhile fun x => x.ref != w.ref).all fun x =>
    !x.classJ || x.ref.origin != w.ref.origin || x.ref.ring != w.ref.ring || x.taken || x.final.isSome

/-- A member that keeps its partner's journal takes up, of the work that it mirrors, what its own tiles and sets need: the epoch-bound
opcodes, RELEASE and REFLEXREL (R199, R373). -/
def mayRun (s : State) (w : Work) : Bool :=
  !mirrors s || localWork s w || (match opInfo w.opcode with | some (_, e) => e | none => false) || w.opcode == 0x0405 || w.opcode == 0x0407

/-- A work that its opcode's row may take up now. Class J work that is not epoch-bound takes effect once accepted (R402). -/
def readyWork (s : State) (r : WorkRef) (op : Nat) : Option Work :=
  match workOf s r with
  | none => none
  | some w =>
    let bound := match opInfo op with | some (_, e) => e | none => false
    if w.opcode == op && !w.taken && !w.fenced && w.final.isNone && mayRun s w &&
        (!w.classJ || earlierTaken s w && (bound || w.accepted)) then some w else none

/-- A work marked as taken up. -/
def takeUp (r : WorkRef) (s : State) : State := modWork r (fun w => { w with taken := true }) s

/-- One opcode's effect on a work that is ready for it. -/
def onWork (r : WorkRef) (op : Nat) (f : Work → State → State) (s : State) : Out :=
  match readyWork s r op with
  | some w => when (hubUp s) (fun s => f w (takeUp r s)) s
  | none => noEffect s

/-- The final completion of a work that is this member's own to complete; a mirrored one completes with the ACTIVE member's. -/
def endWork (w : Work) (result : Nat) (s : State) : State := if mirrors s && !localWork s w then s else finishDone w.ref result s

/-! ## Commit sets (R308, R313, R411, R412) -/

/-- Where a work stands in the order of journaling. -/
def workPos (s : State) (r : WorkRef) : Nat := (s.host.work.takeWhile fun w => w.ref != r).length

/-- A set's items with those of one work placed by the order of journaling. -/
def placeItems (s : State) (r : WorkRef) (new old : List SetItem) : List SetItem :=
  let n := workPos s r
  (old.filter fun i => decide (workPos s i.w < n)) ++ new ++ old.filter fun i => !decide (workPos s i.w < n)

/-- The items of a work join the set of its group for its epoch; where that set has closed, the earliest open one, as a deferral. -/
def joinWork (w : Work) (s : State) : State :=
  match w.set with
  | none => s
  | some (g, e) =>
    let m := eMin s
    let e' := max e m
    let s1 := if e < m then deferWork m w.ref s else s
    let s2 := joinSet g e' [] s1
    let new := w.acts.map fun a => { w := w.ref, act := a : SetItem }
    let put (c : CSet) : CSet := if c.group = g && c.epoch = e' then { c with items := placeItems s2 w.ref new c.items } else c
    { s2 with ep := { s2.ep with sets := s2.ep.sets.map put } }

/-- TAGWRITE: the value joins the commit set of its tag's group. -/
def execTagwrite (t : Time) (w : WorkRef) (s : State) : Out := onWork w 0x0100 joinWork (s.at_ t)

/-- TAGWRITEN: every value of the list joins the commit set of their group. -/
def execTagwriten (t : Time) (w : WorkRef) (s : State) : Out := onWork w 0x0101 joinWork (s.at_ t)

/-- RESTOREACK: the acknowledgement of every channel of the mask joins their group's commit set (R44). -/
def execRestoreack (t : Time) (w : WorkRef) (s : State) : Out := onWork w 0x0103 joinWork (s.at_ t)

/-- OVERRIDE: level 5 takes the value at its epoch (R68). -/
def execOverride (t : Time) (w : WorkRef) (s : State) : Out := onWork w 0x0403 joinWork (s.at_ t)

/-- OVRELEASE: level 5 is released at its epoch (R27). -/
def execOvrelease (t : Time) (w : WorkRef) (s : State) : Out := onWork w 0x0404 joinWork (s.at_ t)

/-- COUCH: the order joins the own group's commit set for E0 (R376). -/
def execCouch (t : Time) (w : WorkRef) (s : State) : Out := onWork w 0x0700 joinWork (s.at_ t)

/-! ## NOP, FENCE, TAGREAD -/

/-- NOP: DONE and nothing else. -/
def execNop (t : Time) (w : WorkRef) (s : State) : Out := onWork w 0x0000 (fun w s => endWork w 0 s) (s.at_ t)

/-- FENCE: DONE once all earlier work of the named rings, and of its own where it fences or is fenced, is complete (R414). -/
def execFence (t : Time) (w : WorkRef) (s : State) : Out :=
  let s := s.at_ t
  match workOf s w with
  | some x => if waitsOpen s x.waits then noEffect s else onWork w 0x0001 (fun w s => endWork w 0 s) s
  | none => noEffect s

/-- The cut record that a TAGREAD returns for a tag: its latest value, or the empty record of R404. -/
def readRecord (s : State) (masked : Bool) (t : Word) : List Byte :=
  match (tagParts t).bind fun p => lookupO s.ep.tags p.2 with
  | some r => recordBytes t r
  | none => recordBytes t { value := 0, csw := if masked then 0 else cswAbsent, epoch := 0 }

/-- TAGREAD: one cut record per tag to RADDR. -/
def execTagread (t : Time) (w : WorkRef) (s : State) : Out :=
  onWork w 0x0102 (fun w s => finishData w.ref 0 ((readTags w.bytes w.payload).flatMap (readRecord s w.masked)) s) (s.at_ t)

/-! ## HARTTX -/

/-- HARTTX: the transaction is queued for the channel's ad hoc window (R147). With the channel in NOLINK at a member that executes it ends NOTSENT
at once (Table 04-7); work queued before an interruption, or accepted before a hub reset, waits for HART service instead (R153; DEDUCED, log
entry 134). -/
def execHarttx (t : Time) (w : WorkRef) (s : State) : Out :=
  onWork w 0x0200 (fun w s =>
    match asFin 96 (dK w.bytes) with
    | some k =>
      if !hartLinked s k && !mirrors s && !w.again then endTransaction k w.ref 5 [] s
      else hartResume k (modHart k (fun h => { h with queue := queueWork s.net.num w.ref h.queue }) s)
    | none => s) (s.at_ t)

/-! ## Trims (R116 to R121) -/

/-- A channel armed: any other is disarmed, an output channel's zero point is driven through the override slot, whose override it replaces. -/
def armTrim (k : Fin 96) (b : List Byte) (s : State) : State :=
  let r := castRec s k.val
  let (z, h, st) := trimArgs r b
  let a : Armed := { k := k, zref := z, sref := h, step := st, ends := s.now + sec 600 }
  let same := match s.nvs.armed with | some x => x.k == k | none => false
  let s1 := if same then s else disarm s
  let s2 := mgtTrim k true (recordTrim 1 (srcOf 1 k.val) 0 0 { s1 with nvs := { s1.nvs with armed := some a } })
  if isOutF (chFunc r) then showPoint a (modChan k (fun c => { c with ovr := none }) s2) else s2

/-- TRIMARM. -/
def execTrimarm (t : Time) (w : WorkRef) (s : State) : Out :=
  onWork w 0x0400 (fun w s =>
    match asFin 96 (dK w.bytes) with
    | some k => endWork w 0 (armTrim k w.bytes s)
    | none => s) (s.at_ t)

/-- TRIMDISARM: the named channel is disarmed where it is the armed one. -/
def execTrimdisarm (t : Time) (w : WorkRef) (s : State) : Out :=
  onWork w 0x0401 (fun w s =>
    let armed := match s.nvs.armed with | some a => a.k.val == dK w.bytes | none => false
    endWork w 0 (if armed then disarm s else s)) (s.at_ t)

/-- A trim-store key returned to the identity line, journaled as the line through its references (R120). -/
def clearTrim (k func range : Nat) (s : State) : State :=
  let mine (x : Trim) : Bool := x.k == k && x.func == func && x.range == range
  match s.nvs.trims.find? mine with
  | none => s
  | some x =>
    let s1 := storeTrim { x with zx := x.zref, sx := x.sref } s
    let s2 := { s1 with nvs := { s1.nvs with trims := s1.nvs.trims.filter fun y => !mine y } }
    let s3 := match asFin 96 k with
      | some j => if u8 (castRec s2 k) 2 = func && chRange (castRec s2 k) = range then trimFollow j s2 else s2
      | none => s2
    match s3.nvs.armed with
    | some a => if a.k.val = k && isOutF (chFunc (castRec s3 k)) then showPoint a s3 else s3
    | none => s3

/-- TRIMCLEAR. -/
def execTrimclear (t : Time) (w : WorkRef) (s : State) : Out :=
  onWork w 0x0402 (fun w s => endWork w 0 (clearTrim (dK w.bytes) (u8 w.bytes 34) (u8 w.bytes 35) s)) (s.at_ t)

/-! ## RELEASE, TEST, REFLEXREL -/

/-- RELEASE: judged by each member against its own latches; the completion carries the ACTIVE member's result (R199). -/
def execRelease (t : Time) (w : WorkRef) (s : State) : Out :=
  onWork w 0x0405 (fun w s =>
    match asFin 96 (dK w.bytes) with
    | some k => let (code, s1) := releaseLatch k (u8 w.bytes 34) s; endWork w code s1
    | none => s) (s.at_ t)

/-- TEST: it waits for the first window of its kind that covers the channel (R607). A cast changed since its checks judges it again
(R608). -/
def execTest (t : Time) (w : WorkRef) (s : State) : Out :=
  onWork w 0x0406 (fun w s =>
    match asFin 96 (dK w.bytes) with
    | some k =>
      (match testMissing s k (u8 w.bytes 34) with
        | some res => finishClaim w.ref res s
        | none => { s with misc := { s.misc with tests := s.misc.tests ++ [{ w := w.ref, k := k, kind := u8 w.bytes 34, since := s.now }] } })
    | none => s) (s.at_ t)

/-- A LATCH entry that has fired is released: one of a tile at the stamp of the command that the tile receives (R73), one of the hub at once,
with the hub reflexes whose literals this changes evaluated (R281). -/
def releaseReflex (b : List Byte) (s : State) : State :=
  let e := u16 b 34
  if u8 b 32 = 0 then
    match asFin 12 (e / 64) with
    | none => s
    | some t =>
      (match (trefRecs s t).find? (fun r => trEntry r == e % 64) with
        | some r => (match asFin 8 (trTgt r) with | some c => mgtSend t (.refRel (trEntry r)) c s | none => s)
        | none => s)
  else
    match (castAll s (·.href)).find? (fun r => hrEntry r == e) with
    | some r => if hrLatch r && (hrefSt s e).fired then withHref (releaseHref r) s else s
    | none => s

/-- REFLEXREL. -/
def execReflexrel (t : Time) (w : WorkRef) (s : State) : Out :=
  onWork w 0x0407 (fun w s => endWork w 0 (releaseReflex w.bytes s)) (s.at_ t)

/-! ## Recorder (R551, R552) -/

/-- Records taken in order until one would pass the limits. -/
def takeRecords : Nat → Nat → List (List Byte) → List (List Byte)
  | 0, _, _ => []
  | _, _, [] => []
  | n + 1, room, r :: rest => if room < r.length then [] else r :: takeRecords n (room - r.length) rest

/-- The LOSTRANGE record made for a reply: from FIRSTSEQ to just before the oldest record. Its SEQ belongs to no record held: a free
value (log entry 3). -/
def lostFor (first oldest : Word) (s : State) : List Byte × State :=
  let (v, s1) := freeW s
  (recBytes { evt := { type := 0x0A01, source := srcOf 15 0, flags := unlockedFlag s, args := [first, oldest - 1], time := sysNs s }, seq := v }, s1)

/-- The records of a RECREAD that its answer has room for. -/
def readRecords (room : Nat) (b : List Byte) (s : State) : List (List Byte) × State :=
  let first := w32 b 32
  let held := recHeld s
  let known := first == 0xFFFFFFFF || held.any fun r => r.seq == first
  let from_ := if first == 0xFFFFFFFF || !known then held else held.dropWhile fun r => r.seq != first
  let rows := (from_.filter fun r => decide (u8 b 52 ≤ r.evt.cls)).map recBytes
  let (lead, s1) := match known, held.head? with
    | false, some o => (fun x : List Byte × State => ([x.1], x.2)) (lostFor first o.seq s)
    | _, _ => ([], s)
  (takeRecords (u16 b 36) (min (u32 b 48) room) (lead ++ rows), s1)

/-- RECREAD: whole records to RADDR; RESULT is their number. -/
def execRecread (t : Time) (w : WorkRef) (s : State) : Out :=
  onWork w 0x0500 (fun w s => let (l, s1) := readRecords (dataRoom s w.ref.origin) w.bytes s; finishData w.ref l.length l.flatten s1) (s.at_ t)

/-- The words of a note without trailing zero words; at least one. -/
def trimNote (ws : List (List Byte)) : List Byte :=
  let l := (ws.reverse.dropWhile allZero).reverse
  if l.isEmpty then [0, 0, 0, 0] else l.flatten

/-- The text of a RECNOTE. -/
def noteText (w : Work) : List Byte :=
  if dInd w.bytes then w.payload else trimNote ((List.range 6).map fun i => slice w.bytes (32 + 4 * i) 4)

/-- RECNOTE: the note enters the event queue, with the instant of its ACCEPT; its DONE follows when its record is opened, and names its
SEQ. It waits while the queue has no room for it (R544). -/
def execRecnote (t : Time) (w : WorkRef) (s : State) : Out :=
  let s := s.at_ t
  if recQueueMax - recQueueKept ≤ s.recd.queue.length then noEffect s
  else
    onWork w 0x0501 (fun w s =>
      let at_ := ((w.acceptedAt : Int) + s.sysOff).toNat / 2 % 2 ^ 64
      recordEvt { type := 0x0802, source := srcOf 7 w.ref.ring, flags := unlockedFlag s, text := noteText w, time := at_ } s) s

/-- CUJOB: the job takes its place at its unit (R556). -/
def execCujob (t : Time) (w : WorkRef) (s : State) : Out :=
  onWork w 0x0600 (fun w s =>
    match asFin 4 (u8 w.bytes 32) with
    | some n => cuQueue n w.ref s
    | none => s) (s.at_ t)

/-! ## The pair (R367, R379) -/

/-- SEIZE: an ORPHAN with a cast becomes ACTIVE unless W2 shows a healthy partner. -/
def execSeize (t : Time) (w : WorkRef) (s : State) : Out :=
  onWork w 0x0701 (fun w s =>
    if s.pair.state = .orphan && s.img.cast.isSome && s.pair.wit.2.1 then endWork w 0 (goActive s) else endWork w 1 s) (s.at_ t)

/-- YIELD: a PARTNERED ACTIVE member yields to its partner. -/
def execYield (t : Time) (w : WorkRef) (s : State) : Out :=
  onWork w 0x0702 (fun w s => if mayYield s then sendYield 7 0 (endWork w 0 s) else endWork w 1 s) (s.at_ t)

end Sys2Proof.Machine
end

