-- ==== Sys2Proof/Machine/Faults.lean ====
section
/-! DEFINITION. Fault events, their acknowledgement and configuration (R471 to R491), and the key watchdog of Armature (R497 to R500). -/

namespace Sys2Proof.Machine

open Sys2Proof

/-! ## Events (R472, R473) -/

/-- The rails of a source as injected: 0 not at all, 1 asserted, 2 and 3 invalid (Table 19-6). -/
def injOf (s : State) (id : Nat) : Nat := if s.flt.injEn then (srcEntry s id).inj.val else 0

/-- A source marked as asserted by its injected rails. -/
def holdAsserted (on : Bool) (id : Nat) (s : State) : State := if on then modSrc id (fun e => { e with asserted := true }) s else s

/-- Source 0x022 says that the host interface is locked: GLB_STAT shows it until a hub reset (R420, Table 15-1; DEDUCED, log entry 109). -/
def hostLocks (ids : List Nat) (s : State) : State := if ids.contains 0x022 then { s with host := { s.host with locked := true } } else s

/-- FAULT_EVENT: healthy sources assert for two cycles. A source that stays asserted gives no further event. An injected source stays
asserted until it is released, and so does the host interface's lock (R420); any other one is taken as healthy again right after its event (log
entry 30). What the block of an injected source reports does not reach the collector (R490). -/
def execFaultEvent (t : Time) (srcs : List Nat) (inj : Bool) (s : State) : Out :=
  let s := s.at_ t
  let fresh (id : Nat) : Bool := !(srcEntry s id).asserted && injOf s id == b2n inj
  let ids := srcs.filter fresh
  when (hubAlive s && !ids.isEmpty) (fun s => raiseAll false inj ids (forEach ids (fun id => holdAsserted (inj || id == 0x022) id) (hostLocks ids s))) s

/-- WIRE_FAULT: invalid rails for two cycles; the source counts as asserted while they last. -/
def execWireFault (t : Time) (src : Nat) (inj : Bool) (s : State) : Out :=
  let s := s.at_ t
  let fresh := if inj then !(srcEntry s src).asserted && decide (2 ≤ injOf s src) else injOf s src == 0
  when (hubAlive s && faultListed src && fresh) (fun s => raiseAll true inj [src] (holdAsserted inj src (hostLocks [src] s))) s

/-! ## Acknowledgement (R476, R482) -/

/-- PEND of a source cleared. -/
def clearPend (id : Nat) (s : State) : State := modSrc id (fun e => { e with pend := false }) s

/-- The recovery column of Table 15-3. -/
def recoverTime : BlockId → Time
  | .studio => ms 1500
  | .tl _ => ms 250
  | .pel _ => ms 10
  | .prt => ms 10
  | .cu _ => us 10
  | .enc _ => ms 100
  | .nvs => ms 500
  | .recorder => ms 10

/-- Every unfinished erase completed: its done record is written (R532, R533). A firmware slot that was being loaded is left erased. -/
def intentScan (s : State) : State :=
  let s1 := cutLoad s
  { s1 with nvs := { s1.nvs with store := { s1.nvs.store with
      erases := s1.nvs.store.intents.foldl (fun m i =>
        let p := lookupD s1.nvs.store.map i.1 i.1
        insertK p (lookupD m p 0 + 1) m) s1.nvs.store.erases
      intents := []
      jobs := s1.nvs.store.jobs.filter fun j => match j with | .erase _ _ => false | _ => true } } }

/-- A block released from its reset. -/
def dropBlock (id : Nat) (s : State) : State := { s with flt := { s.flt with blocks := s.flt.blocks.filter fun b => b.1 != id } }

/-- A block back in time: Armature acknowledges its C3 event. -/
def blockBack (b : BlockId) (id : Nat) (s : State) : State :=
  let s1 := if (srcEntry s id).ecls = 3 then clearPend id s else s
  let s2 := if b = .nvs then intentScan s1 else s1
  dropBlock id s2

/-- BLOCK_RECOVERY: a block held for at least 1 µs is back; or it is not within its time, and the collector raises its source again. -/
def execBlockRecovery (t : Time) (src : Nat) (back : Bool) (s : State) : Out :=
  let s := s.at_ t
  match blockOf src, s.flt.blocks.find? (fun b => b.1 == src) with
  | some b, some (_, from_) =>
    if back then when (hubAlive s && decide (from_ + us 1 ≤ s.now)) (blockBack b src) s
    else when (hubAlive s && decide (from_ + recoverTime b ≤ s.now)) (fun s => raise src (dropBlock src s)) s
  | _, _ => noEffect s

/-- TRAP_HANDLER_END: Armature's trap handler ends. -/
def execTrapHandlerEnd (t : Time) (src : Nat) (s : State) : Out :=
  let s := s.at_ t
  let e := srcEntry s src
  when (hubAlive s && e.pend && e.ecls == 2) (clearPend src) s

/-- TRAP_ACK_TIMEOUT: PEND of a C2 event still stands after 2 ms. -/
def execTrapAckTimeout (t : Time) (src : Nat) (s : State) : Out :=
  let s := s.at_ t
  let e := srcEntry s src
  when (hubAlive s && e.pend && e.ecls == 2 && decide (e.since + ms 2 ≤ s.now)) (raise 0x006) s

/-- C4_PEND_AUTO_CLEAR: 60 s after the first committed epoch that follows the reset, or after the configuration was loaded where the device has
no cast. -/
def execC4PendAutoClear (t : Time) (src : Nat) (s : State) : Out :=
  let s := s.at_ t
  let e := srcEntry s src
  let from_ : Option Time := if s.img.cast.isSome then s.flt.firstCommit else if s.flt.loaded then some s.flt.loadedAt else none
  let due := match from_ with | some a => decide (a + sec 60 ≤ s.now) | none => false
  when (hubAlive s && e.pend && e.ecls == 4 && due) (clearPend src) s

/-- A write of 1 to PEND: for C1 and C4 alone; otherwise ignored and recorded (R567). An event in the same CCLK cycle keeps PEND set (R12).
A reserved source has no entry. -/
def pendWrite (requester id : Nat) (s : State) : State :=
  let e := srcEntry s id
  if !faultListed id then s
  else if e.ecls = 1 || e.ecls = 4 then (if clears s (0x3004 + 8 * id) 2 1 then clearPend id s else s)
  else recordRefused (0x3004 + 8 * id) requester s

/-- PEND_CLEAR. -/
def execPendClear (t : Time) (src : Nat) (s : State) : Out :=
  let s := s.at_ t
  when (hubAlive s) (pendWrite 1024 src) s

/-! ## Configuration (R478 to R480) -/

/-- A FLTCFG record (Table 18-3): 1 APPLIED, 2 REFUSED. -/
def recordFltcfg (id ev field value : Nat) (s : State) : State := record 0x0102 (srcOf 0 id) ev (value % 256 + 256 * field) [] s

/-- A value that a field may take: CLASS not below MINCLASS, IGNORE where that is C1; WCLASS C1 to C5 and not below MINCLASS. -/
def fltLegal (e : FltSt) (field value : Nat) : Bool :=
  match field with
  | 0 => (value == 0 && e.min == 1) || (decide (e.min ≤ value) && decide (1 ≤ value) && decide (value ≤ 5))
  | 1 => decide (e.min ≤ value) && decide (1 ≤ value) && decide (value ≤ 5)
  | _ => decide (value ≤ 1)

/-- An entry with one configuration field set. -/
def fltSet (field value : Nat) (e : FltSt) : FltSt :=
  match field with
  | 0 => { e with cls := value }
  | 1 => { e with wcls := value }
  | _ => { e with errdrv := value = 1 }

/-- A source's applied configuration kept in the store. -/
def keepFlt (id : Nat) (s : State) : State :=
  let e := srcEntry s id
  controlWrite { s with flt := { s.flt with store := (id, e.cls, e.wcls, e.errdrv) :: s.flt.store.filter fun x => x.1 != id } }

/-- A configuration request of the host or of Studio: applied by Armature, or ignored; recorded in both cases. -/
def fltRequest (id field value : Nat) (s : State) : State :=
  if !faultListed id then s
  else if s.flt.cfgLock || !fltLegal (srcEntry s id) field value then recordFltcfg id 2 field value s
  else recordFltcfg id 1 field value (keepFlt id (modSrc id (fltSet field value) s))

/-- FLT_CONFIG_REQUEST. -/
def execFltConfigRequest (t : Time) (src : Nat) (field : Fin 3) (value : Nat) (s : State) : Out :=
  let s := s.at_ t
  when (hubAlive s) (fltRequest src field.val value) s

/-- Armature loads the applied configuration after a reset (R480). -/
def fltLoad (s : State) : State :=
  let put (x : Nat × Nat × Nat × Bool) (s : State) : State :=
    modSrc x.1 (fun e => { e with cls := x.2.1, wcls := x.2.2.1, errdrv := x.2.2.2 }) s
  let s1 := forEach s.flt.store put s
  { s1 with flt := { s1.flt with loaded := true, loadedAt := s1.now } }

/-! ## Injection (R490, R491) -/

/-- INJ written: the rails follow it. ASSERT of rails newly forced invalid comes with their wire fault. -/
def injSet (id : Nat) (v : Fin 4) (s : State) : State :=
  if !s.flt.injEn || !faultListed id then s
  else modSrc id (fun e => { e with
    inj := v
    asserted := if v = 0 then false else if 2 ≤ v.val && e.inj.val < 2 then false else e.asserted }) s

/-- INJ_WRITE. -/
def execInjWrite (t : Time) (src : Nat) (value : Fin 4) (s : State) : Out :=
  let s := s.at_ t
  when (hubAlive s) (injSet src value) s

/-! ## LOCK -/

/-- TILE_LINK_MASTERS_STOP: 20 µs after LOCK was sent (R485). -/
def execTileLinkMastersStop (t : Time) (s : State) : Out :=
  let s := s.at_ t
  let due := match s.flt.mastersStop with | some a => decide (a ≤ s.now) | none => false
  when (hubAlive s && s.flt.lock && due)
    (fun s => { s with link := s.link.all fun l => { l with hubSilent := true, stoppedAt := none }, flt := { s.flt with mastersStop := none } }) s

/-! ## The watchdog of Armature (R497 to R500) -/

/-- t of WDA: whole ticks of 4,096 CCLK cycles (600 MHz) since the last good service or EN. A write in the last cycle of a tick is judged against the
count before its increment (R499). -/
def wdaTicks (s : State) : Nat := since s s.pwr.wda.from_ * 3 / 40960

/-- WDA changed. -/
def modWda (f : Wdg → Wdg) (s : State) : State := { s with pwr := { s.pwr with wda := f s.pwr.wda } }

/-- A judgement that raises its source: 2 EARLY, 3 SEQUENCE, 4 EXPIRE. LAST has no code for EXPIRE (Table 19-7). -/
def wdaFault (code : Nat) (s : State) : State :=
  raise code (modWda (fun w => { w with last := if code = 4 then w.last else code, expired := w.expired || code = 4 }) s)

/-- One service of Armature judged (R498). -/
def wdaService (key : Byte) (s : State) : State :=
  let w := s.pwr.wda
  let n := wdaTicks s
  if !w.en || w.expired then s
  else if w.close + w.open_ ≤ n then wdaFault 4 s
  else if n < w.close then wdaFault 2 s
  else if key = w.key then
    modWda (fun w => { w with from_ := s.now, key := if w.key = 0x5C then 0xA3 else 0x5C, last := 1, good := (w.good + 1) % 65536 }) s
  else wdaFault 3 s

/-- WDA_KEY: a host write is ignored and recorded. -/
def execWdaKey (t : Time) (key : Byte) (byHost : Bool) (s : State) : Out :=
  let s := s.at_ t
  when (hubAlive s) (if byHost then recordRefused 0x280C 1024 else wdaService key) s

/-- WDA_EXPIRE: t has reached CLOSE + OPEN. -/
def execWdaExpire (t : Time) (s : State) : Out :=
  let s := s.at_ t
  let w := s.pwr.wda
  when (hubAlive s && w.en && !w.expired && decide (w.close + w.open_ ≤ wdaTicks s)) (wdaFault 4) s

end Sys2Proof.Machine
end

