-- ==== Sys2Proof/Machine/StageRecords.lean ====
section
/-! DEFINITION. Staging class 3 for channels, tiles, profiles, lanes, reflexes and fallback records: every field against its legal
values, and the references between records (R83, R451 to R463). Each check lists the failing fields of one record as pairs of a field
offset and a result code. -/

namespace Sys2Proof.Machine

open Sys2Proof

/-- Failing fields of one record: offset in the record, and a code of Table 13-8. -/
abbrev Chk := List (Nat × Nat)

/-- RECORD at a field. -/
def badField (c : Bool) (o : Nat) : Chk := if c then [(o, 0x300)] else []

/-- REFERENCE at a field. -/
def badRef (c : Bool) (o : Nat) : Chk := if c then [(o, 0x301)] else []

/-- A field outside `lo` to `hi`. -/
def outside (v lo hi o : Nat) : Chk := badField (v < lo || hi < v) o

/-- Fields that the record's function does not use, each given by offset and length: not 0 is RECORD (R451). -/
def unused (r : Rec) (l : List (Nat × Nat)) : Chk := l.flatMap fun (o, n) => badField (uN r o n != 0) o

/-- Unused bytes of a range, each on its own. -/
def unusedBytes (r : Rec) (o n : Nat) : Chk := (List.range n).flatMap fun i => badField (u8 r (o + i) != 0) (o + i)

/-- A finding of a check of a record. -/
def recFinding (d : DirEnt) (i : Nat) (c : Nat × Nat) : Finding :=
  { code := c.2, cls := 3, ownerA := ownerRef d.code i, offset := d.off + i * recSize d.code + c.1 }

/-- Findings of one section: the check of each record in turn. -/
def checkSection (b : List Byte) (code : Nat) (f : Nat → Rec → Chk) : List Finding :=
  let d := section_ b code
  (primary b code).zipIdx.flatMap fun (r, i) => (f i r).map (recFinding d i)

/-! ## Channels (Tables 03-2, 05-2, 06-1, 07-3, 14-2 to 14-4) -/

/-- Channel record `k` of an image. -/
def imgChan (i : Image) (k : Nat) : Rec := if k < 96 then i.chan.getD k [] else []

/-- FUNC of channel `k`. -/
def imgFunc (i : Image) (k : Nat) : Func := chFunc (imgChan i k)

/-- Channel `k` is an output. -/
def imgOut (i : Image) (k : Nat) : Bool := k < 96 && isOutF (imgFunc i k)

/-- The largest RANGE code of a FUNC code (R453). -/
def rangeMax (f : Nat) : Nat :=
  match f with
  | 1 => 2 | 2 => 1 | 3 => 3 | 4 => 8 | 5 => 1 | 6 => 1 | _ => 0

/-- The DIAG flags that a record may carry (Table 07-3). -/
def diagLegal (r : Rec) : Nat :=
  let open_ := match chFunc r with
    | .aii => chRange r == 0 | .rtd | .tc | .aoi | .dout => true | _ => false
  let out := chFunc r == .dout
  b2n open_ + (if out then 2 + 4 else 0) + (if out && chLclass r != 5 then 8 else 0) + (if chFunc r == .off then 0 else 16)

/-- The diagnostic slot covers channel `k` (R605). -/
def slotCoversIn (i : Image) (d : Rec) (k : Nat) : Bool :=
  if dgKind d = 2 then chIso (imgChan i k) && isoGroup (i.tile.getD (k / 8) []) == dgTile d
  else k / 8 == dgTile d && bitOf (u8 d 2) (k % 8)

/-- Some slot of a kind covers channel `k`. -/
def coveredBy (i : Image) (kind k : Nat) : Bool := i.diag.any fun d => dgKind d == kind && slotCoversIn i d k

/-- Comparator sources and thresholds (R454). -/
def cmpCheck (r : Rec) (src rise : Nat) : Chk :=
  let allowed := match chFunc r with
    | .off | .di | .nam | .cnt => [0]
    | .dout => [0, 2, 3]
    | _ => [0, 1, 3]
  badField (!allowed.contains src) 7 ++
    (if src = 0 then unused r [(rise, 4), (rise + 4, 4)] else badField (!ltF (w32 r (rise + 4)) (w32 r rise)) rise)

/-- Fields of every function other than FUNC, RANGE and the function block. -/
def commonCheck (i : Image) (k : Nat) (r : Rec) : Chk :=
  let f := chFunc r
  let analog := isAnalogF f
  let digital := f == .di || f == .nam || f == .cnt
  let flags := u8 r 5
  let diag := u16 r 10
  let iso := chIso r
  outside (u8 r 4) 0 (if analog then 11 else if f == .di || f == .cnt then 2 else 0) 4
    ++ badField (flags / 16 != 0 || bitOf flags 0 && f != .aii || bitOf flags 1 && f != .di && f != .cnt ||
        bitOf flags 2 && (f != .dout || k % 2 == 1) || bitOf flags 3 && f == .off) 5
    ++ badField (match f with
        | .aii => decide (3 < chHartm r) || chHartm r == 2 && (!chLoopPwr r || chRange r != 1)
        | .aoi => chHartm r == 2 || decide (3 < chHartm r)
        | _ => chHartm r != 0) 6
    ++ badRef (chHartm r != 0 && !(i.plan.any fun p => planK p == k)) 6
    ++ badField (chSense r == 3 || u8 r 7 / 64 != 0 || f == .off && chSense r != 0) 7
    ++ cmpCheck r (chCmpSrc r false) 48 ++ cmpCheck r (chCmpSrc r true) 56
    ++ outside (chFilt r) 0 (if analog then 65535 else if digital then 20000 else 0) 8
    ++ badField ((diag &&& diagLegal r) != diag ||
        [(1, 0), (2, 1), (4, 2), (3, 3)].any fun (bit, kind) => bitOf diag bit && !coveredBy i kind k) 10
    ++ (if iso then outside (u16 r 44) 20 (if f == .dout then 1000 else 5000) 44 ++ outside (u16 r 46) 10 2880 46
        else unused r [(44, 2), (46, 2)])

/-- The protection fields of a sensor supply or a switch: ILIM, INOM, RETRYT, RETRYN at their offsets (Table 06-1), in 10 mA. -/
def switchCheck (r : Rec) (il inom rt rn lo hi cap : Nat) : Chk :=
  outside (u16 r il) lo hi il ++ badField (min (u16 r il) cap < u16 r inom) inom ++ outside (u16 r rt) 10 60000 rt ++ outside (u8 r rn) 0 15 rn

/-- The function block of AIV, AII, RTD and TC. -/
def inputBlock (i : Image) (k : Nat) (r : Rec) : Chk :=
  match chFunc r with
  | .rtd =>
    let w := chWires r
    badField (w != 2 && w != 3 && (w != 4 || k % 2 == 1)) 16 ++ (if w = 2 then outside (chLeadr r) 0 10000 20 else unused r [(20, 2)])
      ++ unused r [(17, 1), (18, 2)] ++ unusedBytes r 22 22
  | .tc =>
    let c := chCjsrc r
    badRef (c != 0xFFFF && (imgFunc i c != .rtd || 1 < chRange (imgChan i c))) 18 ++ unused r [(16, 1), (17, 1)] ++ unusedBytes r 20 24
  | _ => unusedBytes r 16 28

/-- The function block of AOI and AOV (Tables 03-2, 03-4, 03-11). -/
def outputBlock (r : Rec) : Chk :=
  (if chFunc r = .aoi then
    outside (chAlmdir r) 0 3 16 ++ outside (chComplact r) 0 1 17 ++ outside (chAlmlo r) 320 380 18 ++ outside (chAlmhi r) 2080 2300 20
  else unused r [(16, 1), (17, 1), (18, 2), (20, 2)]) ++ unusedBytes r 22 22

/-- The function block of DI, NAM and CNT (Table 05-2). -/
def digitalBlock (r : Rec) : Chk :=
  let cnt := chFunc r == .cnt
  outside (chEdgerec r) (b2n cnt) 3 16 ++ unused r [(17, 1)]
    ++ (if chFunc r == .nam then unused r [(18, 2)] else outside (chDivmin r) 60 192 18)
    ++ (if cnt then outside (chFgate r) 1 10000 20 ++ outside (chFtimeo r) 100 60000 24 else unused r [(20, 4), (24, 4)])
    ++ (if chSpwr r then switchCheck r 28 30 32 34 25 50 150 else unused r [(28, 2), (30, 2), (32, 2), (34, 1)])
    ++ unusedBytes r 35 9

/-- The function block of DO (Tables 05-2, 06-1, 07-3; R185, R458). -/
def doBlock (i : Image) (r : Rec) : Chk :=
  let pg := chPgmode r
  let cls := u8 r 17
  let pair := chPairw r
  let prof := u8 r 18
  let ihold := if prof = 0 then 0 else u16 (profile i.prof prof) 8
  badField (2 < pg || cls == 4 && pg != 0) 16
    ++ badField (5 < cls && cls < 16 || 31 < cls) 17
    ++ badRef (16 ≤ cls && cls ≤ 31 && (userEnv i.prof (cls - 16)).isEmpty) 17
    ++ badRef (prof != 0 && (profile i.prof prof).isEmpty) 18
    ++ switchCheck r 20 22 24 19 (if pair then 50 else 25) (if pair then 800 else 400) (if pair then 300 else 150)
    ++ badField (cls == 4 && ihold == 0 && u16 r 20 < 30) 20
    ++ (if pg = 2 then outside (chPcount r) 1 65535 26 else unused r [(26, 2)])
    ++ (if pg = 0 then unused r [(28, 4), (32, 2)] else outside (chPwmp r) 50 10000000 28 ++ outside (chPwmd r) 0 10000 32)
    ++ (if chOpendet r then badField (chOpeni r < 10 || 500 < chOpeni r || chInom r ≤ 2 * chOpeni r) 34 else unused r [(34, 2)])
    ++ (if pg = 1 then badField (u32 r 36 != 0xFFFFFFFF && chPwmp r * 400 ≤ u32 r 36) 36 else unused r [(36, 4)])
    ++ (if chOfftest r then outside (chToff r) 1 10000 40 else unused r [(40, 2)])
    ++ unused r [(42, 2)]

/-! ### The filter coefficient (R90, R455) -/

/-- e^x for `-1 ≤ x ≤ 0` in units of 2^-200, by 40 terms of its series at x / 128 and seven squarings. -/
def expFix (x : Rat) : Int :=
  let one : Int := 2 ^ 200
  let y : Int := (x / 128 * (one : Rat)).floor
  let s := (List.range 40).foldl (fun (a : Int × Int) (n : Nat) => (a.1 + a.2, a.2 * y / one / ((n : Int) + 1))) (0, one)
  (List.range 7).foldl (fun (v : Int) _ => v * v / one) s.1

/-- A binary64 value as a rational; 0 where it is not finite. -/
def ratOf : FVal → Rat
  | .fin q => q
  | _ => 0

/-- a of R455: each operation rounded to binary64, the result to binary32. FILT in ms, RATE in samples per second. -/
def filterA (rate filt : Nat) : Word :=
  let tau := ratOf (round64 ((filt : Rat) / 1000))
  let rt := ratOf (round64 ((rate : Rat) * tau))
  let x := ratOf (round64 (-1 / rt))
  -- exp(x): below -1 the argument is halved until it is not, and the result squared as often.
  let n := (List.range 12).foldl (fun m _ => if x / ((2 ^ m : Nat) : Rat) < -1 then m + 1 else m) 0
  let e0 := expFix (x / ((2 ^ n : Nat) : Rat))
  let e := (List.range n).foldl (fun (v : Int) _ => v * v / (2 ^ 200 : Int)) e0
  let e64 := ratOf (round64 ((e : Rat) / ((2 ^ 200 : Nat) : Rat)))
  f32OfRat (ratOf (round64 (1 - e64)))

/-- FILTA against R455. -/
def filterCheck (r : Rec) : Chk :=
  let want := if isAnalogF (chFunc r) && chFilt r != 0 then filterA (chRate r) (chFilt r) else 0
  badField (chFilta r != want) 12

/-! ### Channel and tile records -/

/-- A channel record; `almOpen` where the ALMDEF strap is open (R110). -/
def chanCheck (i : Image) (almOpen : Bool) (k : Nat) (r : Rec) : Chk :=
  let f := u8 r 2
  badField (u16 r 0 != k) 0 ++
    (if 10 < f then badField true 2
     else
      outside (chRange r) 0 (rangeMax f) 3 ++ commonCheck i k r ++ filterCheck r ++
        (match chFunc r with
          | .off => unusedBytes r 16 28
          | .aoi | .aov => outputBlock r
          | .di | .nam | .cnt => digitalBlock r
          | .dout => doBlock i r
          | _ => inputBlock i k r) ++
        (if chFunc r = .aoi && chAlmdir r == 0 && almOpen then [(16, 2)] else []))

/-- TCMD slots of a tile that lanes and loop blocks claim. -/
def claimedSlots (i : Image) (t : Nat) : List Nat :=
  ((i.tlane ++ i.clane).filter fun r => laneTarget r / 8 == t).map laneSlot ++
    (i.loop.filter fun r => lpRtype r == 0 && u8 r 5 == 0 && u16 r 6 / 8 == t).map fun r => u8 r 8

/-- Partitions in slot order from entry `next` on (R457). -/
def partCheck (r : Rec) (claimed : List Nat) : Nat → List Nat → Chk
  | _, [] => []
  | next, s :: rest =>
    let o := 4 + 2 * (s - 3)
    let size := u8 r (o + 1)
    let first := u8 r o
    badField (first != if size = 0 then 0 else next) o ++
      badField ((size != 0) != claimed.contains s || size != 0 && 256 < next + size) (o + 1) ++
      partCheck r claimed (next + size) rest

/-- A tile record. -/
def tileCheck3 (i : Image) (t : Nat) (r : Rec) : Chk :=
  let g := isoGroup r
  badField (u16 r 0 != 0x8000 + t) 0 ++ badField (u8 r 2 / 2 != 0) 2 ++ badField (t < g || isoGroup (i.tile.getD g []) != g) 3 ++
    partCheck r (claimedSlots i t) 16 [3, 4, 5, 6, 7, 8]

/-- CHAN section: 96 channel records, then 12 tile records. -/
def chanFindings (b : List Byte) (i : Image) (almOpen : Bool) : List Finding :=
  checkSection b 0x04 fun n r => if n < 96 then chanCheck i almOpen n r else tileCheck3 i (n - 96) r

/-! ## Profiles (Table 14-6, R184, R458) -/

/-- Channels with DO that name a profile, by their class. -/
def profileUsers (i : Image) (n : Nat) : List Rec := i.chan.filter fun r => chFunc r == .dout && u8 r 18 == n

/-- A PROF record; breakpoints are judged in class 5 (R184). -/
def profCheck (i : Image) (r : Rec) : Chk :=
  let cls := (profileUsers i (u8 r 1)).map fun c => u8 c 17
  let has (l : List Nat) : Bool := cls.any l.contains
  let ilims := ((profileUsers i (u8 r 1)).filter fun c => u8 c 17 == 4).map fun c => u16 c 20
  if u8 r 0 = 0 then
    badField (u8 r 1 == 0) 1 ++ unused r [(2, 1)]
      ++ badField (u16 r 4 != 0xFFFF && u16 r 4 != 0 && !has [1, 2, 3]) 4
      ++ badField (u16 r 6 != 0 && (!has [4] || 1000 < u16 r 6)) 6
      ++ badField (u16 r 8 != 0 && (!has [4] || u16 r 8 < 5 || 150 < u16 r 8 || ilims.any fun m => decide (m < u16 r 8))) 8
      ++ badField (u16 r 10 != 0 && (!has [5] || 100 < u16 r 10)) 10
      ++ unusedBytes r 12 48
  else
    badField (u8 r 0 != 1) 0 ++ badField (15 < u8 r 1) 1 ++ outside (u8 r 2) 2 8 2 ++ badField (10000 < u16 r 4) 4
      ++ unused r [(6, 2), (8, 2), (10, 2)]
      ++ unused r ((List.range 8).flatMap fun j => if u8 r 2 ≤ j then [(12 + 6 * j, 4), (16 + 6 * j, 2)] else [])

/-! ## Values (R172, R245, R452) -/

/-- A command word of an image: only ON and DUTY, a DUTY of 0 to 10,000 or 16,383, and none without a generator (R172, R459). -/
def wordOk (c : Rec) (v : Word) : Bool :=
  let n := v.toNat
  let duty := bits n 3 14
  (n == bits n 0 1 + 8 * duty) && (duty ≤ 10000 || duty == 16383) && (duty == 0 || chPgmode c != 0)

/-- A VALUE for a channel; an analog value is any binary32. -/
def valueOk (c : Rec) (v : Word) : Bool := if chFunc c = .dout then wordOk c v else true

/-- FBVAL within Table 03-10's clamp of the channel's RANGE; for AOI also a quiet NaN (Table 03-2). -/
def fbvalOk (c : Rec) (v : Word) : Bool :=
  let within (lo hi : Rat) : Bool := match f32 v with | .fin q => decide (lo ≤ q) && decide (q ≤ hi) | _ => false
  match chFunc c with
  | .dout => wordOk c v
  | .aoi => isNan v && bitOf v.toNat 22 ||
      (if chRange c = 0 then within (f32Rat (f32OfRat (38 / 10))) (205 / 10) else within 0 24)
  | _ => if chRange c = 0 then within 0 (105 / 10) else within (-105 / 10) (105 / 10)

/-! ## Lanes (Tables 08-2, 14-7, 14-8; R251, R264, R459) -/

/-- The AXIS record of a context. -/
def imgAxis (i : Image) (x : Nat) : Option Rec := i.axis.find? fun r => axCtx r == x

/-- A lane record. -/
def laneCheck (i : Image) (cam : Bool) (r : Rec) : Chk :=
  let tgt := imgChan i (laneTarget r)
  let hold := u8 r 6
  badField (95 < laneNo r) 0 ++ badField (u8 r 1 != b2n cam) 1 ++ badRef (!imgOut i (laneTarget r)) 2 ++ outside (laneSlot r) 3 8 4
    ++ badField (laneCount r == 0) 10 ++ badField (laneIssue r % 10 != 0 || laneIssue r < 100 || 10000 < laneIssue r) 12
    ++ outside (laneDactOn r) 0 40000000 36 ++ outside (laneDactOff r) 0 40000000 40 ++ badField (!valueOk tgt (laneInit r)) 44
    ++ (if cam then
          badField (7 < laneCtx r) 5 ++ badRef (laneCtx r ≤ 7 && (imgAxis i (laneCtx r)).isNone) 5 ++ badField (1 < hold) 6
            ++ unused r [(16, 8), (24, 8)] ++ outside (laneTol r) 1 40000 32
            ++ (if hold = 1 then unused r [(48, 4)] else badField (!valueOk tgt (laneRdVal r)) 48)
            ++ outside (laneRdDelay r) 0 10000 52
        else
          badField (1 < u8 r 5) 5 ++ unused r [(6, 1), (32, 4), (48, 4), (52, 4)]
            ++ (if u8 r 5 = 1 then unused r [(16, 8), (24, 8)]
                else outside (laneTcyc r) 4000 34560000000000 16 ++ badField (laneTcyc r ≤ laneTphase r) 24))

/-- An entry's place, above that of the entry before it and in its lane's range (R251, R264, Table 14-8). -/
def placeOk (i : Image) (cam : Bool) (lane : Rec) (prev : Option Rec) (e : Rec) : Bool :=
  if cam then
    let m := ((imgAxis i (laneCtx lane)).map axModlen).getD 0
    let x := entX e
    (match prev with | some p => decide (entX p < x) | none => true) &&
      if 2 ≤ m then decide (0 ≤ x) && decide (x < (m : Int)) else decide (-(2 ^ 47 : Int) ≤ x) && decide (x < (2 ^ 47 : Int))
  else
    (match prev with | some p => decide (entOffset p < entOffset e) | none => true) && (laneOneshot lane || decide (entOffset e < laneTcyc lane))

/-- A schedule entry's failing fields for its lane, `prev` the entry before it there. -/
def entryCheck (i : Image) (cam : Bool) (lane : Rec) (prev : Option Rec) (e : Rec) : Chk :=
  badField (!placeOk i cam lane prev e) 0 ++ badField (!valueOk (imgChan i (laneTarget lane)) (entValue e)) 8 ++ badField ((if cam then 2 else 0) < entDir e) 12

/-- Two ERANGEs share an entry. -/
def erangesMeet (q r : Rec) : Bool :=
  decide (laneFirst q < laneFirst r + laneCount r) && decide (laneFirst r < laneFirst q + laneCount q)

/-- TSCH or PSCH: lanes, then entries (R459). An entry that no ERANGE covers, and too many entries, stand at LENGTH. -/
def scheduleFindings (b : List Byte) (i : Image) (cam : Bool) : List Finding :=
  let code := if cam then 0x07 else 0x06
  let d := section_ b code
  let lanes := if cam then i.clane else i.tlane
  let ents := if cam then i.cent else i.tent
  let range (r : Rec) : List Rec := (ents.drop (laneFirst r)).take (laneCount r)
  let above (r : Rec) : Bool := cam && decide (8192 < (i.clane.filter fun q => laneCtx q == laneCtx r).foldl (fun a q => a + laneCount q) 0)
  let twice (r : Rec) : Bool := cam && i.tlane.any fun q => laneNo q == laneNo r
  let rows := checkSection b code fun n r =>
    laneCheck i cam r ++ badField (ents.length < laneFirst r + laneCount r || (lanes.take n).any fun q => erangesMeet q r) 8
      ++ badField (above r) 10 ++ badField (twice r) 0
  let base := d.off + d.nrec * 64
  let perEntry := lanes.zipIdx.flatMap fun (r, n) => (range r).zipIdx.flatMap fun (e, j) =>
    (entryCheck i cam r (if j = 0 then none else (range r)[j - 1]?) e).map fun (o, c) =>
      { code := c, cls := 3, ownerA := ownerRef code n, offset := base + 16 * (laneFirst r + j) + o : Finding }
  let whole := d.len != 0 &&
    (lanes.foldl (fun a r => a + laneCount r) 0 != ents.length || !cam && decide (16384 < ents.length))
  rows ++ perEntry ++ if whole then [{ code := 0x300, cls := 3, offset := dirField b code 8 : Finding }] else []

end Sys2Proof.Machine
end

