-- ==== Sys2Proof/Machine/StageTables.lean ====
section
/-! DEFINITION. Staging class 3 for reflexes, fallback records, groups, tags, HART plans, axes, loops, diagnostic slots, the pair and the
claim records, and the order and counts of every section (R450, R451, R460 to R469). -/

namespace Sys2Proof.Machine

open Sys2Proof

/-! ## Reflexes (Tables 14-9, 14-10; R460 to R462) -/

/-- An output action on a channel (R462): the switch needs DO, a DAC code AOI or AOV, FBVAL any output. -/
def actionFits (f : Func) (a : Nat) : Bool :=
  match a with
  | 0 | 1 => f == .dout
  | 2 => f == .aoi || f == .aov
  | _ => isOutF f

/-- The four terms of a tile reflex condition: POL only within MASK. -/
def trTerms (r : Rec) (off : Nat) : Chk :=
  (List.range 4).flatMap fun j =>
    let o := off + 4 * j
    badField ((u16 r o &&& u16 r (o + 2)) != u16 r (o + 2)) (o + 2)

/-- A tile reflex record. -/
def trefCheck (i : Image) (r : Rec) : Chk :=
  badField (11 < trTile r) 0 ++ badField (63 < trEntry r) 1 ++ badField (7 < trTgt r) 2 ++ badField (3 < trAction r) 3 ++ badField (1 < u8 r 4) 4
    ++ badRef (trTile r ≤ 11 && trTgt r ≤ 7 && !actionFits (imgFunc i (8 * trTile r + trTgt r)) (trAction r)) 2
    ++ (if trAction r = 2 then [] else unused r [(6, 2)])
    ++ badField (trNoTerm r 16) 16 ++ trTerms r 16
    ++ (if trLatch r then trTerms r 32 else unused r ((List.range 8).map fun j => (32 + 2 * j, 2)))

/-- Literal numbers (R461). -/
def literalLegal (n : Nat) : Bool := n < 192 || 256 ≤ n && n < 272 || 512 ≤ n && n < 608

/-- The context or totaliser that a literal names exists. -/
def literalKnown (i : Image) (n : Nat) : Bool :=
  if 256 ≤ n && n < 272 then (imgAxis i ((n - 256) % 8)).isSome
  else if 512 ≤ n then i.loop.any fun r => lpRtype r == 1 && lpIndex r == n - 512
  else true

/-- One literal at an offset. -/
def literalCheck (i : Image) (r : Rec) (o : Nat) : Chk :=
  let l := u16 r o
  let n := bits l 0 10
  if !bitOf l 15 then badField (l != 0) o
  else if bits l 10 4 != 0 || !literalLegal n then badField true o
  else badRef (!literalKnown i n) o

/-- A hub reflex record; an entry whose literals and target lie in one tile gives a notice (R282, R462). -/
def hrefCheck (i : Image) (r : Rec) : Chk :=
  let stop := u8 r 2 == 1
  let lits := (hrCond r).flatten ++ hrTerm r 48
  let t := hrTarget r / 8
  badField (1023 < hrEntry r) 0 ++ badField (1 < u8 r 2) 2 ++ badField (1 < u8 r 10) 10 ++ badField (1 < u8 r 11) 11
    ++ (if stop then badField (7 < hrAction r) 3 ++ badRef (hrAction r ≤ 7 && (imgAxis i (hrAction r)).isNone) 3 ++ unused r [(4, 2)]
        else badField (3 < hrAction r) 3 ++ badRef (95 < hrTarget r || !actionFits (imgFunc i (hrTarget r)) (hrAction r)) 4)
    ++ (if !stop && hrAction r == 2 then [] else unused r [(6, 2)])
    ++ (List.range 16).flatMap (fun j => literalCheck i r (16 + 2 * j))
    ++ (if hrLatch r then (List.range 4).flatMap (fun j => literalCheck i r (48 + 2 * j))
        else unused r ((List.range 4).map fun j => (48 + 2 * j, 2)))
    ++ (if !stop && !lits.isEmpty && lits.all (fun l => decide (l.1 < 192) && l.1 / 16 == t) then [(0, 2)] else [])

/-! ## Fallback records (Table 14-11, R46, R463) -/

/-- A SAFE record. -/
def safeCheck (i : Image) (r : Rec) : Chk :=
  let k := u16 r 0
  let hw := u32 r 4
  badRef (!imgOut i k) 0 ++ badField (1 < u8 r 2) 2 ++ badField (1 < u8 r 3) 3
    ++ badField (60000 < hw && (hw != 0xFFFFFFFF || u8 r 2 != 0)) 4 ++ badField (imgOut i k && !fbvalOk (imgChan i k) (w32 r 8)) 8

/-! ## Groups (Table 14-12, R464, R465) -/

/-- The device's number in its groups: the logical number in a paired image, else its own (R465). -/
def stageSelf (i : Image) (own : Nat) : Nat := if i.pair.isEmpty then own else prLogical i.pair

/-- A GRP record, `n` its index and `me` the device's number. -/
def grpCheck (i : Image) (me n : Nat) (r : Rec) : Chk :=
  if grpNum r = 0xFFFF then badField (2 < grpHspol r) 4 ++ unused r [(2, 1), (3, 1), (5, 1), (6, 2)] ++ unusedBytes r 8 28 ++ unusedBytes r 64 128
  else
    let used := (List.range 8).filter fun j => bitOf (u16 r (8 + 2 * j)) 15
    let earlier := (i.grp.take n).filter fun q => grpNum q != 0xFFFF
    let taken := earlier.flatMap grpChans
    badField (1023 < grpNum r || 8 ≤ earlier.length) 0 ++ badField (grpDefermax r == 0) 2 ++ badField (1 < u8 r 3) 3
      ++ badField (2 < grpHspol r || grpHspol r == 2 && u8 r 5 == 0) 4 ++ badField (u8 r 5 != used.length) 5
      ++ (match grpCtldev r with | some d => badField (1023 < d) 6 ++ badRef (d ≤ 1023 && !grpHas r d) 6 | none => [])
      ++ (List.range 8).flatMap (fun j =>
        let o := 8 + 2 * j
        let e := u16 r o
        badField (bits e 13 2 != 0 || !bitOf e 15 && e != 0) o ++ badRef (bitOf e 15 && !grpHas r (bits e 0 10)) o)
      ++ badRef ((grpChans r).any fun k => !imgOut i k) 24
      ++ badField ((grpChans r).any taken.contains) 24
      ++ badRef (!grpHas r me) 64

/-! ## Tags (Tables 14-13, 14-14; R466) -/

/-- Whether a tag of CHAN is binary32, writable, and configured, by SUB. -/
def chanTagKind (i : Image) (k sub : Nat) : Option (Bool × Bool × Bool) :=
  let r := imgChan i k
  let f := chFunc r
  let lower := if k % 2 = 1 then imgChan i (k - 1) else []
  let current := switching r && chSense r == 0
  match sub with
  | 0 =>
    if chFunc lower == .rtd && chWires lower == 4 && f == .off then some (true, false, true)
    else if chFunc lower == .dout && chPairw lower && f == .off then some (false, false, true)
    else some (isAnalogF f, isOutF f, f != .off)
  | 1 => some (false, false, isAnalogF f)
  | 2 | 3 | 4 => some (false, false, f == .di || f == .nam)
  | 5 => some (true, false, f == .cnt)
  | 6 | 7 | 8 => some (true, false, current)
  | 9 => some (true, false, chIso r)
  | _ => none

/-- Whether a tag is binary32, writable and configured, by its source; none for a reserved SRCKIND or SUB. -/
def tagRule (i : Image) (r : Rec) : Option (Bool × Bool × Bool) :=
  let n := tagNum r
  let sub := tagSub r
  let loop (ty : Nat) : Bool := i.loop.any fun q => lpRtype q == ty && lpIndex q == n
  match tagKind r with
  | 1 => chanTagKind i n sub
  | 2 => if sub = 0 then some (true, false, n < 12) else none
  | 3 => if sub ≤ 1 then some (false, sub == 0, (i.tlane ++ i.clane).any fun q => laneNo q == n) else none
  | 4 => if sub ≤ 9 then some (sub == 3 || sub == 4, sub == 7 || sub == 8, (imgAxis i n).isSome) else none
  | 5 => if sub ≤ 5 then some (sub ≤ 1 || sub == 3 || sub == 4, 3 ≤ sub, loop 0) else none
  | 6 => if sub ≤ 4 then some (sub ≤ 1, sub == 0, loop 1) else none
  | 7 => if sub ≤ 1 then some (false, sub == 1, n == 0xFFFF || i.grp.any fun q => grpNum q == n) else none
  | 8 => if sub = 0 then some (false, false, n == 0 && !i.pair.isEmpty) else none
  | 9 =>
    let m := i.item.getD n []
    if sub = 0 then some (u8 m 2 != 6, false, !m.isEmpty && u8 m 0 == 2) else none
  | _ => none

/-- A TAG record, `n` its index. -/
def tagCheck (i : Image) (n : Nat) (r : Rec) : Chk :=
  let src (q : Rec) := (tagKind q, tagSub q, tagNum q)
  badField (32767 < tagIndex r) 0 ++ badField (1 < u8 r 6) 6 ++ badField (3 < u8 r 7) 7
    ++ badField ((i.tag.take n).any fun q => src q == src r) 2
    ++ (match tagRule i r with
        | none => badField true (if tagKind r == 0 || 9 < tagKind r then 2 else 3)
        | some (float, writable, known) =>
          badRef (!known) 4 ++ badField (known && u8 r 6 ≤ 1 && tagFloat r != float) 6 ++ badField (known && tagWritable r != writable) 7
            ++ (if writable && tagKind r != 1 then badRef (tagGroup r != 0xFFFF && !(i.grp.any fun q => grpNum q == tagGroup r)) 8
                else badField (tagGroup r != 0xFFFF) 8))

/-! ## HART plans (Tables 14-15, 14-16; R123, R131, R136, R467) -/

/-- Items of a plan in an image. -/
def imgItems (i : Image) (p : Rec) : List Rec := (i.item.drop (planFirst p)).take (planCount p)

/-- Two plans share items. -/
def plansMeet (p q : Rec) : Bool :=
  decide (planFirst p < planFirst q + planCount q) && decide (planFirst q < planFirst p + planCount p)

/-- A plan record, `n` its index. -/
def planCheck (i : Image) (n : Nat) (p : Rec) : Chk :=
  let ch := imgChan i (planK p)
  let mode := chHartm ch
  let its := imgItems i p
  let count (ty : Nat) : Nat := (its.filter fun r => u8 r 0 == ty).length
  let park := (its.filter fun r => u8 r 0 == 0).foldl (fun a r => a + u8 r 3) 0
  badRef (95 < planK p || mode == 0) 0 ++ outside (planPre p) 5 20 2 ++ outside (planTreply p) 8 40 3 ++ outside (planRetries p) 0 3 4
    ++ outside (planDrmax p) 1 30 5 ++ outside (planQtime p) 1 600 6 ++ badField (planAdhoc p != 0 && !chOvr ch) 8
    ++ badField (i.item.length < planFirst p + planCount p || (i.plan.take n).any fun q => plansMeet q p) 12
    ++ badField (count 0 == 0 || 64 < count 0 || mode == 1 && count 0 != 1 || 64 < count 1 || (mode == 3) != (count 1 == 0) ||
        mode == 2 && decide (960 < park)) 14

/-- A plan item, by its ITYPE; `p` its plan, `its` the plan's items, `prev` the item before it. -/
def itemCheck (i : Image) (p : Rec) (its : List Rec) (prev : Option Rec) (r : Rec) : Chk :=
  let ty := u8 r 0
  let mode := chHartm (imgChan i (planK p))
  let drop (a : Nat) : Bool := its.any fun q => u8 q 0 == 0 && u8 q 1 == a
  let multi := mode == 2
  let exp (c o : Nat) : Chk := if u8 r c = 31 then [] else unused r [(o, 2)]
  badField (match prev with | some q => decide (ty < u8 q 0) | none => false) 0 ++
    (match ty with
      | 0 =>
        let after := match prev with | some q => u8 q 0 == 0 && decide (u8 r 1 ≤ u8 q 1) | none => false
        badField (63 < u8 r 1 || after) 1 ++ badField (1 < u8 r 2) 2
          ++ (if multi then outside (u8 r 3) 5 250 3 else unused r [(3, 1)]) ++ badField (3 < u16 r 4) 4 ++ unused r [(6, 2)]
          ++ (if u8 r 2 = 1 then [] else unused r [(12, 2), (14, 2), (16, 3)]) ++ unusedBytes r 19 13
      | 1 =>
        let cmd := cmdNo (u8 r 2) (u16 r 4)
        let read := readCmds.contains cmd || its.any fun q => u8 q 0 == 4 && cmdNo (u8 q 1) (u16 q 4) == cmd
        badRef (!drop (u8 r 1)) 1 ++ badField (!read) 2 ++ badField (12 < u8 r 3) 3 ++ exp 2 4
          ++ unusedBytes r (12 + min 12 (u8 r 3)) (12 - min 12 (u8 r 3)) ++ unusedBytes r 24 8
      | 2 =>
        let src := u8 r 2
        badRef (!drop (u8 r 1)) 1 ++ badField (6 < src) 2
          ++ (if src = 5 then badField (249 < u8 r 3) 3 else unused r [(3, 1)])
          ++ (if src = 6 then unused r [(4, 2)] else badField (src == 4 && u16 r 4 != 39 || 255 < u16 r 4) 4) ++ unusedBytes r 6 26
      | 3 =>
        exp 1 4 ++ exp 2 6 ++ badField (u8 r 3 == 0 || 16 < u8 r 3) 3 ++ unused r [(10, 2)] ++ unusedBytes r 12 20
      | 4 => unused r [(2, 1), (3, 1), (6, 2)] ++ exp 1 4 ++ unusedBytes r 8 24
      | _ => badField true 0)

/-- HART section: plans, then items; items that no plan covers stand at LENGTH. -/
def hartFindings (b : List Byte) (i : Image) : List Finding :=
  let d := section_ b 0x0D
  let base := d.off + d.nrec * 32
  let items := i.plan.zipIdx.flatMap fun (p, n) =>
    let its := imgItems i p
    its.zipIdx.flatMap fun (r, j) =>
      (itemCheck i p its (if j = 0 then none else its[j - 1]?) r).map fun (o, c) =>
        { code := c, cls := 3, ownerA := ownerRef 0x0D n, offset := base + 32 * (planFirst p + j) + o : Finding }
  let whole := d.len != 0 && i.plan.foldl (fun a p => a + planCount p) 0 != i.item.length
  checkSection b 0x0D (planCheck i) ++ items ++ if whole then [{ code := 0x300, cls := 3, offset := dirField b 0x0D 8 : Finding }] else []

/-! ## Axis contexts (Tables 08-3, 14-17) -/

/-- An AXIS record. -/
def axisCheck (r : Rec) : Chk :=
  let local_ := axCtx r < 4
  badField (7 < axCtx r) 0
    ++ (if local_ then
          badField (3 < axDecode r) 1 ++ badField (15 < axEfilt r) 2 ++ badField (7 < u8 r 3) 3 ++ unused r [(5, 1), (6, 2)]
            ++ badField (axVwin r % 10 != 0 || axVwin r < 10 || 100000 < axVwin r) 20
            ++ badField (axAwin r % 10 != 0 || axAwin r < 20 || 1000000 < axAwin r || axAwin r < 2 * axVwin r) 24
            ++ outside (axVtmo r) 1 10000 28
        else unused r [(1, 1), (2, 1), (3, 1), (4, 1)] ++ badField (3 < axSrcctx r) 5 ++ badField (1023 < axSrcdev r) 6
          ++ unused r [(20, 4), (24, 4), (28, 4)])
    ++ badField (axModlen r == 1 || 2147483648 < axModlen r) 8 ++ outside (axVmax r) 1 20000000 12 ++ badField (axVmax r < axVend r) 16
    ++ outside (axTrdmax r) 100 600000 32

/-! ## Loop blocks and totalisers (Table 14-18; R284 to R288, R468) -/

/-- The own tag with a local index. -/
def imgTag (i : Image) (idx : Nat) : Option Rec := i.tag.find? fun r => tagIndex r == idx

/-- The block whose SP tag a block outputs to. -/
def feeds (i : Image) (r : Rec) : Option Nat :=
  if u8 r 5 = 1 then
    match imgTag i (u16 r 6) with
    | some t => if tagKind t = 5 && tagSub t = 3 then some (tagNum t) else none
    | none => none
  else none

/-- A loop block record. -/
def imgLoop (i : Image) (n : Nat) : Option Rec := i.loop.find? fun r => lpRtype r == 0 && lpIndex r == n

/-- Following SPSRC from block `n` comes back to `start` within `k` steps. -/
def cascadeLoops (i : Image) (start : Nat) : Nat → Nat → Bool
  | 0, _ => false
  | k + 1, n =>
    match imgLoop i n with
    | some r => if u8 r 9 = 0xFF then false else u8 r 9 == start || cascadeLoops i start k (u8 r 9)
    | none => false

/-- A full tag that a block reads: well formed, and known where it is the device's own (R84, R303). -/
def fullTagCheck (i : Image) (me own : Nat) (r : Rec) (o : Nat) : Chk :=
  let t := u32 r o
  let dev := bits t 15 10
  badField (bits t 25 7 != 0) o ++ badRef (bits t 25 7 == 0 && (dev == me || dev == own) && (imgTag i (bits t 0 15)).isNone) o

/-- A loop block. -/
def blockCheck (i : Image) (me own : Nat) (r : Rec) : Chk :=
  let ts := u32 r 20
  let n := lpIndex r
  let toChan := u8 r 5 == 0
  let target := imgChan i (u16 r 6)
  let sigs (o : Nat) : Int := int32 (w32 r o)
  let fed := i.loop.any fun q => lpRtype q == 0 && lpIndex q == u8 r 9 && feeds i q == some n
  let tagOk := match imgTag i (u16 r 6) with
    | some t => tagKind t == 4 && tagSub t == 7 || tagKind t == 5 && tagSub t == 3 && tagNum t != n &&
        (match imgLoop i (tagNum t) with | some q => u8 q 9 == n | none => false)
    | none => false
  badField (47 < n) 1 ++ badField (1 < u8 r 2) 2 ++ badField (2 < u8 r 3 || u8 r 3 == 2 && u8 r 9 == 0xFF) 3 ++ badField (1 < u8 r 4) 4 ++ badField (1 < u8 r 5) 5
    ++ (if toChan then
          badRef (!imgOut i (u16 r 6)) 6 ++ badField (chFunc target == .dout && chPgmode target != 1) 6 ++ outside (u8 r 8) 3 8 8
        else badRef (!tagOk) 6 ++ unused r [(8, 1)])
    ++ badRef (u8 r 9 != 0xFF && !fed) 9 ++ badField (u8 r 9 != 0xFF && cascadeLoops i n 48 n) 9
    ++ fullTagCheck i me own r 12 ++ (if u32 r 16 = 0xFFFFFFFF then [] else fullTagCheck i me own r 16)
    ++ badField (ts % 10 != 0 || ts < 100 || 10000000 < ts) 20 ++ badField (u32 r 24 % 10 != 0 || ts ≤ u32 r 24) 24
    ++ badField (!ltF (w32 r 28) (w32 r 32)) 28 ++ badField (f32 (w32 r 36) == f32 (w32 r 40)) 36
    ++ badField (2 ^ 30 < u32 r 68) 68 ++ badField (decide (sigs 76 ≤ sigs 72)) 72 ++ badField (u32 r 80 == 0) 80
    ++ (if u8 r 4 = 1 then [] else unused r [(84, 4)])

/-- A totaliser. -/
def totCheck (i : Image) (r : Rec) : Chk :=
  let n := u32 r 12
  badField (95 < lpIndex r) 1 ++ badField (1 < u8 r 2) 2
    ++ (if u8 r 2 = 1 then unused r [(3, 1), (4, 1), (16, 4)] ++ badRef (imgFunc i n != .cnt) 12
        else badField (1 < u8 r 3) 3 ++ badField (1 < u8 r 4) 4 ++
          badRef (match imgTag i n with | some t => !tagFloat t | none => true) 12)
    ++ unused r [(5, 1), (6, 2), (8, 1), (9, 1), (10, 2), (24, 4)] ++ unusedBytes r 36 60

/-- A LOOP record. -/
def loopCheck (i : Image) (me own : Nat) (r : Rec) : Chk :=
  if lpRtype r = 0 then blockCheck i me own r else if lpRtype r = 1 then totCheck i r else badField true 0

/-! ## Diagnostic slots and the pair (Tables 07-5, 14-19, 14-20; R219, R236, R469) -/

/-- A DIAG record. -/
def diagCheck (i : Image) (r : Rec) : Chk :=
  let t := dgTile r
  let n := (dgChans r).length
  let flag (c : Rec) : Bool := match dgKind r with | 0 => chOfftest c | 1 => chPartest c | _ => chEdgecal c
  let p := dgPeriod r
  badField (3 < dgKind r) 0 ++ badField (11 < t || dgKind r == 2 && isoGroup (i.tile.getD t []) != t) 1
    ++ (if dgKind r = 2 then unused r [(2, 1)]
        else badField (n == 0 || dgKind r == 0 && n != 1 || (dgChans r).any fun c => !flag (imgChan i (8 * t + c))) 2)
    ++ badField (dgLslot r != 12 && dgLslot r != 13) 3
    ++ badField (match dgKind r with
        | 0 => dgWindow r != 700
        | 1 => decide (dgWindow r < 10000) || decide (10000000 < dgWindow r)
        | 2 => dgWindow r != 1000000
        | _ => decide (dgWindow r < 1000) || decide (10000000 < dgWindow r)) 4
    ++ badField (p % 10000 != 0 || p < 10000 || 86400000000 < p) 8 ++ badField (p ≤ dgPhase r) 16

/-- The PAIR record (R363, R469): LOGICAL equals DEVNUM, the three differ and lie in one segment. -/
def pairCheck (i : Image) (r : Rec) : Chk :=
  let l := prLogical r
  let a := prPhysA r
  let c := prPhysB r
  badField (l != bits (hdrDevnum i.hdr) 0 10) 0 ++ badField (1023 < a || a == l || a / 32 != l / 32) 2
    ++ badField (1023 < c || c == l || c == a || c / 32 != l / 32) 4 ++ badField (1 < u8 r 6) 6
    ++ outside (prOrphwait r) 100 60000 8 ++ badRef ((prWitness r).any fun k => !imgOut i k) 12

/-! ## Claim records (Tables 13-5, 13-6; R431, R435) -/

/-- Kinds marked windowed: DIAGLINK, FSENSE, TESTSRC, ISOSRC. -/
def windowedKind (k : Nat) : Bool := [5, 7, 9, 0x0A].contains k

/-- A CLAIM record's own fields. -/
def claimCheck (r : Rec) : Chk :=
  let kind := u8 r 3
  let shared := bitOf (u8 r 8) 0
  let window := bitOf (u8 r 8) 1
  badField (kind == 0 || 0x14 < kind) 0 ++ badField (3 < u8 r 8 || shared && kind != 3 || window && !windowedKind kind) 8
    ++ (if window then badField (u64 r 16 ≤ u64 r 24) 24 else unused r [(12, 4), (16, 8), (24, 8)])

/-! ## Order, counts and all of class 3 (R450, R451) -/

/-- The key by which a section's records are ordered; none where it has none. -/
def recKey (code : Nat) (r : Rec) : Option Nat :=
  match code with
  | 0x05 => some (256 * u8 r 0 + u8 r 1)
  | 0x06 | 0x07 => some (laneNo r)
  | 0x08 => some (256 * trTile r + trEntry r)
  | 0x09 | 0x0A | 0x0B | 0x0C | 0x0D => some (u16 r 0)
  | 0x0E => some (u8 r 0)
  | 0x0F => some (256 * lpRtype r + lpIndex r)
  | 0x10 => some ((256 * dgKind r + dgTile r) * 2 ^ 64 + dgPhase r)
  | _ => none

/-- RECORD at each record whose key does not rise above the one before it. -/
def orderFindings (b : List Byte) (code : Nat) : List Finding :=
  let rs := primary b code
  checkSection b code fun n r =>
    if n = 0 then []
    else match recKey code (rs.getD (n - 1) []), recKey code r with
      | some p, some q => badField (q ≤ p) 0
      | _, _ => []

/-- NREC and LENGTH of a section (R450, R451). -/
def countFindings (b : List Byte) (d : DirEnt) : List Finding :=
  let want := d.nrec * recSize d.code
  let whole := if entSize d.code = 0 then d.len == want else want ≤ d.len && (d.len - want) % entSize d.code == 0
  let number := match d.code with | 0x04 => d.nrec == 108 | 0x11 => d.nrec == 1 | 0x12 => d.nrec == 1 | _ => true
  (if number then [] else [{ code := 0x300, cls := 3, offset := dirField b d.code 12 : Finding }]) ++
    if whole then [] else [{ code := 0x300, cls := 3, offset := dirField b d.code 8 : Finding }]

/-- Every failure and notice of one section's records. -/
def sectionFindings (b : List Byte) (i : Image) (almOpen : Bool) (own code : Nat) : List Finding :=
  let me := stageSelf i own
  match code with
  | 0x03 => checkSection b code fun _ r => claimCheck r
  | 0x04 => chanFindings b i almOpen
  | 0x05 => checkSection b code fun _ r => profCheck i r
  | 0x06 => scheduleFindings b i false
  | 0x07 => scheduleFindings b i true
  | 0x08 => checkSection b code fun _ r => trefCheck i r
  | 0x09 => checkSection b code fun _ r => hrefCheck i r
  | 0x0A => checkSection b code fun _ r => safeCheck i r
  | 0x0B => checkSection b code fun n r => grpCheck i me n r
  | 0x0C => checkSection b code fun n r => tagCheck i n r
  | 0x0D => hartFindings b i
  | 0x0E => checkSection b code fun _ r => axisCheck r
  | 0x0F => checkSection b code fun _ r => loopCheck i me own r
  | 0x10 => checkSection b code fun _ r => diagCheck i r
  | 0x11 => checkSection b code fun _ r => pairCheck i r
  | _ => []

/-- Every finding of class 3, section by section. -/
def recordFindings (b : List Byte) (i : Image) (almOpen : Bool) (own : Nat) : List Finding :=
  (directory b).flatMap fun d => countFindings b d ++ orderFindings b d.code ++ sectionFindings b i almOpen own d.code

end Sys2Proof.Machine
end

