-- ==== Sys2Proof/Machine/StageClaims.lean ====
section
/-! DEFINITION. Staging class 4: the claims that the records imply, against the CLAIM section, and conflicts between claims (R431 to
R435, R470, Table 14-21, R237). -/

namespace Sys2Proof.Machine

open Sys2Proof

/-- A claim (Table 13-6). -/
structure Claim where
  res : Nat
  owner : Nat
  shared : Bool := false
  window : Option (Nat × Nat × Nat) := none
deriving DecidableEq, Repr

/-- A resource identifier (R431). -/
def resId (kind inst : Nat) : Nat := kind * 2 ^ 24 + inst

/-- A claim record as a claim: WIN, PERIOD and PHASE with WINDOW. -/
def claimOf (r : Rec) : Claim :=
  { res := u32 r 0, owner := u32 r 4, shared := bitOf (u8 r 8) 0
    window := if bitOf (u8 r 8) 1 then some (u32 r 12, u64 r 16, u64 r 24) else none }

/-! ## Implied claims (Table 14-21) -/

/-- A record's claims over one kind for each of a list of instances. -/
def claimAll (owner kind : Nat) (l : List Nat) : List Claim := l.map fun n => { res := resId kind n, owner := owner }

/-- TCSLOT instance of slot `s` of the tile of channel `k`. -/
def slotInst (k s : Nat) : Nat := k / 8 * 16 + s

/-- A level-6 source: LVL6 of its target, and its TCMD slot SHARED. -/
def claimLevel6 (owner k slot : Nat) : List Claim :=
  [{ res := resId 0x0C k, owner := owner }, { res := resId 3 (slotInst k slot), owner := owner, shared := true }]

/-- Claims of channel record `k`. -/
def claimChan (k : Nat) (r : Rec) : List Claim :=
  if chFunc r = .off then []
  else
    let o := ownerRef 0x04 k
    let pgen := chFunc r == .dout && (chPgmode r != 0 || chLclass r == 4)
    let four := chFunc r == .rtd && chWires r == 4
    claimAll o 1 ([k] ++ (if four || chPairw r then [k + 1] else []))
      ++ claimAll o 2 ((if pgen then [k] else []) ++ if pgen && chPairw r then [k + 1] else [])
      ++ claimAll o 6 (if chHartm r != 0 then [k] else [])
      ++ claimAll o 0x11 (if chOvr r then [k] else [])

/-- Claims of tile record `t`. -/
def claimTile (t : Nat) (r : Rec) : List Claim :=
  let o := ownerRef 0x04 (96 + t)
  claimAll o 8 (if bitOf (u8 r 2) 0 then [t] else [])
    ++ claimAll o 4 ([3, 4, 5, 6, 7, 8].flatMap fun s => let (f, n) := partOf r s; (List.range n).map fun j => t * 256 + f + j)

/-- Claims of diagnostic slot `n`. -/
def claimDiag (i : Image) (n : Nat) (r : Rec) : List Claim :=
  let o := ownerRef 0x10 n
  let t := dgTile r
  let tiles := if dgKind r = 2 then (List.range 12).filter fun u => isoGroup (i.tile.getD u []) == t else [t]
  let tests := if dgKind r ≤ 1 then (dgChans r).map fun c => resId 9 (8 * t + c) else []
  let rest := if dgKind r = 0 then [resId 7 t] else if dgKind r = 2 then [resId 0x0A t] else []
  (tests ++ rest ++ tiles.map fun u => resId 5 (u * 16 + dgLslot r)).map fun res =>
    { res := res, owner := o, window := some (dgWindow r, dgPeriod r, dgPhase r) }

/-- Claims of LOOP record `n`. -/
def claimLoop (n : Nat) (r : Rec) : List Claim :=
  let o := ownerRef 0x0F n
  if lpRtype r = 0 then
    claimAll o 0x0D [lpIndex r] ++ if u8 r 5 = 0 then claimLevel6 o (u16 r 6) (u8 r 8) else []
  else claimAll o 0x0E [lpIndex r]

/-- Claims of a lane. -/
def claimLane (code n : Nat) (r : Rec) : List Claim :=
  let o := ownerRef code n
  claimAll o 0x0B [laneNo r] ++ claimLevel6 o (laneTarget r) (laneSlot r)

/-- Every claim that the records of an image imply (R470). -/
def impliedClaims (i : Image) : List Claim :=
  let each (l : List Rec) (f : Nat → Rec → List Claim) : List Claim := l.zipIdx.flatMap fun (r, n) => f n r
  each i.chan claimChan ++ each i.tile claimTile
    ++ each i.tlane (claimLane 0x06) ++ each i.clane (claimLane 0x07)
    ++ each i.tref (fun n r => claimAll (ownerRef 0x08 n) 0x0F [8 * trTile r + trTgt r])
    ++ each i.href (fun n r => claimAll (ownerRef 0x09 n) 0x10 (if hrStop r then [] else [hrTarget r]))
    ++ each i.grp (fun n r => claimAll (ownerRef 0x0B n) 0x14 (if grpNum r = 0xFFFF then [] else grpChans r))
    ++ each i.tag (fun n r => claimAll (ownerRef 0x0C n) 0x13 [tagIndex r])
    ++ each i.axis (fun n r => claimAll (ownerRef 0x0E n) 0x12 [axCtx r])
    ++ each i.loop claimLoop ++ each i.diag (claimDiag i)

/-! ## Comparison and conflicts -/

/-- Claims in the order of RES, then OWNER (R432). -/
def claimBefore (a b : Claim) : Bool := decide (a.res < b.res) || a.res == b.res && decide (a.owner ≤ b.owner)

/-- CLAIMMISMATCH of a claim at an offset. -/
def mismatch (c : Claim) (off : Nat) : Finding := { code := 0x400, cls := 4, res := c.res, ownerA := c.owner, offset := off }

/-- Claim records that the records do not imply, that stand twice or out of order, and implied claims that have no record (R432). -/
def mismatchFindings (b : List Byte) (i : Image) : List Finding :=
  let d := section_ b 0x03
  let have_ := i.claim.map claimOf
  let want := impliedClaims i
  let wrong (n : Nat) (c : Claim) : Bool :=
    !want.contains c || (match have_[n - 1]? with | some p => n != 0 && (p == c || !claimBefore p c) | none => false)
  let extra := have_.zipIdx.flatMap fun (c, n) => if wrong n c then [mismatch c (d.off + 32 * n)] else []
  let lacking := ((want.filter fun c => !have_.contains c).mergeSort claimBefore).map fun c => mismatch c 0xFFFFFFFF
  extra ++ lacking

/-- Two windows collide (R237). -/
def windowsMeet (a b : Nat × Nat × Nat) : Bool :=
  let g := Nat.gcd a.2.1 b.2.1
  let x := ((b.2.2 : Int) - (a.2.2 : Int)) % (g : Int)
  decide (x < (a.1 : Int)) || decide ((g : Int) - (b.1 : Int) < x)

/-- Two claims on one resource conflict (R435). -/
def claimsConflict (a b : Claim) : Bool :=
  !(a.shared && b.shared) &&
    (match a.window, b.window with
      | some x, some y => windowsMeet x y
      | _, _ => true)

/-- Each claim of a list against the later ones with its resource. -/
def conflictsFrom (off : Nat) : List (Claim × Nat) → List Finding
  | [] => []
  | (a, n) :: rest =>
    (rest.filterMap fun (c, _) =>
      if c.res == a.res && claimsConflict a c then
        some { code := 0x401, cls := 4, res := a.res, ownerA := a.owner, ownerB := c.owner, offset := off + 32 * n : Finding }
      else none) ++ conflictsFrom off rest

/-- Every conflicting pair of the CLAIM section. -/
def conflictFindings (b : List Byte) (i : Image) : List Finding :=
  conflictsFrom (section_ b 0x03).off (i.claim.map claimOf).zipIdx

/-- Every failure of class 4. -/
def claimFindings (b : List Byte) (i : Image) : List Finding := mismatchFindings b i ++ conflictFindings b i

end Sys2Proof.Machine
end

