-- ==== Sys2Proof/Machine/StageLimits.lean ====
section
/-! DEFINITION. Staging class 5: tile current (R202), link slot load and partitions (R246, R606), the token bound (R315), HART budgets
(R140) and envelopes (R184). -/

namespace Sys2Proof.Machine

open Sys2Proof

/-! ## Tile current (R202) -/

/-- m(t) of an envelope, `t` in 10 µs; 1 after the last breakpoint (R181). -/
def envRat : List (Nat × Nat) → Rat → Rat
  | [], _ => 1
  | [_], _ => 1
  | (t0, m0) :: (t1, m1) :: rest, t =>
    if t < (t1 : Rat) then ((m0 : Rat) + ((m1 : Rat) - m0) * (t - (t0 : Rat)) / ((t1 : Rat) - t0)) / 100
    else envRat ((t1, m1) :: rest) t

/-- A switching channel of a tile: ILIM and INOM in amperes, the cap of its ceiling, its breakpoints. -/
structure SwLoad where
  ilim : Rat
  inom : Rat
  cap : Rat
  env : List (Nat × Nat)

/-- The switching channels of tile `t`, and how many channels switch nothing; the partner of a pair adds nothing. -/
def tileLoads (i : Image) (t : Nat) : List SwLoad × Nat :=
  let ks := (List.range 8).map fun c => 8 * t + c
  let partner (k : Nat) : Bool := k % 2 == 1 && chFunc (imgChan i (k - 1)) == .dout && chPairw (imgChan i (k - 1))
  let sw := ks.filter fun k => switching (imgChan i k) && !partner k
  let idle := ks.filter fun k => !switching (imgChan i k) && !partner k
  (sw.map fun k =>
    let r := imgChan i k
    { ilim := (chIlim r : Rat) / 1000, inom := (chInom r : Rat) / 1000, cap := if chPairw r then 24 else 12
      env := if chFunc r = .dout then envPoints i.prof r else [(0, 100)] }, idle.length)

/-- ceiling(t) of a switch (R181). -/
def ceilingAt (l : SwLoad) (t : Rat) : Rat := let v := l.ilim * envRat l.env t; if l.cap < v then l.cap else v

/-- Instants at which a ceiling may bend: breakpoints, and where it meets its cap. -/
def bends (l : SwLoad) : List Rat :=
  let cross : List Rat := (l.env.zip l.env.tail).filterMap fun ((t0, m0), (t1, m1)) =>
    let a := l.ilim * (m0 : Rat) / 100 - l.cap
    let b := l.ilim * (m1 : Rat) / 100 - l.cap
    if a * b < 0 then some ((t0 : Rat) + ((t1 : Rat) - t0) * a / (a - b)) else none
  (l.env.map fun p => (p.1 : Rat)) ++ cross

/-- Adds a number to a rising list once. -/
def insertRat (x : Rat) : List Rat → List Rat
  | [] => [x]
  | y :: ys => if x < y then x :: y :: ys else if x = y then y :: ys else y :: insertRat x ys

/-- First instant at or after `x0` of a linear piece at which it exceeds `lim`. -/
def firstOver (lim x0 v0 x1 v1 : Rat) : Option Rat :=
  if lim < v0 then some x0 else if lim < v1 then some (x0 + (x1 - x0) * (lim - v0) / (v1 - v0)) else none

/-- Along the pieces: the first instant above 24 A, and the first at which the time above 20 A has passed 5 ms; times in 10 µs. -/
def walkPeaks : List (Rat × Rat) → Rat → Option Rat → Option Rat → Option Rat × Option Rat
  | [], _, a, b => (a, b)
  | [(x, v)], acc, a, b =>
    (a.or (if 24 < v then some x else none), b.or (if 20 < v then some (x + (500 - acc)) else none))
  | (x0, v0) :: (x1, v1) :: rest, acc, a, b =>
    let above := firstOver 20 x0 v0 x1 v1
    let stop := if 20 < v1 then x1 else if 20 < v0 then x0 + (x1 - x0) * (v0 - 20) / (v0 - v1) else x0
    let len := match above with | some f => stop - f | none => 0
    let hit := match above with | some f => if 500 < acc + len then some (f + (500 - acc)) else none | none => none
    walkPeaks ((x1, v1) :: rest) (acc + len) (a.or (firstOver 24 x0 v0 x1 v1)) (b.or hit)

/-- TILECURRENT of tile `t`: one finding for each quantity that fails. -/
def tileCurrent (i : Image) (t : Nat) : List Finding :=
  let (sw, idle) := tileLoads i t
  let base := (idle : Rat) / 10
  let xs := (sw.flatMap bends).foldl (fun l x => insertRat x l) [0]
  let pts := xs.map fun x => (x, base + sw.foldl (fun a l => a + ceilingAt l x) 0)
  let (peak, long) := walkPeaks pts 0 none none
  let cont := base + sw.foldl (fun a l => a + l.inom) 0
  let one (q : Nat) (x : Option Rat) : List Finding := match x with
    | some x => [{ code := 0x500, cls := 5, ownerA := ownerRef 0x04 (96 + t), arg1 := t + 256 * q, arg2 := (x * 10).floor.toNat : Finding }]
    | none => []
  one 0 peak ++ one 1 long ++ one 2 (if 16 < cont then some 0 else none)

/-! ## Link slot load (R246, R606) -/

/-- The stamps of one lane in one direction: its period (none for a single pass) and its stamps, in ticks. -/
abbrev Stamps := Option Rat × List Rat

/-- Integers m with `lo ≤ m < hi`. -/
def intsIn (lo hi : Rat) : Nat := (hi.ceil - lo.ceil).toNat

/-- Stamps in the half-open window from `a` of length `w`. -/
def inWindow (q : Stamps) (w a : Rat) : Nat :=
  q.2.foldl (fun n x => n + match q.1 with
    | some p => intsIn ((a - x) / p) ((a + w - x) / p)
    | none => if a ≤ x && x < a + w then 1 else 0) 0

/-- The densest window of length `w`: its count and its start. -/
def densest (q : Stamps) (w : Rat) : Nat × Rat :=
  q.2.foldl (fun b a => let n := inWindow q w a; if b.1 < n then (n, a) else b) (0, 0)

/-- The lead of an entry at staging, in ticks: D is 2.3 µs where a DO switch turns (R267, R606). -/
def stageLead (i : Image) (r : Rec) (prev v : Word) : Rat :=
  let isDo := imgFunc i (laneTarget r) == .dout
  let was := bitOf prev.toNat 0
  let is := bitOf v.toNat 0
  (if isDo && was != is then 920 else 0) + (if isDo && was && !is then (laneDactOff r : Rat) else (laneDactOn r : Rat))

/-- Stamps of entries taken in order at the instants `at_`; `wrap` where the last entry precedes the first. -/
def stampsOf (i : Image) (r : Rec) (es : List Rec) (at_ : Rec → Rat) (wrap : Bool) : List Rat :=
  let first := if wrap then (es.getLast?.map entValue).getD (laneInit r) else laneInit r
  (es.foldl (fun (a : Word × List Rat) e => (entValue e, a.2 ++ [at_ e - stageLead i r a.1 (entValue e)])) (first, [])).2

/-- The sequences of a lane: one for TIME; forward and reverse at VMAX for CAM. -/
def laneStamps (i : Image) (r : Rec) : List Stamps :=
  let es := ((if laneCam r then i.cent else i.tent).drop (laneFirst r)).take (laneCount r)
  if laneCam r then
    let ax := (imgAxis i (laneCtx r)).getD []
    let v : Rat := (max 1 (axVmax ax) : Nat)
    let wrap := 2 ≤ axModlen ax
    let p := if wrap then some ((axModlen ax : Rat) * 400000000 / v) else none
    let at_ (e : Rec) : Rat := (entX e : Rat) * 400000000 / v
    [(p, stampsOf i r (es.filter fun e => entDir e != 1) at_ wrap),
     (p, stampsOf i r ((es.filter fun e => entDir e != 0).reverse) (fun e => -at_ e) wrap)]
  else
    let cyc := !laneOneshot r
    [(if cyc then some ((max 1 (laneTcyc r) : Nat) : Rat) else none, stampsOf i r es (fun e => (entOffset e : Rat)) cyc)]

/-- The larger of two counts; the first where equal. -/
def larger (a b : Nat × Rat) : Nat × Rat := if a.1 < b.1 then b else a

/-- A lane's densest window of length `w`, over its directions, its start taken within one period. -/
def laneDensest (i : Image) (w : Rat) (r : Rec) : Nat × Rat :=
  (laneStamps i r).foldl (fun best q =>
    let (n, a) := densest q w
    larger best (n, match q.1 with | some p => a - p * ((a / p).floor : Rat) | none => a)) (0, 0)

/-- SLOTLOAD of slot `s` of tile `t`. ARG2 of a window that begins before the start of its cycle is 0 (DESIGN CHOICE, log entry 169). -/
def slotLoad (i : Image) (t s : Nat) : List Finding :=
  let lanes := (i.tlane ++ i.clane).filter fun r => laneTarget r / 8 == t && laneSlot r == s
  let blocks := i.loop.filter fun r => lpRtype r == 0 && u8 r 5 == 0 && u16 r 6 / 8 == t && u8 r 8 == s
  let loops : List (Nat × Rat) := blocks.map fun _ => (1, 20000)
  let load := lanes.map (laneDensest i 25600) ++ loops
  let pend := lanes.map (fun r => laneDensest i ((laneIssue r : Rat) * 400) r) ++ loops
  let total (l : List (Nat × Rat)) : Nat := l.foldl (fun n x => n + x.1) 0
  let start (l : List (Nat × Rat)) : Nat := ((l.foldl larger (0, 0)).2 / 400).floor.toNat
  let find (at_ : Nat) : List Finding :=
    [{ code := 0x501, cls := 5, res := resId 3 (t * 16 + s), ownerA := ownerRef 0x04 (96 + t), arg1 := t * 16 + s, arg2 := at_ }]
  if 4 < total load then find (start load)
  else if (partOf (i.tile.getD t []) s).2 < total pend then find (start pend)
  else []

/-! ## Envelopes, token bound, HART budgets -/

/-- A user envelope obeys R184. -/
def envelopeOk (r : Rec) : Bool :=
  let bp := (List.range (min 8 (u8 r 2))).map fun j => (u32 r (12 + 6 * j), u16 r (16 + 6 * j))
  (match bp.head? with | some p => p.1 == 0 | none => false) &&
    ((bp.zip bp.tail).all fun (a, b) => decide (a.1 < b.1)) &&
    (bp.all fun p => decide (p.1 ≤ 1000000) && decide (100 ≤ p.2) && decide (p.2 ≤ 2000)) &&
    (match bp.getLast? with | some p => p.2 == 100 | none => false)

/-- ENVELOPE of each failing user envelope. -/
def envelopeFindings (b : List Byte) (i : Image) : List Finding :=
  let d := section_ b 0x05
  i.prof.zipIdx.filterMap fun (r, n) =>
    if u8 r 0 = 1 && !envelopeOk r then some { code := 0x504, cls := 5, ownerA := ownerRef 0x05 n, offset := d.off + 64 * n } else none

/-- TOKENBOUND of each numbered group whose bound exceeds P - 100 µs. -/
def tokenFindings (b : List Byte) (i : Image) (p : Nat) : List Finding :=
  let d := section_ b 0x0B
  i.grp.zipIdx.filterMap fun (r, n) =>
    if grpNum r != 0xFFFF && !boundFits p (grpMembers r) then
      some { code := 0x502, cls := 5, ownerA := ownerRef 0x0B n, offset := d.off + 192 * n }
    else none

/-- A plan's budgets and staleness limits (R137, R140). -/
def planOk (i : Image) (p : Rec) : Bool :=
  let its := imgItems i p
  let turns := its.filter fun r => u8 r 0 == 1
  let cycle := turns.foldl (fun a r => a + u32 r 8) (planAdhoc p)
  let attempt (r : Rec) : Nat :=
    let hd := planPre p + 9
    let n := u8 r 3 + if u8 r 2 = 31 then 2 else 0
    hartTau * ((hd + n) + planTreply p + (hd + u16 r 6) + 2)
  turns.all (fun r => decide (attempt r ≤ ms (u32 r 8))) &&
    (its.filter fun r => u8 r 0 == 0).all fun r =>
      let stale := if u32 r 8 = 0 then 2 * cycle else u32 r 8
      decide (cycle ≤ stale) && decide (stale ≤ 600000)

/-- HARTPLAN of each failing plan. -/
def planFindings (b : List Byte) (i : Image) : List Finding :=
  let d := section_ b 0x0D
  i.plan.zipIdx.filterMap fun (p, n) =>
    if planOk i p then none else some { code := 0x503, cls := 5, ownerA := ownerRef 0x0D n, offset := d.off + 32 * n }

/-- Every failure of class 5, in the order of the records that own them. -/
def limitFindings (b : List Byte) (i : Image) (p : Nat) : List Finding :=
  (List.range 12).flatMap (fun t => tileCurrent i t ++ [3, 4, 5, 6, 7, 8].flatMap (slotLoad i t))
    ++ envelopeFindings b i ++ tokenFindings b i p ++ planFindings b i

/-! ## The whole of staging (R436, R437) -/

/-- Findings of a class in the order of the image. -/
def inOrder (l : List Finding) : List Finding := l.mergeSort fun a b => decide (a.offset ≤ b.offset)

/-- A finding that rejects the image; a notice rejects nothing. -/
def isError (f : Finding) : Bool := f.code != 2

/-- The classes one after another: none runs once one has failed. -/
def runClasses : List Finding → List (Unit → List Finding) → List Finding
  | acc, [] => acc
  | acc, c :: rest => let l := c (); if l.any isError then acc ++ l else runClasses (acc ++ l) rest

/-- Every finding of staging a partition's image (R436); the first 128 are reported. -/
def stageFindings (s : State) (m : List Host.Cell) : List Finding :=
  match imageBytes m with
  | none => [errAt 0x100 0xFFFFFFFF]
  | some b =>
    let i := decodeImage b
    let open_ := s.pwr.straps.almDef == 2
    runClasses [] [
      fun _ => inOrder (containerFindings b),
      fun _ => authorityFindings s b,
      fun _ => inOrder (recordFindings b i open_ s.net.num),
      fun _ => claimFindings b i,
      fun _ => limitFindings b i s.ep.p]

/-- RESULT of staging: the first error, else STAGED_NOTES or STAGED (R437). -/
def stageResult (l : List Finding) : Nat :=
  match l.find? isError with
  | some f => f.code
  | none => if l.isEmpty then 0 else 1

/-- A finding as Table 13-9 lays it out. -/
def findingBytes (f : Finding) : List Byte :=
  leBytes 2 f.code ++ leBytes 2 f.cls ++ leBytes 4 f.res ++ leBytes 4 f.ownerA ++ leBytes 4 f.ownerB ++ leBytes 4 f.offset
    ++ leBytes 4 f.arg1 ++ leBytes 4 f.arg2 ++ [0, 0, 0, 0]

end Sys2Proof.Machine
end

