-- ==== Sys2Proof/Machine/Images.lean ====
section
/-! DEFINITION. Images under way: load, staging, rehearsal, activation, revert and discard (R436 to R449), and the STANDBY member's copy of the
journal and of the maquette (R372, R375, R386, R387). -/

namespace Sys2Proof.Machine

open Sys2Proof

/-! ## One at a time (R439) -/

/-- Every image descriptor journaled earlier, of whatever ring, has been taken up or is complete. -/
def imgTurn (s : State) (r : WorkRef) : Bool :=
  (s.host.work.takeWhile fun x => x.ref != r).all fun x => x.opcode / 256 != 3 || x.taken || x.final.isSome

/-- Images changed. -/
def modImg (f : Images → Images) (s : State) : State := { s with img := f s.img }

/-- One image descriptor taken up in its turn, where `c` holds besides. -/
def onImage (r : WorkRef) (op : Nat) (c : Bool) (f : Work → State → State) (s : State) : Out :=
  if c && imgTurn s r then onWork r op f s else noEffect s

/-- BUSY of a descriptor that an ARMED maquette turns away, or `f`. -/
def unlessArmed (w : Work) (f : State → State) (s : State) : State := if s.img.maqState = .armed then endWork w 0x600 s else f s

/-- A staging or a rehearsal runs. -/
def imgBusy (s : State) : Bool := s.img.stager.isSome || s.img.rehearser.isSome

/-! ## Load and discard (R438, R439) -/

/-- A staging or rehearsal that a changed maquette ends (R436, R441). -/
def maqChanged (next : MaqState) (s : State) : State := cutRehearsal 1 next (abortStaging s)

/-- The payload written into the maquette partition. -/
def loadImage (off : Nat) (data : List Byte) (s : State) : State :=
  modImg (fun m => { m with part := m.part.upd m.maqPart (cellWrites off data), maq := none, maqState := .loaded }) (maqChanged .loaded s)

/-- IMGLOAD: it draws ACCEPT once its payload is in the store and it is journaled, and DONE at once after (R438). -/
def execImgload (t : Time) (w : WorkRef) (s : State) : Out :=
  let s := s.at_ t
  match workOf s w with
  | none => noEffect s
  | some x =>
    when (hubUp s && x.opcode == 0x0300 && !x.taken && !x.fenced && x.final.isNone && mayRun s x && earlierTaken s x && imgTurn s w && mayAccept s x)
      (fun s =>
        let s1 := takeUp w s
        if s1.img.maqState = .armed then endWork x 0x600 (acceptWork w s1)
        else endWork x 0 (acceptWork w (loadImage (u32 x.bytes 32) x.payload s1))) s

/-- The maquette emptied. -/
def emptyMaquette (s : State) : State :=
  queueErases purposeImage (imageBlocks s.img.maqPart.val)
    (modImg (fun m => { m with part := m.part.set m.maqPart [], maq := none, maqState := .empty }) (maqChanged .empty s))

/-- IMGDISCARD. -/
def execImgdiscard (t : Time) (w : WorkRef) (s : State) : Out :=
  let s := s.at_ t
  onImage w 0x0305 true (fun w s => unlessArmed w (fun s => endWork w 0 (emptyMaquette s)) s) s

/-! ## Staging (R436, R437) -/

/-- The device stages no image: its identity is bad (R538), or TESTMODE is high on a part whose field lock is intact (R490, R491). -/
def stagesNone (s : State) : Bool := s.nvs.store.idBad || testMode s

/-- IMGSTAGE: staging begins. An EMPTY maquette has no image. -/
def execImgstage (t : Time) (w : WorkRef) (s : State) : Out :=
  let s := s.at_ t
  onImage w 0x0301 (!imgBusy s) (fun w s =>
    unlessArmed w (fun s =>
      if s.img.maqState = .empty then
        (if mirrors s && !localWork s w then s else finishData w.ref 0x100 (findingBytes (errAt 0x100 0xFFFFFFFF)) s)
      else modImg (fun m => { m with maqState := .staging, stager := some w.ref, stageCls := 1, maq := none }) s) s) s

/-- The findings of staging the maquette, first in the order of its classes. A device that stages no image answers with an error that the
spec does not name: a free code (log entry 3). -/
def stageNow (s : State) : List Finding × State :=
  if stagesNone s then
    let (v, s1) := freeW s
    ([{ code := 0x100 + v.toNat % 0x500, cls := 2 }], s1)
  else
    let m := s.img.part.get s.img.maqPart
    (stageFindings s m, { s with free := s.free + (match imageBytes m with | some b => (decodeImage b).grp.length | none => 0) })

/-- A staged maquette recorded, with NOTICE where its findings hold one (Table 18-3). -/
def recordStaged (i : Image) (l : List Finding) (s : State) : State :=
  let s1 := recordImage 1 i s
  if l.isEmpty then s1 else recordImage 5 i s1

/-- The maquette as staging leaves it. -/
def staged (l : List Finding) (s : State) : State :=
  match imageBytes (s.img.part.get s.img.maqPart) with
  | some b =>
    if 2 ≤ stageResult l then modImg (fun m => { m with maqState := .loaded, maq := none }) s
    else
      let i := decodeImage b
      sendMaquette b (recordStaged i l (modImg (fun m => { m with maqState := .staged, maq := some i }) s))
  | none => modImg (fun m => { m with maqState := .loaded, maq := none }) s

/-- STAGING_END: the maquette becomes STAGED or LOADED; IMGSTAGE completes with the findings, at most 128 of them. -/
def execStagingEnd (t : Time) (s : State) : Out :=
  let s := s.at_ t
  match s.img.stager with
  | none => noEffect s
  | some w =>
    when (hubUp s && s.flt.studioUp)
      (fun s =>
        let (l, s1) := stageNow s
        let s2 := staged l (modImg (fun m => { m with stager := none, stageCls := 0 }) s1)
        let mine := match workOf s2 w with | some x => !(mirrors s2 && !localWork s2 x) | none => false
        if mine then finishData w (stageResult l) ((l.take 128).flatMap findingBytes) s2 else s2) s

/-! ## Rehearsal (R440, R441) -/

/-- IMGREHEARSE: the maquette runs beside the cast for N epochs from the next boundary. -/
def execImgrehearse (t : Time) (w : WorkRef) (s : State) : Out :=
  let s := s.at_ t
  onImage w 0x0302 (!imgBusy s) (fun w s =>
    unlessArmed w (fun s =>
      if s.img.maqState != .staged then endWork w 0x100 s
      else modImg (fun m => { m with
        maqState := .rehearsing
        rehearser := some w.ref
        rehearseFirst := 0
        rehearseLeft := u32 w.bytes 32
        rehearseEnd := none }) s) s) s

/-- REHEARSAL_END: the report covers the epochs that ran. -/
def execRehearsalEnd (t : Time) (_counts : List Word) (s : State) : Out :=
  let s := s.at_ t
  match s.img.rehearser, s.img.rehearseEnd with
  | some w, some result =>
    when (hubAlive s)
      (fun s =>
        let n := match workOf s w with | some x => u32 x.bytes 32 | none => 0
        let report := rehearsalReport s.img.rehearseFirst (n - s.img.rehearseLeft) s.reh
        let clear := modImg (fun m => { m with rehearser := none, rehearseEnd := none, rehearseFirst := 0, rehearseLeft := 0 }) { s with reh := none }
        finishData w result report clear) s
  | _, _ => noEffect s

/-! ## Activation and revert (R442, R443, R449) -/

/-- A work has drawn ACCEPT. -/
def isAccepted (s : State) (r : WorkRef) : Bool := match workOf s r with | some w => w.accepted | none => false

/-- Every tile's shadow bank loads afresh. -/
def shadowsAfresh (s : State) : State := { s with tile := s.tile.all fun x => { x with shadow := none } }

/-- IMGACTIVATE accepted: the maquette is ARMED, a rehearsal ends, the shadow banks load, and the activation joins its commit set. -/
def execImgactivate (t : Time) (w : WorkRef) (s : State) : Out :=
  let s := s.at_ t
  onImage w 0x0303 (isAccepted s w && s.img.stager.isNone && (s.img.activator.isNone || s.img.maqState == .armed)) (fun w s =>
    unlessArmed w (fun s =>
      if s.img.maqState != .staged && s.img.maqState != .rehearsing then endWork w 0x100 s
      else
        let s1 := cutRehearsal 2 .armed s
        joinWork w (shadowsAfresh (modImg (fun m => { m with maqState := .armed, activator := some (w.ref, false) }) s1))) s) s

/-- Why a revert is refused (R449), if it is. -/
def revertCode (s : State) : Option Nat :=
  match s.img.lastGood with
  | none => some 0x100
  | some i =>
    if hdrImgver i.hdr < s.img.floor then some 0x202
    else match imageBytes (s.img.part.get s.img.lgPart) with
      | some b => verifyCode s b
      | none => some 0x201

/-- IMGREVERT accepted: verified again, then it joins its commit set. -/
def execImgrevert (t : Time) (w : WorkRef) (s : State) : Out :=
  let s := s.at_ t
  onImage w 0x0304 (isAccepted s w && s.img.stager.isNone && (s.img.activator.isNone || s.img.maqState == .armed)) (fun w s =>
    unlessArmed w (fun s =>
      match revertCode s with
      | some code => endWork w code s
      | none => joinWork w (shadowsAfresh (modImg (fun m => { m with activator := some (w.ref, true) }) s))) s) s

/-- The image that an activation or revert under way brings. -/
def incoming (s : State) : Option Image :=
  match s.img.activator with
  | some (_, true) => s.img.lastGood
  | some (_, false) => s.img.maq
  | none => none

/-- SHADOW_BANK_LOADED: a LIVE tile over a good link holds its part of the incoming image. -/
def execShadowBankLoaded (t : Time) (tile : Fin 12) (s : State) : Out :=
  let s := s.at_ t
  match incoming s with
  | none => noEffect s
  | some i =>
    when (hubUp s && (s.tile.get tile).state == .live && linkUp s tile) (modTile tile fun x => { x with shadow := some (bankOf i tile) }) s

/-- ROLE_RECORD_WRITTEN: DONE of the activation carries E_A (R447). -/
def execRoleRecordWritten (t : Time) (s : State) : Out :=
  let s := s.at_ t
  match s.img.roleDue with
  | none => noEffect s
  | some (e, w, _) =>
    when (hubAlive s)
      (fun s =>
        let s1 := modImg (fun m => { m with roleDue := none }) (controlNote s)
        let mine := match workOf s1 w with | some x => !(mirrors s1 && !localWork s1 x) | none => false
        if mine then finishWith w 0 e 0 0 0 [] s1 else s1) s

/-! ## The STANDBY member's journal (R372, R386, R387) -/

/-- The work that a DESC entry describes. -/
def descWork (s : State) (b : List Byte) : Work :=
  let d := slice b 16 64
  let set := uN b 8 6
  let payload := if dInd d && dOp d != 0x0300 then slice b 80 (dLen d) else []
  let w : Work := { ref := { origin := u16 b 0, ring := u16 b 2, seq := dSeq d }, opcode := dOp d, bytes := d, payload := payload, check := w32 b 4, classJ := true }
  match opInfo (dOp d) with
  | some (_, true) => let (g, acts) := actsOf s set d payload; { w with set := some (g, set), acts := acts }
  | _ => w

/-- The reference at the front of an entry's body. -/
def bodyRef (b : List Byte) : WorkRef := { origin := u16 b 0, ring := u16 b 2, seq := w32 b 4 }

/-- A trim-store record from its 64 bytes, where the places are those of `trimBytes` (log entry 19). -/
def trimFrom (b : List Byte) : Trim :=
  { k := u16 b 8, func := u8 b 10, range := u8 b 11, zx := w32 b 12, zref := w32 b 16, sx := w32 b 20, sref := w32 b 24 }

/-- The ACTIVE member's total after an epoch, where the own one is not past that epoch (R293). -/
def takeTotal (e : Nat) (acc : BitVec 64) (t : Tot) : Tot :=
  if (match t.lastEpoch with | some l => decide (l ≤ e) | none => true) then { t with acc := acc, lastEpoch := some e } else t

/-- What one mirrored entry changes. RINGSTATE gives a ring that is not enabled here its count (R397). APPLIED and ROLE tell what this member does itself
at the same epoch, and ROLE numbers the partitions of the partner's own store (R373, R375; DEDUCED, log entry 180). -/
def mirrorEntry (etype : Nat) (b : List Byte) (s : State) : State :=
  match etype with
  | 1 =>
    let w := descWork s b
    if (workOf s w.ref).isSome then s else setHigh w.ref { s with host := { s.host with work := s.host.work ++ [w] } }
  | 2 => modWork (bodyRef b) (fun w => { w with accepted := true, acceptedAt := s.now, accEpoch := (w.set.map (·.2)).getD 0 }) s
  | 3 => modWork (bodyRef b) (fun w => { w with marked := true, started := true }) s
  | 4 => modWork (bodyRef b) (fun w => if w.final.isSome then w else { w with final := some (cplOf (b.drop 8)) }) s
  | 5 => modWork (bodyRef b) (fun w => { w with noticed := true, deferred := true }) s
  | 7 =>
    match asFin 96 (u8 b 0) with
    | some n => { s with eng := { s.eng with tot := s.eng.tot.upd n (takeTotal (uN b 8 6) (BitVec.ofNat 64 (u64 b 16))) } }
    | none => s
  | 8 =>
    match asFin 64 (u16 b 0) with
    | some n => if (s.host.cr.get n).state = 0 then modCr n (fun c => { c with gen := u16 b 2 }) s else s
    | none => s
  | 9 => setHigh (bodyRef b) s
  | 0xA =>
    if u64 b 0 = s.nvs.store.serial.toNat then
      let x := trimFrom (b.drop 8)
      let same (y : Trim) : Bool := y.k == x.k && y.func == x.func && y.range == x.range
      { s with nvs := { s.nvs with trims := x :: s.nvs.trims.filter fun y => !same y } }
    else s
  | _ => s

/-- Whole entries taken from the front of the mirrored bytes; one whose ECHECK fails is not counted, and the bytes after it come again. -/
def takeEntries : Nat → State → State
  | 0, s => s
  | n + 1, s =>
    let j := s.host.jnl
    let b := j.mirror
    let len := u16 b 2
    if b.length < 24 || b.length < len then s
    else if len < 24 || len % 8 != 0 || u32 b (len - 4) != storeCheck (b.take (len - 4)) then
      { s with host := { s.host with jnl := { j with mirror := [] } } }
    else
      let e : JEntry := { etype := u8 b 0, eseq := u32 b 4, epoch := uN b 8 6, body := slice b 16 (len - 20), off := j.acked % 131072, mirrored := true }
      let a := (j.acked + len) % 2 ^ 32
      let s1 := { s with host := { s.host with jnl := { j with
        acked := a, head := a, eseq := (e.eseq + 1) % 2 ^ 32, log := j.log ++ [e], mirror := b.drop len, unspilled := j.unspilled + len } } }
      takeEntries n (mirrorEntry e.etype e.body s1)

/-- The count at which the partner's log stood for an offset, the nearest to its JHEAD. -/
def countAt (jhead joff : Nat) : Nat := (jhead + 2 ^ 32 + (joff + 131072 - jhead % 131072 + 65536) % 131072 - 65536) % 2 ^ 32

/-- JNL_ENTRY: bytes that continue the mirrored log are added to it; a member that has none, or that is more than a ring behind, begins at
them; others wait for the partner to send again. -/
def execJnlEntry (t : Time) (joff : Word) (bytes : List Byte) (s : State) : Out :=
  let s := s.at_ t
  match s.pair.partner with
  | none => noEffect s
  | some p =>
    when (hubUp s && mirrors s)
      (fun s =>
        let j := s.host.jnl
        let next := (j.acked + j.mirror.length) % 131072
        let off := joff.toNat % 131072
        let lost := j.acked = 0 || 131072 < (p.jhead + (2 ^ 32 - j.acked)) % 2 ^ 32
        let take (j : Journal) : State :=
          let s1 := { s with host := { s.host with jnl := { j with mirror := j.mirror ++ bytes } } }
          takeEntries (s1.host.jnl.mirror.length / 24 + 1) s1
        if next = off then take j
        else if lost then take { j with acked := countAt p.jhead off, mirror := [] }
        else s) s

/-- The mirrored image complete: it becomes the maquette and is staged by the member's own rules; the partner's cast becomes the cast of a member
that lacks it (R375). -/
def mirrorImage (s : State) : State :=
  let cells := s.pair.image
  let s1 := { s with pair := { s.pair with image := [] }
                     img := { s.img with part := s.img.part.set s.img.maqPart cells, maq := none, maqState := .loaded } }
  let (l, s2) := stageNow s1
  match imageBytes cells with
  | none => s2
  | some b =>
    if 2 ≤ stageResult l then s2
    else
      let i := decodeImage b
      let s3 := recordStaged i l (modImg (fun m => { m with maqState := .staged, maq := some i }) s2)
      let partnerCast := match s3.pair.partner with | some p => p.castId.toNat | none => 0
      if u32 i.id 0 = partnerCast && castId s3 != partnerCast then
        let s4 := activate i false s3.ep.e { origin := s3.net.num, ring := 0, seq := 0 } s3
        modImg (fun m => { m with roleDue := none }) s4
      else s3

/-- JNL_IMAGE. -/
def execJnlImage (t : Time) (off : Word) (bytes : List Byte) (last : Bool) (s : State) : Out :=
  let s := s.at_ t
  when (hubUp s && mirrors s && s.img.maqState != .armed)
    (fun s =>
      let s1 := { s with pair := { s.pair with image := cellWrites off.toNat bytes s.pair.image } }
      if last then mirrorImage (maqChanged .loaded s1) else s1) s

end Sys2Proof.Machine
end

