-- ==== Sys2Proof/Machine/Resets.lean ====
section
/-! DEFINITION. Clock supervision, supplies, resets and starts (R34, R35, R421, R448, R494 to R518, R526, R604). -/

namespace Sys2Proof.Machine

open Sys2Proof

/-- Power and reset state changed. -/
def modPwr (f : Pwr → Pwr) (s : State) : State := { s with pwr := f s.pwr }

/-- The plinth changed. -/
def modPlinth (f : Plinth → Plinth) (s : State) : State := { s with plinth := f s.plinth }

/-! ## Clocks (R494 to R496) -/

/-- CCLK_PLL_LOCK. -/
def execCclkPllLock (t : Time) (s : State) : Out :=
  let s := s.at_ t
  when (s.pwr.phase != .por) (modPwr fun p => { p with pllLocked := true }) s

/-- A KCLK period in which the count lies out of range: the second in a row latches CLKFAIL and asserts the hub reset directly. While the
power-fail sequence runs or LOCK stands, only the flag is latched; within 25 µs of a YIELD the reset is held off (R379). -/
def clockBad (s : State) : State :=
  let n := min 2 (s.pwr.clkBad + 1)
  let s1 := modPwr (fun p => { p with clkBad := n, clkGood := 0 }) s
  if n < 2 then s1
  else
    let s2 := modPlinth (fun p => { p with clkFail := true }) s1
    if s2.pwr.failing || s2.flt.lock then s2
    else match yieldHold s2 with
      | some e => if s2.pair.holdOff.isSome then s2 else { s2 with pair := { s2.pair with holdOff := some (e, 4, 0) } }
      | none => hubReset 4 0 s2

/-- A KCLK period in range: the second in a row ends the monitor's hold on the reset, which lasts 100 µs more. -/
def clockGood (s : State) : State :=
  let n := min 2 (s.pwr.clkGood + 1)
  let ends := s.pwr.phase = .reset && s.pwr.cause = 4 && n = 2 && s.pwr.clkGood = 1
  modPwr (fun p => { p with clkBad := 0, clkGood := n, resetAt := if ends then s.now else p.resetAt }) s

/-- CLOCK_MONITOR: edges of CCLK ÷ 64 in one KCLK period, legal from 272 to 300; with none CCLK has
stopped. -/
def execClockMonitor (t : Time) (count : Nat) (s : State) : Out :=
  let s := s.at_ t
  when (s.pwr.phase != .por && s.pwr.pllLocked) (fun s =>
    let s1 := modPwr (fun p => { p with clkStopped := count == 0 }) s
    if 272 ≤ count && count ≤ 300 then clockGood s1 else clockBad s1) s

/-- KCLK_CHECK: a KCLK period of more than 100 µs, or more than 1 % off 30.517578125 µs; the source stays asserted until a good period. -/
def execKclkCheck (t : Time) (period : Time) (s : State) : Out :=
  let s := s.at_ t
  let nominal := 195312500
  let off := decide (3200 * period < nominal - 1953125) || decide (nominal + 1953125 < 3200 * period)
  when (hubAlive s) (if off || decide (us 100 < period) then raiseLevel 0x005 else calm 0x005) s

/-! ## Reset requests (R503, R504) -/

/-- A reset pin stands low, and a pin's level set. -/
def pinsLow (s : State) : Bool := s.pwr.low.1 || s.pwr.low.2
def pinLow (perst : Bool) (s : State) : Bool := if perst then s.pwr.low.1 else s.pwr.low.2
def setPin (perst low : Bool) (s : State) : State := modPwr (fun p => { p with low := if perst then (low, p.low.2) else (p.low.1, low) }) s

/-- The hub reset of a pin that is low, and the level that it then has: the hub stays in reset while it is low (R504). -/
def pinReset (perst low : Bool) (s : State) : State := setPin perst low (requestReset (if perst then 6 else 7) 0 s)

/-- RESET_PIN: a pin has been low for `held`, and may still be low. At least 1 µs asserts the hub reset; below 100 ns it is ignored, and
between the two the spec gives no limit: a free value. A pin known to be low only ends its pulse. -/
def execResetPin (t : Time) (pin : PinIs) (held : Time) (s : State) : Out :=
  let s := s.at_ t
  if pinLow pin.perst s then .next (setPin pin.perst pin.low s)
  else if us 1 ≤ held then .next (pinReset pin.perst pin.low s)
  else if held < 200 then .next s
  else let (b, s1) := freeB s; .next (if b then pinReset pin.perst pin.low s1 else s1)

/-- DEVRST. -/
def execDevrst (t : Time) (s : State) : Out :=
  let s := s.at_ t
  when (hubAlive s) (requestReset 8 0) s

/-! ## The plinth (R515 to R518) -/

/-- KCOUNT of this instant, at the nominal 32.768 kHz. -/
def kNow (s : State) : BitVec 48 := BitVec.ofNat 48 (s.now * 32 / 1953125)

/-- TSET_UPDATE: once per second while SYSTIME is locked. -/
def execTsetUpdate (t : Time) (s : State) : Out :=
  let s := s.at_ t
  when (hubUp s && s.net.locked) (modPlinth fun p => { p with kcount := kNow s, tset := some (sysNs s, (kNow s).toNat) }) s

/-- INTRUSION: the mesh breaks or shorts, with or without VLOG. -/
def execIntrusion (t : Time) (s : State) : Out := .next (modPlinth (fun p => { p with intrusion := true, told := false }) (s.at_ t))

/-- PLINTH_LOSS: VKEEP below 1.6 V while VLOG is absent. -/
def execPlinthLoss (t : Time) (vkeep : Nat) (s : State) : Out :=
  let s := s.at_ t
  when (s.pwr.phase == .por && decide (vkeep < 1600)) (fun s => { s with plinth := {} }) s

/-- SYSTIME of a start in half-ns: the plinth's time, or 0 where it is lost (R516, R518). -/
def seedHalf (s : State) : Int :=
  match s.plinth.valid, s.plinth.tset with
  | true, some (ns, k) => 2 * ns + ((kNow s - BitVec.ofNat 48 k).toNat * 61035156 / 1000 : Nat)
  | _, _ => 0

/-- The plinth written afresh and its event flags consumed by a start. -/
def plinthStarted (s : State) : State :=
  if s.plinth.valid then modPlinth (fun p => { p with clkFail := false, pfail := false, pfailShort := false }) s
  else
    let stored := (s.recd.stored.map fun r => (recBytes r).length).foldl (· + ·) 0
    { s with plinth := { valid := true, kcount := kNow s, tset := some (sysNs s, (kNow s).toNat), recTail := BitVec.ofNat 32 stored } }

/-! ## Starting the hub (Tables 16-7, 16-8) -/

/-- The network side at a start: the numbers are kept, PEL2 and PEL3 are disabled unless the device is a coupler, PRIO 255 is advertised
(R513). -/
def netStart (s : State) : State :=
  let port (p : Fin 5) : Port := if (p = 2 || p = 3) && !s.net.coupler then { state := 3, downAt := s.now } else { downAt := s.now }
  { s with
    sysOff := seedHalf s - s.now
    net := { s.net with port := ⟨(List.finRange 5).map port, by simp⟩, startedAt := s.now, prioHeld := true } }

/-- The START record (Table 18-3). -/
def recordStart (s : State) : State :=
  let p := s.plinth
  let arg := s.pwr.cause + 2 ^ 16 * s.pwr.causeSrc + 2 ^ 28 * b2n p.valid + 2 ^ 29 * b2n (p.valid && p.clkFail) + 2 ^ 30 * b2n (p.valid && p.intrusion) +
    2 ^ 31 * b2n (p.valid && (p.pfail || p.pfailShort))
  recordArgs 0x0201 (srcOf 11 0) [arg, p.lastEpoch % 2 ^ 32, p.lastEpoch / 2 ^ 32] s

/-- WDA as the ROM starts it: from the running patch's header, or 146 and 1,465 ticks (R497, R524). -/
def wdaStart (s : State) : State :=
  let (c, o) := match s.nvs.patch.running with
    | some i => ((s.nvs.patch.slot.get i).wdaClose, (s.nvs.patch.slot.get i).wdaOpen)
    | none => (146, 1465)
  modPwr (fun p => { p with wda := { en := true, close := c, open_ := o, from_ := s.now } }) s

/-- Patch and Studio slots selected (R526). -/
def bootAll (s : State) : State :=
  let (f, l) := bootSelect s.nvs.patch
  let s1 := wdaStart (recordFwAll false f l (selectorWrite s.nvs.patch f { s with nvs := { s.nvs with patch := f } }))
  let (g, m) := bootSelect s1.nvs.studio
  recordFwAll true g m (selectorWrite s1.nvs.studio g { s1 with nvs := { s1.nvs with studio := g } })

/-- An image of the store verifies at a start: R426, R427, and the version floor. -/
def startOk (s : State) (b : List Byte) : Bool := (verifyCode s b).isNone && decide (s.img.floor ≤ u32 b 16)

/-- The image that a partition holds. -/
def partImage (s : State) (i : Fin 3) : Option (List Byte) := imageBytes (s.img.part.get i)

/-- The cast in force from now on; its floor counts (R430). Loops and totalisers of another image start afresh, and so does every HART plan (R134). -/
def putCast (i : Option Image) (s : State) : State :=
  let same := match i, s.img.cast with | some a, some b => a.id == b.id | _, _ => false
  let eng := if same then s.eng else { s.eng with loop := Bank.fill 48 {}, tot := Bank.fill 96 {} }
  let s1 := modImg (fun m => { m with cast := i, floor := match i with | some x => max m.floor (hdrFloor x.hdr) | none => m.floor }) { s with eng := eng }
  forEach allChans freshPlan s1

/-- Items of one work leave every commit set. -/
def dropItems (r : WorkRef) (s : State) : State :=
  let cut (c : CSet) : CSet := { c with items := c.items.filter fun i => i.w != r }
  { s with ep := { s.ep with sets := s.ep.sets.map cut, held := s.ep.held.map cut } }

/-- An activation or revert under way that a start has left without its image: NOIMAGE, as for a maquette that is not STAGED and a last-good image that is
not there (R439, R449; DEDUCED, log entry 183). -/
def imageGone (s : State) : State :=
  match s.img.activator with
  | some (w, _) => finishDone w 0x100 (modImg (fun m => { m with activator := none }) (dropItems w s))
  | none => s

/-- The last-good image in place of a cast that fails; the failed partition is emptied as maquette (R448), and what the maquette partition held goes with
its role (DEDUCED, log entry 183). -/
def castBad (b : List Byte) (s : State) : State :=
  let s1 := recordImage 4 (decodeImage b) s
  match partImage s1 s1.img.lgPart with
  | none => putCast none s1
  | some g =>
    let m := s1.img
    let s2 := modImg (fun x => { x with
      castPart := m.lgPart
      maqPart := m.castPart
      lgPart := m.maqPart
      part := (m.part.set m.castPart []).set m.maqPart []
      maq := none
      maqState := .empty
      lastGood := none }) (imageGone s1)
    let s3 := controlWrite (queueErases purposeImage (imageBlocks m.castPart.val) (journalRole m.castEpoch s2))
    if startOk s3 g then putCast (some (decodeImage g)) s3 else putCast none (recordImage 6 (decodeImage g) s3)

/-- CAST_LOAD: the cast, otherwise last-good, otherwise none. A device that stages no image runs without one (R490, R538). -/
def castLoad (s : State) : State :=
  let s1 := modImg (fun m => { m with lastGood := (partImage s m.lgPart).map decodeImage }) s
  if stagesNone s1 then putCast none s1
  else match partImage s1 s1.img.castPart with
    | none => putCast none s1
    | some b => if startOk s1 b then putCast (some (decodeImage b)) s1 else castBad b s1

/-- An ARMED maquette verified again after a reset (R439). -/
def armedAgain (s : State) : State :=
  match s.img.activator, s.img.maqState with
  | some (w, false), .armed =>
    (match (match partImage s s.img.maqPart with | some b => verifyCode s b | none => some 0x201) with
      | none => s
      | some code =>
        let s1 := modImg (fun m => { m with maqState := .loaded, maq := none, activator := none }) (dropItems w s)
        finishDone w code s1)
  | _, _ => s

/-- The clock monitor's reset is reported to the collector once the hub runs again; it resets the hub no second time (R495). -/
def reportClock (s : State) : State :=
  if s.pwr.cause != 4 then s
  else
    let cfg := (srcEntry s 0x005).cls
    let eff := effective s [] cfg
    let s1 := noteEvent false false 0x005 cfg eff s
    if eff = 5 then requestLock 0x005 s1 else s1

/-- Source 0x008 raised once for an intrusion (R517). -/
def reportIntrusion (s : State) : State :=
  if s.plinth.intrusion && !s.plinth.told then raise 0x008 (modPlinth (fun p => { p with told := true }) s) else s

/-- A STOREEV record of the store as a whole: its ARG1 names a block, which the spec leaves open here: a free value. -/
def recordStore (ev : Nat) (s : State) : State := let (v, s1) := freeW s; record 0x0903 (srcOf 9 0xFFF) ev 0 [v.toNat] s1

/-- IDBAD recorded at every start that finds it (R538). -/
def reportIdentity (s : State) : State := if s.nvs.store.idBad then recordStore 3 s else s

/-- NVS_FWSTAT shows IDLE after a reset, unless the reset cut a load off (Table 17-5). -/
def loadIdle (s : State) : State := if s.nvs.load.target.isSome then s else { s with nvs := { s.nvs with load := {} } }

/-- Every step of a start that Armature takes. -/
def hubStart (s : State) : State :=
  let s1 := netStart (modPwr (fun p => { p with phase := .run, startAt := s.now }) s)
  let s2 := plinthStarted (recordStart (sealOpen s1))
  let s3 := castLoad (bootAll (fltLoad (intentScan (loadIdle s2))))
  let s4 := armedAgain { s3 with ep := { s3.ep with groups := (s3.img.cast.map fun i => groupsOf i []).getD [] } }
  reportIdentity (reportIntrusion (reportClock (endInFlight s4)))

/-- HUB_RESET_RELEASE: after 100 µs, with both reset pins high and CCLK locked, and with the clock monitor content where it asserted the reset. -/
def execHubResetRelease (t : Time) (s : State) : Out :=
  let s := s.at_ t
  when (s.pwr.phase == .reset && !pinsLow s && s.pwr.pllLocked && decide (s.pwr.resetAt + us 100 ≤ s.now) && (s.pwr.cause != 4 || decide (2 ≤ s.pwr.clkGood)))
    hubStart s

/-- Reset cause of a power-on (Table 16-5). -/
def porCause (p : Plinth) : Nat := if !p.valid then 0 else if p.pfailShort then 1 else if p.pfail then 2 else 3

/-- LOCK latches of the tiles cleared through the MGT slot (R487). -/
def clearLatches (s : State) : State :=
  forEach ((List.finRange 12).filter fun t => tilePowered s t && linkUp s t) (fun t s =>
    refreshTile t (modTile t (fun x => { x with lockLatch := false }) (tileSend t 15 0 mgtClearLatch 0 0 0 s))) s

/-- TESTMODE sampled high on a part whose field-lock fuse is blown is recorded and otherwise ignored (R491). -/
def reportTestmode (s : State) : State := if s.pwr.straps.testMode = 1 && s.sec.fieldLock then recordGeneric 12 2 s else s

/-- Latches and windows lost with the power of tile and hub are recorded (R198). -/
def reportLost (s : State) : State :=
  forEach (allChans.filter fun k => (s.chan.get k).sw.lost) (fun k s => recordLatch k 3 0 0 (modSw k (fun w => { w with lost := false }) s)) s

/-- POR_RELEASE: with both reset pins high the straps are sampled and the cold start runs (R510). -/
def execPorRelease (t : Time) (straps : Straps) (s : State) : Out :=
  let s := s.at_ t
  when (s.pwr.phase == .cold && !pinsLow s)
    (fun s =>
      let s1 := modPwr (fun p => { p with straps := straps, cause := porCause s.plinth, causeSrc := 0 }) s
      let s2 := { s1 with pair := { s1.pair with state := if straps.pairId = 2 then .solo else .orphan } }
      reportLost (clearLatches (reportTestmode (hubStart s2)))) s

/-! ## Supplies (R506 to R509) -/

/-- A total as the newest journal entry before an epoch has it; with none it starts at 0 (R293). -/
def backTotal (e : Nat) (t : Tot) : Tot :=
  match t.past.dropWhile (fun p => decide (e ≤ p.1)) with
  | p :: rest => { t with acc := p.2.1, lastEpoch := some p.1, lastCount := p.2.2, limit := false, past := p :: rest }
  | [] => { t with acc := 0, lastEpoch := none, lastCount := none, limit := false, past := [] }

/-- What a mirrored or own entry has told is taken back: the entry never reached the store. -/
def unEntry (e : JEntry) (s : State) : State :=
  let r := bodyRef e.body
  match e.etype with
  | 1 =>
    let r := (descWork s e.body).ref
    { s with host := { s.host with work := s.host.work.filter fun w => w.ref != r } }
  | 2 => modWork r (fun w => { w with accepted := false }) s
  | 3 => modWork r (fun w => { w with marked := false, started := false }) s
  | 4 => modWork r (fun w => { w with final := none }) s
  | 5 => modWork r (fun w => { w with noticed := false }) s
  | 7 =>
    match asFin 96 (u8 e.body 0) with
    | some n => { s with eng := { s.eng with tot := s.eng.tot.upd n (backTotal (uN e.body 8 6)) } }
    | none => s
  | _ => s

/-- The newest entries that make up `n` bytes, newest first. -/
def newest : Nat → List JEntry → List JEntry
  | _, [] => []
  | n, e :: older => if n = 0 then [] else e :: newest (n - (jBytes e).length) older

/-- The journal as a flush that VHOLD cut short leaves it: of the bytes still to flush, those beyond a free number are lost, the newest first
(R506; log entry 3). -/
def dropUnspilled (s : State) : State :=
  let (v, s1) := freeW s
  let j := s1.host.jnl
  let lost := newest (j.unspilled - v.toNat % (j.unspilled + 1)) j.log.reverse
  let s2 := forEach lost unEntry s1
  let head := match lost.getLast? with | some _ => (j.head + (2 ^ 32 - (lost.map fun e => (jBytes e).length).foldl (· + ·) 0)) % 2 ^ 32 | none => j.head
  { s2 with host := { s2.host with jnl := { j with
    log := j.log.take (j.log.length - lost.length)
    head := head
    eseq := match lost.getLast? with | some e => e.eseq | none => j.eseq } } }

/-- What POR clears beyond a hub reset (Table 16-4): registers and fault status whole, the recorder's queue and buffers, patina since its last
write; the store and the plinth stay, and of a tile that has no power either the latches and windows are lost (R198). The recorder's series resumes from the newest stored record (R540). -/
def porClear (s : State) : State :=
  let s1 := hubClear s
  let last := s1.recd.stored.getLast?
  { s1 with
    regs := []
    chan := s1.chan.allIdx fun k c => match asFin 96 k with
      | some k => if (s1.tile.get (tileOf k)).state = .off then { c with sw := loseLatches c.sw, hubLatch := 0, hubWindow := 0 } else { c with hubLatch := 0, hubWindow := 0 }
      | none => c
    flt := { store := s1.flt.store }
    host := { s1.host with jnl := { s1.host.jnl with unspilled := 0, mirror := [] } }
    -- A tile that resolves ALMDIR = DEFAULT keeps the strap sampled at the last release until the next (R110).
    tap := { edges := s1.tap.edges }
    pwr := { phase := .por, low := s1.pwr.low, straps := { pairId := 2, almDef := s1.pwr.straps.almDef, testMode := 0 } }
    recd := { stored := s1.recd.stored, seq := (match last with | some r => r.seq + 1 | none => s1.recd.seq), thrift := s1.recd.thrift,
              capped := s1.recd.capped, capFrom := s1.recd.capFrom, hourRecs := s1.recd.hourRecs, hourBytes := s1.recd.hourBytes
              hourAt := s1.recd.hourAt, hist := s1.recd.hist, eqNext := s1.recd.eqNext }
    nvs := { s1.nvs with pat := s1.nvs.patKept, tileCycles := s1.nvs.cyclesKept, tileStops := s1.nvs.stopsKept }
    cu := Bank.fill 4 {} }

/-- POWER_FAIL: VHOLD below 18.0 V. The member yields, the source is raised, and everything but the flush stops (R506, R507). -/
def powerFails (vhold : Nat) (s : State) : State :=
  let s1 := modPwr (fun p => { p with failing := true }) (yieldIf 1 0 s)
  let s2 := sealOpen (raiseLevel 0x01D s1)
  let r : RecRec := { evt := { type := 0x0203, source := srcOf 11 0, flags := unlockedFlag s, args := [BitVec.ofNat 32 vhold, BitVec.ofNat 32 s.host.jnl.unspilled]
                               time := sysNs s }
                      seq := s2.recd.seq }
  { s2 with recd := { s2.recd with sealed_ := s2.recd.sealed_ ++ [r], seq := s2.recd.seq + 1 }, flt := { s2.flt with studioUp := false } }

/-- POWER_FAIL. -/
def execPowerFail (t : Time) (vhold : Nat) (s : State) : Out :=
  let s := s.at_ t
  when (hubAlive s && !s.pwr.failing && decide (vhold < 18000)) (powerFails vhold) s

/-- FLUSH_DONE: the journal, the recorder and the marker are in the store; POR. -/
def execFlushDone (t : Time) (s : State) : Out :=
  let s := s.at_ t
  when (s.pwr.failing && hubAlive s) (fun s => porClear (modPlinth (fun p => { p with pfail := true }) (storeSealed s))) s

/-- FLUSH_FLOOR: 14.0 V; POR whether or not the flush has ended. -/
def execFlushFloor (t : Time) (vhold : Nat) (s : State) : Out :=
  let s := s.at_ t
  when (s.pwr.failing && hubAlive s && decide (vhold ≤ 14000)) (fun s => porClear (modPlinth (fun p => { p with pfailShort := true }) (dropUnspilled s))) s

/-- VLOG_GOOD: 19.8 V for 10 ms; POR is released. -/
def execVlogGood (t : Time) (vhold : Nat) (held : Time) (s : State) : Out :=
  let s := s.at_ t
  when (s.pwr.phase == .por && decide (19800 ≤ vhold) && decide (ms 10 ≤ held)) (modPwr fun p => { p with phase := .cold }) s

/-- HOLDUP_TEST: once in a cold start, and every 24 h. -/
def execHoldupTest (t : Time) (vhold : Nat) (s : State) : Out :=
  let s := s.at_ t
  let due := !s.pwr.holdRun || decide (s.pwr.holdAt + sec 86400 ≤ s.now)
  when (hubUp s && !s.pwr.testing && due && decide (19800 ≤ vhold)) (modPwr fun p => { p with testing := true }) s

/-- HOLDUP_TEST_END: C = I × Δt / 1.00 V against 403 µF, with I in mA and Δt in half-ns; a test without the fall passes. -/
def execHoldupTestEnd (t : Time) (current : Nat) (dt : Time) (fell : Bool) (s : State) : Out :=
  let s := s.at_ t
  let ok := !fell || decide (806000000 ≤ current * dt)
  when (hubUp s && s.pwr.testing)
    (fun s =>
      let s1 := modPwr (fun p => { p with testing := false, holdRun := true, holdOk := ok, holdAt := s.now }) s
      if ok then s1 else raise 0x01C s1) s

/-! ## Studio and the epoch join -/

/-- STUDIO_RUNNING: READY at a start; every buffered descriptor is parsed again and HART goes on (R421, R521, Table 04-9). -/
def execStudioRunning (t : Time) (s : State) : Out :=
  let s := s.at_ t
  let held := s.flt.blocks.any fun b => blockOf b.1 == some .studio
  when (hubUp s && s.nvs.studio.running.isSome && !s.flt.studioUp && !held)
    (fun s =>
      let s1 := { s with flt := { s.flt with studioUp := true, studioAt := s.now }, pwr := { s.pwr with ready := true, readyAt := if s.pwr.ready then s.pwr.readyAt else s.now } }
      forEach allChans hartResume (parseAll s1)) s

/-- Commit sets of journaled work that closed before the device joined move to the first open one, as one deferral (R604). -/
def rejoinSets (s : State) : State :=
  let m := eMin s
  let old := (s.ep.held ++ s.ep.sets).filter fun c => decide (c.epoch < m)
  let rest := s.ep.sets.filter fun c => !decide (c.epoch < m)
  let s1 := { s with ep := { s.ep with held := [], sets := rest } }
  let s2 := forEach old (fun c s => joinSet c.group m c.items s) s1
  forEach (worksOf old) (deferWork m) s2

/-- The first join since the last reset takes up journaled work again. -/
def firstJoin (s : State) : State :=
  let s1 := rejoinSets s
  let far := s1.host.work.filter fun w => w.ref.origin != s1.net.num && w.accepted && w.final.isNone
  forEach far (fun w s => repost w s) s1

/-- EPOCH_JOIN: at the first T_E at least 2 × P after lock (R298). -/
def execEpochJoin (t : Time) (s : State) : Out :=
  let s := s.at_ t
  let e := epochNow s
  let due := match s.ep.joinAt with | some a => decide ((a : Int) ≤ epochHalf s e) | none => false
  when (hubUp s && s.net.locked && s.net.state == 3 && !s.ep.joined && due)
    (fun s =>
      let first := !s.ep.everJoined
      let s1 := { s with ep := { s.ep with joined := true, counting := true, everJoined := true }, net := { s.net with holdover := false } }
      let s2 := if first then firstJoin s1 else s1
      let s3 := if s2.ep.e < e then withHref (boundary e) s2 else s2
      parseAll s3) s

end Sys2Proof.Machine
end

