-- ==== Sys2Proof/Machine/Firmware.lean ====
section
/-! DEFINITION. Firmware: loading, verification, trial starts and good marks (R522 to R529, R569). -/

namespace Sys2Proof.Machine

open Sys2Proof

/-- The firmware of one KIND: 1 the patch, 2 Studio. -/
def fwOf (s : State) (kind : Nat) : Fw := if kind = 2 then s.nvs.studio else s.nvs.patch

/-- The firmware of one KIND changed. -/
def modFw (kind : Nat) (f : Fw → Fw) (s : State) : State :=
  if kind = 2 then { s with nvs := { s.nvs with studio := f s.nvs.studio } } else { s with nvs := { s.nvs with patch := f s.nvs.patch } }

/-- The load registers' state changed. -/
def modLoad (f : FwLoad → FwLoad) (s : State) : State := { s with nvs := { s.nvs with load := f s.nvs.load } }

/-- NVS_FWCTL.KIND and SRC = WINDOW. -/
def fwKind (s : State) : Nat := bits (reg s 0x2C14) 0 2
def fwWindow (s : State) : Bool := bitOf (reg s 0x2C14) 2

/-- Erase blocks of a slot (Table 17-7). -/
def slotBlocks (kind : Nat) (i : Fin 2) : List Nat :=
  if kind = 2 then (List.range 64).map (· + (10 + 64 * i.val)) else [8 + i.val]

/-- Bytes of a slot. -/
def slotSize (kind : Nat) : Nat := if kind = 2 then 16777216 else 262144

/-- Steps 1 and 2 of R528: the slot that is not CONF, its erases under intent. -/
def beginLoad (window : Bool) (s : State) : State :=
  let kind := fwKind s
  let f := fwOf s kind
  if s.nvs.load.target.isSome || f.trial != 2 then modLoad (fun l => { l with code := 3 }) s
  else if kind != 1 && kind != 2 then modLoad (fun l => { l with code := 4 }) s
  else
    let i : Fin 2 := if f.conf = 0 then 1 else 0
    let blocks := slotBlocks kind i
    let s1 := modFw kind (fun f => { f with slot := f.slot.set i {} }) s
    queueErases purposeSlot blocks
      { s1 with nvs := { s1.nvs with load := { code := 1, kind := kind, window := window, windowOpen := window, target := some i } } }

/-- NVS_FWCTL.GO: with SRC = HOST a load from its first step; with SRC = WINDOW the end of the window's chunks. -/
def fwGo (s : State) : State :=
  if !fwWindow s then beginLoad false s
  else if s.nvs.load.windowOpen then modLoad (fun l => { l with windowOpen := false, word := [] }) s
  else if s.nvs.load.target.isSome then modLoad (fun l => { l with code := 3 }) s
  else s

/-- NVS_FWCTL.OPEN. -/
def fwOpen (s : State) : State := if fwWindow s then beginLoad true s else s

/-- FW_GO: firmware loading is Armature's alone; it needs neither Studio nor a cast (R524). -/
def execFwGo (t : Time) (s : State) : Out := let s := s.at_ t; when (hubUp s) fwGo s

/-- FW_OPEN. -/
def execFwOpen (t : Time) (s : State) : Out := let s := s.at_ t; when (hubUp s) fwOpen s

/-- One word at the chunk port; the 256th writes the chunk at NVS_FWOFF. A chunk that does not lie whole in the slot, at a multiple of 1,024,
is not written. -/
def fwWord (w : Word) (s : State) : State :=
  let l := s.nvs.load
  if !l.windowOpen then s
  else
    let ws := l.word ++ [w]
    if ws.length < 256 then modLoad (fun l => { l with word := ws }) s
    else
      let off := bits (reg s 0x2C0C) 0 24
      let ok := off % 1024 = 0 && off + 1024 ≤ slotSize l.kind
      modLoad (fun l => { l with word := [], chunks := if ok then insertK off ws l.chunks else l.chunks
                                 done := if ok then (insertK off ws l.chunks).length else l.done }) s

/-- FW_CHUNK. -/
def execFwChunk (t : Time) (word : Word) (s : State) : Out := let s := s.at_ t; when (hubUp s) (fwWord word) s

/-! ## Verification (R523) -/

/-- LENGTH of a firmware image. -/
def fwLength (b : List Byte) : Nat := u32 b 12

/-- MAGIC, KIND, the reserved fields and LENGTH meet Table 17-3. -/
def fwFormat (kind : Nat) (b : List Byte) : Bool :=
  let n := fwLength b
  u32 b 0 == 0x57465359 && u8 b 4 == kind && decide (u8 b 5 < 64) && u8 b 7 == 0 && allZero (slice b 24 40) && n % 64 == 0 &&
    decide (n ≤ (if kind = 2 then 16776960 else 32768)) && decide (192 + n ≤ b.length) &&
    (kind == 1 || (u8 b 6 == 0 && u16 b 16 == 0 && u16 b 18 == 0))

/-- The 128 bytes of the trailer. -/
def fwTrailer (b : List Byte) : List Byte := slice b (64 + fwLength b) 128

/-- The trailer's key is FK0 or FK1, not revoked. -/
def fwKeyOk (s : State) (b : List Byte) : Bool :=
  let d := ofBe (sha256 ((fwTrailer b).take 64))
  (d == Config.firmwareKey 0 && !s.sec.fkRev.1) || (d == Config.firmwareKey 1 && !s.sec.fkRev.2)

/-- The signature over header and body is good. -/
def fwSigOk (b : List Byte) : Bool :=
  let t := fwTrailer b
  ecdsaVerify (uN t 0 32, uN t 32 32) (b.take (64 + fwLength b)) (uN t 64 32) (uN t 96 32)

/-- The bytes that window chunks make up; none where they leave a gap below NVS_FWLEN. -/
def chunkBytes (n : Nat) (l : List (Nat × List Word)) : Option (List Byte) :=
  let whole := (List.range ((n + 1023) / 1024)).all fun i => l.any fun c => c.1 == 1024 * i
  if whole then some ((l.flatMap fun c => c.2.flatMap fun w => leBytes 4 w.toNat).take n) else none

/-- The code of a load that ends with the image bytes `b` (Table 17-5). -/
def loadCode (s : State) (kind : Nat) (b : List Byte) : Nat :=
  if !fwFormat kind b then 4
  else if !fwKeyOk s b then 5
  else if !fwSigOk b then 6
  else if u8 b 5 < (fwOf s kind).otp then 7
  else 2

/-- What a slot holds after a good load. -/
def slotFrom (b : List Byte) : Slot :=
  { present := true, svn := u8 b 5, jfmt := u8 b 6, wdaClose := u16 b 16, wdaOpen := u16 b 18, verifies := true }

/-- The end of a load: the target slot becomes TRIAL, or nothing is selected. -/
def endLoad (i : Fin 2) (b : Option (List Byte)) (s : State) : State :=
  let l := s.nvs.load
  let n := reg s 0x2C08
  let code := if slotSize l.kind < n then 8 else match b with | some b => loadCode s l.kind b | none => 8
  let s1 := modLoad (fun l => { l with code := code, target := none, windowOpen := false, word := [], chunks := [], done := if code = 8 then l.done else n / 1024 }) s
  match code, b with
  | 2, some b =>
    recordFw (l.kind = 2) 1 i.val (u8 b 5) (controlWrite (modFw l.kind (fun f => { f with
      slot := f.slot.set i (slotFrom b)
      trial := if i = 0 then 0 else 1
      bootCnt := 0 }) s1))
  | _, _ => s1

/-- Step 2 of R528 has ended: no erase of a firmware slot is outstanding. -/
def slotErased (s : State) : Bool := s.nvs.store.intents.all fun x => x.2 != purposeSlot

/-- FW_LOAD_END: the bytes read from host memory, or those of the window's chunks, once the target slot is erased. -/
def execFwLoadEnd (t : Time) (image : List Byte) (readOk : Bool) (s : State) : Out :=
  let s := s.at_ t
  let l := s.nvs.load
  match l.target with
  | none => noEffect s
  | some i =>
    let n := reg s 0x2C08
    let b := if l.window then chunkBytes n l.chunks else if readOk then some (image.take n) else none
    when (hubUp s && !l.windowOpen && slotErased s) (endLoad i b) s

/-! ## Starts and good marks (R527, R529) -/

/-- NVS_FWCTL.APPLY: a loaded Studio starts. -/
def fwApply (s : State) : State := if s.nvs.studio.trial != 2 then studioRestart s else s

/-- FW_APPLY. -/
def execFwApply (t : Time) (s : State) : Out := let s := s.at_ t; when (hubUp s) fwApply s

/-- The later of a start and the last event of a kind. -/
def quietFrom (from_ : Time) (last : Option Time) : Time := match last with | some a => max from_ a | none => from_

/-- The trial slot runs and has run its time: 10 s of WDA service after READY without a C2 event or higher for a patch, 60 s without a STUDIO
event for Studio (R527). -/
def goodDue (studio : Bool) (s : State) : Bool :=
  let f := if studio then s.nvs.studio else s.nvs.patch
  let running := match f.running with | some i => f.trial.val == i.val | none => false
  if studio then running && s.flt.studioUp && decide (quietFrom s.flt.studioAt s.flt.studioEvt + sec 60 ≤ s.now)
  else running && s.pwr.ready && decide (quietFrom s.pwr.readyAt s.flt.highAt + sec 10 ≤ s.now)

/-- The good mark: CONF is the trial slot, and the OTP counter rises to its SVN. -/
def goodMark (studio : Bool) (s : State) : State :=
  let f := if studio then s.nvs.studio else s.nvs.patch
  match f.running with
  | none => s
  | some i =>
    let svn := (f.slot.get i).svn
    recordFw studio 2 i.val svn (controlWrite
      (modFw (if studio then 2 else 1) (fun f => { f with conf := f.trial, trial := 2, bootCnt := 0, otp := max f.otp svn }) s))

/-- GOOD_MARK. -/
def execGoodMark (t : Time) (studio : Bool) (s : State) : Out :=
  let s := s.at_ t
  when (hubUp s && goodDue studio s) (goodMark studio) s

end Sys2Proof.Machine
end

