-- ==== Sys2Proof/Machine/Hart.lean ====
section
/-! DEFINITION. HART on every channel: replies, bursts, staleness, the modem, and the times of host transactions (R129 to R154). -/

namespace Sys2Proof.Machine

open Sys2Proof

/-! ## Mapping (R143 to R146) -/

/-- The MAP items of a drop, each with its index in the image's item table. A turn that completes under an old plan has no tags left. -/
def mapsOf (s : State) (k : Fin 96) (addr : Nat) : List (Nat × Rec) :=
  let p := castPlan s k.val
  if (s.chan.get k).hart.old.isSome then []
  else (((List.range (planCount p.1)).map (· + planFirst p.1)).zip p.2).filter fun e => u8 e.2 0 == 2 && u8 e.2 1 == addr

/-- One HART tag replaced. -/
def putTag (x : HartTag) (s : State) : State :=
  { s with misc := { s.misc with hartTags := x :: s.misc.hartTags.filter (fun y => y.item != x.item) } }

/-- The tag of a MAP item. -/
def tagOfItem (s : State) (i : Nat) : Option HartTag := s.misc.hartTags.find? (fun x => x.item == i)

/-- What a reply gives a mapping: the unit code (none where the message carries none), the value, VALID, UNDER and OVER. Places in commands
3 and 9 are the protocol's (PRESUMED, log entry 14). -/
def mapped (r : Rec) (m : HartMsg) : Option (Option Nat × Word × Bool × Bool × Bool) :=
  let var (i : Nat) : Option (Option Nat × Word × Bool × Bool × Bool) :=
    if 7 + 5 * i + 4 ≤ m.data.length then some (some (u8 m.data (6 + 5 * i)), hartFloat m.data (7 + 5 * i), true, false, false) else none
  match u8 r 2, m.cmd with
  | 0, 3 => var 0
  | 1, 3 => var 1
  | 2, 3 => var 2
  | 3, 3 => var 3
  | 4, 3 => if 6 ≤ m.data.length then some (none, hartFloat m.data 2, true, false, false) else none
  | 5, 9 =>
    match (List.range 8).find? (fun i => decide (3 + 8 * i + 8 ≤ m.data.length) && u8 m.data (3 + 8 * i) == u8 r 3) with
    | some i =>
      let st := u8 m.data (3 + 8 * i + 7)
      some (some (u8 m.data (3 + 8 * i + 2)), hartFloat m.data (3 + 8 * i + 3), bits st 6 2 != 0, bits st 4 2 == 1, bits st 4 2 == 2)
    | none => none
  | _, _ => none

/-- One mapping updated by a good message of response code 0: a unit that differs leaves the value, clears VALID, sets HART and is recorded. -/
def mapOne (k : Fin 96) (addr : Nat) (m : HartMsg) (e : Nat × Rec) (s : State) : State :=
  match mapped e.2 m with
  | none => s
  | some (unit, v, ok, lo, hi) =>
    if (match unit with | some u => u == u16 e.2 4 | none => true) then
      putTag { item := e.1, value := v, at_ := s.now, valid := ok, under := lo, above := hi } s
    else
      let old := (tagOfItem s e.1).getD { item := e.1, value := 0, at_ := s.now, valid := false }
      let st := (((s.chan.get k).hart.drops.find? (fun d => d.addr == addr)).map (·.state)).getD 0
      recordArgs 0x0B01 (srcOf 1 k.val) [3 + 256 * addr + 65536 * st] (putTag { old with valid := false, hart := true } s)

/-- The status tag of a drop updated by a good reply; its word is made when it is read (R144). -/
def mapStatus (e : Nat × Rec) (s : State) : State := putTag { item := e.1, value := 0, at_ := s.now, valid := true } s

/-- What a good reply or burst tells of a drop itself (R144): status and response code kept, command 48 asked for (R145), and a cold start leads to
identification (R134). The reply to command 48 asks for no further one: the drop's next turn has its entry again (DEDUCED, log entry 165). -/
def heardDrop (cmd48 : Bool) (m : HartMsg) (d : Drop) : Drop :=
  let st := m.data.getD 1 0
  { d with
    respCode := m.data.getD 0 0
    fieldStatus := st
    more48 := if m.cmd = 48 then false else d.more48 || (bitOf st.toNat 4 && cmd48)
    now48 := d.now48 && m.cmd != 48
    reident := d.reident || bitOf st.toNat 5 }

/-- The plan maps command 48 for a drop (R145). -/
def wants48 (s : State) (k : Fin 96) (addr : Nat) : Bool := bitOf (u16 (dropItem s k.val addr) 4) 1

/-- A good reply or burst of a drop: values mapped where the response code is 0, the status tag in any case (R145). -/
def takeMessage (k : Fin 96) (addr : Nat) (m : HartMsg) (s : State) : State :=
  let s1 := modHart k (modDrop addr (heardDrop (wants48 s k addr) m)) s
  let (status, values) := (mapsOf s1 k addr).partition fun e => u8 e.2 2 == 6
  let s2 := forEach status mapStatus s1
  hartFlag k (if u8 m.data 0 = 0 then forEach values (mapOne k addr m) s2 else s2)

/-! ## Attempts and their ends -/

/-- The request under way ends; on a loop with a burst drop the next request waits for a burst frame or 41 τ (R142). -/
def requestOver (k : Fin 96) (s : State) : State :=
  let s1 := modHart k (fun h => { h with request := none, replyBy := none }) s
  if burstPlan s k.val then hartWait k 41 s1 else s1

/-- Whether an attempt of the present turn could begin but for silence on the loop and a STARTED mark not yet durable. -/
def couldAttempt (k : Fin 96) (s : State) : Bool :=
  let free := modHart k (fun h => { h with quietUntil := 0, carrier := false }) s
  let ready := match (s.chan.get k).hart.host with | some w => modWork w (fun x => { x with started := true }) free | none => free
  ((attempt k ready).chan.get k).hart.request.isSome

/-- The host transaction of the present ad hoc window ends with an outcome, and the cycle goes on. -/
def endHost (k : Fin 96) (outcome : Nat) (data : List Byte) (s : State) : State :=
  match (s.chan.get k).hart.host with
  | some w => nextTurn k (endTransaction k w outcome data s)
  | none => nextTurn k s

/-- The request under way in the ad hoc window is the host's own command, not identification or verification. -/
def ownRequest (s : State) (h : Hart) : Bool :=
  match h.host.bind (workOf s), h.request with
  | some w, some (_, c) => !w.verifying && c == (harttxReq w).2.1 && !(h.drops.any fun d => d.addr == (harttxReq w).1 && needsIdent d)
  | _, _ => false

/-- The outcome of a transaction whose attempts are spent (Table 04-7): `fail` tells how the last one failed. A request of a write command
that was never transmitted ends NOTSENT. -/
def spentOutcome (fail : Nat) (own write : Bool) : Nat :=
  if !own then (if write then 5 else 1) else if fail = 2 then 2 else if fail = 3 then 3 else if write then 4 else 1

/-- A failed attempt (R138, R149): repeated where it may be, otherwise the turn or the transaction ends. `fail` as in `Hart.lastFail`. -/
def failAttempt (k : Fin 96) (fail : Nat) (s : State) : State :=
  let h := (s.chan.get k).hart
  let p := planOf s k.val
  let own := ownRequest s h
  let write := match h.host.bind (workOf s) with | some w => !readClass s k.val (harttxReq w).2.1 | none => false
  let s1 := modHart k (fun h => { h with lastFail := fail }) (requestOver k s)
  if h.turn = some 255 then
    if own && write && fail = 1 then endHost k 4 [] s1
    else if planRetries p < h.tries || !couldAttempt k s1 then
      (match h.host.bind (workOf s) with
        | some w => if w.verifying then endHost k 4 [] s1 else endHost k (spentOutcome fail own write) [] s1
        | none => nextTurn k s1)
    else attempt k s1
  else if planRetries p < h.tries || !couldAttempt k s1 then endTurn k false s1
  else attempt k s1

/-- The expected identity of a DROP item agrees with an identity reply (R135); from revision 7 the codes have two bytes. The device ID goes most
significant byte first on the line and least significant byte first in the image (R8). -/
def identityOk (d : Rec) (data : List Byte) : Bool :=
  u8 d 2 != 1 ||
    (let wide := decide (7 ≤ u8 data 6)
     let man := if wide then ofBe (slice data 19 2) else u8 data 3
     let ty := if wide then ofBe (slice data 3 2) else u8 data 4
     man == u16 d 12 && ty == u16 d 14 && (slice data 11 3).reverse == slice d 16 3)

/-- An entry of the drop, that is a turn that names it (R136), uses command 9. -/
def usesCmd9 (s : State) (k addr : Nat) : Bool := (turnsOf s k).any fun t => u8 t 1 == addr && u8 t 2 == 9

/-- A good identity reply (R134, R135). One that shows cold start itself repeats the identification. -/
def identified (k : Fin 96) (addr : Nat) (m : HartMsg) (s : State) : State :=
  let rev := u8 m.data 6
  let bad := !identityOk (dropItem s k.val addr) m.data || (rev == 5 && usesCmd9 s k.val addr)
  let learn (d : Drop) : Drop := { heardDrop (wants48 s k addr) m d with longAddr := hartLong m.data, revision := rev, reident := bitOf (u8 m.data 1) 5 }
  let s0 := modHart k (fun h => { modDrop addr learn h with tries := 0 }) (requestOver k s)
  let s1 := hartItem k addr (forEach ((mapsOf s0 k addr).filter fun e => u8 e.2 2 == 6) mapStatus s0)
  if bad then
    let s2 := setDropState k addr 3 s1
    if (s2.chan.get k).hart.turn = some 255 then endHost k 5 [] (hartFlag k s2) else nextTurn k (hartFlag k s2)
  else
    let was : Nat := (((s1.chan.get k).hart.drops.find? (fun d => d.addr == addr)).map (·.state)).getD 0
    let s2 := if was = 3 then setDropState k addr 0 s1 else s1
    attempt k (hartFlag k s2)

/-- The verify read's bytes equal the written data (Table 14-16, Table 04-8). -/
def verifyEqual (v : Rec) (written data : List Byte) : Bool :=
  slice data (2 + u8 v 8) (u8 v 3) == slice written (u8 v 9) (u8 v 3)

/-- A good reply to the host transaction (R149, R152). -/
def hostReply (k : Fin 96) (w : Work) (addr : Nat) (m : HartMsg) (s : State) : State :=
  let p := planOf s k.val
  let rc := u8 m.data 0
  let s1 := takeMessage k addr m s
  if w.verifying then
    match verifyItem s k.val (harttxReq w).2.1 with
    | some v =>
      if verifyEqual v (harttxReq w).2.2 m.data then
        nextTurn k (finishWith w.ref 0 (heardEpoch k s) 4 0 0 [] (modHart k (fun h => { h with host := none }) (requestOver k s1)))
      else endHost k 4 [] (requestOver k s1)
    | none => endHost k 4 [] (requestOver k s1)
  else if rc = 33 || rc = 34 then
    let s2 := requestOver k s1
    if planDrmax p ≤ w.delayed then endHost k 3 [] s2
    else nextTurn k (modHart k (fun h => { h with queue := w.ref :: h.queue, host := none }) (modWork w.ref (fun x => { x with delayed := x.delayed + 1 }) s2))
  else if rc = 32 then failAttempt k 3 s1
  else endHost k 0 m.data (requestOver k s1)

/-- An overheard reply of a drop to command 0 in a short frame gives its long address (R123). -/
def overheard (m : HartMsg) (d : Drop) : Drop :=
  if m.cmd = 0 && !m.long && 14 ≤ m.data.length then { d with longAddr := hartLong m.data, revision := u8 m.data 6 } else d

/-- A reply that is no part of a transaction of the scheduler: it waits for 8 τ of silence (R139). In LISTEN it is mapped to tags (R123). -/
def foreignReply (k : Fin 96) (msg : Option HartMsg) (s : State) : State :=
  let s1 := hartWait k 8 s
  if chHartm (castRec s k.val) != 3 then s1
  else match msg.bind fun m => (hartDropOf (planItems s k.val) (s.chan.get k).hart m).map fun d => (m, d) with
    | some (m, d) => takeMessage k d.addr m (modHart k (modDrop d.addr (overheard m)) s1)
    | none => s1

/-- A reply answers the request under way: the same command, and the address of the request with its master bit: short for identification, long
otherwise (R134, R138). -/
def answers (s : State) (k : Fin 96) (addr cmd : Nat) (ident : Bool) (m : HartMsg) : Bool :=
  !m.burst && m.cmd == cmd && bitOf (u8 m.addr 0) 7 && m.long == !ident &&
    (hartDropOf (planItems s k.val) (s.chan.get k).hart m).map (·.addr) == some addr

/-- A message that is no burst, from the modem: part of the scheduler's transaction, or foreign. A message after the end of the turn's budget is no
part of it (R137), and neither is the request of a secondary master (delimiter type 2, log entry 14): the scheduler waits for it (R139), and the
attempt goes on. A good reply to command 0 that is too short to hold an identity identifies nothing, and the attempt has failed (DEDUCED, log
entry 164). -/
def takeReply (k : Fin 96) (bytes : List Byte) (perr : Bool) (s : State) : State :=
  let h := (s.chan.get k).hart
  let msg := if perr then none else hartParse bytes
  match h.request.filter (fun _ => decide (s.now ≤ h.turnEnd)) with
  | none => foreignReply k msg s
  | some (addr, cmd) =>
    match msg with
    | none => if !perr && bits (u8 bytes 0) 0 3 = 2 then foreignReply k none s else failAttempt k 1 s
    | some m =>
      let ident := identifies h addr
      if !answers s k addr cmd ident m then failAttempt k 1 (foreignReply k msg s)
      else if bitOf (u8 m.data 0) 7 then failAttempt k 2 s
      else if ident && cmd = 0 then
        (if 14 ≤ m.data.length then identified k addr m s
         else failAttempt k (if u8 m.data 0 = 32 then 3 else 1) (takeMessage k addr m s))
      else if h.turn = some 255 then
        (match h.host.bind (workOf s) with
          | some w => hostReply k w addr m s
          | none => endTurn k true (requestOver k s))
      else endTurn k true (requestOver k (takeMessage k addr m s))

/-- A burst of a planned drop is mapped like a reply; where the plan declares a burst drop a request may follow within 2 τ (R142). Any other frame
makes the scheduler wait (R139). During the couch window a burst is counted as lost (R154), and recorded as the
BURSTLOST that Table 18-3 lists (DEDUCED, log entry 151). -/
def takeBurst (k : Fin 96) (bytes : List Byte) (perr : Bool) (s : State) : State :=
  let h := (s.chan.get k).hart
  if h.couchHold then
    recordArgs 0x0B01 (srcOf 1 k.val) [4] (modHart k (fun h => { h with burstLost := h.burstLost + 1 }) s)
  else
    let waits := hartWait k 8 s
    match (if perr then none else hartParse bytes).filter (·.burst) with
    | none => waits
    | some m =>
      match hartDropOf (planItems s k.val) h m with
      | none => waits
      | some d =>
        let s1 := takeMessage k d.addr m waits
        if !burstPlan s k.val then s1
        else
          let s2 := modHart k (fun h => { h with burstBy := some (s.now + 2 * hartTau) }) s1
          if h.request.isNone then attempt k s2 else s2

/-- The hub takes messages of a channel's modem while its scheduler runs; while Studio restarts they are dropped (Table 04-9). -/
def hartHears (s : State) (k : Fin 96) : Bool :=
  hubUp s && !(s.link.get (tileOf k)).upSilent && chHartm (castRec s k.val) != 0 && s.flt.studioUp

/-- A message has ended: no carrier from now on. `a` is the instant of its last byte, SYSTIME in half-nanoseconds; none where that is known already. -/
def messageEnd (k : Fin 96) (a : Option Time) (s : State) : State :=
  modHart k (fun h => { h with carrier := false, hubRx := [], hubErr := false, hubOn := false, heardAt := a.or h.heardAt }) s

/-- HART_REPLY_RECEIVED: a message that is no part of a transaction makes the scheduler wait for 8 τ of silence (R139). While Studio restarts
replies are dropped (Table 04-9). -/
def execHartReplyReceived (t : Time) (k : Fin 96) (bytes : List Byte) (perr : Bool) (s : State) : Out :=
  let s := s.at_ t
  when (hartHears s k) (fun s => takeReply k bytes perr (messageEnd k (some (sysHalf s)) s)) s

/-- A reply has begun: carrier is present, or bytes of a message have come (R138). -/
def replyBegun (h : Hart) : Bool := h.carrier || h.hubOn

/-- HART_TREPLY_EXPIRY: no reply has begun within TREPLY. -/
def execHartTreplyExpiry (t : Time) (k : Fin 96) (s : State) : Out :=
  let s := s.at_ t
  let h := (s.chan.get k).hart
  let due := match h.replyBy with | some e => decide (e ≤ s.now) | none => false
  when (hubUp s && h.request.isSome && due && !replyBegun h) (failAttempt k 1) s

/-- The end of a turn whose budget has run out, with no request under way any more. `cut` where the ad hoc window's end has cut off the host's own
attempt, which has then failed. A host transaction that has not begun keeps its place in the queue. -/
def budgetOut (k : Fin 96) (cut : Bool) (s : State) : State :=
  let h := (s.chan.get k).hart
  if h.turn = some 255 then
    match h.host.bind (workOf s) with
    | some w =>
      let fail := if cut then 1 else h.lastFail
      if w.verifying && cut then endHost k 4 [] s
      else if w.begun && fail != 0 then endHost k (spentOutcome fail true (!readClass s k.val (harttxReq w).2.1)) [] s
      else nextTurn k (modHart k (fun h => { h with queue := w.ref :: h.queue, host := none }) s)
    | none => nextTurn k s
  else endTurn k false s

/-- HART_BUDGET_EXPIRY: the turn's budget has run out, which ends a request still under way too (R136, R137), or no attempt fits in what is left
of it. -/
def execHartBudgetExpiry (t : Time) (k : Fin 96) (s : State) : Out :=
  let s := s.at_ t
  let h := (s.chan.get k).hart
  let spent := decide (h.turnEnd ≤ s.now)
  let idle := h.request.isNone
  when (hubUp s && h.turn.isSome && (spent || idle && !couldAttempt k s))
    (fun s => budgetOut k (!idle && (ownRequest s h || (h.host.bind (workOf s)).any (·.verifying))) (if idle then s else requestOver k s)) s

/-- HART_LOOP_SILENCE: the loop has been silent long enough for a request. -/
def execHartLoopSilence (t : Time) (k : Fin 96) (s : State) : Out :=
  let s := s.at_ t
  let h := (s.chan.get k).hart
  when (hubUp s && h.request.isNone && decide (h.quietUntil ≤ s.now))
    (fun s => attempt k (modHart k (fun h => { h with carrier := false }) s)) s

/-- HART_BURST_FRAME: a burst of a planned drop is mapped like a reply (R142); during the couch window it is counted as lost (R154). -/
def execHartBurstFrame (t : Time) (k : Fin 96) (bytes : List Byte) (perr : Bool) (s : State) : Out :=
  let s := s.at_ t
  when (hartHears s k) (fun s => takeBurst k bytes perr (messageEnd k (some (sysHalf s)) s)) s

/-- STALE of a drop in half-nanoseconds: the plan's, or twice the worst-case cycle (R140). -/
def staleOf (s : State) (k addr : Nat) : Time :=
  let v := u32 (dropItem s k addr) 8
  if v != 0 then ms v else ms (2 * (((turnsOf s k).map fun t => u32 t 8).foldl (· + ·) 0 + planAdhoc (planOf s k)))

/-- HART_STALE: timed by the hub's tag engine (R141). -/
def execHartStale (t : Time) (item : Nat) (s : State) : Out :=
  let s := s.at_ t
  match chanOfItem s item, tagOfItem s item with
  | some k, some x =>
    let addr := u8 ((castAll s (·.item)).getD item []) 1
    when (hubUp s && decide (staleOf s k.val addr < s.now - x.at_))
      (fun s => hartFlag k (putTag { x with valid := false, stale := true, hart := true } s)) s
  | _, _ => noEffect s

/-! ## The modem (R126, R129, R130) -/

/-- The modem of a channel is connected. -/
def modemOn (s : State) (k : Fin 96) : Bool := tilePowered s (tileOf k) && chHartm (tileRec s k) != 0

/-- The modem takes HART payloads: connected, and its tile's downstream direction good. -/
def modemTakes (s : State) (k : Fin 96) : Bool := modemOn s k && !(s.link.get (tileOf k)).downSilent

/-- Frame bytes into the modem's buffer, which START clears first. -/
def modemFill (start : Bool) (bytes : List Byte) (h : Hart) : Hart := { h with buf := ((if start then [] else h.buf) ++ bytes).take 288 }

/-- END: the frame is complete, and the modem transmits where R126 lets it. -/
def modemEnd (s : State) (k : Fin 96) (h : Hart) : Hart :=
  { h with tx := h.tx || modemMay (s.tile.get (tileOf k)) (tileRec s k) h }

/-- ABORT: the modem stops transmitting, which it reports, and clears the buffer. -/
def modemAbort (h : Hart) : Hart := { h with buf := [], tx := false, txAbort := h.txAbort || h.tx }

/-- HART_MODEM_START: the data begin a new frame; the buffer is cleared first. -/
def execHartModemStart (t : Time) (k : Fin 96) (bytes : List Byte) (s : State) : Out :=
  let s := s.at_ t
  when (modemTakes s k) (modHart k (modemFill true bytes)) s

/-- HART_MODEM_END: the frame is complete, and the modem transmits where R126 lets it. -/
def execHartModemEnd (t : Time) (k : Fin 96) (bytes : List Byte) (s : State) : Out :=
  let s := s.at_ t
  when (modemTakes s k) (fun s => modHart k (fun h => modemEnd s k (modemFill false bytes h)) s) s

/-- HART_MODEM_ABORT. -/
def execHartModemAbort (t : Time) (k : Fin 96) (s : State) : Out :=
  let s := s.at_ t
  when (modemTakes s k) (modHart k modemAbort) s

/-- HART_TXDONE: the buffered frame has been sent. -/
def execHartTxdone (t : Time) (k : Fin 96) (s : State) : Out :=
  let s := s.at_ t
  when (modemOn s k && (s.chan.get k).hart.tx) (modHart k (fun h => { h with buf := [], tx := false })) s

/-- A character on the loop: preamble characters are counted, a message begins with the first other one after at least two of them, and goes on to its
end (R130). -/
def modemByte (byte : Byte) (perr eom : Bool) (h : Hart) : Hart :=
  let h1 : Hart :=
    if h.rxOn then { h with rx := h.rx ++ [byte], rxErr := h.rxErr || perr }
    else if byte = 0xFF && !perr then { h with pre := h.pre + 1 }
    else if 2 ≤ h.pre then { h with rxOn := true, rx := [byte], rxErr := perr, pre := 0 }
    else { h with pre := 0 }
  if eom then { h1 with carrier := false, rxOn := false, pre := 0 } else { h1 with carrier := true }

/-- HART_RX_BYTE: a byte of a message, or of its preamble. -/
def execHartRxByte (t : Time) (k : Fin 96) (byte : Byte) (perr eom : Bool) (s : State) : Out :=
  let s := s.at_ t
  when (modemOn s k && !(s.tile.get (tileOf k)).standby) (modHart k (modemByte byte perr eom)) s

/-! ## HART slots of the tile link (R129, Tables 04-4 and 04-5) -/

/-- A HART payload at the modem: ABORT first, then START with its data, then END. Payloads with reserved bits set or with N above 13 are ignored
(DESIGN CHOICE, log entry 135). -/
def hartDown (c : Nat) (t : Fin 12) (p : List Byte) (s : State) : State :=
  match asFin 8 c with
  | none => s
  | some c =>
    let k := chanAt t c
    let ctl := u8 p 0
    let n := u8 p 1
    if !modemTakes s k || 7 < ctl || 13 < n || u8 p 15 != 0 then s
    else
      let act (h : Hart) : Hart :=
        let h0 := if h.out.head? = some p then { h with out := h.out.tail } else h
        let h1 := if bitOf ctl 2 then modemAbort h0 else h0
        let h2 := modemFill (bitOf ctl 0) (slice p 2 n) h1
        if bitOf ctl 1 then modemEnd s k h2 else h2
      modHart k act s

/-- Tile time's low 24 bits of a HART payload as SYSTIME in half-nanoseconds. -/
def ttimeHalf (s : State) (t : Fin 12) (ticks : Nat) : Time := sysHalf s - 5 * ((tileTick s t + (2 ^ 24 - ticks % 2 ^ 24)) % 2 ^ 24)

/-- A HART payload at the hub: message bytes gathered from the delimiter on, TXDONE starting TREPLY afresh (R138), and at the end of a message its
processing as a burst or a reply by the delimiter. Payloads with reserved bits set or with N above 11 are ignored (log entry 135). -/
def hartUp (c : Nat) (t : Fin 12) (p : List Byte) (s : State) : State :=
  match asFin 8 c with
  | none => s
  | some c =>
    let k := chanAt t c
    let st := u8 p 0
    let n := u8 p 1
    if !hartHears s k || 63 < st || 11 < n then s
    else
      let som := bitOf st 1
      let on := som || (s.chan.get k).hart.hubOn
      let treply := planTreply (planOf s k.val)
      let s1 := modHart k (fun h => { h with
        carrier := bitOf st 0
        hubOn := on
        hubRx := if on then (if som then [] else h.hubRx) ++ slice p 2 n else []
        hubErr := (if som then false else h.hubErr) || bitOf st 3
        heardAt := if on && n != 0 then some (ttimeHalf s t (uN p 13 3)) else h.heardAt
        txAbort := h.txAbort && !bitOf st 5
        replyBy := if bitOf st 4 && h.request.isSome then some (s.now + hartTau * treply) else h.replyBy }) s
      let h := (s1.chan.get k).hart
      if !(bitOf st 2 && on) then s1
      else
        let take := if bits (u8 h.hubRx 0) 0 3 = 1 then takeBurst else takeReply
        take k h.hubRx h.hubErr (messageEnd k none s1)

/-! ## Host transactions (R147, R150) -/

/-- The channel of a HARTTX descriptor. -/
def harttxChan (w : Work) : Option (Fin 96) := asFin 96 (u16 w.bytes 32)

/-- HART_QTIME_EXPIRY: not begun within QTIME of its ACCEPT. -/
def execHartQtimeExpiry (t : Time) (w : WorkRef) (s : State) : Out :=
  let s := s.at_ t
  match workOf s w with
  | none => noEffect s
  | some x =>
    match harttxChan x with
    | none => noEffect s
    | some k =>
      when (hubUp s && x.opcode == 0x0200 && x.accepted && x.final.isNone && !x.begun && decide (x.acceptedAt + sec (planQtime (planOf s k.val)) ≤ s.now))
        (endTransaction k w 5 []) s

/-- The STARTED mark is durable: the request's transmission begins if its window still runs. -/
def startedDurable (k : Fin 96) (w : WorkRef) (s : State) : State :=
  let s1 := modWork w (fun x => { x with started := true }) s
  let h := (s1.chan.get k).hart
  if h.turn = some 255 && h.host == some w && h.request.isNone then attempt k s1 else s1

/-- HART_STARTED_DURABLE: the mark stands in the two places that made its descriptor ACCEPTed (R150). -/
def execHartStartedDurable (t : Time) (w : WorkRef) (s : State) : Out :=
  let s := s.at_ t
  match workOf s w with
  | none => noEffect s
  | some x =>
    match harttxChan x with
    | none => noEffect s
    | some k =>
      when (hubUp s && x.opcode == 0x0200 && x.marked && !x.started && x.final.isNone && mayAccept s x) (startedDurable k w) s

end Sys2Proof.Machine
end

