-- ==== Sys2Proof/Machine/LinkFrames.lean ====
section
/-! DEFINITION. Tile-link frames: how each end judges one and what its payload does (R52 to R58, R61, R63, R76, R198). -/

namespace Sys2Proof.Machine

open Sys2Proof

/-! ## Judging -/

/-- Whole microseconds since T_E, by a time in half-nanoseconds, `back` microseconds before it: the slot maps count periods from there. -/
def periodOf (s : State) (half back : Nat) : Nat :=
  let span : Int := max 1 (s.ep.p : Int) * 2000
  ((((half : Int) - back * 2000 + 1000 - 2 * s.ep.t0) % span) / 2000).toNat

/-- SLOT agrees with the slot map: the frame stood in the period that the present comma ends (section "Slot maps", R65). While a direction is
silent its receiver hunts and judges commas alone (R61, log entry 123). -/
def slotDue (s : State) (t : Fin 12) (silent : Bool) (slot : Nat) : Bool := silent || periodOf s (tileHalf s t) 1 % 16 == slot

/-- A frame is good (R55): its characters decode (`ok`), its comma is within 40 ns, SLOT's direction and reserved bits and CHECK are right, and
SLOT agrees with the slot map (`due`). -/
def frameGood (tile : Fin 12) (up ok due : Bool) (dev : Nat) (b : List Byte) : Bool :=
  ok && due && decide (dev ≤ 80) && bits (u8 b 1) 4 4 == b2n up && u16 b 18 == tileCheck tile.val up b

/-- Frames skipped between the last good SEQ and this one (R55). -/
def seqGap (last : Option Byte) (seq : Byte) : Nat :=
  match last with
  | some l => (seq - l - 1).toNat
  | none => 0

/-- Periods without a frame between the last judged frame and this one: each is bad (R55). -/
def gapBefore (seen : Option Time) (now : Time) : Nat := missed seen now - 1

/-- A downstream frame judged good or bad by the tile. A period without a frame breaks a run of good ones. -/
def downJudge (good : Bool) (seq : Byte) (now : Time) (l : TLink) : TLink :=
  let gap := gapBefore l.downSeen now
  if good then { l with
    downBad := 0, downGood := if gap = 0 then l.downGood + 1 else 1, downSeq := some seq
    downMiss := l.downMiss + seqGap l.downSeq seq, downLast := some now, downSeen := some now }
  else { l with downBad := l.downBad + gap + 1, downGood := 0, downSeen := some now }

/-- An upstream frame judged good or bad by the hub; bad frames and periods without one count in TILEt_LINKERR (Table 19-10). -/
def upJudge (good : Bool) (seq : Byte) (now : Time) (l : TLink) : TLink :=
  let gap := gapBefore l.upSeen now
  let err := min 65535 (l.badFrames + (if l.upSilent then 0 else gap) + b2n (!good))
  if good then { l with
    upBad := 0, upGood := if gap = 0 then l.upGood + 1 else 1, upSeq := some seq
    upMiss := l.upMiss + seqGap l.upSeq seq, upLast := some now, upSeen := some now, badFrames := err }
  else { l with upBad := l.upBad + gap + 1, upGood := 0, upSeen := some now, badFrames := err }

/-! ## Downstream payloads (Table 02-6) -/

/-- A TIME frame: SYSTIME and the epoch number. It carries the hub's correction, which a locked FCLK_t follows; the first after lock steps the
tile's time (R76, log entry 16), and a conversion under way across a step is discarded (R87). The hub's receiver takes the new grid at once and
counts no frame missing for the step. -/
def timeFrame (t : Fin 12) (b : List Byte) (s : State) : State :=
  let l := s.link.get t
  let s1 := modLink t (fun l => { l with timeRx := (uN b 2 8, uN b 10 6) }) s
  let s2 := if l.fclk then
      let moved := (s1.tile.get t).timeOff != s1.sysOff
      let s2 := modLink t (fun l => { l with stepDue := false }) (modTile t (fun x => { x with timeOff := s.sysOff }) s1)
      if l.stepDue && moved then
        forEach (tileChans t) (fun k s => modAna k (fun a => { a with startAt := tileHalf s2 t, restart := true }) s)
          (modLink t (fun l => { l with upSeen := l.upSeen.map fun _ => s.now + us 1 / 2 }) s2)
      else s2
    else s1
  modLink t (fun l => { l with timeAt := tileTick s2 t }) s2

/-- A STATE frame: committed values of channels 0 to 3 in even cycles, 4 to 7 in odd ones (Table 02-6). -/
def stateFrame (t : Fin 12) (b : List Byte) (s : State) : State :=
  let odd := periodOf s (tileHalf s t) 1 / 16 % 2
  modTile t (fun x => { x with com := x.com.allIdx fun c v => if c / 4 = odd then w32 b (2 + 4 * (c % 4)) else v }) s

/-- What a management item does (Table 02-6, slot 15). -/
def mgtItem (t : Fin 12) (i : CfgItem) (s : State) : State :=
  match i with
  | .cmd op c h stamp v => tcmdOp t 15 op c h stamp v s
  | .ack c => ackLevel3 (chanAt t c) s
  | .partReset slot => partReset t slot s
  | .commit => configCommit t s
  | .role standby partnered stamp => roleChange t standby partnered stamp s
  | .lock on => if on then tileLock t s else s
  | .trim c on => modTile t (fun x => { x with trim := if on then some c else if x.trim = some c then none else x.trim }) s
  | _ => s

/-- The payload of a good downstream frame, which the tile takes while its direction is good. Of a latched tile's management frames only the
clearing of the latch acts (R486, R487). -/
def downAct (t : Fin 12) (slot : Nat) (b : List Byte) (item : CfgItem) (s : State) : State :=
  if (s.link.get t).downSilent then s
  else if (s.tile.get t).lockLatch then
    (match item with
      | .lock false => if slot = 15 then refreshTile t (modTile t (fun x => { x with lockLatch := false }) s) else s
      | _ => s)
  else if slot = 0 then timeFrame t b s
  else if slot ≤ 8 then tcmdWord t slot (slice b 10 8) (tcmdWord t slot (slice b 2 8) s)
  else if slot ≤ 10 then modTile t (fun x => { x with loading := putItem item x.loading }) s
  else if slot = 11 then stateFrame t b s
  else if slot = 14 then hartDown (periodOf s (tileHalf s t) 1 / 16 % 8) t (slice b 2 16) s
  else if slot = 15 then mgtItem t item s
  else s

/-- TILE_DOWNSTREAM_FRAME. -/
def execTileDownstreamFrame (t : Time) (tile : Fin 12) (ok : Bool) (dev : Nat) (bytes : List Byte) (item : CfgItem) (s : State) : Out :=
  let s := s.at_ t
  let slot := bits (u8 bytes 1) 0 4
  let good := frameGood tile false ok (slotDue s tile (s.link.get tile).downSilent slot) dev bytes
  when (tilePowered s tile)
    (fun s =>
      let s1 := modLink tile (downJudge good (bytes.getD 0 0) s.now) s
      if good then downAct tile slot bytes item s1 else s1) s

/-! ## Upstream payloads (Table 02-7) -/

/-- Buffer fill per partition of a tile, as its STATUS reports it. -/
def fillOf (s : State) (t : Fin 12) : List Nat :=
  let count (p : Nat → Bool) : Nat := ((s.tile.get t).pend.filter fun e => match e.kind with | .buf _ sl => p sl | _ => false).length
  count (· ≤ 2) :: [3, 4, 5, 6, 7, 8].map fun sl => count (· == sl)

/-- A STATUS frame (R57, R58, R62, R198, R378): dropped events counted, the tile's own view of its direction, its temperature, buffer fill, latches
and clamp windows. A tile whose direction is silent always reports so (R63). -/
def statusFrame (t : Fin 12) (state lpt : Nat) (temp : Int) (fill : List Nat) (evDrop : Nat) (silent : Bool) (latches windows : List Nat)
    (s : State) : State :=
  let l := s.link.get t
  let s1 := modLink t (fun l => { l with tileSays := silent || l.downSilent, evSeen := evDrop, fill := fill }) s
  let s2 := { s1 with recd := { s1.recd with tileDrops := s1.recd.tileDrops + (evDrop + 65536 - l.evSeen) % 65536 } }
  let s3 := modTile t (fun x => { x with lpt := lpt, temp := temp, dieWarn := x.dieWarn && decide (1500 ≤ temp) }) s2
  let s4 := forEach (List.finRange 8) (fun c s => modChan (chanAt t c) (fun x => { x with
    hubLatch := latches.getD c.val x.hubLatch, hubWindow := windows.getD c.val x.hubWindow }) s) s3
  let s5 := dieCycle t temp s4
  hubLinkUp t (if state != 2 then couchCause s5 else s5)

/-- Edge records of EDGEREC (R162): the event's tile time as SYSTIME. -/
def edgeEvent (t : Fin 12) (c : Nat) (rising : Bool) (ticks : Nat) (s : State) : State :=
  match asFin 8 c with
  | none => s
  | some c =>
    let k := chanAt t c
    let e := chEdgerec (castRec s k.val)
    if (if rising then e = 1 || e = 3 else e = 2 || e = 3) then
      -- The 32-bit tile time nearest below the present one.
      let back := (tileTick s t + (2 ^ 32 - ticks % 2 ^ 32)) % 2 ^ 32
      recordEvt { type := 0x0302, source := srcOf 1 k.val, flags := unlockedFlag s
                  args := [BitVec.ofNat 32 (1 + 256 * b2n rising)], time := (sysHalf s - tileHalf s t % 5 - 5 * back) / 2 } s
    else s

/-- One event of an EVT frame at the hub: kept as the last of its place, and an edge is recorded where EDGEREC asks for it. -/
def hubEvent (t : Fin 12) (e : UpEvt) (s : State) : State :=
  let s1 := modLink t (fun l => { l with evts := e :: l.evts.filter fun x => !(x.kind == e.kind && x.idx == e.idx) }) s
  if e.kind = 0 && !e.report then edgeEvent t e.idx e.on e.ticks s1 else s1

/-- The published count extended from the low 24 bits that RAW carries (R168): forward by less than half their range, else it already stands ahead. -/
def extendCount (raw : Nat) (d : Dig) : Dig :=
  let step := (raw + 2 ^ 24 - (d.pub - d.offset).toNat % 2 ^ 24) % 2 ^ 24
  if step < 2 ^ 23 then { d with pub := d.pub + BitVec.ofNat 32 step } else d

/-- An EPV or LVAL frame: two channel entries of 8 B in the order of channels (R57, R58). -/
def valueFrame (t : Fin 12) (slot : Nat) (b : List Byte) (s : State) : State :=
  forEach (List.finRange 8) (fun c s =>
    if c.val / 2 + 1 = slot then
      let e := slice b (2 + 8 * (c.val % 2)) 8
      let count := chFunc (castRec s (chanAt t c).val) == .cnt
      modChan (chanAt t c) (fun x => { x with hubVal := e, dig := if count then extendCount (uN e 0 3) x.dig else x.dig }) s
    else s) s

/-- A SENSE frame: four channels (Table 02-7). -/
def senseFrame (t : Fin 12) (slot : Nat) (vals : List (Nat × Nat × Nat)) (s : State) : State :=
  { s with sns := s.sns.upd t fun x => { x with hub := x.hub.allIdx fun c v => if c / 4 + 11 = slot then vals.getD (c % 4) v else v } }

/-- A TECHO frame: the hub learns the tile's time and measures the link delay (R76): half of what the round trip of TIME and TECHO takes beyond the
tile's own time between them. -/
def techoFrame (t : Fin 12) (a b : Nat) (s : State) : State :=
  let trip (l : TLink) : Int := (sysHalf s : Int) - 2 * l.timeRx.1 - 5 * ((b + (2 ^ 32 - a % 2 ^ 32)) % 2 ^ 32 : Nat)
  modLink t (fun l => { l with techo := (a, b), delay := trip l / 2 }) s

/-- What a good upstream frame tells the hub (Table 02-7). While the tile's downstream direction is silent only STATUS and TECHO carry content
(R63). -/
def upAct (t : Fin 12) (slot : Nat) (b : List Byte) (rep : UpReport) (s : State) : State :=
  match rep with
  | .status st lpt temp fill drop silent latches windows =>
    if slot = 0 then statusFrame t st lpt temp fill drop silent latches windows s else s
  | .techo x y => if slot = 15 then techoFrame t x y s else s
  | _ =>
    if (s.link.get t).downSilent || (s.link.get t).hubSilent then s
    else if 1 ≤ slot && slot ≤ 4 then valueFrame t slot b s
    else if slot = 14 then hartUp (periodOf s (tileHalf s t) 1 / 16 % 8) t (slice b 2 16) s
    else match rep with
      | .events evts =>
        if 5 ≤ slot && slot ≤ 10 then
          forEach (evts.take 2) (hubEvent t)
            (modTile t (fun x => { x with edgeReps := x.edgeReps.drop 2, evq := x.evq.drop (2 - x.edgeReps.length) }) s)
        else s
      | .sense vals => if slot = 11 || slot = 12 then senseFrame t slot vals s else s
      | .count c n => if slot = 15 then modDig (chanAt t c) (fun d => { d with pub := d.offset + n }) s else s
      | _ => s

/-- HUB_UPSTREAM_FRAME. -/
def execHubUpstreamFrame (t : Time) (tile : Fin 12) (ok : Bool) (dev : Nat) (bytes : List Byte) (rep : UpReport) (s : State) : Out :=
  let s := s.at_ t
  let slot := bits (u8 bytes 1) 0 4
  let good := frameGood tile true ok (slotDue s tile (s.link.get tile).upSilent slot) dev bytes
  when (upReceiver s tile)
    (fun s =>
      let s1 := modLink tile (upJudge good (bytes.getD 0 0) s.now) s
      if good && !(s1.link.get tile).upSilent then upAct tile slot bytes rep s1 else s1) s

end Sys2Proof.Machine
end

