-- ==== Sys2Proof/Machine/Store.lean ====
section
/-! DEFINITION. The store and the gate (R16, R520, R530 to R536, R545, R546). -/

namespace Sys2Proof.Machine

open Sys2Proof

/-! ## Blocks (R530, R532, R536) -/

/-- A block mapped onto the wear reserve and recorded; without a reserve block its source is raised. -/
def replaceBlock (block : Nat) (s : State) : State :=
  let r := s.nvs.store.reserve
  if r = 0 then raise 0x0A8 s
  else record 0x0903 (srcOf 9 block) 1 0 [block] (modStore (fun x => { x with
    reserve := r - 1, map := insertK block (1658 + (390 - r)) x.map, wear := x.wear || decide (r - 1 < 32) }) s)

/-- An erase's done record. -/
def eraseDone (block purpose : Nat) (s : State) : State :=
  modStore (fun x => { x with intents := x.intents.erase (block, purpose), jobs := x.jobs.erase (.erase block purpose) }) s

/-- STORE_ERASE_DONE: the erase of a block that has its intent record, counted for the block that it is mapped to; a failed block, and one that has reached
100,000 erases while the wear reserve lasts, is replaced (R530, R536). -/
def execStoreEraseDone (t : Time) (block : Nat) (failed : Bool) (s : State) : Out :=
  let s := s.at_ t
  match s.nvs.store.intents.find? (fun x => x.1 == block) with
  | none => noEffect s
  | some (b, purpose) =>
    when (hubAlive s && !s.pwr.failing)
      (fun s =>
        let p := lookupD s.nvs.store.map b b
        let n := lookupD s.nvs.store.erases p 0 + 1
        let s1 := modStore (fun x => { x with erases := insertK p n x.erases }) (eraseDone b purpose s)
        if failed || decide (100000 ≤ n) && s.nvs.store.reserve != 0 then replaceBlock b s1 else s1) s

/-! ## Writes (R531, R545, R546) -/

/-- Rank of a request (Table 18-8). -/
def jobRank : StoreJob → Nat
  | .journal _ => 2
  | .role => 3
  | .trim => 4
  | .record _ => 5
  | .image => 6
  | .patina => 7
  | .erase _ _ => 8

/-- The request served next: the lowest rank, the earliest of it; erases end by rows of their own. -/
def nextJob (l : List StoreJob) : Option StoreJob :=
  let w := l.filter fun j => jobRank j != 8
  w.find? fun j => w.all fun k => decide (jobRank j ≤ jobRank k)

/-- The recorder ring holds 1,024 blocks of 256 KiB; the records of the block after the write position are erased (R546). -/
def fitRing (s : State) : State :=
  let size (l : List RecRec) : Nat := (l.map fun r => (recBytes r).length).foldl (· + ·) 0
  if size s.recd.stored ≤ 268173312 then s
  else
    let grow (acc : Nat × List RecRec) (r : RecRec) : Nat × List RecRec := if acc.1 < 262144 then (acc.1 + (recBytes r).length, acc.2 ++ [r]) else acc
    let gone := (s.recd.stored.foldl grow (0, [])).2
    { s with recd := { s.recd with stored := s.recd.stored.drop gone.length } }

/-- The oldest `n` sealed records written to the store, with RECTAIL; while the cap of R549 holds none is. -/
def storeRecords (n : Nat) (s : State) : State :=
  if s.recd.capped then s
  else fitRing (storeRun (s.recd.sealed_.take n) { s with recd := { s.recd with sealed_ := s.recd.sealed_.drop n } })

/-- A trim-store record written; when half of the partition is full, the standing records are copied into the other half and the first is erased
(R534, log entry 146). -/
def trimWritten (s : State) : State :=
  let x := s.nvs.store
  if x.trimUsed + 1 < 8 * blockRecs then modStore (fun x => { x with trimUsed := x.trimUsed + 1 }) s
  else
    let from_ := if x.trimB then 1618 else 1610
    modStore (fun x => { x with trimUsed := s.nvs.trims.length + 2 * s.nvs.edge.length + 1, trimB := !x.trimB })
      (queueErases purposeCompact ((List.range 8).map (· + from_)) s)

/-- A request served: what its write makes durable. -/
def serveJob (j : StoreJob) (s : State) : State :=
  let s1 := modStore (fun x => { x with jobs := x.jobs.erase j }) s
  match j with
  | .journal (some w) => storedEntry w s1
  | .journal none => { spill s1.host.jnl.unspilled s1 with host := { s1.host with jnl := { s1.host.jnl with unspilled := 0 } } }
  | .record n => storeRecords n s1
  | .trim => trimWritten s1
  | _ => s1

/-- STORE_WRITE_DONE: a program that fails is tried again on a block of the wear reserve; the spec does not say which block fails: a free
value. -/
def execStoreWriteDone (t : Time) (failed : Bool) (s : State) : Out :=
  let s := s.at_ t
  match nextJob s.nvs.store.jobs with
  | none => noEffect s
  | some j =>
    when (hubAlive s && !blockHeld s 0x0A8)
      (fun s => if failed then let (v, s1) := freeW s; replaceBlock (v.toNat % 2048) s1 else serveJob j s) s

/-! ## Patina and wear (R535, R536) -/

/-- PATINA_WRITE: the running counters reach the store; an operating hour has passed. -/
def execPatinaWrite (t : Time) (s : State) : Out :=
  let s := s.at_ t
  when (hubUp s)
    (fun s => { s with nvs := { s.nvs with
      patKept := s.nvs.pat
      cyclesKept := s.nvs.tileCycles
      stopsKept := s.nvs.tileStops
      store := { s.nvs.store with hours := (s.nvs.store.hours + 1) % 2 ^ 32 } } }) s

/-- STOREWEAR: once a day with fewer than 32 reserve blocks. -/
def execStorewear (t : Time) (s : State) : Out :=
  let s := s.at_ t
  let due := match s.nvs.store.dayWear with | some a => decide (a + sec 86400 ≤ s.now) | none => true
  when (hubUp s && decide (s.nvs.store.reserve < 32) && due)
    (fun s => recordStore 2 (modStore (fun x => { x with wear := true, dayWear := some s.now }) s)) s

/-! ## The gate (R16, R520) -/

/-- Studio runs and may ask. Armature takes a request as Studio places it: the gate queue of R520 never holds one, so a Studio restart has none to
discard (R521; DESIGN CHOICE, log entry 184). -/
def gateOpen (s : State) : Bool := hubUp s && s.flt.studioUp

/-- The cast's CLAIM section holds a resource. -/
def castClaims (s : State) (res : Nat) : Bool := (castAll s (·.claim)).any fun r => u32 r 0 == res

/-- GATE_MODEMSET: the HART path of a channel whose modem the cast claims. -/
def execGateModemset (t : Time) (k : Nat) (opened : Bool) (s : State) : Out :=
  let s := s.at_ t
  when (gateOpen s)
    (fun s =>
      match asFin 96 k, castClaims s (resId 6 k) with
      | some k, true => modHart k (fun h => { h with path := opened }) s
      | _, _ => gateRefuse s) s

/-- GATE_STAGE: a staging class begins or ends. -/
def execGateStage (t : Time) (begins : Bool) (cls : Nat) (s : State) : Out :=
  let s := s.at_ t
  when (gateOpen s && s.img.stager.isSome && decide (1 ≤ cls) && decide (cls ≤ 5)) (fun s => if begins then modImg (fun m => { m with stageCls := cls }) s else s) s

/-- GATE_STOREREC: sealed records queued for the store; refused where none is sealed, or under the cap of R549. -/
def execGateStorerec (t : Time) (n : Nat) (s : State) : Out :=
  let s := s.at_ t
  when (gateOpen s)
    (fun s =>
      if s.recd.capped || n = 0 || s.recd.sealed_.length < n then gateRefuse s
      else modStore (fun x => { x with jobs := x.jobs ++ [.record n] }) s) s

/-- GATE_FLTREQ: a configuration request under R479, or a PEND clear of a C1 event. -/
def execGateFltreq (t : Time) (req : FltReq) (s : State) : Out :=
  let s := s.at_ t
  when (gateOpen s)
    (match req with
      | .config src field value => fltRequest src field.val value
      | .clear src => fun s => if faultListed src && (srcEntry s src).ecls == 1 then clearPend src s else gateRefuse s) s

/-- GATE_PATINARD: the answer goes to Studio's own memory, which the block does not show; the request itself changes nothing else. An area that
does not exist is refused. -/
def execGatePatinard (t : Time) (area index : Nat) (s : State) : Out :=
  let s := s.at_ t
  let legal := match area with
    | 0 => true | 1 => decide (index < 96) | 2 => decide (index < 12) | 3 => decide (index < 2048) | 4 => decide (index < 8640) | 5 => true | _ => false
  when (gateOpen s && !legal) gateRefuse s

/-- GATE_STARTED: the STARTED mark of a write-class transaction is journaled (R150). -/
def execGateStarted (t : Time) (w : WorkRef) (s : State) : Out :=
  let s := s.at_ t
  when (gateOpen s)
    (fun s =>
      match workOf s w with
      | none => gateRefuse s
      | some x =>
        if x.opcode != 0x0200 || !castClaims s (resId 6 (u16 x.bytes 32)) then gateRefuse s
        else if x.marked || x.final.isSome then s
        else startMark w s) s

end Sys2Proof.Machine
end

