-- ==== Sys2Proof/Machine/RecorderRows.lean ====
section
/-! DEFINITION. The recorder's rows: taking events, sealing, thrift, EQ0 and the read window (R542 to R550, R553). -/

namespace Sys2Proof.Machine

open Sys2Proof

/-- The recorder changed. -/
def modRec (f : Recorder → Recorder) (s : State) : State := { s with recd := f s.recd }

/-! ## The open record (R542, R543, R548) -/

/-- Types that thrift never merges by ARG0: FAULT, START, LOCK, POWERFAIL and HOSTNOTE. -/
def neverAggr (type : Nat) : Bool := [0x0101, 0x0201, 0x0202, 0x0203, 0x0802].contains type

/-- The span after which a record is sealed by time, in ns. -/
def sealSpan (s : State) : Nat := if s.recd.thrift then 60000000000 else 1000000000

/-- The open record's time limit has passed. -/
def sealDue (s : State) : Bool := match s.recd.opened with | some r => decide (r.evt.time + sealSpan s ≤ sysHalf s / 2) | none => false

/-- An event is identical to the open record. -/
def identical (a b : RecEvt) : Bool :=
  a.type == b.type && a.type != 0x0802 && a.source == b.source && a.cls == b.cls && a.flags % 8 == b.flags % 8 && a.args == b.args

/-- Thrift takes an event as identical on TYPE, SOURCE and ARG0. -/
def thriftSame (s : State) (a b : RecEvt) : Bool :=
  s.recd.thrift && a.cls == 0 && b.cls == 0 && !neverAggr a.type && a.type == b.type && a.source == b.source && a.args.head? == b.args.head?

/-- A repeat of the open record: REPEAT and the trailer; it is sealed at 65,535. -/
def repeatOpen (r : RecRec) (e : RecEvt) (aggr : Bool) (s : State) : State :=
  let s1 := modRec (fun x => { x with opened := some { r with rep := r.rep + 1, trail := some e.time, aggr := r.aggr || aggr } }) s
  if 65535 ≤ r.rep + 1 then sealOpen s1 else s1

/-- The RECNOTE that an opened HOSTNOTE belongs to ends, with the record's SEQ in DETAIL (R552). -/
def noteDone (e : RecEvt) (seq : Word) (s : State) : State :=
  if e.type != 0x0802 then s
  else
    match s.host.work.find? (fun w => w.opcode == 0x0501 && w.taken && w.final.isNone && srcOf 7 w.ref.ring == e.source && noteText w == e.text) with
    | some w => if mirrors s && !localWork s w then s else finishWith w.ref 0 s.ep.e 0 seq 0 [] s
    | none => s

/-- A new open record. -/
def openRecord (e : RecEvt) (s : State) : State :=
  let s1 := sealOpen s
  let seq := s1.recd.seq
  noteDone e seq (modRec (fun x => { x with opened := some { evt := e, seq := seq }, seq := seq + 1 }) s1)

/-- An event reaches the open record or opens the next. -/
def takeEvent (e : RecEvt) (s : State) : State :=
  let s1 := if sealDue s then sealOpen s else s
  match s1.recd.opened with
  | none => openRecord e s1
  | some r =>
    if identical r.evt e then repeatOpen r e false s1
    else if thriftSame s1 r.evt e then repeatOpen r e true s1
    else openRecord e s1

/-! ## Thrift minutes (R548) -/

/-- The channels' edge counts of a minute become SUMMARY records. -/
def summaries (s : State) : State :=
  let ks := allChans.filter fun k => (s.chan.get k).dig.thrift != (0, 0)
  let s1 := forEach ks (fun k s => let n := (s.chan.get k).dig.thrift; recordArgs 0x0A03 (srcOf 1 k.val) [1, n.1, n.2] s) s
  forEach ks (fun k s => modDig k (fun d => { d with thrift := (0, 0) }) s) s1

/-- The SUMMARY records of a thrift minute that has ended at the SYSTIME `t`. -/
def closeMinute (t : Nat) (s : State) : State :=
  if s.recd.thrift && s.recd.minute < t / 60000000000 then modRec (fun x => { x with minute := t / 60000000000 }) (summaries s) else s

/-- An EDGE event under thrift: counted in its channel's minute. -/
def thriftEdge (e : RecEvt) (s : State) : State :=
  let s1 := closeMinute e.time s
  let rising := match e.args.head? with | some a => bitOf a.toNat 8 | none => false
  match asFin 96 (e.source % 4096) with
  | some k => modDig k (fun d => { d with thrift := if rising then (d.thrift.1 + 1, d.thrift.2) else (d.thrift.1, d.thrift.2 + 1) }) s1
  | none => s1

/-! ## Rows -/

/-- The REC block is held in reset. -/
def recInReset (s : State) : Bool := s.flt.blocks.any fun b => blockOf b.1 == some .recorder

/-- One DROPPED record once the queue is below half full after drops (R544). -/
def dropNote (s : State) : State :=
  if s.recd.dropped = 0 || recQueueMax / 2 ≤ s.recd.queue.length then s
  else recordArgs 0x0A04 (srcOf 15 0) [1, s.recd.dropped, s.recd.tileDrops] (modRec (fun x => { x with dropped := 0, tileDrops := 0 }) s)

/-- REC_EVENT_TAKE. -/
def execRecEventTake (t : Time) (s : State) : Out :=
  let s := s.at_ t
  match s.recd.queue with
  | [] => noEffect s
  | e :: rest =>
    when (hubAlive s && !recInReset s)
      (fun s =>
        let full := decide (recQueueMax - recQueueKept ≤ rest.length)
        let s1 := modRec (fun x => { x with queue := rest, fullSince := if full then x.fullSince else none }) s
        dropNote (if e.type = 0x0302 && s1.recd.thrift then thriftEdge e s1 else closeMinute (sysNs s1) (takeEvent e s1))) s

/-- RECORD_SEAL_TIME: TIME + 1 s, or + 60 s in thrift. -/
def execRecordSealTime (t : Time) (s : State) : Out :=
  let s := s.at_ t
  when (hubAlive s && sealDue s) (fun s => closeMinute (sysNs s) (sealOpen s)) s

/-- RECORDER_STALL: the queue has been full for 100 ms. -/
def execRecorderStall (t : Time) (s : State) : Out :=
  let s := s.at_ t
  let due := match s.recd.fullSince with | some a => decide (a + ms 100 ≤ s.now) | none => false
  when (hubAlive s && due) (fun s => raise 0x0A9 (modRec (fun x => { x with fullSince := some s.now }) s)) s

/-- A THRIFT record: 1 ENTER, 2 LEAVE, 3 CAPPED, with the two means. -/
def recordThrift (ev rate bytes : Nat) (s : State) : State := record 0x0A02 (srcOf 15 0) ev 0 [rate, bytes] s

/-- The SEQ range that the last hour lost to the cap, in one record (R549). -/
def lostHour (s : State) : State :=
  match s.recd.lost with
  | some (a, b) => recordArgs 0x0A01 (srcOf 15 0) [a.toNat, b.toNat] (modRec (fun x => { x with lost := none }) s)
  | none => s

/-- Sums over the hours kept: records sealed and bytes written. -/
def histSums (l : List (Nat × Nat)) : Nat × Nat := l.foldl (fun a x => (a.1 + x.1, a.2 + x.2)) (0, 0)

/-- A mean over the last 24 h, or the last hour's rate beyond ten times it, calls for thrift (R547). -/
def thriftEnters (day hour : Nat × Nat) : Bool :=
  decide (1000 * 86400 < day.1) || decide (49152 * 86400 < day.2) || decide (10000 * 3600 < hour.1) || decide (491520 * 3600 < hour.2)

/-- Both means let thrift end (R547). -/
def thriftLeaves (day : Nat × Nat) : Bool := decide (day.1 < 800 * 86400) && decide (day.2 < 40960 * 86400)

/-- Thrift entered or left by the counts of the last 24 h and of the last hour, recorded with the means in whole records/s and B/s (R547). -/
def thriftTurn (day hour : Nat × Nat) (s : State) : State :=
  if !s.recd.thrift && thriftEnters day hour then
    let s1 := modRec (fun x => { x with thrift := true, minute := sysNs s / 60000000000 }) s
    raise 0x0AA (recordThrift 1 (day.1 / 86400) (day.2 / 86400) s1)
  else if s.recd.thrift && thriftLeaves day then
    recordThrift 2 (day.1 / 86400) (day.2 / 86400) (modRec (fun x => { x with thrift := false }) (summaries s))
  else s

/-- The cap of R549 set or lifted by the bytes of the last 24 h. The records that it kept from the store are lost from the sealed buffer when it
is lifted. -/
def capTurn (day : Nat × Nat) (s : State) : State :=
  let cap := decide (4838400000 < day.2)
  let s1 := lostHour s
  let s2 := if cap && !s1.recd.capped then recordThrift 3 (day.1 / 86400) (day.2 / 86400) s1 else s1
  let kept (r : RecRec) : Bool := match s2.recd.capFrom with | some a => cap || decide (2 ^ 31 ≤ (r.seq - a).toNat) | none => true
  modRec (fun x => { x with capped := cap, capFrom := if cap then x.capFrom else none, sealed_ := x.sealed_.filter kept }) s2

/-- The hour that ends joins the last 24, and thrift and the cap are judged (R547, R549). -/
def evalThrift (s : State) : State :=
  let hour := (s.recd.hourRecs, s.recd.hourBytes)
  let hist := (hour :: s.recd.hist).take 24
  let s1 := modRec (fun x => { x with hourRecs := 0, hourBytes := 0, hourAt := s.now, hist := hist }) (closeMinute (sysNs s) s)
  capTurn (histSums hist) (thriftTurn (histSums hist) hour s1)

/-- THRIFT_EVALUATION: every whole hour, counted from the evaluation before (log entry 145). -/
def execThriftEvaluation (t : Time) (_rate24 _bytes24 _rate1 _bytes1 : Nat) (s : State) : Out :=
  let s := s.at_ t
  when (hubAlive s && decide (s.recd.hourAt + sec 3600 ≤ s.now)) evalThrift s

/-! ## EQ0 (R415, R419, R550, R565) -/

/-- SEQ of the first record that an enable delivers (REC_EQSTART). -/
def eqStart (s : State) : Word :=
  let next := match s.recd.opened with | some r => r.seq | none => s.recd.seq
  let oldest := match (s.recd.stored ++ s.recd.sealed_).head? with | some r => r.seq | none => next
  match bits (reg s 0x4004) 0 2 with
  | 1 => next
  | 2 => BitVec.ofNat 32 (reg s 0x4008)
  | _ => oldest

/-- EQ0 enabled, or refused. -/
def eq0TurnOn (s : State) : State :=
  let size := bits (reg s 0x1F10) 0 5
  if s.host.eq0On then s
  else if !s.pwr.ready || size < 16 || 24 < size || !baseOk s 0x1F00 then recordRing 0x100 2 { s with host := { s.host with eq0Ref := true } }
  else { s with
    host := { s.host with eq0On := true, eq0Ref := false, eq0Paused := false, eq0Wr := 0, eq0Head := 0 }
    recd := { s.recd with eqNext := eqStart s } }

/-- EQ0 enabled or disabled. -/
def eq0Set (on : Bool) (s : State) : State := if on then eq0TurnOn s else { s with host := { s.host with eq0On := false } }

/-- EQ0_ENABLE. -/
def execEq0Enable (t : Time) (on : Bool) (s : State) : Out :=
  let s := s.at_ t
  when (hubAlive s) (eq0Set on) s

/-- Unread bytes of EQ0. -/
def eq0Used (s : State) : Nat := (s.host.eq0Wr + eq0Size s - s.host.eq0Head % eq0Size s) % eq0Size s

/-- Bytes of a record written to the ring, then the write offset; the vector once the unread bytes pass EQ0_THR (R393). A record for which there is
no room pauses the delivery. -/
def eq0Put (b : List Byte) (next : Word) (s : State) : State :=
  let n := eq0Size s
  let rest := n - s.host.eq0Wr
  let skip := if rest < b.length then rest else 0
  let used := eq0Used s
  if n ≤ used + skip + b.length then { s with host := { s.host with eq0Paused := true } }
  else
    let base := reg64 s 0x1F00
    let s1 := if 0 < skip then hostWrite (base + s.host.eq0Wr) [0, 0, 0, 0] s else s
    let at_ := if 0 < skip then 0 else s.host.eq0Wr
    let wr := (at_ + b.length) % n
    let s2 := hostWrite (reg64 s 0x1F08) (leBytes 8 wr) (hostWrite (base + at_) b s1)
    let s3 := { s2 with host := { s2.host with eq0Wr := wr, eq0Paused := false }, recd := { s2.recd with eqNext := next } }
    let thr := bits (reg s 0x1F14) 0 24
    if used ≤ thr && thr < used + skip + b.length then signal (bits (reg s 0x1F10) 8 6) s3 else s3

/-- EQ0_DELIVER: the next sealed record in SEQ order; one LOSTRANGE in place of records that are no longer held. -/
def execEq0Deliver (t : Time) (s : State) : Out :=
  let s := s.at_ t
  let held := s.recd.stored ++ s.recd.sealed_
  let next := s.recd.eqNext
  when (hubUp s && s.host.eq0On && !s.host.eq0Paused)
    (fun s =>
      match held.find? (fun r => r.seq == next) with
      | some r => eq0Put (recBytes r) (next + 1) s
      | none =>
        match held.find? (fun r => decide ((r.seq - next).toNat < 2 ^ 31)) with
        | some r => let (b, s1) := lostFor next r.seq s; eq0Put b r.seq s1
        | none => s) s

/-! ## The read window (R553, R571) -/

/-- REC_RDSEQ written: the window loads. -/
def rdseqSet (seq : Word) (s : State) : State :=
  modRec (fun x => { x with rdSeq := seq, rdBusy := true, rdValid := false, rdMissing := false, rdBytes := [] }) s

/-- REC_RDSEQ_WRITE. -/
def execRecRdseqWrite (t : Time) (seq : Word) (s : State) : Out :=
  let s := s.at_ t
  when (hubAlive s) (rdseqSet seq) s

/-- REC_RDWIN_LOADED: the record, or MISSING. -/
def execRecRdwinLoaded (t : Time) (s : State) : Out :=
  let s := s.at_ t
  when (hubAlive s && s.recd.rdBusy)
    (fun s =>
      match (s.recd.stored ++ s.recd.sealed_).find? (fun r => r.seq == s.recd.rdSeq) with
      | some r => modRec (fun x => { x with rdBusy := false, rdValid := true, rdMissing := false, rdBytes := recBytes r }) s
      | none => modRec (fun x => { x with rdBusy := false, rdValid := false, rdMissing := true, rdBytes := [] }) s) s

end Sys2Proof.Machine
end

