-- ==== Sys2Proof/Machine/Setup.lean ====
section
/-! DEFINITION. The setup commands with an effect of their own: the time master's block, the physical number, the store's read window and the
security block (R296, R297, R330, R350, R427, R490, R517, R563, R570, R573). -/

namespace Sys2Proof.Machine

open Sys2Proof

/-! ## TIME (R296, R297, R350, R562) -/

/-- A write that only the time master takes; elsewhere, and where `ok` does not hold on it, ignored and recorded. -/
def masterWrite (off requester : Nat) (ok : Bool) (f : State → State) (s : State) : State :=
  if isMaster s && ok then f s else recordRefused off requester s

/-- A device of the system takes part in epochs: this one, or one whose heartbeat of the last 10 ms shows it JOINED and LOCKED (R298, Table 10-6;
DEDUCED, log entry 32). -/
def someoneTakesPart (s : State) : Bool :=
  s.ep.joined || s.net.hbts.any fun h => decide (s.now < h.2.2 + ms 10) && bits h.2.1.toNat 0 3 == 3 && bitOf h.2.1.toNat 3

/-- EPOCH_T0 written: only while no device of the system takes part in epochs (R296). -/
def setT0 (requester v : Nat) (s : State) : State :=
  masterWrite 0x080C requester (!someoneTakesPart s) (fun s => { s with ep := { s.ep with t0 := signed v 64 } }) s

/-- A period within 250 µs to 1 s. -/
def periodOk (p : Nat) : Bool := 250 ≤ p && p ≤ 1000000

/-- TIME_P written, on the same condition (R562). -/
def setP (requester v : Nat) (s : State) : State :=
  masterWrite 0x0810 requester (!someoneTakesPart s && periodOk v) (fun s => { s with ep := { s.ep with p := v } }) s

/-- TIME_PCTL.SUBMIT: PN and EC announced, EC at least 256 epochs ahead. -/
def submitPeriod (requester : Nat) (s : State) : State :=
  let pn := reg s 0x0814
  let ec := reg64 s 0x0818
  masterWrite 0x0820 requester (periodOk pn && decide (epochNow s + 256 ≤ ec))
    (fun s => { s with ep := { s.ep with pn := pn, ec := ec, pchg := true } }) s

/-- TIME_CMD.STEP: SYSTIME is TIME_SET, only while no device of the system takes part in epochs (R350). -/
def stepTime (requester : Nat) (s : State) : State :=
  masterWrite 0x0840 requester (!someoneTakesPart s) (fun s => { s with sysOff := 2 * (reg64 s 0x0838 : Int) - s.now }) s

/-- TIME_SUBMIT. -/
def execTimeSubmit (t : Time) (s : State) : Out := let s := s.at_ t; when (hubAlive s) (submitPeriod 1024) s

/-- TIME_CMD_STEP. -/
def execTimeCmdStep (t : Time) (s : State) : Out := let s := s.at_ t; when (hubAlive s) (stepTime 1024) s

/-! ## PEL (R330, R353, R563) -/

/-- A reference under another origin number. -/
def renumRef (a b : Nat) (r : WorkRef) : WorkRef := if r.origin = a then { r with origin := b } else r

/-- A set's items under another origin number. -/
def renumSet (a b : Nat) (c : CSet) : CSet := { c with items := c.items.map fun i => { i with w := renumRef a b i.w } }

/-- A store request under another origin number. -/
def renumJob (a b : Nat) : StoreJob → StoreJob
  | .journal (some w) => .journal (some (renumRef a b w))
  | j => j

/-- The high marks of a ring under another origin number. -/
def renumHigh (a b : Nat) (l : List (Nat × Word)) : List (Nat × Word) := l.map fun h => if h.1 = a then (b, h.2) else h

/-- The device's own work stays its own when its number changes: work, sets, jobs and high marks pass to the new number (log entry 33). -/
def renumber (a b : Nat) (s : State) : State :=
  let f := renumRef a b
  let hart (h : Hart) : Hart := { h with queue := h.queue.map f, host := h.host.map f }
  { s with
    host := { s.host with
      work := s.host.work.map fun w => { w with ref := f w.ref, waits := w.waits.map f }
      buf := s.host.buf.map fun x => { x with ref := f x.ref, waits := x.waits.map f }
      firsts := s.host.firsts.map fun x => { x with ref := f x.ref }
      mgts := s.host.mgts.map fun x => { x with w := f x.w }
      cr := s.host.cr.all fun c => { c with high := renumHigh a b c.high } }
    ep := { s.ep with sets := s.ep.sets.map (renumSet a b), held := s.ep.held.map (renumSet a b) }
    chan := s.chan.all fun c => { c with hart := hart c.hart }
    cu := s.cu.all fun c => { c with queue := c.queue.map f }
    img := { s.img with
      stager := s.img.stager.map f
      rehearser := s.img.rehearser.map f
      activator := s.img.activator.map fun x => (f x.1, x.2)
      roleDue := s.img.roleDue.map fun x => (x.1, f x.2.1, x.2.2) }
    pair := { s.pair with couch := s.pair.couch.map fun c => { c with w := c.w.map f } }
    misc := { s.misc with tests := s.misc.tests.map fun x => { x with w := f x.w } }
    nvs := { s.nvs with store := { s.nvs.store with jobs := s.nvs.store.jobs.map (renumJob a b) } } }

/-- The physical number set or cleared, kept in the trim store; any state but DOWN goes to LISTEN, or to UNNUM where no number is valid. -/
def setNumber (num : Nat) (valid : Bool) (s : State) : State :=
  let s0 := if num = s.net.num then s else renumber s.net.num num s
  let s1 := { s0 with
    net := { s0.net with num := num, numValid := valid, listenAt := s0.now }
    nvs := { s0.nvs with store := { s0.nvs.store with jobs := s0.nvs.store.jobs ++ [.trim] } } }
  if s1.net.state = 0 then s1 else netLeave (if valid then 2 else 1) s1

/-- PEL_NUM written. -/
def numWrite (v : Nat) (s : State) : State := setNumber (bits v 0 10) (bitOf v 15) s

/-- PEL2 or PEL3 trains afresh, or is disabled; every change of its state is recorded, and DOWN raises its source (R328, R563). Table 18-3 has no
event for a disabled port: it is recorded as DOWN (DESIGN CHOICE, log entry 175). -/
def trainPort (on : Bool) (p : Fin 5) (s : State) : State :=
  let old := s.net.port.get p
  let new : Nat := if on then 0 else 3
  let s1 := modPort p (fun x => { x with state := new, downAt := s.now, cand := none, echo := none, errs := [] }) s
  if old.state = new then s1
  else
    let s2 := recordPort p 2 old.bad s1
    if on then raise (portSource p) s2 else s2

/-- PEL_CFG.COUPLER written, and kept. A member of a pair cannot be a coupler: there a write of 1 is ignored and recorded (R363, DESIGN CHOICE, log
entry 175). -/
def couplerWrite (requester : Nat) (on : Bool) (s : State) : State :=
  if on && paired s then recordRefused 0x0C04 requester s
  else
    let s1 := trainPort on 3 (trainPort on 2 { s with net := { s.net with coupler := on } })
    { s1 with nvs := { s1.nvs with store := { s1.nvs.store with jobs := s1.nvs.store.jobs ++ [.trim] } } }

/-- PEL_NUM_WRITE. -/
def execPelNumWrite (t : Time) (value : Word) (s : State) : Out := let s := s.at_ t; when (hubAlive s) (numWrite value.toNat) s

/-- PEL_COUPLER_WRITE. -/
def execPelCouplerWrite (t : Time) (coupler : Bool) (s : State) : Out := let s := s.at_ t; when (hubAlive s) (couplerWrite 1024 coupler) s

/-! ## The store's read window (R537, R570, Tables 17-10, 17-11) -/

/-- The identity record. -/
def identityRecord (s : State) : List Byte :=
  leBytes 8 s.nvs.store.serial.toNat ++ [0x59, 0x53, 0x39, 0x36, 0x2D, 0x49, if Config.orderC then 0x43 else 0, 0] ++ [0x42, BitVec.ofNat 8 Config.revId, 0, 0] ++
    leBytes 4 Config.mfgDate.toNat ++ leBytes 4 Config.calVersion.toNat ++ List.replicate 36 0

/-- The record of an area at an index (log entry 31); nothing where there is none. -/
def nvsRecord (s : State) (area index : Nat) : List Byte :=
  match area with
  | 0 => if index = 0 then identityRecord s else (Config.calRecord index).take 256
  | 1 =>
    match asFin 96 index with
    | some k =>
      let p := s.nvs.pat.get k
      leBytes 8 p.cycles.toNat ++ leBytes 8 (p.clampUj.toNat / 1000) ++ leBytes 4 p.thermals.toNat ++ leBytes 4 p.cuts.toNat ++ leBytes 4 p.latches.toNat
    | none => []
  | 2 =>
    match asFin 12 index with
    | some t => leBytes 4 (s.nvs.tileCycles.get t) ++ leBytes 4 (s.nvs.tileStops.get t)
    | none => []
  | 3 => if index < 2048 then leBytes 4 (lookupD s.nvs.store.erases index 0) else []
  | 4 =>
    match asFin 96 (index / 90) with
    | some k => (Config.insRecord (index % 90) (s.chan.get k).dg.ins.hours).take 256
    | none => []
  | 5 => leBytes 4 s.nvs.store.hours
  | _ => []

/-- NVS_RDSEL written: the window loads, afresh where it was loading. -/
def rdselSet (v : Nat) (s : State) : State :=
  { s with nvs := { s.nvs with rdSel := BitVec.ofNat 32 (bits v 0 4 + 256 * bits v 8 16), rdBusy := true, rdValid := false, rdBytes := [] } }

/-- NVS_RDSEL_WRITE. -/
def execNvsRdselWrite (t : Time) (value : Word) (s : State) : Out := let s := s.at_ t; when (hubAlive s) (rdselSet value.toNat) s

/-- NVS_RDWIN_LOADED. -/
def execNvsRdwinLoaded (t : Time) (s : State) : Out :=
  let s := s.at_ t
  when (hubAlive s && s.nvs.rdBusy)
    (fun s =>
      let v := s.nvs.rdSel.toNat
      { s with nvs := { s.nvs with rdBusy := false, rdValid := true, rdBytes := nvsRecord s (bits v 0 4) (bits v 8 16) } }) s

/-! ## SEC (R427, R490, R573) -/

/-- SEC_CMD written: ignored and recorded without the confirmation, ignored while a command runs; an OP beyond Table 19-11 does nothing. -/
def secStart (op : Nat) (slot : Fin 4) (confirm requester : Nat) (s : State) : State :=
  if confirm != 0x4B59 then recordRefused 0x5C04 requester s
  else if s.sec.cmd.isSome || op = 0 || 4 < op then s
  else { s with sec := { s.sec with cmd := some (op, slot) } }

/-- SEC_PROGRAM. -/
def execSecProgram (t : Time) (slot : Fin 4) (confirm : BitVec 16) (s : State) : Out :=
  let s := s.at_ t
  when (hubAlive s) (secStart 1 slot confirm.toNat 1024) s

/-- SEC_REVOKE. -/
def execSecRevoke (t : Time) (slot : Fin 4) (confirm : BitVec 16) (s : State) : Out :=
  let s := s.at_ t
  when (hubAlive s) (secStart 2 slot confirm.toNat 1024) s

/-- SEC_TOKEN. -/
def execSecToken (t : Time) (confirm : BitVec 16) (s : State) : Out :=
  let s := s.at_ t
  when (hubAlive s) (secStart 3 0 confirm.toNat 1024) s

/-- SEC_CLRINTR. -/
def execSecClrintr (t : Time) (confirm : BitVec 16) (s : State) : Out :=
  let s := s.at_ t
  when (hubAlive s) (secStart 4 0 confirm.toNat 1024) s

/-- A factory token names the device's serial number and verifies under the factory key (R490). -/
def tokenGood (s : State) (b : List Byte) : Bool :=
  uN b 0 8 == s.nvs.store.serial.toNat && allZero (slice b 8 24) && ecdsaVerify Config.factoryKey (b.take 32) (uN b 32 32) (uN b 64 32)

/-- A slot programmed with the digest in SEC_KEYDATA; a slot already written fails. -/
def programKey (i : Fin 4) (s : State) : State × Bool :=
  if (s.sec.ikey.get i).digest.isSome then (s, true)
  else ({ s with sec := { s.sec with ikey := s.sec.ikey.upd i fun k => { k with digest := some s.sec.keyData } } }, false)

/-- A good token; INJEN follows where TESTMODE was high at power-on reset and the field-lock fuse is intact (R490). -/
def takeToken (s : State) : State × Bool :=
  if tokenGood s s.sec.token then
    let inj := testMode s
    ({ s with sec := { s.sec with tokenOk := true }, flt := { s.flt with injEn := s.flt.injEn || inj } }, false)
  else (s, true)

/-- What a SEC command does, and whether it fails. -/
def secEffect (op : Nat) (slot : Fin 4) (s : State) : State × Bool :=
  match op with
  | 1 => programKey slot s
  | 2 => ({ s with sec := { s.sec with ikey := s.sec.ikey.upd slot fun k => { k with revoked := true } } }, false)
  | 3 => takeToken s
  | _ => (modPlinth (fun p => { p with intrusion := false, told := false }) s, false)

/-- SEC_CMD_DONE: SEC_KEYDATA and SEC_TOKEN are zero again. -/
def execSecCmdDone (t : Time) (s : State) : Out :=
  let s := s.at_ t
  match s.sec.cmd with
  | none => noEffect s
  | some (op, slot) =>
    when (hubAlive s)
      (fun s =>
        let (s1, err) := secEffect op slot s
        { s1 with sec := { s1.sec with cmd := none, err := err, keyData := List.replicate 32 0, token := List.replicate 96 0 } }) s

end Sys2Proof.Machine
end

