-- ==== Sys2Proof/Machine/Registers.lean ====
section
/-! DEFINITION. BAR0: its layout, writes and reads (R497, R501, R558 to R574, Tables 19-1 to 19-11). Every access is one or two 32-bit accesses of a
requester: a device number, or 1,024 for the local host. -/

namespace Sys2Proof.Machine

open Sys2Proof

/-! ## Layout -/

/-- The offset lies in the given bytes. -/
def offIn (lo hi off : Nat) : Bool := lo ≤ off && off < hi

/-- Low halves of the 64-bit pairs (R559): where they take writes, and all of them. -/
def pairWritable (off : Nat) : Bool :=
  off == 0x0808 || off == 0x0818 || off == 0x0838 || off == 0x1F00 || off == 0x1F08 || off == 0x2C00 ||
  (offIn 0x1000 0x1800 off && [0x00, 0x08].contains ((off - 0x1000) % 32)) ||
  (offIn 0x1800 0x1C00 off && (off - 0x1800) % 16 == 0) ||
  (offIn 0x1C00 0x1F00 off && [0x00, 0x08].contains ((off - 0x1C00) % 48)) ||
  (offIn 0x4400 0x4500 off && [0x04, 0x0C, 0x14, 0x1C].contains ((off - 0x4400) % 64))

/-- The offset is a _LO register, or VALUE of a tag (R559, R574). -/
def pairLow (off : Nat) : Bool :=
  pairWritable off || off == 0x0008 || off == 0x0800 || off == 0x0844 || off == 0x2004 || off == 0x4814 ||
  (offIn 0x4400 0x4500 off && (off - 0x4400) % 64 == 0x30) || (offIn 0x4C00 0x4D00 off && (off - 0x4C00) % 32 == 0) ||
  (offIn 0x8000 0x10000 off && off % 8 == 0)

/-- The aligned word at an offset holds a register that some table of the chapter lists (R558). -/
def bar0Listed (off : Nat) : Bool :=
  offIn 0x0000 0x001C off || offIn 0x0400 0x0410 off || offIn 0x0800 0x084C off || offIn 0x0C00 0x0C0C off || offIn 0x0C10 0x0C24 off ||
  offIn 0x0C30 0x0CE0 off || offIn 0x1000 0x1800 off || offIn 0x1800 0x1C00 off ||
  (offIn 0x1C00 0x1F00 off && (off - 0x1C00) % 48 < 0x2C) || offIn 0x1F00 0x1F20 off || offIn 0x2000 0x2018 off || offIn 0x2400 0x2408 off ||
  offIn 0x2410 0x2490 off || offIn 0x2800 0x2814 off || offIn 0x2820 0x2834 off || offIn 0x2C00 0x2C28 off || offIn 0x2D00 0x2E00 off ||
  offIn 0x3000 0x4000 off || offIn 0x4000 0x4020 off || offIn 0x4200 0x4400 off || (offIn 0x4400 0x4500 off && (off - 0x4400) % 64 < 0x38) ||
  offIn 0x4800 0x481C off || offIn 0x4820 0x4880 off || (offIn 0x4C00 0x4D00 off && (off - 0x4C00) % 32 < 0x18) ||
  (offIn 0x5000 0x5600 off && ((off - 0x5000) % 128 < 0x1C || offIn 0x20 0x40 ((off - 0x5000) % 128))) || off == 0x5800 ||
  offIn 0x5C00 0x5C08 off || offIn 0x5C20 0x5CA0 off || offIn 0x5D00 0x5D80 off || offIn 0x8000 0x10000 off

/-! ## Writes -/

/-- Writable bits of the registers that merely hold what was written (Tables 19-2 to 19-9). -/
def plainMask (off : Nat) : Option Nat :=
  if off = 0x0408 then some 0x3F
  else if off = 0x0824 then some 0x7FFFF
  else if off = 0x0828 then some 0xFF
  else if offIn 0x0C40 0x0CC0 off then some 0x83FF
  else if offIn 0x0CC0 0x0CE0 off then some 0x800303FF
  else if off = 0x2C08 then some 0xFFFFFFFF
  else if off = 0x2C0C then some 0xFFFFFF
  else if off = 0x4004 then some 3
  else if off = 0x4008 then some 0xFFFFFFFF
  else none

/-- The low half of a pair held until its high half is written. -/
def holdLo (requester off v : Nat) (s : State) : State :=
  { s with host := { s.host with loHeld := (requester, off, BitVec.ofNat 32 v) :: s.host.loHeld.filter fun x => !(x.1 == requester && x.2.1 == off) } }

/-- The low half that a write of the high half goes with: the held one, otherwise the present one. -/
def heldLo (s : State) (requester off : Nat) : Nat :=
  match s.host.loHeld.find? (fun x => x.1 == requester && x.2.1 == off) with
  | some x => x.2.2.toNat
  | none => reg s off

/-- The held low half used up. -/
def dropLo (requester off : Nat) (s : State) : State :=
  { s with host := { s.host with loHeld := s.host.loHeld.filter fun x => !(x.1 == requester && x.2.1 == off) } }

/-- One half of a stored pair written, `lo` the offset of its low half. -/
def pairWrite (requester lo off v : Nat) (s : State) : State :=
  if off = lo then holdLo requester lo v s else dropLo requester lo (setReg off v (setReg lo (heldLo s requester lo) s))

/-- The offset of the low half that belongs to an offset of a writable pair. -/
def pairOf (off : Nat) : Option Nat :=
  if pairWritable off then some off else if 4 ≤ off && pairWritable (off - 4) then some (off - 4) else none

/-- GLB_TAGWPAGE of a requester; a requester without a copy reads 0. -/
def pageOf (s : State) (requester : Nat) : Nat := lookupD s.host.pages requester 0

/-- A copy taken by a requester, or used again: the most recently used first; of the remote requesters 32 have copies (R561). -/
def usePage (requester page : Nat) (s : State) : State :=
  let rest := s.host.pages.filter fun x => x.1 != requester
  let own := rest.filter fun x => x.1 == 1024
  let remote := rest.filter fun x => x.1 != 1024
  { s with host := { s.host with pages := if requester = 1024 then (requester, page) :: remote else (requester, page) :: (remote.take 31 ++ own) } }

/-- HOST_ERR.BADACC, which raises nothing (Table 19-2). -/
def badAcc (s : State) : State := sourceSets 0x0404 4 { s with host := { s.host with err := s.host.err ||| 16 } }

/-- GLB and HOST. -/
def writeGlb (requester off v : Nat) (s : State) : State :=
  if off = 0x0010 then (if bitOf v 0 then requestReset 8 0 s else s)
  else if off = 0x0014 then modPwr (fun p => { p with cause := bits v 12 4, causeSrc := bits v 16 9 }) s
  else if off = 0x0018 then usePage requester (bits v 0 3) s
  else if off = 0x0404 then { s with host := { s.host with err := s.host.err &&& ~~~(BitVec.ofNat 5 (clearMask s off v 5)) } }
  else s

/-- A rate adjustment of at most 50,000 ppb. -/
def rateOk (v : Nat) : Bool := (signed v 32).natAbs ≤ 50000

/-- The low half that a write of EPOCH_T0's high half goes with: the held one, otherwise that of the present T0 (log entry 108). -/
def heldT0 (s : State) (requester : Nat) : Nat :=
  match s.host.loHeld.find? (fun x => x.1 == requester && x.2.1 == 0x0808) with
  | some x => x.2.2.toNat
  | none => (s.ep.t0 % 2 ^ 32).toNat

/-- TIME. -/
def writeTime (requester off v : Nat) (s : State) : State :=
  match off with
  | 0x0808 => masterWrite off requester true (holdLo requester 0x0808 v) s
  | 0x080C => let lo := heldT0 s requester; dropLo requester 0x0808 (setT0 requester (lo + 2 ^ 32 * v) s)
  | 0x0810 => setP requester (bits v 0 20) s
  | 0x0814 => masterWrite off requester true (setReg off (bits v 0 20)) s
  | 0x0818 => masterWrite off requester true (holdLo requester 0x0818 v) s
  | 0x081C => masterWrite off requester true (pairWrite requester 0x0818 off (bits v 0 16)) s
  | 0x0820 => if bitOf v 0 then submitPeriod requester s else s
  | 0x0834 => masterWrite off requester (rateOk v) (setReg off v) s
  | 0x0838 | 0x083C => pairWrite requester 0x0838 off v s
  | 0x0840 => if bitOf v 0 then stepTime requester s else s
  | _ => s

/-- PEL_CFG: MGTPOL and MGTDEV are kept with the physical number; the role retrains its ports. -/
def writePelCfg (requester v : Nat) (s : State) : State :=
  couplerWrite requester (bitOf v 0) { s with net := { s.net with mgtPol := bits v 1 2, mgtDev := bits v 16 10 } }

/-- One command ring: its setup is closed while it is not DISABLED (R565). -/
def writeCr (requester : Nat) (n : Fin 64) (off v : Nat) (s : State) : State :=
  let r := off % 32
  if r = 0x14 then
    let s1 := if bitOf v 1 then crForget n s else s
    if bitOf v 0 then (if hubUp s1 then crOn n s1 else s1) else crOff n s1
  else if 0x10 < r then s
  else if (s.host.cr.get n).state != 0 then recordRefused off requester s
  else if r = 0x10 then setReg off (v &&& 0x1FF13F1F) s
  else match pairOf off with
    | some lo => pairWrite requester lo off v s
    | none => s

/-- One completion queue. CQq_CTL is not among the registers of R565: SIZE takes every write, and the next enable uses it (R11, log entry
116). -/
def writeCq (requester : Nat) (q : Fin 64) (off v : Nat) (s : State) : State :=
  let r := off % 16
  let on := (s.host.cq.get q).en
  if r = 0xC then
    let s1 := setReg off (v &&& 0x1F0) s
    if bitOf v 0 then cqOn q s1 else cqOff q s1
  else if on then recordRefused off requester s
  else if r = 0x8 then setReg off (v &&& 0xFFFFFF3F) s
  else match pairOf off with
    | some lo => pairWrite requester lo off v s
    | none => s

/-- One image queue; its tag list is read by IQ_ENABLE, which its EN = 1 leads to (R417). -/
def writeIq (requester : Nat) (n : Fin 16) (off v : Nat) (s : State) : State :=
  let r := (off - 0x1C00) % 48
  if r = 0x20 then (if bitOf v 0 then s else modIq n (fun q => { q with en := false }) s)
  else if 0x20 < r then s
  else if (s.ep.iq.get n).en then recordRefused off requester s
  else match r, pairOf off with
    | 0x10, _ => setReg off (v &&& 0x3F3F0F) s
    | 0x14, _ => setReg off (bits v 0 16) s
    | 0x18, _ => setReg off (bits v 0 20) s
    | 0x1C, _ => setReg off (bits v 0 16) s
    | _, some lo => pairWrite requester lo off v s
    | _, none => s

/-- EQ0. -/
def writeEq0 (requester off v : Nat) (s : State) : State :=
  if off = 0x1F18 then eq0Set (bitOf v 0) s
  else if off = 0x1F14 then setReg off (bits v 0 24) s
  else if off = 0x1F1C then s
  else if s.host.eq0On then recordRefused off requester s
  else if off = 0x1F10 then setReg off (v &&& 0x3F1F) s
  else match pairOf off with
    | some lo => pairWrite requester lo off v s
    | none => s

/-- Rings and queues. -/
def writeRing (requester off v : Nat) (s : State) : State :=
  if off < 0x1800 then (match asFin 64 ((off - 0x1000) / 32) with | some n => writeCr requester n off v s | none => s)
  else if off < 0x1C00 then (match asFin 64 ((off - 0x1800) / 16) with | some q => writeCq requester q off v s | none => s)
  else if off < 0x1F00 then (match asFin 16 ((off - 0x1C00) / 48) with | some n => writeIq requester n off v s | none => s)
  else writeEq0 requester off v s

/-- FLT_CTL: CFGLOCK takes the first write after a reset. -/
def writeFltCtl (v : Nat) (s : State) : State :=
  let s1 := setReg 0x2400 (v &&& 0x3F00) s
  if s1.flt.cfgWritten then s1 else { s1 with flt := { s1.flt with cfgLock := bitOf v 0, cfgWritten := true } }

/-- A configuration field whose value the write changes becomes a request (R479). -/
def fltField (id field old new : Nat) (s : State) : State := if old = new then s else fltRequest id field new s

/-- A source entry's words (Table 19-6). -/
def writeSource (requester id half v : Nat) (s : State) : State :=
  let e := srcEntry s id
  if !faultListed id then s
  else if half = 0 then
    let s1 := fltField id 2 (b2n e.errdrv) (bits v 8 1) (fltField id 1 e.wcls (bits v 4 3) (fltField id 0 e.cls (bits v 0 3) s))
    let inj : Fin 4 := ⟨bits v 16 2 % 4, Nat.mod_lt _ (by decide)⟩
    if inj = e.inj then s1 else injSet id inj s1
  else
    let s1 := if bitOf v 1 then pendWrite requester id s else s
    if clears s (0x3004 + 8 * id) v 2 then modSrc id (fun e => { e with wire := false }) s1 else s1

/-- WDH_CTL.EN: an enable starts t and the key again; a disable is recorded (R501). -/
def wdhEnable (on : Bool) (s : State) : State :=
  let w := s.pwr.wdh
  if on = w.en then s
  else if on then modPwr (fun p => { p with wdh := { w with en := true, t := 0, key := 0x5C, from_ := s.now }, wdhGrid := epochNow s }) s
  else recordGeneric 7 0x400 (modPwr (fun p => { p with wdh := { w with en := false } }) s)

/-- WDG: the WDA registers are Armature's (R568). -/
def writeWdg (requester off v : Nat) (s : State) : State :=
  let n := max 1 (bits v 0 16)
  if off < 0x2814 then recordRefused off requester s
  else if off = 0x2820 then wdhEnable (bitOf v 0) s
  else if s.pwr.wdh.en then s
  else if off = 0x2824 then modPwr (fun p => { p with wdh := { p.wdh with close := n } }) s
  else if off = 0x2828 then modPwr (fun p => { p with wdh := { p.wdh with open_ := n } }) s
  else s

/-- NVS. -/
def writeNvs (requester off v : Nat) (s : State) : State :=
  if off = 0x2C10 then (if hubUp s then fwWord (BitVec.ofNat 32 v) s else s)
  else if off = 0x2C14 then
    let s1 := setReg off (bits v 0 3) s
    let s2 := if hubUp s && bitOf v 5 then fwOpen s1 else s1
    let s3 := if hubUp s && bitOf v 3 then fwGo s2 else s2
    if hubUp s && bitOf v 4 then fwApply s3 else s3
  else if off = 0x2C20 then rdselSet v s
  else if off = 0x2C00 || off = 0x2C04 then pairWrite requester 0x2C00 off v s
  else s

/-- One check unit: its setup is read-only while a job runs (R554). The word that a LAST through the register feeds is not given by the spec: a free
value (log entry 3). -/
def writeCu (requester : Nat) (n : Fin 4) (off v : Nat) (s : State) : State :=
  let r := (off - 0x4400) % 64
  if cuHeld s n then s
  else if r = 0x24 then
    let s1 := if bitOf v 0 then cuStartJob n s else s
    if bitOf v 1 then (let (w, s2) := freeW s1; cuLastWord n (bits v 2 3) w s2) else s1
  else if r = 0x28 then cuDataWord n (BitVec.ofNat 32 v) s
  else if r = 0x2C then modCu n (fun c => { c with aborted := c.aborted && !clears s off v 1, busyRef := c.busyRef && !clears s off v 2 }) s
  else if cuBusy (s.cu.get n) then s
  else if r = 0 then setReg off (v &&& 0x7F037F) s
  else match pairOf off with
    | some lo => pairWrite requester lo off v s
    | none => s

/-- Four bytes of a block replaced. -/
def putWord (l : List Byte) (i v : Nat) : List Byte := l.take i ++ leBytes 4 v ++ l.drop (i + 4)

/-- SEC: never through the management proxy (R359). -/
def writeSec (requester off v : Nat) (s : State) : State :=
  if requester != 1024 then recordRefused off requester s
  else if off = 0x5C04 then secStart (bits v 0 4) ⟨bits v 8 2 % 4, Nat.mod_lt _ (by decide)⟩ (bits v 16 16) requester s
  else if offIn 0x5C20 0x5C40 off then { s with sec := { s.sec with keyData := putWord s.sec.keyData (off - 0x5C20) v } }
  else if offIn 0x5C40 0x5CA0 off then { s with sec := { s.sec with token := putWord s.sec.token (off - 0x5C40) v } }
  else s

/-- One 32-bit write of BAR0. A register that takes none ignores it (R560). -/
def regWrite (requester off v : Nat) (s : State) : State :=
  if offIn 0x8000 0x10000 off then (if requester = 1024 then badAcc s else recordRefused off requester s)
  else if offIn 0x0800 0x0824 off || offIn 0x0834 0x0844 off then writeTime requester off v s
  else if offIn 0x2C00 0x2C08 off || offIn 0x2C10 0x2C28 off then writeNvs requester off v s
  else match plainMask off with
    | some m => if off = 0x0828 then chooseUpstream (setReg off (v &&& m) s) else setReg off (v &&& m) s
    | none =>
      if off < 0x0800 then writeGlb requester off v s
      else if off = 0x0C00 then numWrite v s
      else if off = 0x0C04 then writePelCfg requester v s
      else if offIn 0x1000 0x1F20 off then writeRing requester off v s
      else if off = 0x2400 then writeFltCtl v s
      else if offIn 0x2800 0x2834 off then writeWdg requester off v s
      else if offIn 0x3000 0x4000 off then writeSource requester ((off - 0x3000) / 8) (off % 8) v s
      else if off = 0x4018 then rdseqSet (BitVec.ofNat 32 v) s
      else if offIn 0x4400 0x4500 off then (match asFin 4 ((off - 0x4400) / 64) with | some n => writeCu requester n off v s | none => s)
      else if offIn 0x5C00 0x5D80 off then writeSec requester off v s
      else s

/-- A write of a size at an offset: 4 or 8 aligned bytes within BAR0, 8 bytes as two words, lower address first; otherwise BADACC. -/
def barWrite (requester off size : Nat) (value : BitVec 64) (s : State) : State :=
  if size = 4 && off % 4 = 0 && off < 0x10000 then regWrite requester off (bits value.toNat 0 32) s
  else if size = 8 && off % 8 = 0 && off < 0x10000 then
    regWrite requester (off + 4) (bits value.toNat 32 32) (regWrite requester off (bits value.toNat 0 32) s)
  else badAcc s

/-- REGISTER_WRITE. -/
def execRegisterWrite (t : Time) (off size : Nat) (value : BitVec 64) (requester : Nat) (s : State) : Out :=
  let s := s.at_ t
  when (hubAlive s) (barWrite requester off size value) s

/-! ## Reads -/

/-- One half of a 64-bit quantity. -/
def half (hi : Bool) (v : Nat) : Nat := if hi then v / 2 ^ 32 % 2 ^ 32 else v % 2 ^ 32

/-- GLB and HOST. -/
def readGlb (s : State) (off : Nat) : Nat :=
  let serial := if s.nvs.store.idBad then 0 else s.nvs.store.serial.toNat
  match off with
  | 0x0000 => Config.glbId.toNat
  | 0x0004 => Config.revId + 256 * 0x42
  | 0x0008 => half false serial
  | 0x000C => half true serial
  | 0x0014 =>
    b2n s.pwr.ready + 2 * b2n s.host.locked + 4 * b2n s.img.cast.isNone + 8 * b2n s.flt.lock + 16 * b2n s.pwr.holdOk + 32 * b2n s.pwr.holdRun +
      64 * s.pwr.straps.pairId.val + 256 * s.pwr.straps.almDef.val + 1024 * b2n (s.pwr.straps.testMode == 1) + 4096 * (s.pwr.cause % 16) +
      65536 * (s.pwr.causeSrc % 512)
  | 0x0404 => s.host.err.toNat
  | 0x0408 => reg s 0x0408
  | 0x040C => s.host.dbIgn + 65536 * s.host.genIgn
  | _ => 0

/-- TIME. -/
def readTime (s : State) (off : Nat) : Nat :=
  let up : Fin 5 := match upstream s with | some (u, _) => ⟨u.val, by omega⟩ | none => 0
  let adv := advertised s up
  let lead := (upstream s).isSome || isMaster s
  match off with
  | 0x0800 => half false (sysNs s)
  | 0x0804 => half true (sysNs s)
  | 0x0808 => half false (unsigned s.ep.t0 64)
  | 0x080C => half true (unsigned s.ep.t0 64)
  | 0x0810 => s.ep.p
  | 0x0820 => 2 * b2n s.ep.pchg
  | 0x082C =>
    b2n s.net.locked + 2 * b2n (isMaster s) + 4 * b2n s.ep.joined + 8 * b2n s.net.holdover + 16 * (match s.net.upPort with | some p => p.val | none => 7) +
      256 * (if lead then adv.2.2.1 % 256 else 255) + 65536 * (if lead then adv.1 % 1024 else 0)
  | 0x0830 => (word32 s.net.offset).toNat
  | 0x0840 => 0
  | 0x0844 => half false (s.ep.e % 2 ^ 48)
  | 0x0848 => half true (s.ep.e % 2 ^ 48)
  | _ => reg s off

/-- PEL. -/
def readPel (s : State) (off : Nat) : Nat :=
  let port (base : Nat) : Port := s.net.port.list.getD ((off - base) / 4) {}
  if off = 0x0C00 then s.net.num % 1024 + 32768 * b2n s.net.numValid
  else if off = 0x0C04 then b2n s.net.coupler + 2 * (s.net.mgtPol % 4) + 65536 * (s.net.mgtDev % 1024)
  else if off = 0x0C08 then s.net.state
  else if offIn 0x0C10 0x0C24 off then (port 0x0C10).state + 16 * min 255 (port 0x0C10).load + 65536 * min 65535 (port 0x0C10).bad
  else if offIn 0x0C30 0x0C40 off then min (2 ^ 32 - 1) (port 0x0C30).drops
  else reg s off

/-- Rings and queues. -/
def readRing (s : State) (off : Nat) : Nat :=
  if off < 0x1800 then
    match asFin 64 ((off - 0x1000) / 32), off % 32 with
    | some n, 0x14 => b2n ((s.host.cr.get n).state == 1 || (s.host.cr.get n).state == 3)
    | some n, 0x18 => let c := s.host.cr.get n; c.state + 4 * b2n c.reposted + 8 * b2n c.enRef + 16 * b2n c.forgetRef + 65536 * c.gen
    | some n, 0x1C => (lookupD (s.host.cr.get n).high s.net.num 0).toNat
    | _, _ => reg s off
  else if off < 0x1C00 then
    match asFin 64 ((off - 0x1800) / 16), off % 16 with
    | some q, 0xC => let c := s.host.cq.get q; b2n c.en + 8 * b2n c.enRef + reg s off + 65536 * c.gen
    | _, _ => reg s off
  else if off < 0x1F00 then
    match asFin 16 ((off - 0x1C00) / 48), (off - 0x1C00) % 48 with
    | some n, 0x20 => b2n (s.ep.iq.get n).en
    | some n, 0x24 => b2n (s.ep.iq.get n).enRef + 2 * b2n (s.ep.iq.get n).tlErr
    | some n, 0x28 => (s.ep.iq.get n).skips
    | _, _ => reg s off
  else if off = 0x1F18 then b2n s.host.eq0On
  else if off = 0x1F1C then b2n s.host.eq0Ref + 2 * b2n s.host.eq0Paused
  else reg s off

/-- PAIR: 0 throughout in a SOLO device (R566). -/
def readPair (s : State) (off : Nat) : Nat :=
  let p := s.pair
  if p.state = .solo then 0
  else match off with
    | 0x2000 =>
      pstateCode p.state + 8 * b2n (s.pwr.straps.pairId == 1) + 16 * b2n p.synced + 32 * b2n p.partnered + 64 * b2n p.armed + 128 * witMask s +
        1024 * b2n p.partner.isSome + 65536 * (p.takeovers % 65536)
    | 0x2004 => half false p.actSince
    | 0x2008 => half true p.actSince
    | 0x200C => s.host.jnl.head
    | 0x2010 => s.host.jnl.acked
    | 0x2014 => match logicalNum s with | some n => n % 1024 + 32768 | none => 0
    | _ => 0

/-- 32 marks of sources as a mask. -/
def srcMask (s : State) (i : Nat) (f : FltSt → Bool) : Nat :=
  ((List.range 32).map fun j => b2n (f (srcEntry s (32 * i + j))) * 2 ^ j).foldl (· + ·) 0

/-- FLT control and source table. -/
def readFlt (s : State) (off : Nat) : Nat :=
  if off = 0x2400 then b2n s.flt.cfgLock + 2 * b2n s.flt.injEn + reg s off
  else if off = 0x2404 then
    let unack (c : Nat) : Nat := b2n (s.flt.src.list.any fun e => e.pend && e.ecls == c) * 2 ^ c
    b2n s.flt.lock + unack 1 + unack 2 + unack 3 + unack 4 + unack 5 + 65536 * (s.flt.lastSrc % 512) + 2 ^ 26 * (s.flt.lastCls % 8)
  else if offIn 0x2410 0x2450 off then srcMask s ((off - 0x2410) / 4) (·.pend)
  else if offIn 0x2450 0x2490 off then srcMask s ((off - 0x2450) / 4) (·.asserted)
  else if offIn 0x3000 0x4000 off then
    let e := srcEntry s ((off - 0x3000) / 8)
    if off % 8 = 0 then e.cls + 16 * e.wcls + 256 * b2n e.errdrv + 4096 * e.min + 65536 * e.inj.val
    else b2n e.asserted + 2 * b2n e.pend + 4 * b2n e.wire + 8 * b2n e.esc + 16 * e.ecls + 256 * min 255 e.count
  else 0

/-- WDG. -/
def readWdg (s : State) (off : Nat) : Nat :=
  let a := s.pwr.wda
  let h := s.pwr.wdh
  match off with
  | 0x2800 => b2n a.en
  | 0x2804 => a.close
  | 0x2808 => a.open_
  | 0x2810 => (if a.en then min 65535 (wdaTicks s) else 0) + 65536 * a.key.toNat + 2 ^ 24 * (a.last % 4)
  | 0x2820 => b2n h.en
  | 0x2824 => h.close
  | 0x2828 => h.open_
  | 0x282C => h.t % 65536 + 65536 * h.key.toNat + 2 ^ 24 * (h.last % 8)
  | 0x2830 => h.good % 65536 + 65536 * (h.faults % 65536)
  | _ => 0

/-- NVS. -/
def readNvs (s : State) (off : Nat) : Nat :=
  if offIn 0x2D00 0x2E00 off then u32 s.nvs.rdBytes (off - 0x2D00)
  else match off with
    | 0x2C18 => s.nvs.load.code % 16 + 256 * (s.nvs.load.done % 2 ^ 24)
    | 0x2C1C => b2n s.nvs.store.wear + 2 * b2n s.nvs.store.idBad + 65536 * s.nvs.store.reserve
    | 0x2C20 => s.nvs.rdSel.toNat
    | 0x2C24 => b2n s.nvs.rdValid + 2 * b2n s.nvs.rdBusy + 65536 * s.nvs.rdBytes.length
    | _ => reg s off

/-- REC. -/
def readRec (s : State) (off : Nat) : Nat :=
  let x := s.recd
  if offIn 0x4200 0x4400 off then u32 x.rdBytes (off - 0x4200)
  else match off with
    | 0x4000 => b2n x.thrift + 2 * b2n x.capped + 65536 * x.queue.length
    | 0x400C => x.eqNext.toNat
    | 0x4010 => match (recHeld s).head? with | some r => r.seq.toNat | none => 0
    | 0x4014 => match (recHeld s).getLast? with | some r => r.seq.toNat | none => 0
    | 0x4018 => x.rdSeq.toNat
    | 0x401C => b2n x.rdValid + 2 * b2n x.rdMissing + 4 * b2n x.rdBusy + 65536 * x.rdBytes.length
    | _ => reg s off

/-- CU. -/
def readCu (s : State) (n : Fin 4) (off : Nat) : Nat :=
  let c := s.cu.get n
  match (off - 0x4400) % 64 with
  | 0x2C => b2n (cuBusy c) + 2 * b2n c.aborted + 4 * b2n c.busyRef + 8 * b2n (!cuLegal s n.val) + 16 * b2n c.done
  | 0x30 => half false c.result.toNat
  | 0x34 => half true c.result.toNat
  | 0x24 => 0
  | 0x28 => 0
  | _ => reg s off

/-- Code of a maquette state (Table 13-10). -/
def maqCode : MaqState → Nat
  | .empty => 0 | .loaded => 1 | .staging => 2 | .staged => 3 | .rehearsing => 4 | .armed => 5

/-- IMG: the maquette's identity and version show from STAGED. -/
def readImg (s : State) (off : Nat) : Nat :=
  let m := s.img
  let shown := if 3 ≤ maqCode m.maqState then m.maq else none
  let ver (i : Option Image) : Nat := match i with | some x => hdrImgver x.hdr | none => 0
  let id (i : Option Image) (base : Nat) : Nat := match i with | some x => u32 x.id (off - base) | none => 0
  if offIn 0x4820 0x4840 off then id m.cast 0x4820
  else if offIn 0x4840 0x4860 off then id shown 0x4840
  else if offIn 0x4860 0x4880 off then id m.lastGood 0x4860
  else match off with
    | 0x4800 =>
      maqCode m.maqState + 16 * b2n m.cast.isSome + 32 * b2n m.lastGood.isSome + 256 * m.castPart.val + 1024 * m.maqPart.val + 4096 * m.lgPart.val
    | 0x4804 => m.floor
    | 0x4808 => ver m.cast
    | 0x480C => ver shown
    | 0x4810 => ver m.lastGood
    | 0x4814 => half false m.castEpoch
    | 0x4818 => half true m.castEpoch
    | _ => 0

/-- AXS. -/
def readAxs (s : State) (x : Fin 8) (off : Nat) : Nat :=
  let a := s.eng.axis.get x
  let p := unsigned (signed a.p.toNat 48) 64
  match (off - 0x4C00) % 32 with
  | 0x00 => half false p
  | 0x04 => half true p
  | 0x08 => axisStatus a
  | 0x0C => (axisVelocity a ((sysHalf s : Rat) / 2)).toNat
  | 0x10 => (if x.val < 4 then a.line.val else 0) + 8 * b2n ((castAll s (·.axis)).any fun r => axCtx r == x.val)
  | 0x14 => a.qerrCount
  | _ => 0

/-- Code of a tile state (Table 02-4). -/
def tileCode : TileState → Nat
  | .off => 0 | .quiet => 1 | .live => 2 | .hold => 3 | .fallback => 4

/-- Latches of a channel as TILEt_LATCH shows them. -/
def latchBits (w : Sw) : Nat :=
  let cut := match w.cut with | some c => if c.latched then 1 else 8 | none => 0
  cut + 2 * b2n w.thermLatch + 4 * b2n w.clampLock

/-- TILE. -/
def readTile (s : State) (t : Fin 12) (off : Nat) : Nat :=
  let x := s.tile.get t
  let l := s.link.get t
  let r := (off - 0x5000) % 128
  let fill (p : Nat → Bool) : Nat := (x.pend.filter fun e => match e.kind with | .buf h _ => p h | _ => false).length
  if offIn 0x20 0x40 r then (match asFin 8 ((r - 0x20) / 4) with | some c => (cswOf s (chanAt t c)).toNat | none => 0)
  else match r with
    | 0x00 =>
      tileCode x.state + 8 * b2n (linkUp s t) + 16 * b2n l.fclk + 32 * b2n x.standby + 64 * b2n x.partnered + 128 * b2n x.lockLatch +
        256 * b2n x.supplyLow + 512 * b2n x.dieWarn
    | 0x04 => x.lpt % 65536
    | 0x08 => unsigned x.temp 16
    | 0x0C => fill (fun h => decide (h < 16)) % 256 + 256 * (fill (fun h => decide (16 ≤ h)) % 256) + 65536 * (x.evDrop % 65536)
    | 0x10 => min 65535 l.badFrames + 65536 * min 65535 l.silences
    | 0x14 => tileWindow s t / 1000 % 65536
    | 0x18 => ((List.finRange 8).map fun c => latchBits (s.chan.get (chanAt t c)).sw * 16 ^ c.val).foldl (· + ·) 0
    | _ => 0

/-- TRIM, without the pins. -/
def readTrim (s : State) : Nat :=
  match s.nvs.armed with
  | some a => 1 + 2 * a.k.val + 256 * b2n a.span + 512 * min 600 ((a.ends - s.now + sec 1 - 1) / sec 1)
  | none => 0

/-- SEC. -/
def readSec (s : State) (off : Nat) : Nat :=
  let k := s.sec
  let key (f : IKey → Bool) : Nat := ((List.finRange 4).map fun i => b2n (f (k.ikey.get i)) * 2 ^ i.val).foldl (· + ·) 0
  if off = 0x5C00 then
    key (·.digest.isSome) + 16 * key (·.revoked) + 256 * b2n k.fkRev.1 + 512 * b2n k.fkRev.2 + 1024 * b2n k.fieldLock + 2048 * b2n k.tokenOk +
      4096 * b2n s.plinth.intrusion + 8192 * b2n k.cmd.isSome + 16384 * b2n k.err + 65536 * (s.nvs.patch.otp % 64) + 2 ^ 24 * (s.nvs.studio.otp % 64)
  else if offIn 0x5D00 0x5D80 off then
    match asFin 4 ((off - 0x5D00) / 32) with
    | some i => match (k.ikey.get i).digest with | some d => u32 d ((off - 0x5D00) % 32) | none => 0
    | none => 0
  else 0

/-- TAGW: VALUE and CSW of a tag of the requester's page, as TAGREAD returns them (R574). -/
def readTagw (s : State) (page off : Nat) : Nat :=
  let idx := page * 4096 + (off - 0x8000) / 8
  if (tagRec s idx).isNone then 0
  else match lookupO s.ep.tags idx with
    | some r => if off % 8 = 0 then r.value.toNat else r.csw.toNat
    | none => if off % 8 = 0 then 0 else cswAbsent.toNat

/-- The word that an offset holds for a requester. -/
def regValue (s : State) (requester off : Nat) : Nat :=
  if !bar0Listed off then 0
  else if off = 0x0018 then pageOf s requester
  else if off < 0x0800 then readGlb s off
  else if off < 0x0C00 then readTime s off
  else if off < 0x1000 then readPel s off
  else if off < 0x2000 then readRing s off
  else if off < 0x2400 then readPair s off
  else if off < 0x2800 then readFlt s off
  else if off < 0x2C00 then readWdg s off
  else if off < 0x3000 then readNvs s off
  else if off < 0x4000 then readFlt s off
  else if off < 0x4400 then readRec s off
  else if off < 0x4500 then (match asFin 4 ((off - 0x4400) / 64) with | some n => readCu s n off | none => 0)
  else if off < 0x4C00 then readImg s off
  else if off < 0x5000 then (match asFin 8 ((off - 0x4C00) / 32) with | some x => readAxs s x off | none => 0)
  else if off < 0x5600 then (match asFin 12 ((off - 0x5000) / 128) with | some t => readTile s t off | none => 0)
  else if off = 0x5800 then readTrim s
  else if off < 0x6000 then readSec s off
  else readTagw s (pageOf s requester) off

/-- Fields whose value the spec leaves to the moment or to the integrator, or of a record that does not exist: the negotiated link, the trim pins, and
OLDEST and NEWEST without a record (log entry 3). -/
def openMask (s : State) (off : Nat) : Nat :=
  if off = 0x0400 then 0xF
  else if off = 0x5800 then 0x7000000
  else if (off = 0x4010 || off = 0x4014) && (recHeld s).isEmpty then 0xFFFFFFFF
  else 0

/-- The fields that the spec leaves open, filled with a free value. -/
def withOpen (off v : Nat) (s : State) : Nat × State :=
  let m := openMask s off
  if m = 0 then (v, s) else let (w, s1) := freeW s; (v + (w.toNat &&& m), s1)

/-- One 32-bit read (R559): a _LO read latches its high half for the requester; a _HI read takes the latched half, if one waits. -/
def regRead (requester off : Nat) (s : State) : Nat × State :=
  let s0 := if off = 0x0018 || offIn 0x8000 0x10000 off then usePage requester (pageOf s requester) s else s
  let rest := s0.host.hiLatch.filter fun x => !(x.1 == requester && x.2.1 == off)
  match s0.host.hiLatch.find? (fun x => x.1 == requester && x.2.1 == off) with
  | some x => (x.2.2.toNat, { s0 with host := { s0.host with hiLatch := rest } })
  | none =>
    let v := regValue s0 requester off + (if off = 0x0400 then 16 * b2n s0.host.d3 else 0)
    if pairLow off then
      let hi : Nat × Nat × Word := (requester, off + 4, BitVec.ofNat 32 (regValue s0 requester (off + 4)))
      let others := s0.host.hiLatch.filter fun x => !(x.1 == requester && x.2.1 == off + 4)
      (v, { s0 with host := { s0.host with hiLatch := hi :: others } })
    else withOpen off v s0

end Sys2Proof.Machine
end

