-- ==== Sys2Proof/Machine/Mgt.lean ====
section
/-! DEFINITION. The management proxy: MGT frames at the target and at the origin, and the descriptors that send them (R331, R359, R561, R576,
Table 10-12). -/

namespace Sys2Proof.Machine

open Sys2Proof

/-- An MGT payload. -/
def mgtBytes (op mstat mtag off count : Nat) (data : List Byte) : List Byte :=
  [BitVec.ofNat 8 op, BitVec.ofNat 8 mstat] ++ leBytes 2 mtag ++ leBytes 2 off ++ leBytes 2 count ++ data

/-- Fields of an MGT payload. -/
def mgOp (b : List Byte) : Nat := u8 b 0
def mgStat (b : List Byte) : Nat := u8 b 1
def mgTag (b : List Byte) : BitVec 16 := BitVec.ofNat 16 (u16 b 2)
def mgOff (b : List Byte) : Nat := u16 b 4
def mgCount (b : List Byte) : Nat := u16 b 6

/-! ## At the target -/

/-- The offsets of a request's words, in ascending order. -/
def mgWords (off count : Nat) : List Nat := (List.range count).map fun i => off + 4 * i

/-- The words of a request are aligned, listed, and 1 to 256 in number. -/
def mgReach (off count : Nat) : Bool := off % 4 = 0 && 1 ≤ count && count ≤ 256 && (mgWords off count).all bar0Listed

/-- PEL_CFG.MGTPOL admits a requester's writes; the device's own descriptors are no remote request (log entry 34). -/
def mgPolicy (s : State) (requester : Nat) : Bool :=
  requester == s.net.num || s.net.mgtPol == 1 || (s.net.mgtPol == 2 && s.net.mgtDev == requester)

/-- The SEC block and the tag window take no MGT write (R359). -/
def mgClosed (off count : Nat) : Bool := (mgWords off count).any fun o => offIn 0x5C00 0x6000 o || offIn 0x8000 0x10000 o

/-- MSTAT of a write: 1 REFUSED, 2 BADOFF. -/
def mgWriteStat (s : State) (requester off count : Nat) : Nat :=
  if !mgPolicy s requester || mgClosed off count then 1 else if mgReach off count then 0 else 2

/-- The words of a read, in ascending order, each read with its own effects. -/
def mgReadAll (requester : Nat) : List Nat → State → List Byte × State
  | [], s => ([], s)
  | o :: os, s =>
    let (v, s1) := regRead requester o s
    let (rest, s2) := mgReadAll requester os s1
    (leBytes 4 v ++ rest, s2)

/-- The words of a write, in ascending order. -/
def mgWriteAll (requester off count : Nat) (data : List Byte) (s : State) : State :=
  forEach (List.range count) (fun i s => regWrite requester (off + 4 * i) (u32 data (4 * i)) s) s

/-- A reply kept for repeats: the last 16 of each requester (R576). -/
def keepReply (src : Nat) (mtag : BitVec 16) (b : List Byte) (s : State) : State :=
  let mine := s.host.mgtReplies.filter fun x => x.1 == src
  let others := s.host.mgtReplies.filter fun x => x.1 != src
  { s with host := { s.host with mgtReplies := ((src, mtag, b) :: mine.take 15) ++ others } }

/-- The kept reply to a repeated request. -/
def oldReply (s : State) (src : Nat) (mtag : BitVec 16) : Option (List Byte) :=
  (s.host.mgtReplies.find? fun x => x.1 == src && x.2.1 == mtag).map (·.2.2)

/-- A reply sent and kept. -/
def mgReply (src : Nat) (b reply : List Byte) (s : State) : State := keepReply src (mgTag b) reply (uniSend 5 src reply s)

/-- A request answered from the kept reply, or by `f`. -/
def mgOnce (src : Nat) (b : List Byte) (f : State → State) (s : State) : State :=
  match oldReply s src (mgTag b) with
  | some r => uniSend 5 src r s
  | none => f s

/-- A reply with the request's own MTAG, OFFSET and COUNT. -/
def mgAnswer (b : List Byte) (mstat : Nat) (data : List Byte) : List Byte :=
  mgtBytes ((mgOp b ||| 0x80) % 256) mstat (u16 b 2) (mgOff b) (mgCount b) data

/-- A READ served; another OP than those of the table draws BADOP. -/
def mgServeRead (src : Nat) (b : List Byte) (s : State) : State :=
  if mgOp b != 1 then mgReply src b (mgAnswer b 3 []) s
  else if mgReach (mgOff b) (mgCount b) then
    let (data, s1) := mgReadAll src (mgWords (mgOff b) (mgCount b)) s
    mgReply src b (mgAnswer b 0 data) s1
  else mgReply src b (mgAnswer b 2 []) s

/-- A WRITE served: answered first, so that a write of DEVRST, or of the number, still draws its reply. -/
def mgServeWrite (src : Nat) (b : List Byte) (s : State) : State :=
  let st := mgWriteStat s src (mgOff b) (mgCount b)
  let s1 := mgReply src b (mgAnswer b st []) s
  match st with
  | 0 => mgWriteAll src (mgOff b) (mgCount b) (b.drop 8) s1
  | 1 => recordRefused (mgOff b) src s1
  | _ => s1

/-- MGT_FRAME_READ: also the row of a reserved OP. -/
def execMgtFrameRead (t : Time) (src : Nat) (bytes : List Byte) (s : State) : Out :=
  let s := s.at_ t
  let op := mgOp bytes
  when (netUp s && decide (8 ≤ bytes.length) && (op == 1 || !([2, 3, 0x81, 0x82, 0x83].contains op))) (mgOnce src bytes (mgServeRead src bytes)) s

/-- MGT_FRAME_WRITE. -/
def execMgtFrameWrite (t : Time) (src : Nat) (bytes : List Byte) (s : State) : Out :=
  let s := s.at_ t
  when (netUp s && mgOp bytes == 2 && bytes.length == 8 + 4 * mgCount bytes) (mgOnce src bytes (mgServeWrite src bytes)) s

/-- A reply to SETNUM, on both segment ports; an unnumbered device sends it under SRC 0 (R331). In LISTEN and DUPNUM the device sends no reply
(R332, Table 10-7). -/
def setnumReply (dst : Nat) (b : List Byte) (s : State) : State :=
  if s.net.state != 1 && s.net.state != 3 then s else
  let src := if s.net.numValid then s.net.num else 0
  let (q, s1) := takeFseq false s
  [0, 1].foldl (fun s p => portSend p (frameBytes 5 scopeUni 32 dst src q b) s) s1

/-- SETNUM naming the own serial number: answered, then the number is taken. -/
def serveSetnum (src : Nat) (b : List Byte) (s : State) : State :=
  match oldReply s src (mgTag b) with
  | some r => setnumReply src r s
  | none =>
    let r := mgAnswer b 0 []
    setNumber (bits (u16 b 16) 0 10) true (keepReply src (mgTag b) r (setnumReply src r s))

/-- MGT_FRAME_SETNUM. -/
def execMgtFrameSetnum (t : Time) (src : Nat) (bytes : List Byte) (s : State) : Out :=
  let s := s.at_ t
  when (hubUp s && s.net.state != 0 && mgOp bytes == 3 && bytes.length == 18 && u64 bytes 8 == s.nvs.store.serial.toNat) (serveSetnum src bytes) s

/-! ## At the origin -/

/-- An MGT frame sent: to its target, or in the segment for SETNUM, whose target is 1,024 here. -/
def mgSend (target : Nat) (b : List Byte) (s : State) : State :=
  if target = 1024 then castSend 5 scopeSeg false b s else uniSend 5 target b s

/-- A request sent under the next MTAG. -/
def mgRequest (w : Work) (target op off count : Nat) (data : List Byte) (s : State) : State :=
  let tag := s.host.nextMtag
  let b := mgtBytes op 0 tag.toNat off count data
  mgSend target b { s with host := { s.host with
    nextMtag := tag + 1
    mgts := s.host.mgts ++ [{ mtag := tag, w := w.ref, target := target, frame := b, sent := s.now, resends := 0 }] } }

/-- The end of an MGT descriptor with its MSTAT, executed by a device; the words of a good read go to RADDR, and a refused write is REJECTED_AUTH
(R416, Table 12-9). -/
def mgFinish (dev flags op : Nat) (w : WorkRef) (mstat : Nat) (data : List Byte) (s : State) : State :=
  if op = 1 && mstat = 0 then dataFrom dev flags w 0 data s
  else if op = 2 && mstat = 1 then finishFrom dev flags w 0x13 0 mstat 0 0 [] s
  else finishFrom dev flags w 0 s.ep.e mstat 0 0 [] s

/-- A read of the attached device itself. -/
def mgSelfRead (w : Work) (off count : Nat) (s : State) : State :=
  if mgReach off count then
    let (data, s1) := mgReadAll s.net.num (mgWords off count) s
    mgFinish s.net.num 0 1 w.ref 0 data s1
  else mgFinish s.net.num 0 1 w.ref 2 [] s

/-- A write of the attached device itself. -/
def mgSelfWrite (w : Work) (off count : Nat) (data : List Byte) (s : State) : State :=
  let n := s.net.num
  let st := mgWriteStat s n off count
  let s1 := mgFinish n 0 2 w.ref st [] s
  match st with
  | 0 => mgWriteAll n off count data s1
  | 1 => recordRefused off n s1
  | _ => s1

/-- A request to a device: TIMEOUT where it is not heard. -/
def mgRemote (w : Work) (d op off count : Nat) (data : List Byte) (s : State) : State :=
  if heard s d then mgRequest w d op off count data s else finishWith w.ref 0x21 0 0 0 0 [] s

/-- MGTREAD. -/
def execMgtread (t : Time) (w : WorkRef) (s : State) : Out :=
  onWork w 0x0800 (fun w s =>
    let off := u16 w.bytes 32
    let n := u16 w.bytes 34
    match place s w.bytes with
    | .remote d => mgRemote w d 1 off n [] s
    | _ => mgSelfRead w off n s) (s.at_ t)

/-- The data of an MGTWRITE. -/
def mgData (w : Work) : List Byte := if dInd w.bytes then w.payload else slice w.bytes 48 (4 * u16 w.bytes 34)

/-- MGTWRITE. -/
def execMgtwrite (t : Time) (w : WorkRef) (s : State) : Out :=
  onWork w 0x0801 (fun w s =>
    let off := u16 w.bytes 32
    let n := u16 w.bytes 34
    match place s w.bytes with
    | .remote d => mgRemote w d 2 off n (mgData w) s
    | _ => mgSelfWrite w off n (mgData w) s) (s.at_ t)

/-- SETNUM: the attached device takes the number itself where the serial is its own; otherwise the frame goes round its segment. -/
def execSetnum (t : Time) (w : WorkRef) (s : State) : Out :=
  onWork w 0x0802 (fun w s =>
    let num := bits (u16 w.bytes 40) 0 10
    if u64 w.bytes 32 = s.nvs.store.serial.toNat then setNumber num true (finishDone w.ref 0 s)
    else mgRequest w 1024 3 0 0 (slice w.bytes 32 8 ++ leBytes 2 num) s) (s.at_ t)

/-- MGT_REPLY: MTAG names the request; the completion is REMOTE and names the device that answers (R416). -/
def execMgtReply (t : Time) (src : Nat) (bytes : List Byte) (s : State) : Out :=
  let s := s.at_ t
  match s.host.mgts.find? (fun m => m.mtag == mgTag bytes) with
  | none => noEffect s
  | some m =>
    let op := mgOp m.frame
    let data := bytes.drop 8
    let whole := op != 1 || mgStat bytes != 0 || data.length == 4 * mgCount m.frame
    when (hubUp s && mgOp bytes == op + 0x80 && whole)
      (fun s => mgFinish src 4 op m.w (mgStat bytes) data { s with host := { s.host with mgts := s.host.mgts.erase m } }) s

/-- MGT_RESEND: after 2 ms without a reply, three times; then TIMEOUT. -/
def execMgtResend (t : Time) (mtag : BitVec 16) (s : State) : Out :=
  let s := s.at_ t
  match s.host.mgts.find? (fun m => m.mtag == mtag) with
  | none => noEffect s
  | some m =>
    when (hubUp s && decide (m.sent + ms 2 ≤ s.now))
      (fun s =>
        if 3 ≤ m.resends then finishWith m.w 0x21 0 0 0 0 [] { s with host := { s.host with mgts := s.host.mgts.erase m } }
        else
          let again (x : MgtOut) : MgtOut := if x == m then { x with sent := s.now, resends := x.resends + 1 } else x
          mgSend m.target m.frame { s with host := { s.host with mgts := s.host.mgts.map again } }) s

end Sys2Proof.Machine
end

