-- ==== Sys2Proof/Machine/Dispatch.lean ====
section
/-! DEFINITION. One arm per command of the opcode table, in its order. -/

namespace Sys2Proof.Machine

open Sys2Proof

/-- The effect of a command on everything but the queue. -/
def exec (i : Instr) (s : State) : Host.Outcome State Fault Refusal :=
  match i with
  | .tileSupplyLow t tile lpt => Sys2Proof.Machine.execTileSupplyLow t tile lpt s
  | .tileSupplyGood t tile lpt held => Sys2Proof.Machine.execTileSupplyGood t tile lpt held s
  | .brownout t tile lpt => Sys2Proof.Machine.execBrownout t tile lpt s
  | .rideThroughEnd t tile lpt => Sys2Proof.Machine.execRideThroughEnd t tile lpt s
  | .tileStop t tile lpt => Sys2Proof.Machine.execTileStop t tile lpt s
  | .tileStart t tile lpt held => Sys2Proof.Machine.execTileStart t tile lpt held s
  | .diewarn t tile temp => Sys2Proof.Machine.execDiewarn t tile temp s
  | .tileDownstreamFrame t tile ok dev bytes item => Sys2Proof.Machine.execTileDownstreamFrame t tile ok dev bytes item s
  | .hubUpstreamFrame t tile ok dev bytes rep => Sys2Proof.Machine.execHubUpstreamFrame t tile ok dev bytes rep s
  | .comparatorFlash t tile d0 d1 => Sys2Proof.Machine.execComparatorFlash t tile d0 d1 s
  | .hubReflexFlash t tile d0 d1 => Sys2Proof.Machine.execHubReflexFlash t tile d0 d1 s
  | .noticeFlash t tile d0 d1 => Sys2Proof.Machine.execNoticeFlash t tile d0 d1 s
  | .tileLinkSilent t tile => Sys2Proof.Machine.execTileLinkSilent t tile s
  | .hubLinkSilent t tile => Sys2Proof.Machine.execHubLinkSilent t tile s
  | .hubLinkResume t tile => Sys2Proof.Machine.execHubLinkResume t tile s
  | .linkGood t tile up => Sys2Proof.Machine.execLinkGood t tile up s
  | .fclkLock t tile => Sys2Proof.Machine.execFclkLock t tile s
  | .holdwinExpiry t k => Sys2Proof.Machine.execHoldwinExpiry t k s
  | .tileRestore t tile => Sys2Proof.Machine.execTileRestore t tile s
  | .tcmdNop t tile slot c handle stamp value => Sys2Proof.Machine.execTcmdNop t tile slot c handle stamp value s
  | .tcmdSet t tile slot c handle stamp value => Sys2Proof.Machine.execTcmdSet t tile slot c handle stamp value s
  | .tcmdDuty t tile slot c handle stamp value => Sys2Proof.Machine.execTcmdDuty t tile slot c handle stamp value s
  | .tcmdReplace t tile slot c handle stamp value => Sys2Proof.Machine.execTcmdReplace t tile slot c handle stamp value s
  | .tcmdCancel t tile slot c handle stamp value => Sys2Proof.Machine.execTcmdCancel t tile slot c handle stamp value s
  | .tcmdRelease t tile slot c handle stamp value => Sys2Proof.Machine.execTcmdRelease t tile slot c handle stamp value s
  | .tcmdReservedOp t tile slot c op handle stamp value => Sys2Proof.Machine.execTcmdReservedOp t tile slot c op handle stamp value s
  | .tcmdExecute t tile stamp => Sys2Proof.Machine.execTcmdExecute t tile stamp s
  | .tackReport t tile c handle code ticks slot => Sys2Proof.Machine.execTackReport t tile c handle code ticks slot s
  | .mgtRestoreAck t tile c => Sys2Proof.Machine.execMgtRestoreAck t tile c s
  | .mgtPartitionReset t tile slot => Sys2Proof.Machine.execMgtPartitionReset t tile slot s
  | .mgtConfigCommit t tile => Sys2Proof.Machine.execMgtConfigCommit t tile s
  | .roleChange t tile standby partnered stamp => Sys2Proof.Machine.execRoleChange t tile standby partnered stamp s
  | .roleChangeApply t stamp => Sys2Proof.Machine.execRoleChangeApply t stamp s
  | .tileLock t tile => Sys2Proof.Machine.execTileLock t tile s
  | .comparatorDecision t k cmpB value => Sys2Proof.Machine.execComparatorDecision t k cmpB value s
  | .tileReflexQualExpiry t tile entry => Sys2Proof.Machine.execTileReflexQualExpiry t tile entry s
  | .fastSenseConversion t tile code => Sys2Proof.Machine.execFastSenseConversion t tile code s
  | .adcConversion t k x aux => Sys2Proof.Machine.execAdcConversion t k x aux s
  | .complSet t k headroom held => Sys2Proof.Machine.execComplSet t k headroom held s
  | .complClear t k headroom held => Sys2Proof.Machine.execComplClear t k headroom held s
  | .complactLowReturn t k predicted held => Sys2Proof.Machine.execComplactLowReturn t k predicted held s
  | .sinkOpen t k burden held => Sys2Proof.Machine.execSinkOpen t k burden held s
  | .sinkRetry t k => Sys2Proof.Machine.execSinkRetry t k s
  | .trimPress t span both trdHigh held => Sys2Proof.Machine.execTrimPress t span both trdHigh held s
  | .trimPressRepeat t held => Sys2Proof.Machine.execTrimPressRepeat t held s
  | .trimTimeout t => Sys2Proof.Machine.execTrimTimeout t s
  | .hartReplyReceived t k bytes perr => Sys2Proof.Machine.execHartReplyReceived t k bytes perr s
  | .hartTreplyExpiry t k => Sys2Proof.Machine.execHartTreplyExpiry t k s
  | .hartBudgetExpiry t k => Sys2Proof.Machine.execHartBudgetExpiry t k s
  | .hartLoopSilence t k => Sys2Proof.Machine.execHartLoopSilence t k s
  | .hartBurstFrame t k bytes perr => Sys2Proof.Machine.execHartBurstFrame t k bytes perr s
  | .hartStale t item => Sys2Proof.Machine.execHartStale t item s
  | .hartModemStart t k bytes => Sys2Proof.Machine.execHartModemStart t k bytes s
  | .hartModemEnd t k bytes => Sys2Proof.Machine.execHartModemEnd t k bytes s
  | .hartModemAbort t k => Sys2Proof.Machine.execHartModemAbort t k s
  | .hartRxByte t k byte perr eom => Sys2Proof.Machine.execHartRxByte t k byte perr eom s
  | .hartQtimeExpiry t w => Sys2Proof.Machine.execHartQtimeExpiry t w s
  | .hartStartedDurable t w => Sys2Proof.Machine.execHartStartedDurable t w s
  | .inputRawChange t k x => Sys2Proof.Machine.execInputRawChange t k x s
  | .edgeAccept t k => Sys2Proof.Machine.execEdgeAccept t k s
  | .divminLow t tile lpt => Sys2Proof.Machine.execDivminLow t tile lpt s
  | .divminRecover t tile lpt held => Sys2Proof.Machine.execDivminRecover t tile lpt held s
  | .namLineFault t k current held => Sys2Proof.Machine.execNamLineFault t k current held s
  | .namLineFaultClear t k current held => Sys2Proof.Machine.execNamLineFaultClear t k current held s
  | .pwmPeriodStart t k => Sys2Proof.Machine.execPwmPeriodStart t k s
  | .pwmOnTimeEnd t k => Sys2Proof.Machine.execPwmOnTimeEnd t k s
  | .trainPulse t k => Sys2Proof.Machine.execTrainPulse t k s
  | .currentLimit t k current => Sys2Proof.Machine.execCurrentLimit t k current s
  | .shortVerdict t k v held => Sys2Proof.Machine.execShortVerdict t k v held s
  | .overloadVerdict t k v held => Sys2Proof.Machine.execOverloadVerdict t k v held s
  | .retrytExpiry t k => Sys2Proof.Machine.execRetrytExpiry t k s
  | .thermalShutdown t k temp => Sys2Proof.Machine.execThermalShutdown t k temp s
  | .thermalCooled t k temp => Sys2Proof.Machine.execThermalCooled t k temp s
  | .valveTpeakEnd t k => Sys2Proof.Machine.execValveTpeakEnd t k s
  | .capRampEnd t k v => Sys2Proof.Machine.execCapRampEnd t k v s
  | .clampEventEnd t k energy => Sys2Proof.Machine.execClampEventEnd t k energy s
  | .clampEnergyLimit t k energy => Sys2Proof.Machine.execClampEnergyLimit t k energy s
  | .clampBinRoll t tile => Sys2Proof.Machine.execClampBinRoll t tile s
  | .tileTrip t tile currents held => Sys2Proof.Machine.execTileTrip t tile currents held s
  | .sselCodeTaken t tile code held => Sys2Proof.Machine.execSselCodeTaken t tile code held s
  | .mirrorCheck t tile mirror sense => Sys2Proof.Machine.execMirrorCheck t tile mirror sense s
  | .verdictQualified t k c set held => Sys2Proof.Machine.execVerdictQualified t k c set held s
  | .openLoadOn t k counted maxCurrent => Sys2Proof.Machine.execOpenLoadOn t k counted maxCurrent s
  | .verdictRecord t k => Sys2Proof.Machine.execVerdictRecord t k s
  | .diagSlotStart t slot => Sys2Proof.Machine.execDiagSlotStart t slot s
  | .diagSlotEnd t slot v1 v2 => Sys2Proof.Machine.execDiagSlotEnd t slot v1 v2 s
  | .diagWindowAbort t slot => Sys2Proof.Machine.execDiagWindowAbort t slot s
  | .partestTransition t slot a followers => Sys2Proof.Machine.execPartestTransition t slot a followers s
  | .isoMeasurementEnd t slot meas => Sys2Proof.Machine.execIsoMeasurementEnd t slot meas s
  | .insulationHourly t => Sys2Proof.Machine.execInsulationHourly t s
  | .edgecalMeasurement t k on ticks level1 => Sys2Proof.Machine.execEdgecalMeasurement t k on ticks level1 s
  | .axisTick t => Sys2Proof.Machine.execAxisTick t s
  | .encoderEdge t x a b => Sys2Proof.Machine.execEncoderEdge t x a b s
  | .zEdge t z => Sys2Proof.Machine.execZEdge t z s
  | .encoderLineFault t x line held => Sys2Proof.Machine.execEncoderLineFault t x line held s
  | .lostClear t x a b held => Sys2Proof.Machine.execLostClear t x a b held s
  | .axsFrameReceived t src bytes => Sys2Proof.Machine.execAxsFrameReceived t src bytes s
  | .axsSilence t x => Sys2Proof.Machine.execAxsSilence t x s
  | .timeLaneIssue t lane => Sys2Proof.Machine.execTimeLaneIssue t lane s
  | .trdmaxExpiry t x => Sys2Proof.Machine.execTrdmaxExpiry t x s
  | .hubReflexQualExpiry t entry => Sys2Proof.Machine.execHubReflexQualExpiry t entry s
  | .loopSample t block => Sys2Proof.Machine.execLoopSample t block s
  | .totaliserIncrement t n => Sys2Proof.Machine.execTotaliserIncrement t n s
  | .epochBoundary t => Sys2Proof.Machine.execEpochBoundary t s
  | .commitSetClose t => Sys2Proof.Machine.execCommitSetClose t s
  | .commitLoad t => Sys2Proof.Machine.execCommitLoad t s
  | .tokFrame t bytes => Sys2Proof.Machine.execTokFrame t bytes s
  | .tokVerdict t src bytes => Sys2Proof.Machine.execTokVerdict t src bytes s
  | .tokenDeadline t => Sys2Proof.Machine.execTokenDeadline t s
  | .epochJoin t => Sys2Proof.Machine.execEpochJoin t s
  | .imgFrameReceived t src bytes => Sys2Proof.Machine.execImgFrameReceived t src bytes s
  | .cutDeadline t iq => Sys2Proof.Machine.execCutDeadline t iq s
  | .memberDepart t group member => Sys2Proof.Machine.execMemberDepart t group member s
  | .portUp t port held => Sys2Proof.Machine.execPortUp t port held s
  | .portDown t port => Sys2Proof.Machine.execPortDown t port s
  | .pelrunFrame t port bytes fin => Sys2Proof.Machine.execPelrunFrame t port bytes fin s
  | .sourceForgotten t src => Sys2Proof.Machine.execSourceForgotten t src s
  | .timSend t => Sys2Proof.Machine.execTimSend t s
  | .timReceived t port src bytes => Sys2Proof.Machine.execTimReceived t port src bytes s
  | .upstreamLoss t => Sys2Proof.Machine.execUpstreamLoss t s
  | .noUpstreamUnlock t => Sys2Proof.Machine.execNoUpstreamUnlock t s
  | .candidateForgotten t port => Sys2Proof.Machine.execCandidateForgotten t port s
  | .prioRestore t => Sys2Proof.Machine.execPrioRestore t s
  | .hbtSend t => Sys2Proof.Machine.execHbtSend t s
  | .hbtReceived t src bytes => Sys2Proof.Machine.execHbtReceived t src bytes s
  | .listenEnd t => Sys2Proof.Machine.execListenEnd t s
  | .allPortsDown t => Sys2Proof.Machine.execAllPortsDown t s
  | .imgSend t => Sys2Proof.Machine.execImgSend t s
  | .reqReceived t src bytes => Sys2Proof.Machine.execReqReceived t src bytes s
  | .reqHoldExpiry t src ring seq => Sys2Proof.Machine.execReqHoldExpiry t src ring seq s
  | .rspReceived t src bytes => Sys2Proof.Machine.execRspReceived t src bytes s
  | .reqResend t ring seq => Sys2Proof.Machine.execReqResend t ring seq s
  | .mgtFrameRead t src bytes => Sys2Proof.Machine.execMgtFrameRead t src bytes s
  | .mgtFrameWrite t src bytes => Sys2Proof.Machine.execMgtFrameWrite t src bytes s
  | .mgtFrameSetnum t src bytes => Sys2Proof.Machine.execMgtFrameSetnum t src bytes s
  | .mgtReply t src bytes => Sys2Proof.Machine.execMgtReply t src bytes s
  | .mgtResend t mtag => Sys2Proof.Machine.execMgtResend t mtag s
  | .shdSend t => Sys2Proof.Machine.execShdSend t s
  | .shdReceived t bytes => Sys2Proof.Machine.execShdReceived t bytes s
  | .orphwaitExpiry t => Sys2Proof.Machine.execOrphwaitExpiry t s
  | .armedLinkLoss t => Sys2Proof.Machine.execArmedLinkLoss t s
  | .partneredLinkLoss t => Sys2Proof.Machine.execPartneredLinkLoss t s
  | .jnlEntry t joff bytes => Sys2Proof.Machine.execJnlEntry t joff bytes s
  | .jnlState t bytes => Sys2Proof.Machine.execJnlState t bytes s
  | .jnlImage t off bytes last => Sys2Proof.Machine.execJnlImage t off bytes last s
  | .jnlFwd t bytes => Sys2Proof.Machine.execJnlFwd t bytes s
  | .jnlCpl t bytes => Sys2Proof.Machine.execJnlCpl t bytes s
  | .cchCouchset t epoch seat => Sys2Proof.Machine.execCchCouchset t epoch seat s
  | .cchCouchgo t epoch stamp => Sys2Proof.Machine.execCchCouchgo t epoch stamp s
  | .couchStep t => Sys2Proof.Machine.execCouchStep t s
  | .cchCouchend t epoch => Sys2Proof.Machine.execCchCouchend t epoch s
  | .cchCouchabort t epoch => Sys2Proof.Machine.execCchCouchabort t epoch s
  | .cchYield t epoch stamp reason => Sys2Proof.Machine.execCchYield t epoch stamp reason s
  | .cchTaken t epoch stamp => Sys2Proof.Machine.execCchTaken t epoch stamp s
  | .witnessAssert t equal still field => Sys2Proof.Machine.execWitnessAssert t equal still field s
  | .crTailDoorbell t n off size value => Sys2Proof.Machine.execCrTailDoorbell t n off size value s
  | .cqHeadUpdate t n off size value => Sys2Proof.Machine.execCqHeadUpdate t n off size value s
  | .iqHeadUpdate t n off size value => Sys2Proof.Machine.execIqHeadUpdate t n off size value s
  | .eq0HeadUpdate t n off size value => Sys2Proof.Machine.execEq0HeadUpdate t n off size value s
  | .wdhHeartbeat t n off size value => Sys2Proof.Machine.execWdhHeartbeat t n off size value s
  | .crEnable t n => Sys2Proof.Machine.execCrEnable t n s
  | .crDisable t n => Sys2Proof.Machine.execCrDisable t n s
  | .drainComplete t n => Sys2Proof.Machine.execDrainComplete t n s
  | .ringError t n kind => Sys2Proof.Machine.execRingError t n kind s
  | .forget t n => Sys2Proof.Machine.execForget t n s
  | .cqEnable t n on => Sys2Proof.Machine.execCqEnable t n on s
  | .iqEnable t n readOk tags => Sys2Proof.Machine.execIqEnable t n readOk tags s
  | .eq0Enable t on => Sys2Proof.Machine.execEq0Enable t on s
  | .descriptorFetch t ring bytes payload rd => Sys2Proof.Machine.execDescriptorFetch t ring bytes payload rd s
  | .storeAccept t w => Sys2Proof.Machine.execStoreAccept t w s
  | .completionPost t cq => Sys2Proof.Machine.execCompletionPost t cq s
  | .cqModerationTimer t cq => Sys2Proof.Machine.execCqModerationTimer t cq s
  | .fenceRelease t w => Sys2Proof.Machine.execFenceRelease t w s
  | .nop t w => Sys2Proof.Machine.execNop t w s
  | .fence t w => Sys2Proof.Machine.execFence t w s
  | .tagwrite t w => Sys2Proof.Machine.execTagwrite t w s
  | .tagwriten t w => Sys2Proof.Machine.execTagwriten t w s
  | .tagread t w => Sys2Proof.Machine.execTagread t w s
  | .restoreack t w => Sys2Proof.Machine.execRestoreack t w s
  | .harttx t w => Sys2Proof.Machine.execHarttx t w s
  | .imgload t w => Sys2Proof.Machine.execImgload t w s
  | .imgstage t w => Sys2Proof.Machine.execImgstage t w s
  | .stagingEnd t => Sys2Proof.Machine.execStagingEnd t s
  | .imgrehearse t w => Sys2Proof.Machine.execImgrehearse t w s
  | .rehearsalEnd t counts => Sys2Proof.Machine.execRehearsalEnd t counts s
  | .imgactivate t w => Sys2Proof.Machine.execImgactivate t w s
  | .shadowBankLoaded t tile => Sys2Proof.Machine.execShadowBankLoaded t tile s
  | .roleRecordWritten t => Sys2Proof.Machine.execRoleRecordWritten t s
  | .imgrevert t w => Sys2Proof.Machine.execImgrevert t w s
  | .imgdiscard t w => Sys2Proof.Machine.execImgdiscard t w s
  | .trimarm t w => Sys2Proof.Machine.execTrimarm t w s
  | .trimdisarm t w => Sys2Proof.Machine.execTrimdisarm t w s
  | .trimclear t w => Sys2Proof.Machine.execTrimclear t w s
  | .override t w => Sys2Proof.Machine.execOverride t w s
  | .ovrelease t w => Sys2Proof.Machine.execOvrelease t w s
  | .release t w => Sys2Proof.Machine.execRelease t w s
  | .test t w => Sys2Proof.Machine.execTest t w s
  | .reflexrel t w => Sys2Proof.Machine.execReflexrel t w s
  | .recread t w => Sys2Proof.Machine.execRecread t w s
  | .recnote t w => Sys2Proof.Machine.execRecnote t w s
  | .cujob t w => Sys2Proof.Machine.execCujob t w s
  | .couch t w => Sys2Proof.Machine.execCouch t w s
  | .seize t w => Sys2Proof.Machine.execSeize t w s
  | .yield t w => Sys2Proof.Machine.execYield t w s
  | .mgtread t w => Sys2Proof.Machine.execMgtread t w s
  | .mgtwrite t w => Sys2Proof.Machine.execMgtwrite t w s
  | .setnum t w => Sys2Proof.Machine.execSetnum t w s
  | .faultEvent t srcs inj => Sys2Proof.Machine.execFaultEvent t srcs inj s
  | .wireFault t src inj => Sys2Proof.Machine.execWireFault t src inj s
  | .blockRecovery t src back => Sys2Proof.Machine.execBlockRecovery t src back s
  | .trapAckTimeout t src => Sys2Proof.Machine.execTrapAckTimeout t src s
  | .c4PendAutoClear t src => Sys2Proof.Machine.execC4PendAutoClear t src s
  | .pendClear t src => Sys2Proof.Machine.execPendClear t src s
  | .fltConfigRequest t src field value => Sys2Proof.Machine.execFltConfigRequest t src field value s
  | .injWrite t src value => Sys2Proof.Machine.execInjWrite t src value s
  | .clockMonitor t count => Sys2Proof.Machine.execClockMonitor t count s
  | .kclkCheck t period => Sys2Proof.Machine.execKclkCheck t period s
  | .cclkPllLock t => Sys2Proof.Machine.execCclkPllLock t s
  | .wdaKey t key byHost => Sys2Proof.Machine.execWdaKey t key byHost s
  | .wdaExpire t => Sys2Proof.Machine.execWdaExpire t s
  | .wdhExpire t => Sys2Proof.Machine.execWdhExpire t s
  | .resetPin t pin held => Sys2Proof.Machine.execResetPin t pin held s
  | .devrst t => Sys2Proof.Machine.execDevrst t s
  | .hubResetRelease t => Sys2Proof.Machine.execHubResetRelease t s
  | .vlogGood t vhold held => Sys2Proof.Machine.execVlogGood t vhold held s
  | .porRelease t straps => Sys2Proof.Machine.execPorRelease t straps s
  | .powerFail t vhold => Sys2Proof.Machine.execPowerFail t vhold s
  | .flushDone t => Sys2Proof.Machine.execFlushDone t s
  | .flushFloor t vhold => Sys2Proof.Machine.execFlushFloor t vhold s
  | .plinthLoss t vkeep => Sys2Proof.Machine.execPlinthLoss t vkeep s
  | .holdupTest t vhold => Sys2Proof.Machine.execHoldupTest t vhold s
  | .holdupTestEnd t current dt fell => Sys2Proof.Machine.execHoldupTestEnd t current dt fell s
  | .tsetUpdate t => Sys2Proof.Machine.execTsetUpdate t s
  | .intrusion t => Sys2Proof.Machine.execIntrusion t s
  | .gateJournal t w => Sys2Proof.Machine.execGateJournal t w s
  | .gateModemset t k opened => Sys2Proof.Machine.execGateModemset t k opened s
  | .gateStage t begins cls => Sys2Proof.Machine.execGateStage t begins cls s
  | .gateStorerec t n => Sys2Proof.Machine.execGateStorerec t n s
  | .gateFltreq t req => Sys2Proof.Machine.execGateFltreq t req s
  | .gatePatinard t area index => Sys2Proof.Machine.execGatePatinard t area index s
  | .gateStarted t w => Sys2Proof.Machine.execGateStarted t w s
  | .fwGo t => Sys2Proof.Machine.execFwGo t s
  | .fwOpen t => Sys2Proof.Machine.execFwOpen t s
  | .fwChunk t word => Sys2Proof.Machine.execFwChunk t word s
  | .fwLoadEnd t image readOk => Sys2Proof.Machine.execFwLoadEnd t image readOk s
  | .fwApply t => Sys2Proof.Machine.execFwApply t s
  | .goodMark t studio => Sys2Proof.Machine.execGoodMark t studio s
  | .storeEraseDone t block failed => Sys2Proof.Machine.execStoreEraseDone t block failed s
  | .storeWriteDone t failed => Sys2Proof.Machine.execStoreWriteDone t failed s
  | .patinaWrite t => Sys2Proof.Machine.execPatinaWrite t s
  | .storewear t => Sys2Proof.Machine.execStorewear t s
  | .recEventTake t => Sys2Proof.Machine.execRecEventTake t s
  | .recordSealTime t => Sys2Proof.Machine.execRecordSealTime t s
  | .recorderStall t => Sys2Proof.Machine.execRecorderStall t s
  | .thriftEvaluation t rate24 bytes24 rate1 bytes1 => Sys2Proof.Machine.execThriftEvaluation t rate24 bytes24 rate1 bytes1 s
  | .eq0Deliver t => Sys2Proof.Machine.execEq0Deliver t s
  | .recRdseqWrite t seq => Sys2Proof.Machine.execRecRdseqWrite t seq s
  | .cuStart t n => Sys2Proof.Machine.execCuStart t n s
  | .cuData t n word => Sys2Proof.Machine.execCuData t n word s
  | .cuLast t n nbytes word => Sys2Proof.Machine.execCuLast t n nbytes word s
  | .cuAbort t n => Sys2Proof.Machine.execCuAbort t n s
  | .timeSubmit t => Sys2Proof.Machine.execTimeSubmit t s
  | .timeCmdStep t => Sys2Proof.Machine.execTimeCmdStep t s
  | .pelNumWrite t value => Sys2Proof.Machine.execPelNumWrite t value s
  | .pelCouplerWrite t coupler => Sys2Proof.Machine.execPelCouplerWrite t coupler s
  | .nvsRdselWrite t value => Sys2Proof.Machine.execNvsRdselWrite t value s
  | .secProgram t slot confirm => Sys2Proof.Machine.execSecProgram t slot confirm s
  | .secRevoke t slot confirm => Sys2Proof.Machine.execSecRevoke t slot confirm s
  | .secToken t confirm => Sys2Proof.Machine.execSecToken t confirm s
  | .secClrintr t confirm => Sys2Proof.Machine.execSecClrintr t confirm s
  | .registerWrite t off size value requester => Sys2Proof.Machine.execRegisterWrite t off size value requester s
  | .studioRunning t => Sys2Proof.Machine.execStudioRunning t s
  | .trapHandlerEnd t src => Sys2Proof.Machine.execTrapHandlerEnd t src s
  | .hartTxdone t k => Sys2Proof.Machine.execHartTxdone t k s
  | .couchHartWindowEnd t => Sys2Proof.Machine.execCouchHartWindowEnd t s
  | .yieldHoldoffEnd t => Sys2Proof.Machine.execYieldHoldoffEnd t s
  | .tileLinkMastersStop t => Sys2Proof.Machine.execTileLinkMastersStop t s
  | .clampStageReenable t k term held => Sys2Proof.Machine.execClampStageReenable t k term held s
  | .currentBelowCeiling t k => Sys2Proof.Machine.execCurrentBelowCeiling t k s
  | .analogCurrentLimit t k limiting => Sys2Proof.Machine.execAnalogCurrentLimit t k limiting s
  | .namurLptBelow10v t tile lpt => Sys2Proof.Machine.execNamurLptBelow10v t tile lpt s
  | .neverOffHourlyRecord t k => Sys2Proof.Machine.execNeverOffHourlyRecord t k s
  | .recRdwinLoaded t => Sys2Proof.Machine.execRecRdwinLoaded t s
  | .nvsRdwinLoaded t => Sys2Proof.Machine.execNvsRdwinLoaded t s
  | .secCmdDone t => Sys2Proof.Machine.execSecCmdDone t s
  | .cujobDone t n => Sys2Proof.Machine.execCujobDone t n s

end Sys2Proof.Machine
end

