-- ==== Sys2Proof/Machine/Tap.lean ====
section
/-! DEFINITION. The test access port (R591). The command table has no row for its clock, so its input waits in State and a step on an empty queue
takes one piece of it (log entry 147). -/

namespace Sys2Proof.Machine

open Sys2Proof

/-- The bits of a number, least significant first. -/
def bitsOf (n v : Nat) : List Bool := (List.range n).map v.testBit

/-- The IDCODE register. -/
def tapId : List Bool := bitsOf 32 0x20096B6B

/-- The controller's next state under TMS (IEEE 1149.1). -/
def tapNext (c : TapCtl) (tms : Bool) : TapCtl :=
  match c, tms with
  | .testReset, true => .testReset
  | .testReset, false => .idle
  | .idle, true => .selectDr
  | .idle, false => .idle
  | .selectDr, true => .selectIr
  | .selectDr, false => .captureDr
  | .captureDr, true => .exit1Dr
  | .captureDr, false => .shiftDr
  | .shiftDr, true => .exit1Dr
  | .shiftDr, false => .shiftDr
  | .exit1Dr, true => .updateDr
  | .exit1Dr, false => .pauseDr
  | .pauseDr, true => .exit2Dr
  | .pauseDr, false => .pauseDr
  | .exit2Dr, true => .updateDr
  | .exit2Dr, false => .shiftDr
  | .updateDr, true => .selectDr
  | .updateDr, false => .idle
  | .selectIr, true => .testReset
  | .selectIr, false => .captureIr
  | .captureIr, true => .exit1Ir
  | .captureIr, false => .shiftIr
  | .shiftIr, true => .exit1Ir
  | .shiftIr, false => .shiftIr
  | .exit1Ir, true => .updateIr
  | .exit1Ir, false => .pauseIr
  | .pauseIr, true => .exit2Ir
  | .pauseIr, false => .pauseIr
  | .exit2Ir, true => .updateIr
  | .exit2Ir, false => .shiftIr
  | .updateIr, true => .selectDr
  | .updateIr, false => .idle

/-- The instruction that a place in the list of R591 names. -/
def tapNamed (n : Nat) : TapInstr :=
  match n % 6 with
  | 0 => .bypass | 1 => .idcode | 2 => .sample | 3 => .extest | 4 => .clamp | _ => .highz

/-- The instruction of the bits in the instruction register; all ones are BYPASS (IEEE 1149.1). -/
def tapDecode (b : List Bool) : TapInstr := if b.all id then .bypass else tapNamed (Config.tapCode b)

/-- EXTEST, CLAMP and HIGHZ take effect only while RESET_N is low, and otherwise act as BYPASS (R591). -/
def tapActing (s : State) : TapInstr :=
  match s.tap.instr with
  | .extest | .clamp | .highz => if s.pwr.low.2 then s.tap.instr else .bypass
  | i => i

/-- What the boundary cells drive onto the logic-side pins: nothing (none) in normal operation; the updated cells under EXTEST and CLAMP; no pin
driven under HIGHZ. -/
def tapDrives (s : State) : Option (List (Option Bool)) :=
  match tapActing s with
  | .extest | .clamp => some (s.tap.cells.map some)
  | .highz => some (s.tap.cells.map fun _ => none)
  | _ => none

/-- As many free bits. -/
def freeBits : Nat → State → List Bool × State
  | 0, s => ([], s)
  | n + 1, s =>
    let (b, s1) := freeB s
    let (l, s2) := freeBits n s1
    (b :: l, s2)

/-- The port changed. -/
def modTap (f : Tap → Tap) (s : State) : State := { s with tap := f s.tap }

/-- Capture-DR: the register that the instruction selects. The levels of the pins are not in State: free values. -/
def tapCapture (s : State) : State :=
  match tapActing s with
  | .idcode => modTap (fun x => { x with dr := tapId }) s
  | .sample | .extest => let (l, s1) := freeBits Config.boundaryLength s; modTap (fun x => { x with dr := l }) s1
  | _ => modTap (fun x => { x with dr := [false] }) s

/-- A shift register moved on by one bit. -/
def tapShift (l : List Bool) (tdi : Bool) : List Bool := l.drop 1 ++ [tdi]

/-- What the rising edge of TCK does in the present controller state. -/
def tapRise (tdi : Bool) (s : State) : State :=
  match s.tap.ctl with
  | .captureDr => tapCapture s
  | .shiftDr => modTap (fun x => { x with dr := tapShift x.dr tdi }) s
  | .captureIr =>
    let (l, s1) := freeBits Config.tapIrExtra s
    modTap (fun x => { x with irShift := [true, false] ++ l }) s1
  | .shiftIr => modTap (fun x => { x with irShift := tapShift x.irShift tdi }) s
  | _ => s

/-- What the falling edge of TCK does in the state reached: the updates, Test-Logic-Reset, and the bit at TDO. -/
def tapFall (s : State) : State :=
  match s.tap.ctl with
  | .testReset => modTap (fun x => { x with instr := .idcode, tdo := none }) s
  | .updateIr => modTap (fun x => { x with instr := tapDecode x.irShift, tdo := none }) s
  | .updateDr =>
    modTap (fun x => { x with tdo := none, cells := (match tapActing s with | .sample | .extest => x.dr | _ => x.cells) }) s
  | .shiftDr => modTap (fun x => { x with tdo := x.dr.head? }) s
  | .shiftIr => modTap (fun x => { x with tdo := x.irShift.head? }) s
  | _ => modTap (fun x => { x with tdo := none }) s

/-- One TCK cycle. -/
def tapClock (tms tdi : Bool) (s : State) : State :=
  tapFall (modTap (fun x => { x with ctl := tapNext x.ctl tms }) (tapRise tdi s))

/-- One piece of the port's input. TRST_N low takes the controller to Test-Logic-Reset. -/
def tapTake (e : TapEdge) (s : State) : State :=
  match e with
  | .clock tms tdi => tapClock tms tdi s
  | .trst => tapFall (modTap (fun x => { x with ctl := .testReset }) s)

/-- What a step on an empty queue does: it takes one piece of the port's input, and idles where none waits. -/
def idleStep (s : State) : State :=
  match s.tap.edges with
  | [] => s
  | e :: rest => tapTake e (modTap (fun x => { x with edges := rest }) s)

end Sys2Proof.Machine
end

