-- ==== Sys2Proof/Safety.lean ====
section
/-! DEFINITION. What counts as a safe state and a safe step, in the terms that claims use. -/

namespace Sys2Proof.Machine

open Sys2Proof

/-- Addresses rise strictly from `lo` on, and no entry is equal to what an unlisted address reads as (log entry 9). -/
def Memory.wfFrom : Nat → List Host.Cell → Bool
  | _, [] => true
  | lo, c :: rest => decide (lo ≤ c.1) && c.2 != 0 && Memory.wfFrom (c.1 + 1) rest

/-- The canonical form of a sparse partition: equal contents are equal lists. -/
def Memory.wf (m : List Host.Cell) : Bool := Memory.wfFrom 0 m

/-- The three image partitions, and the partner's image as far as it has been mirrored, are in their canonical form. -/
def State.wf (s : State) : Bool := s.img.part.list.all Memory.wf && Memory.wf s.pair.image

/-- What stays of the fuses and the factory's data whatever is commanded: a written key slot keeps its digest, a revocation stands, and the
firmware-key revocations, the field-lock fuse, the serial number and the identity flag are as they were (R427, R490, R523, R537). -/
def fusesHeld (s t : State) : Prop :=
  (∀ i d, (s.sec.ikey.get i).digest = some d → (t.sec.ikey.get i).digest = some d) ∧
  (∀ i, (s.sec.ikey.get i).revoked = true → (t.sec.ikey.get i).revoked = true) ∧
  t.sec.fkRev = s.sec.fkRev ∧ t.sec.fieldLock = s.sec.fieldLock ∧ t.nvs.store.serial = s.nvs.store.serial ∧
  t.nvs.store.idBad = s.nvs.store.idBad

/-- A command gives a next state (it neither faults nor is refused). -/
def gives (c : Instr) (s t : State) : Prop := exec c s = .next t

end Sys2Proof.Machine
end

