-- ==== Sys2Proof/WellFormed.lean ====
section
/-! DEFINITION. Operands that the tables of the spec admit: slot numbers of Table 02-8, device numbers of 10 bits (R330),
record lengths of chapter "Cirel image records". A command whose operands are not well formed cannot arise. -/

namespace Sys2Proof

/-- A device number (R330). -/
def devOk (d : Nat) : Bool := decide (d < 1024)

/-- A slot that carries timed commands (R64, R68): 1 and 2 commit, 3 to 8 the partitions' own, 15 the MGT slot. -/
def tcmdSlotOk (s : Nat) : Bool := (decide (1 ≤ s) && decide (s ≤ 8)) || s == 15

/-- A configuration record has its section's length (Tables 14-3, 14-5, 14-6, 14-9, 14-10, 14-11). -/
def CfgItem.wf : CfgItem → Bool
  | .none => true
  | .chan _ r => r.length == 64
  | .tile r => r.length == 64
  | .safe _ r => r.length == 16
  | .prof r => r.length == 64
  | .tref r => r.length == 48
  | .hact _ r => r.length == 64
  | .cmd _ _ _ _ _ => true
  | .ack _ => true
  | .partReset slot => decide (3 ≤ slot) && decide (slot ≤ 8)
  | .commit => true
  | .role _ _ _ => true
  | .lock _ => true
  | .trim _ _ => true

/-- A work reference names a device number, a ring number and a SEQ. -/
def WorkRef.wf (w : WorkRef) : Bool := devOk w.origin && decide (w.ring < 64)

/-- Operand checks of the commands that have operands wider than their spec range; every other operand type admits its range only. -/
def Instr.wf : Instr → Bool
  | .tileDownstreamFrame _ _ _ _ bytes item => bytes.length == 20 && item.wf
  | .hubUpstreamFrame _ _ _ _ bytes _ => bytes.length == 20
  | .tcmdNop _ _ slot _ _ _ _ => tcmdSlotOk slot
  | .tcmdSet _ _ slot _ _ _ _ => tcmdSlotOk slot
  | .tcmdDuty _ _ slot _ _ _ _ => tcmdSlotOk slot
  | .tcmdReplace _ _ slot _ _ _ _ => tcmdSlotOk slot
  | .tcmdCancel _ _ slot _ _ _ _ => tcmdSlotOk slot
  | .tcmdRelease _ _ slot _ _ _ _ => tcmdSlotOk slot
  | .tcmdReservedOp _ _ slot _ op _ _ _ => tcmdSlotOk slot && decide (6 ≤ op.toNat)
  | .mgtPartitionReset _ _ slot => decide (3 ≤ slot) && decide (slot ≤ 8)
  | .tackReport _ _ _ _ code _ _ => decide (code < 16)
  | .axsFrameReceived _ src _ => devOk src
  | .tokVerdict _ src _ => devOk src
  | .imgFrameReceived _ src _ => devOk src
  | .hbtReceived _ src _ => devOk src
  | .timReceived _ _ src _ => devOk src
  | .reqReceived _ src _ => devOk src
  | .rspReceived _ src _ => devOk src
  | .tileTrip _ _ currents _ => currents.length == 8
  | .faultEvent _ srcs _ => !srcs.isEmpty && srcs.all (fun i => decide (i < 512))
  | .wireFault _ src _ => decide (src < 512)
  | .injWrite _ src _ => decide (src < 512)
  | .pendClear _ src => decide (src < 512)
  | .fltConfigRequest _ src _ _ => decide (src < 512)
  | .storeAccept _ w => w.wf
  | .fenceRelease _ w => w.wf
  | .gateJournal _ w => w.wf
  | .gateStarted _ w => w.wf
  | _ => true

end Sys2Proof
end

