-- ==== Sys2Proof/Certificates/Slice0/Obligations.lean ====
section
/-! DEFINITION. The statements about the model, in the order of OBLIGATIONS.json. -/

open Sys2Proof Sys2Proof.Machine

/-- For every command c and state s: with c at the front of the queue, a step is what c does to s with the queue's rest. -/
def Obligations.StepTakesTheFront : Prop :=
  ∀ (s : State) (c : Instr) (rest : List Instr), s.pending = c :: rest → step s = exec c { s with pending := rest }

/-- In the state right after reset no command waits, and the registers read the reset values that chapter 19 gives: TIME_P 1,000, TIME_GUARD 100, TIME_PRIO 128, TIME_RATE 0; every CR has SIZE 6 and its CTL and GEN read 0; every CQ has EN 0; every IQ has SIZE 1, NTAGS 1, CUTDL 250, MASKHOLD 1,000, EN 0; WDH_OPEN reads 1,000. The image partitions list no byte. The model's choice (log entries 1 and 147): on an empty queue a step takes one piece of the test access port's input, and where none waits it leaves the state as it is. -/
def Obligations.ResetValues : Prop :=
  State.reset.pending = [] ∧ State.reset.wf = true ∧ (∀ i, State.reset.img.part.get i = []) ∧
  (∀ r, regValue State.reset r 0x0810 = 1000 ∧ regValue State.reset r 0x0824 = 100 ∧ regValue State.reset r 0x0828 = 128 ∧
    regValue State.reset r 0x0834 = 0 ∧ regValue State.reset r 0x2828 = 1000) ∧
  (∀ (n : Fin 64) (r : Nat), bits (regValue State.reset r (0x1000 + 32 * n.val + 0x10)) 0 5 = 6 ∧ regValue State.reset r (0x1000 + 32 * n.val + 0x14) = 0 ∧
    bits (regValue State.reset r (0x1800 + 16 * n.val + 0xC)) 0 1 = 0 ∧ bits (regValue State.reset r (0x1800 + 16 * n.val + 0xC)) 4 5 = 6) ∧
  (∀ (n : Fin 16) (r : Nat), regValue State.reset r (0x1C00 + 48 * n.val + 0x10) = 1 ∧ regValue State.reset r (0x1C00 + 48 * n.val + 0x14) = 1 ∧
    regValue State.reset r (0x1C00 + 48 * n.val + 0x18) = 250 ∧ regValue State.reset r (0x1C00 + 48 * n.val + 0x1C) = 1000 ∧
    regValue State.reset r (0x1C00 + 48 * n.val + 0x20) = 0) ∧
  (∀ s : State, s.pending = [] → step s = .next (idleStep s)) ∧
  (∀ s : State, s.pending = [] → s.tap.edges = [] → step s = .next s)

/-- For every command, every operand and every state, the command answers a next state: the spec gives every row of the table an effect, or none at all where its premise does not hold (the model's choice, log entry 11). -/
def Obligations.EveryCommandAnswers : Prop :=
  ∀ (c : Instr) (s : State), ∃ z, exec c s = .next z

/-- For every state whose image partitions and mirrored image are in the canonical form (addresses rise, no entry equal to what an unlisted address reads as, which is the model's choice of log entry 9), a step that answers a next state leaves them so. -/
def Obligations.WellFormedKept : Prop :=
  ∀ s z : State, s.wf = true → step s = .next z → z.wf = true

/-- For every state and every step that answers a next state: a written image-key slot keeps its digest, a revoked slot stays revoked, and the firmware-key revocations, the field-lock fuse, the serial number and the identity verdict are as they were. -/
def Obligations.FusesHeld : Prop :=
  ∀ s z : State, step s = .next z → fusesHeld s z

/-- With c at the front of the queue, a step that answers a next state leaves the queue's rest in its order, adds nothing to it, and the elapsed time is not less than before (log entry 2: a command's instant moves the time forward only). -/
def Obligations.QueueAndTimeKept : Prop :=
  ∀ (s z : State) (c : Instr) (rest : List Instr), s.pending = c :: rest → step s = .next z → z.pending = rest ∧ s.now ≤ z.now

/-- Every command but IMGLOAD, IMGDISCARD, JNL_IMAGE, EPOCH_BOUNDARY, EPOCH_JOIN, HUB_RESET_RELEASE, POR_RELEASE and SEC_CMD_DONE leaves every byte of the three image partitions, every byte of the mirrored image and the image-key slots as they were, for every operand and every state. -/
def Obligations.OnlyImageRowsChangeImages : Prop :=
  ∀ (c : Instr) (s z : State), exec c s = .next z →
    (match c with
    | .imgload .. | .imgdiscard .. | .jnlImage .. | .epochBoundary .. | .epochJoin .. | .hubResetRelease .. | .porRelease .. | .secCmdDone .. => False
    | _ => True) →
    (∀ i a, cellRead (z.img.part.get i) a = cellRead (s.img.part.get i) a) ∧
    (∀ a, cellRead z.pair.image a = cellRead s.pair.image a) ∧ z.sec.ikey = s.sec.ikey

/-- After one byte is written, that address reads the byte and every other address reads as before; the write keeps the canonical form; and two partitions in the canonical form that read alike at every address are the same list. -/
def Obligations.CellsReadBack : Prop :=
  (∀ (m : List Host.Cell) (a x : Nat) (b : Byte), Memory.wf m = true →
    cellRead (cellWrite a b m) x = (if x = a then b else cellRead m x) ∧ Memory.wf (cellWrite a b m) = true) ∧
  (∀ m n : List Host.Cell, Memory.wf m = true → Memory.wf n = true → (∀ x, cellRead m x = cellRead n x) → m = n)

/-- The k little-endian bytes of n spell n modulo 256^k, byte i being n / 256^i modulo 256; the bytes of the number that k bytes spell are those bytes; and a field of a record at offset i counts its bytes from byte i, the lowest first. -/
def Obligations.BytesLittleEndian : Prop :=
  (∀ k n : Nat, ofLe (leBytes k n) = n % 256 ^ k ∧ (leBytes k n).length = k) ∧
  (∀ k n i : Nat, i < k → u8 (leBytes k n) i = n / 256 ^ i % 256) ∧
  (∀ l : List Byte, leBytes l.length (ofLe l) = l) ∧
  (∀ (r : List Byte) (i : Nat), u16 r i = u8 r i + 256 * u8 r (i + 1)) ∧
  (∀ (r : List Byte) (i : Nat), u32 r i = u16 r i + 65536 * u16 r (i + 2))

/-- After IMGLOAD of a descriptor whose OFFSET is its bytes 32 to 35, the two other partitions are as they were, and so is every byte of the maquette's partition outside OFFSET to OFFSET + length of the payload. After JNL_IMAGE, every byte of the mirrored image outside the span of its bytes is as it was, and where it is not the last, the partitions are as they were. -/
def Obligations.ImageLoadsChangeOnlyTheirSpan : Prop :=
  (∀ (s z : State) (t : Time) (w : WorkRef) (x : Work), exec (.imgload t w) s = .next z → workOf (s.at_ t) w = some x →
    (∀ i, i ≠ s.img.maqPart → z.img.part.get i = s.img.part.get i) ∧
    (∀ a, a < u32 x.bytes 32 ∨ u32 x.bytes 32 + x.payload.length ≤ a →
      cellRead (z.img.part.get s.img.maqPart) a = cellRead (s.img.part.get s.img.maqPart) a)) ∧
  (∀ (s z : State) (t : Time) (off : Word) (bytes : List Byte) (last : Bool), exec (.jnlImage t off bytes last) s = .next z →
    (∀ a, a < off.toNat ∨ off.toNat + bytes.length ≤ a → cellRead z.pair.image a = cellRead s.pair.image a) ∧
    (last = false → z.img.part = s.img.part))

/-- CU_START, CU_DATA and CU_LAST of unit n change nothing but the elapsed time, the check units and, for the BUSYREF bit that a START during a job sets, the instant its source last set it; and of the check units none but unit n. -/
def Obligations.CheckUnitRowsChangeOneUnit : Prop :=
  ∀ (s z : State) (t : Time) (n : Fin 4) (k : Fin 8) (word : Word),
    (exec (.cuStart t n) s = .next z ∨ exec (.cuData t n word) s = .next z ∨ exec (.cuLast t n k word) s = .next z) →
    z = { s.at_ t with cu := z.cu, host := { (s.at_ t).host with w1cAt := z.host.w1cAt } } ∧ ∀ m, m ≠ n → z.cu.get m = s.cu.get m

/-- For all bytes, each fixed check is the CRC of R555 with the parameters of its row of Table 18-6 over its fold and then its data: the tile-link check of a frame's bytes 0 to 17, the Pelrun check, the descriptor check, the store check and GHASH over bytes 0 to 23 and 64 to 191; and over the nine bytes "123456789" with no fold the three sets of parameters give 0x29B1, 0xCBF43926 and 0xE3069283. -/
def Obligations.FixedChecks : Prop :=
  (∀ (tile : Nat) (up : Bool) (d : List Byte), tile < 16 → tileCheck tile up d =
    crc 16 0x1021 0xFFFF false false 0 (leBytes 2 (tile + 16 * b2n up + 256 * u8 d 0)) (d.take 18)) ∧
  (∀ (dst fseq : Nat) (d : List Byte), dst < 1024 → fseq < 2 ^ 22 →
    pelrunCheck dst fseq d = crc 32 0x04C11DB7 0xFFFFFFFF true true 0xFFFFFFFF (leBytes 4 (dst + 1024 * fseq)) d) ∧
  (∀ (ring seq : Nat) (d : List Byte), ring < 65536 → seq < 2 ^ 32 →
    descCheck ring seq d = crc 32 0x1EDC6F41 0xFFFFFFFF true true 0xFFFFFFFF (leBytes 8 (ring + 2 ^ 32 * seq)) d) ∧
  (∀ d : List Byte, storeCheck d = crc 32 0x1EDC6F41 0xFFFFFFFF true true 0xFFFFFFFF (List.replicate 8 0) d) ∧
  (∀ r : List Byte, ghash r = crc 32 0x1EDC6F41 0xFFFFFFFF true true 0xFFFFFFFF [] (slice r 0 24 ++ slice r 64 128)) ∧
  (∀ nine : List Byte, nine = [0x31, 0x32, 0x33, 0x34, 0x35, 0x36, 0x37, 0x38, 0x39] →
    crc 16 0x1021 0xFFFF false false 0 [] nine = 0x29B1 ∧
    crc 32 0x04C11DB7 0xFFFFFFFF true true 0xFFFFFFFF [] nine = 0xCBF43926 ∧
    crc 32 0x1EDC6F41 0xFFFFFFFF true true 0xFFFFFFFF [] nine = 0xE3069283)

/-- For every state and every channel with an input function (AIV, AII, RTD, TC, DI, CNT, NAM): while OPEN_WIRE (0x10), RTD_LEAD (0x15), NAM_OPEN (0x14), NAM_SHORT (0x21), SHORT_M (0x20) or REVERSE (0x23) stands on it, bit 0 (VALID) of its CSW is clear. -/
def Obligations.InputVerdictsClearValid : Prop :=
  ∀ (s : State) (k : Fin 96) (v : Nat), chFunc (tileRec s k) ∈ [Func.aiv, .aii, .rtd, .tc, .di, .cnt, .nam] →
    v ∈ [0x10, 0x15, 0x14, 0x21, 0x20, 0x23] → v ∈ standing s k → (cswOf s k).getLsbD 0 = false

/-- In every state, the VERDICT field (bits 31 to 24) of every channel's CSW holds a code that Table 07-2 lists. -/
def Obligations.VerdictCodesAreListed : Prop :=
  ∀ (s : State) (k : Fin 96), (cswOf s k).toNat / 2 ^ 24 ∈
    [0x00, 0x01, 0x10, 0x11, 0x12, 0x13, 0x14, 0x15, 0x20, 0x21, 0x22, 0x23, 0x30, 0x31, 0x32, 0x33, 0x34, 0x38, 0x39, 0x3A, 0x3B,
      0x40, 0x50, 0x51, 0x52, 0x53, 0x60, 0x61]

/-- In every state CRn_LASTSEQ reads the attached device's own H of ring n (0 where it has none). FORGET of a DISABLED ring none of whose class J descriptors lacks its final completion (as work, in the fetch buffer or sent to another device) completes: afterwards the attached device has no H of that ring, LASTSEQ reads 0, and no class J descriptor of that ring is left in its record. While a class J descriptor lacks its final completion, FORGET changes neither H nor the record of work: it is refused, and recorded as event 5 of the ring. The premise is that the hub is neither unpowered nor in reset. -/
def Obligations.ForgetAndLastSeq : Prop :=
  (∀ (s : State) (n : Fin 64) (r : Nat), regValue s r (0x1000 + 32 * n.val + 0x1C) = (lookupD (s.host.cr.get n).high s.net.num 0).toNat) ∧
  (∀ (s a : State) (t : Time) (n : Fin 64), a = s.at_ t → hubAlive a = true → (a.host.cr.get n).state = 0 →
    ringOwes a n.val = false →
    ∃ z, exec (.forget t n) s = .next z ∧ lookupO (z.host.cr.get n).high z.net.num = none ∧
      (∀ r, regValue z r (0x1000 + 32 * n.val + 0x1C) = 0) ∧ (∀ w ∈ z.host.work, ringWork z n.val w = true → w.classJ = false) ∧
      (∀ m, m ≠ n → z.host.cr.get m = a.host.cr.get m)) ∧
  (∀ (s a : State) (t : Time) (n : Fin 64), a = s.at_ t → hubAlive a = true →
    ringOwes a n.val = true →
    ∃ z, exec (.forget t n) s = .next z ∧ (z.host.cr.get n).high = (a.host.cr.get n).high ∧ z.host.work = a.host.work ∧
      z = recordRing n.val 5 (modCr n (fun c => { c with forgetRef := true }) a))

/-- With the hub up, and whatever state Studio is in: when the last good update of a mapped HART tag is older than its drop's STALE limit, HART_STALE completes, and afterwards the tag is not VALID and HART is set in its CSW, its value and its last update being as they were. Studio being down changes nothing of this: the two runs, one with Studio up and one with it down, leave the same HART tags. -/
def Obligations.HartStalenessNeedsNoStudio : Prop :=
  (∀ (s a : State) (t : Time) (item : Nat) (k : Fin 96) (x : HartTag), a = s.at_ t → hubUp a = true → chanOfItem a item = some k →
    tagOfItem a item = some x → staleOf a k.val (u8 ((castAll a (·.item)).getD item []) 1) < a.now - x.at_ →
    ∃ z, exec (.hartStale t item) s = .next z ∧ tagOfItem z item = some { x with valid := false, stale := true, hart := true }) ∧
  (∀ (s a y z : State) (t : Time) (item : Nat) (up : Bool), a = { s with flt := { s.flt with studioUp := up } } →
    exec (.hartStale t item) s = .next y → exec (.hartStale t item) a = .next z → z.misc.hartTags = y.misc.hartTags)

/-- Each of the 30 opcodes of Table 12-7, while the hub is not up, or for a reference that names no descriptor this device holds, has no effect: nothing changes but the elapsed time. -/
def Obligations.OpcodesNeedARunningHubAndTheirWork : Prop :=
  ∀ (s a : State) (t : Time) (w : WorkRef), a = s.at_ t → (hubUp a = false ∨ workOf a w = none) →
    exec (.nop t w) s = .next a ∧
    exec (.fence t w) s = .next a ∧
    exec (.tagwrite t w) s = .next a ∧
    exec (.tagwriten t w) s = .next a ∧
    exec (.tagread t w) s = .next a ∧
    exec (.restoreack t w) s = .next a ∧
    exec (.harttx t w) s = .next a ∧
    exec (.imgload t w) s = .next a ∧
    exec (.imgstage t w) s = .next a ∧
    exec (.imgrehearse t w) s = .next a ∧
    exec (.imgactivate t w) s = .next a ∧
    exec (.imgrevert t w) s = .next a ∧
    exec (.imgdiscard t w) s = .next a ∧
    exec (.trimarm t w) s = .next a ∧
    exec (.trimdisarm t w) s = .next a ∧
    exec (.trimclear t w) s = .next a ∧
    exec (.override t w) s = .next a ∧
    exec (.ovrelease t w) s = .next a ∧
    exec (.release t w) s = .next a ∧
    exec (.test t w) s = .next a ∧
    exec (.reflexrel t w) s = .next a ∧
    exec (.recread t w) s = .next a ∧
    exec (.recnote t w) s = .next a ∧
    exec (.cujob t w) s = .next a ∧
    exec (.couch t w) s = .next a ∧
    exec (.seize t w) s = .next a ∧
    exec (.yield t w) s = .next a ∧
    exec (.mgtread t w) s = .next a ∧
    exec (.mgtwrite t w) s = .next a ∧
    exec (.setnum t w) s = .next a

/-- HART_MODEM_START, HART_MODEM_END, HART_MODEM_ABORT, HART_TXDONE, HART_RX_BYTE, COMPL_CLEAR and OPEN_LOAD_ON change nothing but the elapsed time and channel k, VERDICT_RECORD also the recorder, SINK_OPEN, SINK_RETRY and COMPL_SET also the store's group, the diagnostic runs and the recorder (a switch that closes counts a cycle and takes an off-state test's stimulus away), HART_LOOP_SILENCE also the host interface, the store's group and the network side (a write-class request asks for its mark, which goes into the journal and to the partner); every other channel is as it was. INPUT_RAW_CHANGE and NAM_LINE_FAULT change nothing but the elapsed time, the channels, the tiles and what the reflexes at a comparator reach (the store's group, the flashes and diagnostic runs, the recorder); CURRENT_LIMIT, ANALOG_CURRENT_LIMIT and CURRENT_BELOW_CEILING nothing but the elapsed time, the channels and the network side, which tells the partner. -/
def Obligations.ChannelRowsChangeOneChannel : Prop :=
  (∀ (t : Time) (k : Fin 96) (bytes : List Byte) (s z : State), exec (.hartModemStart t k bytes) s = .next z →
    (z = { s.at_ t with chan := z.chan } ∧ ∀ j, j ≠ k → z.chan.get j = s.chan.get j)) ∧
  (∀ (t : Time) (k : Fin 96) (bytes : List Byte) (s z : State), exec (.hartModemEnd t k bytes) s = .next z →
    (z = { s.at_ t with chan := z.chan } ∧ ∀ j, j ≠ k → z.chan.get j = s.chan.get j)) ∧
  (∀ (t : Time) (k : Fin 96) (s z : State), exec (.hartModemAbort t k) s = .next z →
    (z = { s.at_ t with chan := z.chan } ∧ ∀ j, j ≠ k → z.chan.get j = s.chan.get j)) ∧
  (∀ (t : Time) (k : Fin 96) (s z : State), exec (.hartTxdone t k) s = .next z →
    (z = { s.at_ t with chan := z.chan } ∧ ∀ j, j ≠ k → z.chan.get j = s.chan.get j)) ∧
  (∀ (t : Time) (k : Fin 96) (byte : Byte) (perr eom : Bool) (s z : State), exec (.hartRxByte t k byte perr eom) s = .next z →
    (z = { s.at_ t with chan := z.chan } ∧ ∀ j, j ≠ k → z.chan.get j = s.chan.get j)) ∧
  (∀ (t : Time) (k : Fin 96) (headroom : Int) (held : Time) (s z : State), exec (.complClear t k headroom held) s = .next z →
    (z = { s.at_ t with chan := z.chan } ∧ ∀ j, j ≠ k → z.chan.get j = s.chan.get j)) ∧
  (∀ (t : Time) (k : Fin 96) (counted : Time) (maxCurrent : Nat) (s z : State), exec (.openLoadOn t k counted maxCurrent) s = .next z →
    (z = { s.at_ t with chan := z.chan } ∧ ∀ j, j ≠ k → z.chan.get j = s.chan.get j)) ∧
  (∀ (t : Time) (k : Fin 96) (s z : State), exec (.verdictRecord t k) s = .next z →
    (z = { s.at_ t with chan := z.chan, recd := z.recd } ∧ ∀ j, j ≠ k → z.chan.get j = s.chan.get j)) ∧
  (∀ (t : Time) (k : Fin 96) (burden : Nat) (held : Time) (s z : State), exec (.sinkOpen t k burden held) s = .next z →
    (z = { s.at_ t with chan := z.chan, misc := z.misc, nvs := z.nvs, recd := z.recd } ∧ ∀ j, j ≠ k → z.chan.get j = s.chan.get j)) ∧
  (∀ (t : Time) (k : Fin 96) (s z : State), exec (.sinkRetry t k) s = .next z →
    (z = { s.at_ t with chan := z.chan, misc := z.misc, nvs := z.nvs, recd := z.recd } ∧ ∀ j, j ≠ k → z.chan.get j = s.chan.get j)) ∧
  (∀ (t : Time) (k : Fin 96) (headroom : Int) (held : Time) (s z : State), exec (.complSet t k headroom held) s = .next z →
    (z = { s.at_ t with chan := z.chan, misc := z.misc, nvs := z.nvs, recd := z.recd } ∧ ∀ j, j ≠ k → z.chan.get j = s.chan.get j)) ∧
  (∀ (t : Time) (k : Fin 96) (s z : State), exec (.hartLoopSilence t k) s = .next z →
    (z = { s.at_ t with chan := z.chan, host := z.host, nvs := z.nvs, net := z.net } ∧ ∀ j, j ≠ k → z.chan.get j = s.chan.get j)) ∧
  (∀ (t : Time) (k : Fin 96) (x : CompIn) (s z : State), exec (.inputRawChange t k x) s = .next z →
    z = { s.at_ t with chan := z.chan, misc := z.misc, nvs := z.nvs, recd := z.recd, tile := z.tile }) ∧
  (∀ (t : Time) (k : Fin 96) (current : Nat) (held : Time) (s z : State), exec (.namLineFault t k current held) s = .next z →
    z = { s.at_ t with chan := z.chan, misc := z.misc, nvs := z.nvs, recd := z.recd, tile := z.tile }) ∧
  (∀ (t : Time) (j : Fin 96) (current : Nat) (s z : State), exec (.currentLimit t j current) s = .next z →
    z = { s.at_ t with chan := z.chan, net := z.net }) ∧
  (∀ (t : Time) (k : Fin 96) (limiting : Bool) (s z : State), exec (.analogCurrentLimit t k limiting) s = .next z →
    z = { s.at_ t with chan := z.chan, net := z.net }) ∧
  (∀ (t : Time) (j : Fin 96) (s z : State), exec (.currentBelowCeiling t j) s = .next z →
    z = { s.at_ t with chan := z.chan, net := z.net })

/-- FAST_SENSE_CONVERSION and SSEL_CODE_TAKEN change the sense equipment of the tile alone, TILE_SUPPLY_GOOD the tile alone, HUB_LINK_RESUME and FCLK_LOCK its link, LINK_GOOD of the downstream direction its link and the tile (the reports of what it discarded), beside the elapsed time; the parts of every other tile are as they were. -/
def Obligations.TileRowsChangeOneUnit : Prop :=
  (∀ (t : Time) (tile : Fin 12) (code : SenseIn) (s z : State), exec (.fastSenseConversion t tile code) s = .next z →
    (z = { s.at_ t with sns := z.sns } ∧ ∀ j, j ≠ tile → z.sns.get j = s.sns.get j)) ∧
  (∀ (t : Time) (tile : Fin 12) (code : Fin 8) (held : Time) (s z : State), exec (.sselCodeTaken t tile code held) s = .next z →
    (z = { s.at_ t with sns := z.sns } ∧ ∀ j, j ≠ tile → z.sns.get j = s.sns.get j)) ∧
  (∀ (t : Time) (tile : Fin 12) (lpt : Nat) (held : Time) (s z : State), exec (.tileSupplyGood t tile lpt held) s = .next z →
    (z = { s.at_ t with tile := z.tile } ∧ ∀ j, j ≠ tile → z.tile.get j = s.tile.get j)) ∧
  (∀ (t : Time) (tile : Fin 12) (s z : State), exec (.hubLinkResume t tile) s = .next z →
    (z = { s.at_ t with link := z.link } ∧ ∀ j, j ≠ tile → z.link.get j = s.link.get j)) ∧
  (∀ (t : Time) (tile : Fin 12) (s z : State), exec (.fclkLock t tile) s = .next z →
    (z = { s.at_ t with link := z.link } ∧ ∀ j, j ≠ tile → z.link.get j = s.link.get j)) ∧
  (∀ (t : Time) (tile : Fin 12) (up : Bool) (s z : State), exec (.linkGood t tile up) s = .next z → up = false →
    (z = { s.at_ t with tile := z.tile, link := z.link } ∧ ∀ j, j ≠ tile → z.link.get j = s.link.get j ∧ z.tile.get j = s.tile.get j))

/-- REC_RDSEQ_WRITE and REC_RDWIN_LOADED change the recorder alone; NVS_RDSEL_WRITE, NVS_RDWIN_LOADED, FW_CHUNK, FW_OPEN and PATINA_WRITE the store and firmware group alone, TRIM_TIMEOUT that group, the tiles and the recorder; CCLK_PLL_LOCK, VLOG_GOOD and HOLDUP_TEST the supply group alone; TSET_UPDATE, INTRUSION and PLINTH_LOSS the plinth alone; SEC_PROGRAM, SEC_REVOKE, SEC_TOKEN and SEC_CLRINTR the security block and the recorder; GATE_STAGE the image group, TRAP_HANDLER_END, C4_PEND_AUTO_CLEAR and INJ_WRITE the fault collector alone; each beside the elapsed time. -/
def Obligations.RegisterRowsChangeTheirGroup : Prop :=
  (∀ (t : Time) (seq : Word) (s z : State), exec (.recRdseqWrite t seq) s = .next z →
    z = { s.at_ t with recd := z.recd }) ∧
  (∀ (t : Time) (s z : State), exec (.recRdwinLoaded t) s = .next z →
    z = { s.at_ t with recd := z.recd }) ∧
  (∀ (t : Time) (value : Word) (s z : State), exec (.nvsRdselWrite t value) s = .next z →
    z = { s.at_ t with nvs := z.nvs }) ∧
  (∀ (t : Time) (s z : State), exec (.nvsRdwinLoaded t) s = .next z →
    z = { s.at_ t with nvs := z.nvs }) ∧
  (∀ (t : Time) (word : Word) (s z : State), exec (.fwChunk t word) s = .next z →
    z = { s.at_ t with nvs := z.nvs }) ∧
  (∀ (t : Time) (s z : State), exec (.fwOpen t) s = .next z →
    z = { s.at_ t with nvs := z.nvs }) ∧
  (∀ (t : Time) (s z : State), exec (.patinaWrite t) s = .next z →
    z = { s.at_ t with nvs := z.nvs }) ∧
  (∀ (t : Time) (s z : State), exec (.trimTimeout t) s = .next z →
    z = { s.at_ t with nvs := z.nvs, recd := z.recd, tile := z.tile }) ∧
  (∀ (t : Time) (s z : State), exec (.cclkPllLock t) s = .next z →
    z = { s.at_ t with pwr := z.pwr }) ∧
  (∀ (t : Time) (vhold : Nat) (held : Time) (s z : State), exec (.vlogGood t vhold held) s = .next z →
    z = { s.at_ t with pwr := z.pwr }) ∧
  (∀ (t : Time) (vhold : Nat) (s z : State), exec (.holdupTest t vhold) s = .next z →
    z = { s.at_ t with pwr := z.pwr }) ∧
  (∀ (t : Time) (s z : State), exec (.tsetUpdate t) s = .next z →
    z = { s.at_ t with plinth := z.plinth }) ∧
  (∀ (t : Time) (s z : State), exec (.intrusion t) s = .next z →
    z = { s.at_ t with plinth := z.plinth }) ∧
  (∀ (t : Time) (vkeep : Nat) (s z : State), exec (.plinthLoss t vkeep) s = .next z →
    z = { s.at_ t with plinth := z.plinth }) ∧
  (∀ (t : Time) (slot : Fin 4) (confirm : BitVec 16) (s z : State), exec (.secProgram t slot confirm) s = .next z →
    z = { s.at_ t with sec := z.sec, recd := z.recd }) ∧
  (∀ (t : Time) (slot : Fin 4) (confirm : BitVec 16) (s z : State), exec (.secRevoke t slot confirm) s = .next z →
    z = { s.at_ t with sec := z.sec, recd := z.recd }) ∧
  (∀ (t : Time) (confirm : BitVec 16) (s z : State), exec (.secToken t confirm) s = .next z →
    z = { s.at_ t with sec := z.sec, recd := z.recd }) ∧
  (∀ (t : Time) (confirm : BitVec 16) (s z : State), exec (.secClrintr t confirm) s = .next z →
    z = { s.at_ t with sec := z.sec, recd := z.recd }) ∧
  (∀ (t : Time) (begins : Bool) (cls : Nat) (s z : State), exec (.gateStage t begins cls) s = .next z →
    z = { s.at_ t with img := z.img }) ∧
  (∀ (t : Time) (src : Nat) (s z : State), exec (.trapHandlerEnd t src) s = .next z →
    z = { s.at_ t with flt := z.flt }) ∧
  (∀ (t : Time) (src : Nat) (s z : State), exec (.c4PendAutoClear t src) s = .next z →
    z = { s.at_ t with flt := z.flt }) ∧
  (∀ (t : Time) (src : Nat) (value : Fin 4) (s z : State), exec (.injWrite t src value) s = .next z →
    z = { s.at_ t with flt := z.flt })

/-- CR_DISABLE, REQ_HOLD_EXPIRY and CQ_MODERATION_TIMER change the host interface alone; CR_TAIL_DOORBELL, CQ_HEAD_UPDATE and EQ0_HEAD_UPDATE the host interface, the recorder and the count of free values; Z_EDGE the engines and the epoch group (a late latch at T_E), LOST_CLEAR the engines and the flashes of the hub's reflexes, ENCODER_EDGE, ENCODER_LINE_FAULT and AXS_SILENCE the engines, the recorder, the epoch group and what the end of a lane that followed the axis reaches (the tiles, what is sent to them, the network side), each of these five also the rehearsal's own state; SOURCE_FORGOTTEN and HBT_SEND the network side alone, CANDIDATE_FORGOTTEN the network side and the epoch group, TOK_VERDICT of a committing verdict the epoch group and the recorder, HBT_RECEIVED the network side alone unless it comes from this device's own number with another serial number; each beside the elapsed time. -/
def Obligations.HostEngineAndNetworkRowsFrames : Prop :=
  (∀ (t : Time) (n : Fin 64) (s z : State), exec (.crDisable t n) s = .next z →
    z = { s.at_ t with host := z.host }) ∧
  (∀ (t : Time) (src ring : Nat) (seq : Word) (s z : State), exec (.reqHoldExpiry t src ring seq) s = .next z →
    z = { s.at_ t with host := z.host }) ∧
  (∀ (t : Time) (cq : Fin 64) (s z : State), exec (.cqModerationTimer t cq) s = .next z →
    z = { s.at_ t with host := z.host }) ∧
  (∀ (t : Time) (n off size : Nat) (value : Word) (s z : State), exec (.crTailDoorbell t n off size value) s = .next z →
    z = { s.at_ t with host := z.host, recd := z.recd, free := z.free }) ∧
  (∀ (t : Time) (n off size : Nat) (value : Word) (s z : State), exec (.cqHeadUpdate t n off size value) s = .next z →
    z = { s.at_ t with host := z.host, recd := z.recd, free := z.free }) ∧
  (∀ (t : Time) (n off size : Nat) (value : Word) (s z : State), exec (.eq0HeadUpdate t n off size value) s = .next z →
    z = { s.at_ t with host := z.host, recd := z.recd, free := z.free }) ∧
  (∀ (t : Time) (l : ZLine) (s z : State), exec (.zEdge t l) s = .next z →
    z = { s.at_ t with eng := z.eng, ep := z.ep, reh := z.reh }) ∧
  (∀ (t : Time) (x : Fin 4) (a b : Bool) (held : Time) (s z : State), exec (.lostClear t x a b held) s = .next z →
    z = { s.at_ t with eng := z.eng, misc := z.misc, reh := z.reh }) ∧
  (∀ (t : Time) (x : Fin 4) (a b : EncLine) (s z : State), exec (.encoderEdge t x a b) s = .next z →
    z = { s.at_ t with eng := z.eng, ep := z.ep, recd := z.recd, misc := z.misc, net := z.net, tile := z.tile, reh := z.reh }) ∧
  (∀ (t : Time) (x : Fin 4) (line : Fin 3) (held : Time) (s z : State), exec (.encoderLineFault t x line held) s = .next z →
    z = { s.at_ t with eng := z.eng, ep := z.ep, recd := z.recd, misc := z.misc, net := z.net, tile := z.tile, reh := z.reh }) ∧
  (∀ (t : Time) (x : Fin 8) (s z : State), exec (.axsSilence t x) s = .next z →
    z = { s.at_ t with eng := z.eng, ep := z.ep, recd := z.recd, misc := z.misc, net := z.net, tile := z.tile, reh := z.reh }) ∧
  (∀ (t : Time) (src : Nat) (s z : State), exec (.sourceForgotten t src) s = .next z →
    z = { s.at_ t with net := z.net }) ∧
  (∀ (t : Time) (s z : State), exec (.hbtSend t) s = .next z →
    z = { s.at_ t with net := z.net }) ∧
  (∀ (t : Time) (port : Fin 4) (s z : State), exec (.candidateForgotten t port) s = .next z →
    z = { s.at_ t with net := z.net, ep := z.ep }) ∧
  (∀ (t : Time) (src : Nat) (bytes : List Byte) (s z : State), exec (.tokVerdict t src bytes) s = .next z → bitOf (tkFlags bytes) 0 = true →
    z = { s.at_ t with ep := z.ep, recd := z.recd }) ∧
  (∀ (t : Time) (src : Nat) (bytes : List Byte) (s z : State), exec (.hbtReceived t src bytes) s = .next z → (src ≠ s.net.num ∨ u64 bytes 0 = s.nvs.store.serial.toNat) →
    z = { s.at_ t with net := z.net })

/-- Each event of a tile's field supply, and DIEWARN, answers a next state on a powered tile at its threshold: supply low and good set and clear SUPPLYLOW with the measured supply, BROWNOUT and DIEWARN send a notice flash, ride-through end (below 6.0 V) makes the tile QUIET, the stop makes it OFF. TILE_START makes an unpowered tile QUIET with SUPPLYLOW set and records the restart of each counter channel; of a tile that only de-energised it ends that, and its terminals follow. A pair whose tile stops is SYNCED no longer where its conditions fail (R370). Thresholds are those of Table 02-3 at the near edge of their tolerance. -/
def Obligations.TileSupplyEvents : Prop :=
  (∀ (s a : State) (t : Time) (tile : Fin 12) (lpt : Nat), a = s.at_ t → tilePowered a tile = true → lpt < 19350 → (a.tile.get tile).supplyLow = false → 
    exec (.tileSupplyLow t tile lpt) s = .next (upFlash tile 2 3 (modTile tile (fun x => { x with supplyLow := true, lpt := lpt }) a))) ∧
  (∀ (s a : State) (t : Time) (tile : Fin 12) (lpt : Nat) (held : Time), a = s.at_ t → tilePowered a tile = true → 19450 ≤ lpt → ms 10 ≤ held → 
    exec (.tileSupplyGood t tile lpt held) s = .next (modTile tile (fun x => { x with supplyLow := false, lpt := lpt }) a)) ∧
  (∀ (s a : State) (t : Time) (tile : Fin 12) (lpt : Nat), a = s.at_ t → tilePowered a tile = true → lpt < 6600 → 
    exec (.brownout t tile lpt) s = .next (upFlash tile 2 1 (modTile tile (fun x => { x with lpt := lpt }) a))) ∧
  (∀ (s a : State) (t : Time) (tile : Fin 12) (lpt : Nat), a = s.at_ t → tilePowered a tile = true → lpt < 6000 → 
    exec (.rideThroughEnd t tile lpt) s = .next (goQuiet tile (modTile tile (fun x => { x with lpt := lpt, supplyLow := true }) a))) ∧
  (∀ (s a : State) (t : Time) (tile : Fin 12) (lpt : Nat), a = s.at_ t → tilePowered a tile = true → lpt ≤ 5500 → 
    exec (.tileStop t tile lpt) s = .next (keepSync (tileDies tile (modTile tile (fun x => { x with lpt := lpt }) a)))) ∧
  (∀ (s a : State) (t : Time) (tile : Fin 12) (lpt : Nat) (held : Time), a = s.at_ t → tilePowered a tile = false → 7800 ≤ lpt → ms 10 ≤ held → 
    exec (.tileStart t tile lpt held) s = .next (forEach ((tileChans tile).filter fun k => chFunc (castRec a k.val) == .cnt) (fun k z => recordGeneric 1 k.val z)
      (modTile tile (fun x => { x with state := .quiet, lpt := lpt, supplyLow := true }) a))) ∧
  (∀ (s a : State) (t : Time) (tile : Fin 12) (lpt : Nat) (held : Time), a = s.at_ t → tilePowered a tile = true → 7800 ≤ lpt → ms 10 ≤ held → 
    exec (.tileStart t tile lpt held) s = .next (refreshTile tile (modTile tile (fun x => { x with sunk := false, lpt := lpt }) a))) ∧
  (∀ (s a : State) (t : Time) (tile : Fin 12) (temp : Int), a = s.at_ t → tilePowered a tile = true → 1500 ≤ temp → 
    exec (.diewarn t tile temp) s = .next (upFlash tile 2 2 (modTile tile (fun x => { x with temp := temp, dieWarn := true }) a)))

/-- A downstream frame at a powered tile and an upstream frame at a hub whose receiver works are judged good or bad (R55) and counted, and a good one takes effect; a comparator flash sets the comparator that the hub knows and evaluates the entries that use it when it changes; a hub reflex flash applies or releases the channel's preloaded action at level 2; a notice flash of BROWNOUT raises 0x080 + t after the yield of R379, one of DIEWARN raises 0x070 + t. A flash whose complement byte differs only counts as a bad character. -/
def Obligations.TileLinkFrameEvents : Prop :=
  (∀ (s a : State) (t : Time) (tile : Fin 12) (ok : Bool) (dev : Nat) (bytes : List Byte) (item : CfgItem), a = s.at_ t → tilePowered a tile = true → frameGood tile false ok (slotDue a tile (a.link.get tile).downSilent (bits (u8 bytes 1) 0 4)) dev bytes = true → 
    exec (.tileDownstreamFrame t tile ok dev bytes item) s = .next (downAct tile (bits (u8 bytes 1) 0 4) bytes item (modLink tile (downJudge true (bytes.getD 0 0) a.now) a))) ∧
  (∀ (s a : State) (t : Time) (tile : Fin 12) (ok : Bool) (dev : Nat) (bytes : List Byte) (item : CfgItem), a = s.at_ t → tilePowered a tile = true → frameGood tile false ok (slotDue a tile (a.link.get tile).downSilent (bits (u8 bytes 1) 0 4)) dev bytes = false → 
    exec (.tileDownstreamFrame t tile ok dev bytes item) s = .next (modLink tile (downJudge false (bytes.getD 0 0) a.now) a)) ∧
  (∀ (s a : State) (t : Time) (tile : Fin 12) (ok : Bool) (dev : Nat) (bytes : List Byte) (rep : UpReport), a = s.at_ t → upReceiver a tile = true → frameGood tile true ok (slotDue a tile (a.link.get tile).upSilent (bits (u8 bytes 1) 0 4)) dev bytes = true → (a.link.get tile).upSilent = false → 
    exec (.hubUpstreamFrame t tile ok dev bytes rep) s = .next (upAct tile (bits (u8 bytes 1) 0 4) bytes rep (modLink tile (upJudge true (bytes.getD 0 0) a.now) a))) ∧
  (∀ (s a : State) (t : Time) (tile : Fin 12) (ok : Bool) (dev : Nat) (bytes : List Byte) (rep : UpReport), a = s.at_ t → upReceiver a tile = true → frameGood tile true ok (slotDue a tile (a.link.get tile).upSilent (bits (u8 bytes 1) 0 4)) dev bytes = false → 
    exec (.hubUpstreamFrame t tile ok dev bytes rep) s = .next (modLink tile (upJudge false (bytes.getD 0 0) a.now) a)) ∧
  (∀ (s a : State) (t : Time) (tile : Fin 12) (d0 d1 : Byte), a = s.at_ t → upReceiver a tile = true → (a.link.get tile).upSilent = false → d1 = ~~~d0 → bits d0.toNat 5 3 = 0 → rehOf a = none → a.eng.comp.list.getD (16 * tile.val + 2 * bits d0.toNat 0 3 + bits d0.toNat 3 1) false ≠ bitOf d0.toNat 4 → 
    exec (.comparatorFlash t tile d0 d1) s = .next (evalLits 10 [16 * tile.val + 2 * bits d0.toNat 0 3 + bits d0.toNat 3 1] { a with eng := { a.eng with
      comp := a.eng.comp.allIdx fun i b => if i = 16 * tile.val + 2 * bits d0.toNat 0 3 + bits d0.toNat 3 1 then bitOf d0.toNat 4 else b } })) ∧
  (∀ (s a : State) (t : Time) (tile : Fin 12) (d0 d1 : Byte), a = s.at_ t → upReceiver a tile = true → (a.link.get tile).upSilent = false → d1 = ~~~d0 → bits d0.toNat 5 3 = 0 → 
    exec (.comparatorFlash t tile d0 d1) s = .next (beside (compTake (16 * tile.val + 2 * bits d0.toNat 0 3 + bits d0.toNat 3 1) (bitOf d0.toNat 4)) a)) ∧
  (∀ (s a : State) (t : Time) (tile : Fin 12) (d0 d1 : Byte), a = s.at_ t → tileHears a tile = true → d1 = ~~~d0 → bits d0.toNat 4 4 = 0 → bitOf d0.toNat 3 = true → 
    exec (.hubReflexFlash t tile d0 d1) s = .next (refresh (chanAt tile ⟨bits d0.toNat 0 3, Nat.mod_lt _ (by decide)⟩)
      (modLev (chanAt tile ⟨bits d0.toNat 0 3, Nat.mod_lt _ (by decide)⟩) (fun l => { l with hubReflex := none }) a))) ∧
  (∀ (s a : State) (t : Time) (tile : Fin 12) (d0 d1 : Byte), a = s.at_ t → upReceiver a tile = true → (a.link.get tile).upSilent = false → d0 = 1 → d1 = ~~~d0 → 
    exec (.noticeFlash t tile d0 d1) s = .next (raise (0x080 + tile.val) (yieldIf 2 tile.val a))) ∧
  (∀ (s a : State) (t : Time) (tile : Fin 12) (d0 d1 : Byte), a = s.at_ t → upReceiver a tile = true → (a.link.get tile).upSilent = false → d0 = 2 → d1 = ~~~d0 → 
    exec (.noticeFlash t tile d0 d1) s = .next (raise (0x070 + tile.val) a)) ∧
  (∀ (s a : State) (t : Time) (tile : Fin 12) (d0 d1 : Byte), a = s.at_ t → upReceiver a tile = true → (a.link.get tile).upSilent = false → d1 ≠ ~~~d0 → 
    exec (.comparatorFlash t tile d0 d1) s = .next (modLink tile (fun l => { l with badChars := l.badChars + 1 }) a))

/-- Silence at the tile ends its direction, stops its modems, and makes a LIVE tile hold or fall back while any other discards its pending commands; silence at the hub stops its frames, counts, yields or abandons a couch where R378 and R379 say so, and raises the tile-link source as a level; 100 us later downstream frames resume; 64 good frames make a direction good again, at the tile with its reports of discarded commands; FCLK_t locks; a HOLDWIN that ends lets its channel alone fall back; a tile in HOLD or FALLBACK whose conditions hold goes LIVE at T_E of the first epoch that the commit lead allows after the return. -/
def Obligations.TileLinkStateEvents : Prop :=
  (∀ (s a : State) (t : Time) (tile : Fin 12), a = s.at_ t → tilePowered a tile = true → (a.link.get tile).downSilent = false → silentDue (a.link.get tile).downBad (a.link.get tile).downSeen a.now = true → (a.tile.get tile).lockLatch = false → (a.tile.get tile).state = .live → 
    exec (.tileLinkSilent t tile) s = .next (enterHold tile (forEach (tileChans tile) modemStop (modLink tile (fun l => { l with downSilent := true, downGood := 0, fclk := false, stepDue := false }) a)))) ∧
  (∀ (s a : State) (t : Time) (tile : Fin 12), a = s.at_ t → hubUp a = true → (a.link.get tile).hubSilent = false → (a.link.get tile).upSilent = true ∨ silentDue (a.link.get tile).upBad (a.link.get tile).upSeen a.now = true ∨ (a.link.get tile).tileSays = true → 
    exec (.hubLinkSilent t tile) s = .next (keepSync (forEach (tileChans tile) hartInterrupt (raiseLevel (0x030 + tile.val) (beside (fun s => hrefSilent tile (forgetSent tile s)) (yieldIf 3 tile.val (couchCause
      (modLink tile (fun l => { l with
        hubSilent := true
        upSilent := l.upSilent || silentDue (a.link.get tile).upBad (a.link.get tile).upSeen a.now
        upGood := 0
        silences := satInc l.silences 65535
        stoppedAt := some a.now }) a)))))))) ∧
  (∀ (s a : State) (t : Time) (tile : Fin 12) (b : Time), a = s.at_ t → hubUp a = true → (a.link.get tile).hubSilent = true → (a.link.get tile).stoppedAt = some b → b + us 100 ≤ a.now → 
    exec (.hubLinkResume t tile) s = .next (modLink tile (fun l => { l with stoppedAt := none }) a)) ∧
  (∀ (s a : State) (t : Time) (tile : Fin 12) (up : Bool), a = s.at_ t → up = true → upReceiver a tile = true → (a.link.get tile).upSilent = true → linkGoodDue (a.link.get tile).upGood (a.link.get tile).upSeen a.now = true → 
    exec (.linkGood t tile up) s = .next (hubLinkUp tile (modLink tile (fun l => { l with upSilent := false, upBad := 0 }) a))) ∧
  (∀ (s a : State) (t : Time) (tile : Fin 12) (up : Bool), a = s.at_ t → up = false → tilePowered a tile = true → (a.link.get tile).downSilent = true → linkGoodDue (a.link.get tile).downGood (a.link.get tile).downSeen a.now = true → 
    exec (.linkGood t tile up) s = .next (modTile tile (fun x => { x with tacks := x.tacks ++ x.discarded, discarded := [] })
      (modLink tile (fun l => { l with downSilent := false, downBad := 0, stepDue := true }) a))) ∧
  (∀ (s a : State) (t : Time) (tile : Fin 12), a = s.at_ t → tilePowered a tile = true → (a.link.get tile).downSilent = false → (a.link.get tile).fclk = false → 
    exec (.fclkLock t tile) s = .next (modLink tile (fun l => { l with fclk := true, stepDue := true }) a)) ∧
  (∀ (s a : State) (t : Time) (k : Fin 96) (w : Nat) (e : Time), a = s.at_ t → (a.tile.get (tileOf k)).state = .hold → (a.chan.get k).lev.holding = true → (a.chan.get k).lev.holdEnd = some e → holdwin (safeRec a k) = some w → e ≤ a.now + ms w / 200 → 
    exec (.holdwinExpiry t k) s = .next (if (outsOf (fallBack k a) (tileOf k)).any (fun j => ((fallBack k a).chan.get j).lev.holding) then fallBack k a
      else modTile (tileOf k) (fun x => { x with state := .fallback }) (fallBack k a))) ∧
  (∀ (s a : State) (t : Time) (tile : Fin 12), a = s.at_ t → restorable a tile = true → atBoundary a = true → leadPassed a tile = true → (a.tile.get tile).state = .hold ∨ (a.tile.get tile).state = .fallback → 
    exec (.tileRestore t tile) s = .next (goLive tile a))

/-- At a powered tile whose downstream direction is good and that has no LOCK latched: SET and DUTY with a legal value become the pending entry of their handle in the slot's partition, or the level-5 entry of the MGT slot, or run at once as LATE; a handle outside the partition or already pending draws REJ_HANDLE, an illegal value REJ_OP; REPLACE and CANCEL act on the pending entry of their handle before its stamp and report REPLACED or CANCELLED, at or after it they report TOOLATE, and a CANCEL that finds none reports TOOLATE or REJ_HANDLE; RELEASE in the MGT slot releases level 5, or the level 6 of the partition that its handle names; a reserved OP draws REJ_OP; NOP changes nothing. -/
def Obligations.TimedCommandsReceived : Prop :=
  (∀ (s a : State) (t : Time) (tile : Fin 12) (slot : Nat) (c : Fin 8) (handle : Byte) (stamp : Word) (value : BitVec 16), a = s.at_ t → tileHears a tile = true → slot ≠ 15 → inPart a tile slot handle.toNat = true → pendingAt a tile handle.toNat = none → setLegal (tileRec a (chanAt tile c)) false value = true → 
    exec (.tcmdSet t tile slot c handle stamp value) s = .next (holdOrRun tile { kind := (.buf handle.toNat slot), c := c, duty := false, stamp := stamp, value := value } a)) ∧
  (∀ (s a : State) (t : Time) (tile : Fin 12) (slot : Nat) (c : Fin 8) (handle : Byte) (stamp : Word) (value : BitVec 16), a = s.at_ t → tileHears a tile = true → slot = 15 → handle = 0 → setLegal (tileRec a (chanAt tile c)) false value = true → ((a.tile.get tile).pend.any (fun x => x.kind == .l5 && x.c == c) = false) → 
    exec (.tcmdSet t tile slot c handle stamp value) s = .next (holdOrRun tile { kind := .l5, c := c, duty := false, stamp := stamp, value := value } a)) ∧
  (∀ (s a : State) (t : Time) (tile : Fin 12) (slot : Nat) (c : Fin 8) (handle : Byte) (stamp : Word) (value : BitVec 16), a = s.at_ t → tileHears a tile = true → slot ≠ 15 → inPart a tile slot handle.toNat = false ∨ (pendingAt a tile handle.toNat).isSome = true → 
    exec (.tcmdSet t tile slot c handle stamp value) s = .next (tack tile handle.toNat 8 a)) ∧
  (∀ (s a : State) (t : Time) (tile : Fin 12) (slot : Nat) (c : Fin 8) (handle : Byte) (stamp : Word) (value : BitVec 16), a = s.at_ t → tileHears a tile = true → slot ≠ 15 → inPart a tile slot handle.toNat = true → pendingAt a tile handle.toNat = none → setLegal (tileRec a (chanAt tile c)) false value = false → 
    exec (.tcmdSet t tile slot c handle stamp value) s = .next (tack tile handle.toNat 9 a)) ∧
  (∀ (s a : State) (t : Time) (tile : Fin 12) (slot : Nat) (c : Fin 8) (handle : Byte) (stamp : Word) (value : BitVec 16), a = s.at_ t → tileHears a tile = true → slot ≠ 15 → inPart a tile slot handle.toNat = true → pendingAt a tile handle.toNat = none → setLegal (tileRec a (chanAt tile c)) true value = true → 
    exec (.tcmdDuty t tile slot c handle stamp value) s = .next (holdOrRun tile { kind := (.buf handle.toNat slot), c := c, duty := true, stamp := stamp, value := value } a)) ∧
  (∀ (s a : State) (t : Time) (tile : Fin 12) (slot : Nat) (c : Fin 8) (handle : Byte) (stamp : Word) (value : BitVec 16), a = s.at_ t → tileHears a tile = true → slot = 15 → handle = 0 → setLegal (tileRec a (chanAt tile c)) true value = true → ((a.tile.get tile).pend.any (fun x => x.kind == .l5 && x.c == c) = false) → 
    exec (.tcmdDuty t tile slot c handle stamp value) s = .next (holdOrRun tile { kind := .l5, c := c, duty := true, stamp := stamp, value := value } a)) ∧
  (∀ (s a : State) (t : Time) (tile : Fin 12) (slot : Nat) (c : Fin 8) (handle : Byte) (stamp : Word) (value : BitVec 16), a = s.at_ t → tileHears a tile = true → slot ≠ 15 → inPart a tile slot handle.toNat = false ∨ (pendingAt a tile handle.toNat).isSome = true → 
    exec (.tcmdDuty t tile slot c handle stamp value) s = .next (tack tile handle.toNat 8 a)) ∧
  (∀ (s a : State) (t : Time) (tile : Fin 12) (slot : Nat) (c : Fin 8) (handle : Byte) (stamp : Word) (value : BitVec 16), a = s.at_ t → tileHears a tile = true → slot ≠ 15 → inPart a tile slot handle.toNat = true → pendingAt a tile handle.toNat = none → setLegal (tileRec a (chanAt tile c)) true value = false → 
    exec (.tcmdDuty t tile slot c handle stamp value) s = .next (tack tile handle.toNat 9 a)) ∧
  (∀ (s a : State) (t : Time) (tile : Fin 12) (slot : Nat) (c : Fin 8) (handle : Byte) (stamp : Word) (value : BitVec 16) (e : TEntry), a = s.at_ t → tileHears a tile = true → inPart a tile slot handle.toNat = true → pendingAt a tile handle.toNat = some e → stampReached a tile e.stamp = false → setLegal (tileRec a (chanAt tile e.c)) e.duty value = true → 
    exec (.tcmdReplace t tile slot c handle stamp value) s = .next (holdOrRun tile { e with stamp := stamp, value := value }
      (tack tile handle.toNat 2 (modTile tile (fun x => { x with pend := x.pend.filter (fun y => y != e) }) a)))) ∧
  (∀ (s a : State) (t : Time) (tile : Fin 12) (slot : Nat) (c : Fin 8) (handle : Byte) (stamp : Word) (value : BitVec 16) (e : TEntry), a = s.at_ t → tileHears a tile = true → inPart a tile slot handle.toNat = true → pendingAt a tile handle.toNat = some e → stampReached a tile e.stamp = true → 
    exec (.tcmdReplace t tile slot c handle stamp value) s = .next (tack tile handle.toNat 4 a)) ∧
  (∀ (s a : State) (t : Time) (tile : Fin 12) (slot : Nat) (c : Fin 8) (handle : Byte) (stamp : Word) (value : BitVec 16) (e : TEntry), a = s.at_ t → tileHears a tile = true → inPart a tile slot handle.toNat = true → pendingAt a tile handle.toNat = some e → stampReached a tile e.stamp = false → 
    exec (.tcmdCancel t tile slot c handle stamp value) s = .next (tack tile handle.toNat 3 (modTile tile (fun x => { x with pend := x.pend.filter (fun y => y != e) }) a))) ∧
  (∀ (s a : State) (t : Time) (tile : Fin 12) (slot : Nat) (c : Fin 8) (handle : Byte) (stamp : Word) (value : BitVec 16) (e : TEntry), a = s.at_ t → tileHears a tile = true → inPart a tile slot handle.toNat = true → pendingAt a tile handle.toNat = some e → stampReached a tile e.stamp = true → 
    exec (.tcmdCancel t tile slot c handle stamp value) s = .next (tack tile handle.toNat 4 a)) ∧
  (∀ (s a : State) (t : Time) (tile : Fin 12) (slot : Nat) (c : Fin 8) (handle : Byte) (stamp : Word) (value : BitVec 16), a = s.at_ t → tileHears a tile = true → inPart a tile slot handle.toNat = true → pendingAt a tile handle.toNat = none → 
    exec (.tcmdCancel t tile slot c handle stamp value) s = .next (tack tile handle.toNat (if (a.tile.get tile).ran.contains handle.toNat then 4 else 8) a)) ∧
  (∀ (s a : State) (t : Time) (tile : Fin 12) (slot : Nat) (c : Fin 8) (handle : Byte) (stamp : Word) (value : BitVec 16), a = s.at_ t → tileHears a tile = true → slot = 15 → handle = 0 → 
    exec (.tcmdRelease t tile slot c handle stamp value) s = .next (holdOrRun tile { kind := .l5rel, c := c, duty := false, stamp := stamp, value := 0 } a)) ∧
  (∀ (s a : State) (t : Time) (tile : Fin 12) (slot : Nat) (c : Fin 8) (handle : Byte) (stamp : Word) (value : BitVec 16) (sl : Nat), a = s.at_ t → tileHears a tile = true → slot = 15 → handle ≠ 0 → slotOf a tile handle.toNat = some sl → 
    exec (.tcmdRelease t tile slot c handle stamp value) s = .next (holdOrRun tile { kind := .l6rel handle.toNat sl, c := c, duty := false, stamp := stamp, value := 0 } a)) ∧
  (∀ (s a : State) (t : Time) (tile : Fin 12) (slot : Nat) (c : Fin 8) (handle : Byte) (stamp : Word) (value : BitVec 16) (op : BitVec 5), a = s.at_ t → tileHears a tile = true → 
    exec (.tcmdReservedOp t tile slot c op handle stamp value) s = .next (tack tile handle.toNat 9 a)) ∧
  (∀ (s a : State) (t : Time) (tile : Fin 12) (slot : Nat) (c : Fin 8) (handle : Byte) (stamp : Word) (value : BitVec 16), a = s.at_ t → 
    exec (.tcmdNop t tile slot c handle stamp value) s = .next a)

/-- Entries whose stamp is the present tile time execute in order of receipt; a report removes itself at the tile and updates the lane whose command it names; RESTORE_ACK releases level 3 in a LIVE tile and ends the wait for it in any other; a partition reset cancels its entries; a configuration commit completes the shadow bank of a LIVE tile and is taken at once by any other; a role change waits for its stamp, and at it every unlatched powered tile takes its role; LOCK latches the tile. -/
def Obligations.TimedCommandsTakingEffect : Prop :=
  (∀ (s a : State) (t : Time) (tile : Fin 12) (stamp : Word), a = s.at_ t → tilePowered a tile = true → (a.tile.get tile).lockLatch = false → tileTick a tile = stamp.toNat → 
    exec (.tcmdExecute t tile stamp) s = .next (runEntries tile 0 ((a.tile.get tile).pend.filter (fun e => e.stamp == stamp)) a)) ∧
  (∀ (s a : State) (t : Time) (tile : Fin 12) (c : Fin 8) (handle : Byte) (code : Nat) (ticks : Word) (slot : Nat) (n : Fin 96) (cmd : LaneCmd), a = s.at_ t → upReceiver a tile = true → (a.link.get tile).upSilent = false → (a.link.get tile).downSilent = false → (laneOfReport (modTile tile (fun x => { x with tacks := x.tacks.filter (fun k => !(k.handle == handle && k.code == code && k.ticks == ticks)) }) a) tile slot handle.toNat code = some (n, cmd)) → 
    exec (.tackReport t tile c handle code ticks slot) s = .next (laneReport n cmd code ticks (modTile tile (fun x => { x with tacks := x.tacks.filter (fun k => !(k.handle == handle && k.code == code && k.ticks == ticks)) }) a))) ∧
  (∀ (s a : State) (t : Time) (tile : Fin 12) (c : Fin 8), a = s.at_ t → tileHears a tile = true → (a.chan.get (chanAt tile c)).lev.ackWait = true → (a.tile.get tile).state = .live → 
    exec (.mgtRestoreAck t tile c) s = .next (refresh (chanAt tile c) (modLev (chanAt tile c) (fun l => { l with l3 := none, ackWait := false, fell := false, l7 := baseDrive a (chanAt tile c) }) a))) ∧
  (∀ (s a : State) (t : Time) (tile : Fin 12) (c : Fin 8), a = s.at_ t → tileHears a tile = true → (a.chan.get (chanAt tile c)).lev.ackWait = true → (a.tile.get tile).state ≠ .live → 
    exec (.mgtRestoreAck t tile c) s = .next (refresh (chanAt tile c) (modLev (chanAt tile c) (fun l => { l with ackWait := false, fell := l.fell && !l.holding }) a))) ∧
  (∀ (s a : State) (t : Time) (tile : Fin 12) (slot : Nat), a = s.at_ t → tileHears a tile = true → 
    exec (.mgtPartitionReset t tile slot) s = .next (cancelWhere tile (fun e => match e.kind with | .buf _ sl => sl == slot | _ => false) a)) ∧
  (∀ (s a : State) (t : Time) (tile : Fin 12), a = s.at_ t → tileHears a tile = true → (a.tile.get tile).state = .live → 
    exec (.mgtConfigCommit t tile) s = .next (modTile tile (fun x => { x with shadow := some (a.tile.get tile).loading }) (modTile tile (fun x => { x with loading := {} }) a))) ∧
  (∀ (s a : State) (t : Time) (tile : Fin 12), a = s.at_ t → tileHears a tile = true → (a.tile.get tile).state ≠ .live → 
    exec (.mgtConfigCommit t tile) s = .next (switchBank tile (a.tile.get tile).loading (modTile tile (fun x => { x with shadow := none }) (modTile tile (fun x => { x with loading := {} }) a)))) ∧
  (∀ (s a : State) (t : Time) (tile : Fin 12) (standby partnered : Bool) (stamp : Word), a = s.at_ t → tileHears a tile = true → stampLate a tile stamp = false → 
    exec (.roleChange t tile standby partnered stamp) s = .next (modTile tile (fun x => { x with roleAt := some { stamp := stamp, standby := standby, partnered := partnered } }) a)) ∧
  (∀ (s a : State) (t : Time) (tile : Fin 12) (standby partnered : Bool) (stamp : Word), a = s.at_ t → tileHears a tile = true → stampLate a tile stamp = true → 
    exec (.roleChange t tile standby partnered stamp) s = .next (tileRole tile standby partnered a)) ∧
  (∀ (s a : State) (t : Time) (stamp : Word), a = s.at_ t → a.pair.yielding = false → 
    exec (.roleChangeApply t stamp) s = .next (forEach (List.finRange 12) (fun x z => match roleDueAt z stamp x with
        | some r => tileRole x r.standby r.partnered z
        | none => z) a)) ∧
  (∀ (s a : State) (t : Time) (tile : Fin 12), a = s.at_ t → tileHears a tile = true → (a.tile.get tile).partnered = false → outputsAct (a.tile.get tile) = true → 
    exec (.tileLock t tile) s = .next (refreshTile tile (modTile tile (fun x => { x with lockLatch := true, state := if outputsAct x then .fallback else x.state }) (forEach (outsOf a tile) fallBack a)))) ∧
  (∀ (s a : State) (t : Time) (tile : Fin 12), a = s.at_ t → tileHears a tile = true → (a.tile.get tile).partnered = true → 
    exec (.tileLock t tile) s = .next (refreshTile tile (modTile tile (fun x => { x with lockLatch := true, state := if outputsAct x then .fallback else x.state }) (tileRole tile true true a))))

/-- In a configured powered tile, for a comparator that has a source: a value at or above its rising threshold sets it, one at or below its falling threshold clears it, and one between them, or one that is no number, changes nothing (that the thresholds themselves decide is the model's reading, log entry 155); a comparator that changes evaluates the entries that use it and tells the hub; an entry whose condition has held for its count of FCLK cycles fires; a fast sense conversion joins, as the code of the quantity that SENSE names, the count, the sum and the peak of the present epoch of the channel in turn, or of the one that a diagnostic slot claims in its time, and then the turn stays (the model's choice, log entry 122). -/
def Obligations.TileComparatorEvents : Prop :=
  (∀ (s a : State) (t : Time) (k : Fin 96) (cmpB : Bool) (value : Word), a = s.at_ t → tilePowered a (tileOf k) = true → (a.tile.get (tileOf k)).bank.isSome = true → chCmpSrc (tileRec a k) cmpB ≠ 0 → f32 value ≠ .nan → (ltF value (w32 (tileRec a k) (if cmpB then 56 else 48)) = false) → 
    exec (.comparatorDecision t k cmpB value) s = .next (comparatorSet k cmpB true a)) ∧
  (∀ (s a : State) (t : Time) (k : Fin 96) (cmpB : Bool) (value : Word), a = s.at_ t → tilePowered a (tileOf k) = true → (a.tile.get (tileOf k)).bank.isSome = true → chCmpSrc (tileRec a k) cmpB ≠ 0 → f32 value ≠ .nan → (ltF value (w32 (tileRec a k) (if cmpB then 56 else 48)) = true) → (ltF (w32 (tileRec a k) (if cmpB then 60 else 52)) value = false) → 
    exec (.comparatorDecision t k cmpB value) s = .next (comparatorSet k cmpB false a)) ∧
  (∀ (s a : State) (t : Time) (k : Fin 96) (cmpB : Bool) (value : Word), a = s.at_ t → tilePowered a (tileOf k) = true → (a.tile.get (tileOf k)).bank.isSome = true → chCmpSrc (tileRec a k) cmpB ≠ 0 → (f32 value = .nan ∨ ltF value (w32 (tileRec a k) (if cmpB then 56 else 48)) = true ∧ ltF (w32 (tileRec a k) (if cmpB then 60 else 52)) value = true) → 
    exec (.comparatorDecision t k cmpB value) s = .next a) ∧
  (∀ (s a : State) (t : Time) (tile : Fin 12) (entry : Nat) (r : Rec) (b : Time), a = s.at_ t → ((trefRecs a tile).find? (fun r => trEntry r == entry) = some r) → reflexActs (a.tile.get tile) = true → (trefSt (a.tile.get tile) entry).fired = false → (trefSt (a.tile.get tile) entry).since = some b → tileSpan a tile b (5 * trQual r) = true → trHolds r 16 (cmpBits a tile) = true → 
    exec (.tileReflexQualExpiry t tile entry) s = .next (fireTref tile r a)) ∧
  (∀ (s a : State) (t : Time) (tile : Fin 12) (code : SenseIn), a = s.at_ t → tilePowered a tile = true → (a.sns.get tile).claimed = none → 
    exec (.fastSenseConversion t tile code) s = .next ({ a with sns := a.sns.upd tile fun x =>
        { senseAdd (senseEpoch a) x.next (senseCode (tileRec a (chanAt tile x.next)) code) x with next := x.next + 1 } })) ∧
  (∀ (s a : State) (t : Time) (tile : Fin 12) (code : SenseIn) (c : Fin 8) (stop : Time), a = s.at_ t → tilePowered a tile = true → (a.sns.get tile).claimed = some (c, stop) → a.now < stop → 
    exec (.fastSenseConversion t tile code) s = .next ({ a with sns := a.sns.upd tile (senseAdd (senseEpoch a) c (senseCode (tileRec a (chanAt tile c)) code)) }))

/-- On a channel with a protected switch (of a paired output either switch counts for the channel that leads the pair): regulation begins and ends; a short (below the present LPt - 3 V for 20 us while regulating) and an overload (100 ms of regulating otherwise) cut the switch off; the cut-off ends after RETRYT unless it is latched; a junction at 175 C (less its tolerance) of either switch shuts both down, counted, latching at the sixteenth within 60 s; below 155 C the shutdown of a sensor that is not latched ends (of a pair, each sensor has its own); each changes the protection bits through the shared item that tells the partner. -/
def Obligations.ProtectedSwitchEvents : Prop :=
  (∀ (s a : State) (t : Time) (j k : Fin 96) (term : Int) (lpt : Nat) (held : Time), a = s.at_ t → mainChan a j = k → hasSwitch a k = true → (a.chan.get k).sw.on = true → (a.chan.get k).sw.limiting = true → (a.chan.get k).sw.cut = none → term < (lpt : Int) - 3000 → us 20 ≤ held → 
    exec (.shortVerdict t j ⟨term, lpt⟩ held) s = .next (cutOff k .short a)) ∧
  (∀ (s a : State) (t : Time) (j k : Fin 96) (term : Int) (lpt : Nat) (held : Time), a = s.at_ t → mainChan a j = k → hasSwitch a k = true → (a.chan.get k).sw.on = true → (a.chan.get k).sw.limiting = true → (a.chan.get k).sw.cut = none → (lpt : Int) - 3000 ≤ term → ms 100 ≤ held → 
    exec (.overloadVerdict t j ⟨term, lpt⟩ held) s = .next (cutOff k .overload a)) ∧
  (∀ (s a : State) (t : Time) (k : Fin 96) (u : Cut), a = s.at_ t → hasSwitch a k = true → (a.chan.get k).sw.cut = some u → u.latched = false → tileSpan a (tileOf k) (u.ends - ms (chRetryt (tileRec a k))) (ms (chRetryt (tileRec a k))) = true → 
    exec (.retrytExpiry t k) s = .next (protecting k (withRefresh k (modSw k (fun w => { w with cut := none }))) a)) ∧
  (∀ (s a : State) (t : Time) (j k : Fin 96) (temp : Int), a = s.at_ t → mainChan a j = k → hasSwitch a k = true → sensorStands (k != j) (a.chan.get k).sw = false → 1700 ≤ temp → (lastMinute a.now (a.chan.get k).sw.thermTimes).length < 15 → 
    exec (.thermalShutdown t j temp) s = .next (modPat k (fun p => { p with thermals := p.thermals + 1 }) (protecting k (withRefresh k (judgedSw k (fun w => { sensorHot (k != j) true temp w with
        thermLatch := w.thermLatch, thermTimes := a.now :: lastMinute a.now (a.chan.get k).sw.thermTimes }))) a))) ∧
  (∀ (s a : State) (t : Time) (j k : Fin 96) (temp : Int), a = s.at_ t → mainChan a j = k → hasSwitch a k = true → sensorStands (k != j) (a.chan.get k).sw = false → 1700 ≤ temp → 15 ≤ (lastMinute a.now (a.chan.get k).sw.thermTimes).length → 
    exec (.thermalShutdown t j temp) s = .next (recordLatch k 1 2 0 (modPat k (fun p => { p with thermals := p.thermals + 1 }) (protecting k (withRefresh k (judgedSw k (fun w => { sensorHot (k != j) true temp w with
        thermLatch := true, thermTimes := a.now :: lastMinute a.now (a.chan.get k).sw.thermTimes }))) a)))) ∧
  (∀ (s a : State) (t : Time) (j k : Fin 96) (temp : Int), a = s.at_ t → mainChan a j = k → hasSwitch a k = true → sensorStands (k != j) (a.chan.get k).sw = true → temp < 1550 → 
    exec (.thermalCooled t j temp) s = .next (protecting k (withRefresh k (modSw k (fun w => sensorHot (k != j) w.thermLatch temp w))) a)) ∧
  (∀ (s a : State) (t : Time) (j k : Fin 96) (current : Nat), a = s.at_ t → mainChan a j = k → hasSwitch a k = true → (a.chan.get k).sw.on = true → (ceilingOf a k - (if 30 < ceilingOf a k * 7 / 100 then ceilingOf a k * 7 / 100 else 30) ≤ (current : Rat)) → 
    exec (.currentLimit t j current) s = .next (protecting k (modSw k (fun w => { w with limiting := true })) a)) ∧
  (∀ (s a : State) (t : Time) (j k : Fin 96), a = s.at_ t → mainChan a j = k → hasSwitch a k = true → (a.chan.get k).sw.limiting = true → 
    exec (.currentBelowCeiling t j) s = .next (protecting k (modSw k (fun w => { w with limiting := false })) a))

/-- TPEAK ends and the switch regulates at IHOLD; a capacitive ramp ends within 0.5 V of the present LPt; a clamp event's energy joins its window and CLAMPLOCK is judged; above the event limit the clamp stage is disabled too, and is enabled again after 100 ms at or above LMt - 1.0 V; the bins roll; more than 20 A (less tolerance) for 10 ms cuts off the switches above their nominal current, or all that are on, and raises 0x040 + t; a stable SSEL code is taken; a mirror check within 10 % plus 50 mA ends the run of differences. A PWM period that begins, by the grid or within the drift of a tile whose FCLK_t runs free, takes a waiting word and starts its on time; an on time that has passed ends the pulse; a train's due pulse starts, or the train ends after PCOUNT pulses; the terminal follows. -/
def Obligations.SwitchWaveformAndClampEvents : Prop :=
  (∀ (s a : State) (t : Time) (k : Fin 96) (e : Time), a = s.at_ t → hasSwitch a k = true → (a.chan.get k).sw.peakEnd = some e → e ≤ a.now → 
    exec (.valveTpeakEnd t k) s = .next (modSw k (fun w => { w with peakEnd := none, hold := some (ihold (profRecs a k) (tileRec a k)) }) a)) ∧
  (∀ (s a : State) (t : Time) (k : Fin 96) (term : Int) (lpt : Nat), a = s.at_ t → hasSwitch a k = true → (a.chan.get k).sw.ramping = true → (lpt : Int) ≤ term + 500 → 
    exec (.capRampEnd t k ⟨term, lpt⟩) s = .next (modSw k (fun w => { w with ramping := false, slew := 0 }) a)) ∧
  (∀ (s a : State) (t : Time) (j : Fin 96) (energy : Nat), a = s.at_ t → 
    exec (.clampEventEnd t j energy) s = .next (clampEnergy (mainChan a j) energy a)) ∧
  (∀ (s a : State) (t : Time) (j k : Fin 96) (energy : Nat), a = s.at_ t → mainChan a j = k → (a.chan.get k).sw.clampOff = false → eventLimit (tileRec a k) < energy → 
    exec (.clampEnergyLimit t j energy) s = .next (refresh k (modSw k (fun w => { w with clampOff := true }) (clampEnergy k energy a)))) ∧
  (∀ (s a : State) (t : Time) (j k : Fin 96) (term : Int) (held : Time), a = s.at_ t → mainChan a j = k → (a.chan.get k).sw.clampOff = true → -1000 ≤ term → ms 100 ≤ held → 
    exec (.clampStageReenable t j term held) s = .next (refresh k (modSw k (fun w => { w with clampOff := false }) a))) ∧
  (∀ (s a : State) (t : Time) (tile : Fin 12), a = s.at_ t → tilePowered a tile = true → 
    exec (.clampBinRoll t tile) s = .next (forEach (tileChans tile) (fun k z => modSw k (fun w => { w with bins := if ((0 :: w.bins).take 100).all (· == 0) then [] else (0 :: w.bins).take 100 }) z) a)) ∧
  (∀ (s a : State) (t : Time) (tile : Fin 12) (currents : List Nat) (held : Time) (amps : Fin 96 → Nat) (on above : List (Fin 96)), a = s.at_ t → tilePowered a tile = true → (amps = (fun k => if switching (tileRec a k) then currents.getD (chanIn k).val 0 + (if chPairw (tileRec a k) then currents.getD ((chanIn k).val + 1) 0 else 0) else 0)) → 19000 < ((tileChans tile).map amps).foldl (· + ·) 0 → ms 9 ≤ held → (on = (tileChans tile).filter (fun k => switching (tileRec a k) && (a.chan.get k).sw.on)) → (above = on.filter (fun k => decide ((chInom (tileRec a k) : Rat) * multiplier a k < (amps k : Rat)))) → 
    exec (.tileTrip t tile currents held) s = .next (raise (0x040 + tile.val) (forEach (if above.isEmpty then on else above) (fun k z => cutOff k .trip z) a))) ∧
  (∀ (s a : State) (t : Time) (tile : Fin 12) (code : Fin 8) (held : Time), a = s.at_ t → tilePowered a tile = true → us 1 ≤ held → 
    exec (.sselCodeTaken t tile code held) s = .next ({ a with sns := a.sns.upd tile fun x => { x with ssel := code } })) ∧
  (∀ (s a : State) (t : Time) (tile : Fin 12) (mirror sense : Nat), a = s.at_ t → tilePowered a tile = true → 10 * (mirror - sense) ≤ sense + 500 → 10 * (sense - mirror) ≤ sense + 500 → 
    exec (.mirrorCheck t tile mirror sense) s = .next ({ a with sns := a.sns.upd tile fun x => { x with mirrorBad := 0 } })) ∧
  (∀ (s a : State) (t : Time) (k : Fin 96), a = s.at_ t → tilePowered a (tileOf k) = true → chFunc (tileRec a k) = .dout → chPgmode (tileRec a k) = 1 → outputsAct (a.tile.get (tileOf k)) = true → pwmPos a k (tileRec a k) < 5 → 
    exec (.pwmPeriodStart t k) s = .next (refresh k (modPg k (fun g => pwmNow a k (tileRec a k) (g.next.getD (g.on, g.duty)).1 (g.next.getD (g.on, g.duty)).2 g) a))) ∧
  (∀ (s a : State) (t : Time) (k : Fin 96), a = s.at_ t → tilePowered a (tileOf k) = true → chFunc (tileRec a k) = .dout → chPgmode (tileRec a k) = 1 → outputsAct (a.tile.get (tileOf k)) = true → 5 ≤ pwmPos a k (tileRec a k) → pwmPeriod (tileRec a k) ≤ pwmPos a k (tileRec a k) + tileDrift a (tileOf k) → 
    exec (.pwmPeriodStart t k) s = .next (refresh k (modPg k (fun g => pwmAt a 0 (tileRec a k) (g.next.getD (g.on, g.duty)).1 (g.next.getD (g.on, g.duty)).2 g) a))) ∧
  (∀ (s a : State) (t : Time) (k : Fin 96) (e : Time), a = s.at_ t → tilePowered a (tileOf k) = true → chPgmode (tileRec a k) ≠ 0 → (a.chan.get k).pg.offAt = some e → tileSpan a (tileOf k) (e - dutyTime (tileRec a k) (a.chan.get k).pg.duty) (dutyTime (tileRec a k) (a.chan.get k).pg.duty) = true → 
    exec (.pwmOnTimeEnd t k) s = .next (refresh k (modPg k (fun g => { g with out := false, offAt := none }) a))) ∧
  (∀ (s a : State) (t : Time) (k : Fin 96) (e : Time), a = s.at_ t → tilePowered a (tileOf k) = true → chFunc (tileRec a k) = .dout → chPgmode (tileRec a k) = 2 → (a.chan.get k).pg.nextAt = some e → tileSpan a (tileOf k) (e - pwmPeriod (tileRec a k)) (pwmPeriod (tileRec a k)) = true → 
    exec (.trainPulse t k) s = .next (refresh k (modPg k (fun g => if g.left = 0 then { g with nextAt := none } else trainStart a (tileRec a k) g) a)))

/-- A conversion of a due index on an analog channel of a tile that is on (an input only outside STANDBY) updates the value, or the lead resistance or the test result where it is a lead or test conversion; headroom below 400 mV for over 2 ms sets COMPL (and ALMLO with COMPLACT = LOW on AOI), 600 mV or more for 2 ms clears it, and the predicted headroom for 1 s ends the LOW action; the sink of a limiting input opens for 1 s above 2,500 mV for 1 ms and is retried then; the analog limit sets and clears LIMIT. A press of at least 20 ms of both lines is ignored; one line's press, both having been released for 20 ms before it, notes its first repeat (1 s after it went low) and acts on the armed channel; a held press repeats each 200 ms after 1 s on an output channel; 600 s after arming the channel is disarmed. -/
def Obligations.AnalogChannelEvents : Prop :=
  (∀ (s a : State) (t : Time) (k : Fin 96) (x aux : Word) (n : Nat), a = s.at_ t → n = convNow a k (chRate (tileRec a k)) → (a.tile.get (tileOf k)).state ≠ .off → isAnalogF (chFunc (tileRec a k)) = true → isOutF (chFunc (tileRec a k)) = true ∨ inputOn (chFunc (tileRec a k)) (a.tile.get (tileOf k)).standby (a.chan.get k).lev.share = true → (a.chan.get k).ana.restart = true ∨ (a.chan.get k).ana.n ≠ n → (a.chan.get k).ana.startAt < 2 * convInstant n (chRate (tileRec a k)) → isLead (tileRec a k) n = false → isTcTest (tileRec a k) n = false → 
    exec (.adcConversion t k x aux) s = .next (convert k n (tileRec a k) x aux a)) ∧
  (∀ (s a : State) (t : Time) (k : Fin 96) (x aux : Word) (n : Nat), a = s.at_ t → n = convNow a k (chRate (tileRec a k)) → (a.tile.get (tileOf k)).state ≠ .off → isLead (tileRec a k) n = true → inputOn (chFunc (tileRec a k)) (a.tile.get (tileOf k)).standby (a.chan.get k).lev.share = true → (a.chan.get k).ana.restart = true ∨ (a.chan.get k).ana.n ≠ n → (a.chan.get k).ana.startAt < 2 * convInstant n (chRate (tileRec a k)) → 
    exec (.adcConversion t k x aux) s = .next (leadJudge k aux (modAna k (fun x => { x with n := n, restart := false, lead := aux }) a))) ∧
  (∀ (s a : State) (t : Time) (k : Fin 96) (headroom : Int) (held : Time), a = s.at_ t → chFunc (tileRec a k) = .aoi ∨ chFunc (tileRec a k) = .aov → outputsAct (a.tile.get (tileOf k)) = true → headroom < 400 → ms 2 < held → openVerdict a k = false → 
    exec (.complSet t k headroom held) s = .next (refresh k (modAna k (fun x => { x with compl := true, complLow := chFunc (tileRec a k) == .aoi && chComplact (tileRec a k) == 1, almlo := almloCode a k.val (tileRec a k) }) a))) ∧
  (∀ (s a : State) (t : Time) (k : Fin 96) (headroom : Int) (held : Time), a = s.at_ t → (a.chan.get k).ana.compl = true → (a.chan.get k).ana.complLow = false → 600 ≤ headroom → ms 2 ≤ held → 
    exec (.complClear t k headroom held) s = .next (modAna k (fun x => { x with compl := false }) a)) ∧
  (∀ (s a : State) (t : Time) (k : Fin 96) (predicted : Int) (held : Time), a = s.at_ t → (a.chan.get k).ana.complLow = true → 600 ≤ predicted → sec 1 ≤ held → 
    exec (.complactLowReturn t k predicted held) s = .next (refresh k (modAna k (fun x => { x with compl := false, complLow := false }) a))) ∧
  (∀ (s a : State) (t : Time) (k : Fin 96) (burden : Nat) (held : Time), a = s.at_ t → chFunc (tileRec a k) = .aii → (a.chan.get k).sw.limiting = true → (a.chan.get k).ana.sinkOpen = none → 2500 < burden → ms 1 ≤ held → 
    exec (.sinkOpen t k burden held) s = .next (refresh k (modAna k (fun x => { x with sinkOpen := some (a.now + sec 1), valid := false, wasValid := false }) a))) ∧
  (∀ (s a : State) (t : Time) (k : Fin 96) (e : Time), a = s.at_ t → (a.chan.get k).ana.sinkOpen = some e → tileSpan a (tileOf k) (e - sec 1) (sec 1) = true → 
    exec (.sinkRetry t k) s = .next (refresh k (modAna k (fun x => { x with sinkOpen := none }) a))) ∧
  (∀ (s a : State) (t : Time) (k : Fin 96) (x aux : Word) (n : Nat), a = s.at_ t → n = convNow a k (chRate (tileRec a k)) → (a.tile.get (tileOf k)).state ≠ .off → isTcTest (tileRec a k) n = true → inputOn (chFunc (tileRec a k)) (a.tile.get (tileOf k)).standby (a.chan.get k).lev.share = true → (a.chan.get k).ana.restart = true ∨ (a.chan.get k).ana.n ≠ n → (a.chan.get k).ana.startAt < 2 * convInstant n (chRate (tileRec a k)) → 
    exec (.adcConversion t k x aux) s = .next (tcJudge k aux (modAna k (fun x => { x with n := n, restart := false }) a))) ∧
  (∀ (s a : State) (t : Time) (k : Fin 96) (limiting : Bool), a = s.at_ t → tilePowered a (tileOf k) = true → chFunc (tileRec a k) = .aov ∨ chFunc (tileRec a k) = .aii ∧ (limiting = false ∨ chRange (tileRec a k) = 0) → limiting = true ∨ (a.chan.get k).ana.sinkOpen = none → 
    exec (.analogCurrentLimit t k limiting) s = .next (protecting k (modSw k (fun w => { w with limiting := limiting })) a)) ∧
  (∀ (s a : State) (t : Time) (k : Fin 96) (limiting : Bool), a = s.at_ t → tilePowered a (tileOf k) = true → chFunc (tileRec a k) = .aii → chRange (tileRec a k) ≠ 0 → limiting = true → 
    exec (.analogCurrentLimit t k limiting) s = .next (protecting k (fun z => modAna k (fun x => { x with valid := false, wasValid := false }) (modSw k (fun w => { w with limiting := true }) z)) a)) ∧
  (∀ (s a : State) (t : Time) (span both trdHigh : Bool) (held rested : Time), a = s.at_ t → hubUp a = true → ms 20 ≤ held → trimReleased ⟨held, rested⟩ a = true → both = true → 
    exec (.trimPress t span both trdHigh ⟨held, rested⟩) s = .next (ignorePress span { a with nvs := { a.nvs with low := some a.now } })) ∧
  (∀ (s a : State) (t : Time) (span both trdHigh : Bool) (held rested : Time), a = s.at_ t → hubUp a = true → ms 20 ≤ held → trimReleased ⟨held, rested⟩ a = true → both = false → 
    exec (.trimPress t span both trdHigh ⟨held, rested⟩) s = .next (press span trdHigh { a with nvs := { a.nvs with low := some a.now, press := some (span, trdHigh, a.now - held + sec 1) } })) ∧
  (∀ (s a : State) (t : Time) (held : Time) (span up : Bool) (next : Time) (x : Armed), a = s.at_ t → a.nvs.press = some (span, up, next) → a.nvs.armed = some x → hubUp a = true → sec 1 ≤ held → next ≤ a.now → isOutF (chFunc (castRec a x.k.val)) = true → 
    exec (.trimPressRepeat t held) s = .next (press span up { a with nvs := { a.nvs with press := some (span, up, next + ms 200), low := some a.now } })) ∧
  (∀ (s a : State) (t : Time) (x : Armed), a = s.at_ t → hubUp a = true → a.nvs.armed = some x → x.ends ≤ a.now → 
    exec (.trimTimeout t) s = .next (disarm a))

/-- A raw change at a level that the comparator of the channel's type takes starts the filter's run and sets CMPA; a raw state that has held for FILT is accepted: the filtered state, the edge count, the edge's timestamp (its instant less FILT and 0.40 us), a CNT's count where CEDGE names the edge (and the epoch's own entry again, where it falls in the FCLK cycle of T_E); DIVMIN and the 10 V of NAMUR act on every channel concerned of a powered tile; in a tile that is not in STANDBY a NAMUR current outside its limits for 5 ms sets the line fault and within them ends it. -/
def Obligations.DigitalInputEvents : Prop :=
  (∀ (s a : State) (t : Time) (k : Fin 96) (level : Bool) (input : Int), a = s.at_ t → tilePowered a (tileOf k) = true → isDigIn (tileRec a k) = true → comparatorTakes (tileRec a k) level input = true → 
    exec (.inputRawChange t k ⟨level, input⟩) s = .next (comparatorSet k false level (modDig k (fun d => if d.raw = level then d else { d with raw := level, runStart := a.now }) a))) ∧
  (∀ (s a : State) (t : Time) (k : Fin 96), a = s.at_ t → tilePowered a (tileOf k) = true → isDigIn (tileRec a k) = true → chFunc (tileRec a k) = .cnt → (a.chan.get k).dig.raw = true → (a.chan.get k).dig.filt = false → (a.chan.get k).dig.line = none → tileSpan a (tileOf k) (a.chan.get k).dig.runStart (us (chFilt (tileRec a k))) = true → 
    exec (.edgeAccept t k) s = .next (edgeAtGrid (acceptTick a k) k true (comparatorSet k true true (modDig k (fun d =>
      { countEdge (tileRec a k) true (acceptTick a k) (acceptStamp (tileRec a k) (acceptTick a k)) { d with filt := true, edges := d.edges + 1 } with
          lastRise := some (acceptStamp (tileRec a k) (acceptTick a k)), riseRep := some (acceptStamp (tileRec a k) (acceptTick a k)) }) a)))) ∧
  (∀ (s a : State) (t : Time) (tile : Fin 12) (lpt : Nat), a = s.at_ t → tilePowered a tile = true → 
    exec (.divminLow t tile lpt) s = .next (forEach (tileChans tile) (fun k z =>
      if (chFunc (tileRec z k) = .di || chFunc (tileRec z k) = .cnt) && lpt < 100 * chDivmin (tileRec z k) then modDig k (fun d => { d with divLow := true }) z else z)
      (modTile tile (fun x => { x with lpt := lpt }) a))) ∧
  (∀ (s a : State) (t : Time) (tile : Fin 12) (lpt : Nat) (held : Time), a = s.at_ t → tilePowered a tile = true → ms 10 ≤ held → 
    exec (.divminRecover t tile lpt held) s = .next (forEach (tileChans tile) (fun k z =>
      if 100 * chDivmin (tileRec z k) + 400 ≤ lpt then modDig k (fun d => { d with divLow := false }) z else z)
      (modTile tile (fun x => { x with lpt := lpt }) a))) ∧
  (∀ (s a : State) (t : Time) (tile : Fin 12) (lpt : Nat), a = s.at_ t → tilePowered a tile = true → 
    exec (.namurLptBelow10v t tile lpt) s = .next (forEach (tileChans tile) (fun k z =>
      if chFunc (tileRec z k) = .nam then modDig k (fun d => { d with namLow := decide (lpt < 10000) }) z else z)
      (modTile tile (fun x => { x with lpt := lpt }) a))) ∧
  (∀ (s a : State) (t : Time) (k : Fin 96) (current : Nat) (held : Time), a = s.at_ t → tilePowered a (tileOf k) = true → (a.tile.get (tileOf k)).standby = false → chFunc (tileRec a k) = .nam → ms 5 ≤ held → current < 250 ∨ 5450 < current → 
    exec (.namLineFault t k current held) s = .next (setLine k (some (decide (5450 < current))) a)) ∧
  (∀ (s a : State) (t : Time) (k : Fin 96) (current : Nat) (held : Time), a = s.at_ t → tilePowered a (tileOf k) = true → (a.tile.get (tileOf k)).standby = false → chFunc (tileRec a k) = .nam → (a.chan.get k).dig.line.isSome = true → ms 5 ≤ held → 150 ≤ current → current ≤ 5550 → 
    exec (.namLineFaultClear t k current held) s = .next (setLine k none a))

/-- At a modem whose tile is powered and hears: a start clears the buffer before its data, an end completes the frame and transmits where R126 allows it, an abort (reported where it stopped a transmission) and the end of transmission clear it; a message begins with the first character after at least two preamble characters and goes on to its end. At a hub that takes the channel's messages: the good reply to the request under way identifies its drop, is mapped to its tags and ends the turn, or goes to the host transaction whose turn it is; a reply that cannot be read, or one with a communication error, fails the attempt, and one after the end of the turn's budget or a secondary master's request only makes the scheduler wait; a reply that belongs to no transaction makes the scheduler wait; a burst of a planned drop is mapped like a reply, one that arrives in the couch window is counted as lost, and any other frame makes the scheduler wait. -/
def Obligations.HartModemEvents : Prop :=
  (∀ (s a : State) (t : Time) (k : Fin 96) (bytes : List Byte), a = s.at_ t → modemOn a k = true → (a.link.get (tileOf k)).downSilent = false → 
    exec (.hartModemStart t k bytes) s = .next (modHart k (fun h => { h with buf := bytes.take 288 }) a)) ∧
  (∀ (s a : State) (t : Time) (k : Fin 96) (bytes : List Byte), a = s.at_ t → modemOn a k = true → (a.link.get (tileOf k)).downSilent = false → (a.tile.get (tileOf k)).state = .live → (a.tile.get (tileOf k)).standby = false → chHartm (tileRec a k) = 1 ∨ chHartm (tileRec a k) = 2 → (a.chan.get k).hart.couchHold = false → 
    exec (.hartModemEnd t k bytes) s = .next (modHart k (fun h => { h with buf := (h.buf ++ bytes).take 288, tx := true }) a)) ∧
  (∀ (s a : State) (t : Time) (k : Fin 96), a = s.at_ t → modemOn a k = true → (a.link.get (tileOf k)).downSilent = false → 
    exec (.hartModemAbort t k) s = .next (modHart k (fun h => { h with buf := [], tx := false, txAbort := h.txAbort || h.tx }) a)) ∧
  (∀ (s a : State) (t : Time) (k : Fin 96), a = s.at_ t → modemOn a k = true → (a.chan.get k).hart.tx = true → 
    exec (.hartTxdone t k) s = .next (modHart k (fun h => { h with buf := [], tx := false }) a)) ∧
  (∀ (s a : State) (t : Time) (k : Fin 96) (byte : Byte) (perr eom : Bool), a = s.at_ t → modemOn a k = true → (a.tile.get (tileOf k)).standby = false → (a.chan.get k).hart.rxOn = true → 
    exec (.hartRxByte t k byte perr eom) s = .next (modHart k (fun h => { h with rx := h.rx ++ [byte], rxErr := h.rxErr || perr, carrier := !eom, rxOn := !eom, pre := if eom then 0 else h.pre }) a)) ∧
  (∀ (s a : State) (t : Time) (k : Fin 96) (byte : Byte) (perr eom : Bool), a = s.at_ t → modemOn a k = true → (a.tile.get (tileOf k)).standby = false → (a.chan.get k).hart.rxOn = false → 2 ≤ (a.chan.get k).hart.pre → byte ≠ 0xFF → 
    exec (.hartRxByte t k byte perr eom) s = .next (modHart k (fun h => { h with rx := [byte], rxErr := perr, carrier := !eom, rxOn := !eom, pre := 0 }) a)) ∧
  (∀ (s a : State) (t : Time) (k : Fin 96) (byte : Byte) (perr eom : Bool), a = s.at_ t → modemOn a k = true → (a.tile.get (tileOf k)).standby = false → (a.chan.get k).hart.rxOn = false → byte = 0xFF → perr = false → eom = false → 
    exec (.hartRxByte t k byte perr eom) s = .next (modHart k (fun h => { h with pre := h.pre + 1, carrier := true }) a)) ∧
  (∀ (s a : State) (t : Time) (k : Fin 96) (bytes : List Byte) (perr : Bool) (addr cmd : Nat) (ident : Bool) (m : HartMsg) (z : State), a = s.at_ t → hartHears a k = true → z = messageEnd k (sysHalf a) a → (z.chan.get k).hart.request = some (addr, cmd) → z.now ≤ (z.chan.get k).hart.turnEnd → perr = false → hartParse bytes = some m → identifies (z.chan.get k).hart addr = ident → answers z k addr cmd ident m = true → bitOf (u8 m.data 0) 7 = false → ident = false ∨ cmd ≠ 0 → (z.chan.get k).hart.turn ≠ some 255 → 
    exec (.hartReplyReceived t k bytes perr) s = .next (endTurn k true (requestOver k (takeMessage k addr m z)))) ∧
  (∀ (s a : State) (t : Time) (k : Fin 96) (bytes : List Byte) (perr : Bool) (addr cmd : Nat) (ident : Bool) (m : HartMsg) (z : State) (w : WorkRef) (x : Work), a = s.at_ t → hartHears a k = true → z = messageEnd k (sysHalf a) a → (z.chan.get k).hart.request = some (addr, cmd) → z.now ≤ (z.chan.get k).hart.turnEnd → perr = false → hartParse bytes = some m → identifies (z.chan.get k).hart addr = ident → answers z k addr cmd ident m = true → bitOf (u8 m.data 0) 7 = false → ident = false ∨ cmd ≠ 0 → (z.chan.get k).hart.turn = some 255 → (z.chan.get k).hart.host = some w → workOf z w = some x → 
    exec (.hartReplyReceived t k bytes perr) s = .next (hostReply k x addr m z)) ∧
  (∀ (s a : State) (t : Time) (k : Fin 96) (bytes : List Byte) (perr : Bool) (addr : Nat) (m : HartMsg) (z : State), a = s.at_ t → hartHears a k = true → z = messageEnd k (sysHalf a) a → (z.chan.get k).hart.request = some (addr, 0) → z.now ≤ (z.chan.get k).hart.turnEnd → perr = false → hartParse bytes = some m → identifies (z.chan.get k).hart addr = true → answers z k addr 0 true m = true → bitOf (u8 m.data 0) 7 = false → 14 ≤ m.data.length → 
    exec (.hartReplyReceived t k bytes perr) s = .next (identified k addr m z)) ∧
  (∀ (s a : State) (t : Time) (k : Fin 96) (bytes : List Byte) (perr : Bool) (z : State), a = s.at_ t → hartHears a k = true → z = messageEnd k (sysHalf a) a → (z.chan.get k).hart.request = none → 
    exec (.hartReplyReceived t k bytes perr) s = .next (foreignReply k (if perr then none else hartParse bytes) z)) ∧
  (∀ (s a : State) (t : Time) (k : Fin 96) (bytes : List Byte) (perr : Bool) (z : State), a = s.at_ t → hartHears a k = true → z = messageEnd k (sysHalf a) a → (z.chan.get k).hart.request.isSome = true → z.now ≤ (z.chan.get k).hart.turnEnd → perr = true ∨ hartParse bytes = none ∧ bits (u8 bytes 0) 0 3 ≠ 2 → 
    exec (.hartReplyReceived t k bytes perr) s = .next (failAttempt k 1 z)) ∧
  (∀ (s a : State) (t : Time) (k : Fin 96) (bytes : List Byte) (perr : Bool) (z : State), a = s.at_ t → hartHears a k = true → z = messageEnd k (sysHalf a) a → (z.chan.get k).hart.request.isSome = true → (z.chan.get k).hart.turnEnd < z.now → 
    exec (.hartReplyReceived t k bytes perr) s = .next (foreignReply k (if perr then none else hartParse bytes) z)) ∧
  (∀ (s a : State) (t : Time) (k : Fin 96) (bytes : List Byte) (perr : Bool) (z : State), a = s.at_ t → hartHears a k = true → z = messageEnd k (sysHalf a) a → (z.chan.get k).hart.request.isSome = true → perr = false → hartParse bytes = none → bits (u8 bytes 0) 0 3 = 2 → 
    exec (.hartReplyReceived t k bytes perr) s = .next (foreignReply k none z)) ∧
  (∀ (s a : State) (t : Time) (k : Fin 96) (bytes : List Byte) (perr : Bool) (m : HartMsg) (d : Drop) (z : State), a = s.at_ t → hartHears a k = true → z = messageEnd k (sysHalf a) a → (z.chan.get k).hart.couchHold = false → perr = false → hartParse bytes = some m → m.burst = true → hartDropOf (planItems z k.val) (z.chan.get k).hart m = some d → burstPlan z k.val = false → 
    exec (.hartBurstFrame t k bytes perr) s = .next (takeMessage k d.addr m (hartWait k 8 z))) ∧
  (∀ (s a : State) (t : Time) (k : Fin 96) (bytes : List Byte) (perr : Bool) (m : HartMsg) (d : Drop) (z y : State), a = s.at_ t → hartHears a k = true → z = messageEnd k (sysHalf a) a → (z.chan.get k).hart.couchHold = false → perr = false → hartParse bytes = some m → m.burst = true → hartDropOf (planItems z k.val) (z.chan.get k).hart m = some d → burstPlan z k.val = true → (y = modHart k (fun h => { h with burstBy := some (z.now + 2 * hartTau) }) (takeMessage k d.addr m (hartWait k 8 z))) → 
    exec (.hartBurstFrame t k bytes perr) s = .next (if (z.chan.get k).hart.request.isNone then attempt k y else y)) ∧
  (∀ (s a : State) (t : Time) (k : Fin 96) (bytes : List Byte) (perr : Bool) (z : State), a = s.at_ t → hartHears a k = true → z = messageEnd k (sysHalf a) a → (z.chan.get k).hart.couchHold = true → 
    exec (.hartBurstFrame t k bytes perr) s = .next (recordArgs 0x0B01 (srcOf 1 k.val) [4] (modHart k (fun h => { h with burstLost := h.burstLost + 1 }) z))) ∧
  (∀ (s a : State) (t : Time) (k : Fin 96) (bytes : List Byte) (perr : Bool) (z : State), a = s.at_ t → hartHears a k = true → z = messageEnd k (sysHalf a) a → (z.chan.get k).hart.couchHold = false → perr = true ∨ hartParse bytes = none → 
    exec (.hartBurstFrame t k bytes perr) s = .next (hartWait k 8 z))

/-- A request whose reply has not begun within TREPLY fails its attempt; a turn whose budget has run out is over, its request with it, and so is one without an open request in what is left of whose budget no attempt fits; silence after quietUntil starts the next attempt; a mapped tag older than its STALE is invalid with STALE and HART; a transaction not begun within QTIME of its ACCEPT ends QTIMEOUT; a transaction whose STARTED mark is in the store begins its request. -/
def Obligations.HartSchedulerEvents : Prop :=
  (∀ (s a : State) (t : Time) (k : Fin 96) (e : Time), a = s.at_ t → hubUp a = true → (a.chan.get k).hart.request.isSome = true → (a.chan.get k).hart.replyBy = some e → e ≤ a.now → replyBegun (a.chan.get k).hart = false → 
    exec (.hartTreplyExpiry t k) s = .next (failAttempt k 1 a)) ∧
  (∀ (s a : State) (t : Time) (k : Fin 96) (n : Nat), a = s.at_ t → hubUp a = true → (a.chan.get k).hart.turn = some n → n ≠ 255 → (a.chan.get k).hart.request = none → (a.chan.get k).hart.turnEnd ≤ a.now ∨ couldAttempt k a = false → 
    exec (.hartBudgetExpiry t k) s = .next (endTurn k false a)) ∧
  (∀ (s a : State) (t : Time) (k : Fin 96) (n : Nat), a = s.at_ t → hubUp a = true → (a.chan.get k).hart.turn = some n → n ≠ 255 → (a.chan.get k).hart.request.isSome = true → (a.chan.get k).hart.turnEnd ≤ a.now → 
    exec (.hartBudgetExpiry t k) s = .next (endTurn k false (requestOver k a))) ∧
  (∀ (s a : State) (t : Time) (k : Fin 96), a = s.at_ t → hubUp a = true → (a.chan.get k).hart.request = none → (a.chan.get k).hart.quietUntil ≤ a.now → 
    exec (.hartLoopSilence t k) s = .next (attempt k (modHart k (fun h => { h with carrier := false }) a))) ∧
  (∀ (s a : State) (t : Time) (item : Nat) (k : Fin 96) (x : HartTag), a = s.at_ t → hubUp a = true → chanOfItem a item = some k → tagOfItem a item = some x → staleOf a k.val (u8 ((castAll a (·.item)).getD item []) 1) < a.now - x.at_ → 
    exec (.hartStale t item) s = .next (hartFlag k (putTag { x with valid := false, stale := true, hart := true } a))) ∧
  (∀ (s a : State) (t : Time) (w : WorkRef) (x : Work) (k : Fin 96), a = s.at_ t → hubUp a = true → workOf a w = some x → harttxChan x = some k → x.opcode = 0x0200 → x.accepted = true → x.final = none → x.begun = false → x.acceptedAt + sec (planQtime (planOf a k.val)) ≤ a.now → 
    exec (.hartQtimeExpiry t w) s = .next (endTransaction k w 5 [] a)) ∧
  (∀ (s a : State) (t : Time) (w : WorkRef) (x : Work) (k : Fin 96), a = s.at_ t → hubUp a = true → workOf a w = some x → harttxChan x = some k → x.opcode = 0x0200 → x.marked = true → x.started = false → x.final = none → mayAccept a x = true → 
    exec (.hartStartedDurable t w) s = .next (startedDurable k w a))

/-- A judgement that has qualified sets or clears its verdict; an open load is judged on counted on time; a verdict that has stood for 16 us and differs from the last recorded is recorded with CSW and epoch; a slot whose conditions hold starts its window on its period and phase, its end applies the results, queues them as events and completes the tests that waited, and a broken condition skips it; a disturbed insulation measurement is discarded and counted; an OFFTEST channel is recorded UNTESTED in an hour in which it was never off for TOFF. -/
def Obligations.DiagnosticEvents : Prop :=
  (∀ (s a : State) (t : Time) (k : Fin 96) (pin : Fin 3) (code : Nat) (set : Bool) (held : Time) (q : Time), a = s.at_ t → (a.tile.get (tileOf k)).state ≠ .off → (a.tile.get (tileOf k)).standby = false ∨ code = 0x23 → qualTime a k code set = some q → q ≤ held → code ≠ 0x23 ∨ set = false ∨ reverseJudged a k pin q = true → 
    exec (.verdictQualified t k ⟨code, pin⟩ set held) s = .next (withRefresh k (protecting k (putVerdict k code set)) a)) ∧
  (∀ (s a : State) (t : Time) (k : Fin 96) (counted : Time) (maxCurrent : Nat), a = s.at_ t → hasSwitch a k = true → chFunc (tileRec a k) = .dout → chOpendet (tileRec a k) = true → (a.tile.get (tileOf k)).standby = false → (standing a k).contains 0x22 = false → limitOf (a.chan.get k) = false → ms 100 ≤ counted → maxCurrent ≤ chOpeni (tileRec a k) + 5 → 
    exec (.openLoadOn t k counted maxCurrent) s = .next (setVerdict k 0x11 a)) ∧
  (∀ (s a : State) (t : Time) (k : Fin 96), a = s.at_ t → hubUp a = true → linkUp a (tileOf k) = true → verdictOf a k ≠ (a.chan.get k).dg.recorded → us 16 ≤ a.now - (a.chan.get k).dg.changed → 
    exec (.verdictRecord t k) s = .next (record 0x0301 (srcOf 1 k.val) 1 ((a.chan.get k).dg.recorded + 256 * verdictOf a k) [(cswOf a k).toNat, a.ep.e % 2 ^ 32]
      (modDg k (fun d => { d with recorded := verdictOf a k }) a))) ∧
  (∀ (s a : State) (t : Time) (slot : Nat), a = s.at_ t → hubUp a = true → (diagRec a slot).isEmpty = false → slotMay a (diagRec a slot) = true → runOf a slot = none → slotTime a (diagRec a slot) = true → dgKind (diagRec a slot) ≠ 0 → 
    exec (.diagSlotStart t slot) s = .next ({ a with misc := { a.misc with diag := a.misc.diag ++ [{ slot := slot, start := a.now, stop := a.now + us (dgWindow (diagRec a slot)), eligible := true }] } })) ∧
  (∀ (s a : State) (t : Time) (slot : Nat) (k : Fin 96), a = s.at_ t → hubUp a = true → (diagRec a slot).isEmpty = false → slotMay a (diagRec a slot) = true → runOf a slot = none → slotTime a (diagRec a slot) = true → dgKind (diagRec a slot) = 0 → offChan a (diagRec a slot) = some k → 
    exec (.diagSlotStart t slot) s = .next ({ a with
        sns := a.sns.upd (tileOf k) (fun x => { x with claimed := some (chanIn k, a.now + us (dgWindow (diagRec a slot))) })
        misc := { a.misc with diag := a.misc.diag ++ [{ slot := slot, start := a.now, stop := a.now + us (dgWindow (diagRec a slot)), eligible := !(a.chan.get k).sw.on && decide (ms (chToff (castRec a k.val)) ≤ a.now - (a.chan.get k).sw.changed) }] } })) ∧
  (∀ (s a : State) (t : Time) (slot : Nat) (v1 v2 : Int) (run : DiagRun), a = s.at_ t → runOf a slot = some run → run.stop ≤ a.now → dgKind (diagRec a slot) ≠ 0 → 
    exec (.diagSlotEnd t slot v1 v2) s = .next (endTests (diagRec a slot) run (closeRun slot (if run.skipped || !run.eligible then a else diagEvents (diagRec a slot) a)))) ∧
  (∀ (s a : State) (t : Time) (slot : Nat) (v1 v2 : Int) (run : DiagRun) (k : Fin 96), a = s.at_ t → runOf a slot = some run → run.stop ≤ a.now → dgKind (diagRec a slot) = 0 → run.eligible = true → run.skipped = false → offChan a (diagRec a slot) = some k → 
    exec (.diagSlotEnd t slot v1 v2) s = .next (endTests (diagRec a slot) run (closeRun slot (diagEvents (diagRec a slot) (offJudge k v1 v2 a))))) ∧
  (∀ (s a : State) (t : Time) (slot : Nat) (run : DiagRun), a = s.at_ t → runOf a slot = some run → slotMay a (diagRec a slot) = false → dgKind (diagRec a slot) ≠ 0 → dgKind (diagRec a slot) ≠ 2 → 
    exec (.diagWindowAbort t slot) s = .next (endTests (diagRec a slot) { run with skipped := true } (closeRun slot (recordDiag (srcOf 2 (dgTile (diagRec a slot))) 1 0
      (forEach (allChans.filter (diagCovers (diagRec a slot))) (fun k z => modDg k (fun g => { g with skipped := g.skipped + 1 }) z) a))))) ∧
  (∀ (s a : State) (t : Time) (slot : Nat) (x : Fin 96) (followers : List Nat), a = s.at_ t → (runOf a slot).isSome = true → dgKind (diagRec a slot) = 1 → diagCovers (diagRec a slot) x = true → 
    exec (.partestTransition t slot x followers) s = .next (forEach (allChans.filter fun b => diagCovers (diagRec a slot) b && b != x && chFunc (castRec a b.val) == .dout && !(a.chan.get b).sw.on)
      (fun b z => partestOne x b (followers.contains b.val) z) a)) ∧
  (∀ (s a : State) (t : Time) (slot : Nat) (meas : IsoMeas) (x : Fin 12), a = s.at_ t → asFin 12 (dgTile (diagRec a slot)) = some x → (runOf a slot).isSome = true → dgKind (diagRec a slot) = 2 → meas.variation ≤ 200 → 2000 ≤ meas.charge → 
    exec (.isoMeasurementEnd t slot meas) s = .next (isoResults x meas (modRun slot (fun d => { d with gave := isoGave a x meas }) a))) ∧
  (∀ (s a : State) (t : Time) (slot : Nat) (meas : IsoMeas) (x : Fin 12), a = s.at_ t → asFin 12 (dgTile (diagRec a slot)) = some x → (runOf a slot).isSome = true → dgKind (diagRec a slot) = 2 → meas.variation ≤ 200 → meas.charge < 2000 → 
    exec (.isoMeasurementEnd t slot meas) s = .next (forEach (isoJudged a x.val) (fun k z => setVerdict k 0x52 z) (modIso x (fun i => { i with disturbedRun := 0 }) (modRun slot (fun d => { d with gave := (isoJudged a x.val).map (·.val) }) a)))) ∧
  (∀ (s a : State) (t : Time) (slot : Nat) (meas : IsoMeas) (x : Fin 12), a = s.at_ t → asFin 12 (dgTile (diagRec a slot)) = some x → (runOf a slot).isSome = true → dgKind (diagRec a slot) = 2 → 200 < meas.variation → (a.iso.get x).disturbedRun + 1 ≠ 3 → 
    exec (.isoMeasurementEnd t slot meas) s = .next (recordDiag (srcOf 2 x.val) 2 0 (modIso x (fun i => { i with disturbedRun := min ((a.iso.get x).disturbedRun + 1) 3, disturbed := i.disturbed + 1 })
      (modRun slot (fun d => { d with skipped := true }) a)))) ∧
  (∀ (s a : State) (t : Time), a = s.at_ t → 
    exec (.insulationHourly t) s = .next ({ (forEach allChans (fun k z => if chIso (castRec z k.val) then driftJudge k (modDg k (fun g => { g with ins := closeHour g.ins }) z) else modDg k (fun g => { g with ins := closeHour g.ins }) z) a) with
        iso := (forEach allChans (fun k z => if chIso (castRec z k.val) then driftJudge k (modDg k (fun g => { g with ins := closeHour g.ins }) z) else modDg k (fun g => { g with ins := closeHour g.ins }) z) a).iso.all fun i => { i with ins := closeHour i.ins } })) ∧
  (∀ (s a : State) (t : Time) (k : Fin 96) (on : Bool) (ticks : Nat) (level1 : Bool) (run : DiagRun), a = s.at_ t → (a.misc.diag.find? (fun d => dgKind (diagRec a d.slot) == 3 && diagCovers (diagRec a d.slot) k) = some run) → chEdgecal (castRec a k.val) = true → ((a.misc.diag.any fun d => decide (dgKind (diagRec a d.slot) ≤ 1) && diagCovers (diagRec a d.slot) k) = false) → level1 = false → 80 ≤ ticks → ticks ≤ 200000 → on = true → 
    exec (.edgecalMeasurement t k on ticks level1) s = .next (clearVerdict k 0x60 (modRun run.slot (fun d => { d with accepted := d.accepted ||| 2 ^ (chanIn k).val }) (modDg k (fun g => { g with discOn := 0 })
      (putEdge { edgeOf a k.val (castRec a k.val) with on := (ticks :: (edgeOf a k.val (castRec a k.val)).on).take 16 } a))))) ∧
  (∀ (s a : State) (t : Time) (k : Fin 96), a = s.at_ t → hubUp a = true → chFunc (castRec a k.val) = .dout → chOfftest (castRec a k.val) = true → (a.chan.get k).dg.everOff = false → (a.chan.get k).sw.on = true → 
    exec (.neverOffHourlyRecord t k) s = .next (recordDiag (srcOf 1 k.val) 3 0 (modDg k (fun g => { g with everOff := false }) a)))

/-- Lines found good again are taken at their level without counting; a level that EFILT + 1 consecutive samples show is accepted; an accepted encoder edge of a context that is not LOST counts by its decoding up or down in forward terms and is stamped; both lines changed in one sample are a quadrature error; a Z edge latches its stamp and count where ZLATCH asks for it; a fault held 1 us on A or B makes the context LOST, on Z sets ZFAULT and records it once; LOST clears after 100 ms without fault and error at the present levels; an AXS frame of 40 bytes is taken over by every context whose source it is, and 50 us without one makes the context LOST. The context count without an edge is the sum modulo 2^48. While a rehearsal runs each of these acts on the cast as without it, and on the rehearsal's copy beside it. -/
def Obligations.AxisInputEvents : Prop :=
  (∀ (s a : State) (t : Time) (x : Fin 4) (la lb : EncLine) (r : Rec) (c : Axis) (u v : Bool) (d : Int), a = s.at_ t → rehOf a = none → axisOf a x.val = some r → hubUp a = true → c = linesBack la lb (a.eng.axis.get (ctx x)) → u = accepted r la c.a → v = accepted r lb c.b → c.a = u ∨ c.b = v → c.flags.lost = false → countOf (axDecode r) c.a c.b u v = some d → 
    exec (.encoderEdge t x la lb) s = .next (withHref (fun z => lateEdge (ctx x) (edgeStamp z r) (if axDirinv r then -d else d) (modAxis (ctx x) (fun y => { y with
        p := c.p + BitVec.ofNat 48 (unsigned (if axDirinv r then -d else d) 48)
        edges := (edgeStamp z r, c.p + BitVec.ofNat 48 (unsigned (if axDirinv r then -d else d) 48))
          :: pruneAxis r (sysNs z) y.edges }) (modAxis (ctx x) (fun y => { y with a := u, b := v }) z))) (modAxis (ctx x) (linesBack la lb) a))) ∧
  (∀ (s a : State) (t : Time) (x : Fin 4) (la lb : EncLine) (r : Rec) (c : Axis) (u v : Bool), a = s.at_ t → rehOf a = none → axisOf a x.val = some r → hubUp a = true → c = linesBack la lb (a.eng.axis.get (ctx x)) → u = accepted r la c.a → v = accepted r lb c.b → c.a ≠ u → c.b ≠ v → axDecode r < 3 → c.line.val % 4 = 0 → 
    exec (.encoderEdge t x la lb) s = .next (withHref (fun z => quadError (ctx x) r (modAxis (ctx x) (fun y => { y with a := u, b := v }) z)) (modAxis (ctx x) (linesBack la lb) a))) ∧
  (∀ (s a : State) (t : Time) (l : ZLine) (r : Rec), a = s.at_ t → rehOf a = none → axisOf a l.enc.val = some r → hubUp a = true → axEfilt r < l.samples → axZlatch r = true → 
    exec (.zEdge t l) s = .next (lateZ (ctx l.enc) (edgeStamp a r) (a.eng.axis.get (ctx l.enc)).p (modAxis (ctx l.enc) (fun c => { c with zlatch := some (edgeStamp a r, c.p) }) a))) ∧
  (∀ (s a : State) (t : Time) (x : Fin 4) (line : Fin 3) (held : Time), a = s.at_ t → rehOf a = none → hubUp a = true → (axisOf a x.val).isSome = true → us 1 ≤ held → line.val ≠ 2 → 
    exec (.encoderLineFault t x line held) s = .next (withHref (fun z => axisLost (ctx x) (modAxis (ctx x) (fun c => { c with line := if bitOf (a.eng.axis.get (ctx x)).line.val line.val then (a.eng.axis.get (ctx x)).line
        else ⟨((a.eng.axis.get (ctx x)).line.val + 2 ^ line.val) % 8, Nat.mod_lt _ (by decide)⟩ }) z)) a)) ∧
  (∀ (s a : State) (t : Time) (x : Fin 4) (line : Fin 3) (held : Time), a = s.at_ t → rehOf a = none → hubUp a = true → (axisOf a x.val).isSome = true → us 1 ≤ held → line.val = 2 → (a.eng.axis.get (ctx x)).flags.zfault = false → 
    exec (.encoderLineFault t x line held) s = .next (withHref (fun z => recordAxis (ctx x) 4 (modAxis (ctx x) (fun c => { c with flags := { c.flags with zfault := true } })
        (modAxis (ctx x) (fun c => { c with line := if bitOf (a.eng.axis.get (ctx x)).line.val line.val then (a.eng.axis.get (ctx x)).line
          else ⟨((a.eng.axis.get (ctx x)).line.val + 2 ^ line.val) % 8, Nat.mod_lt _ (by decide)⟩ }) z))) a)) ∧
  (∀ (s a : State) (t : Time) (x : Fin 4) (u v : Bool) (held : Time), a = s.at_ t → rehOf a = none → hubUp a = true → (axisOf a x.val).isSome = true → (a.eng.axis.get (ctx x)).flags.lost = true → ms 100 ≤ held → qerrPast (a.eng.axis.get (ctx x)) a.now = true → 
    exec (.lostClear t x u v held) s = .next (withHref (modAxis (ctx x) fun c => { c with
        a := if (a.eng.axis.get (ctx x)).line.val % 2 = 1 then u else (a.eng.axis.get (ctx x)).a
        b := if (a.eng.axis.get (ctx x)).line.val / 2 % 2 = 1 then v else (a.eng.axis.get (ctx x)).b
        line := ⟨(a.eng.axis.get (ctx x)).line.val / 4 * 4 % 8, Nat.mod_lt _ (by decide)⟩
        flags := { c.flags with lost := false } }) a)) ∧
  (∀ (s a : State) (t : Time) (src : Nat) (bytes : List Byte), a = s.at_ t → rehOf a = none → hubUp a = true → bytes.length = 40 → (((contexts a).filter fun e => decide (4 ≤ e.1.val) && axSrcdev e.2 == src && axSrcctx e.2 == u8 bytes 0 % 4) = []) → 
    exec (.axsFrameReceived t src bytes) s = .next (withHref id a)) ∧
  (∀ (s a : State) (t : Time) (src : Nat) (bytes : List Byte) (x : Fin 8) (r : Rec), a = s.at_ t → rehOf a = none → hubUp a = true → bytes.length = 40 → (((contexts a).filter fun e => decide (4 ≤ e.1.val) && axSrcdev e.2 == src && axSrcctx e.2 == u8 bytes 0 % 4) = [(x, r)]) → bitOf (u8 bytes 1) 0 = false → bitOf (u8 bytes 1) 2 = false → a.ep.counting = false → 
    exec (.axsFrameReceived t src bytes) s = .next (withHref (modAxis x fun c => { c with
        pa := BitVec.ofNat 48 (uN bytes 2 6)
        p := BitVec.ofNat 48 (uN bytes 2 6)
        ta := u64 bytes 8
        vw := BitVec.ofNat 64 (u64 bytes 16)
        tm2 := (2 * (u64 bytes 8 : Int) - (u64 bytes 24 : Int)).toNat
        acc := BitVec.ofNat 64 (u64 bytes 32)
        lastAxs := some a.now
        stopHeld := false
        flags := { c.flags with still := bitOf (u8 bytes 1) 3, noref := c.flags.noref || bitOf (u8 bytes 1) 1, lost := false } }) a)) ∧
  (∀ (s a : State) (t : Time) (x : Fin 8), a = s.at_ t → rehOf a = none → hubUp a = true → 4 ≤ x.val → (axisOf a x.val).isSome = true → ((a.eng.axis.get x).lastAxs.all (fun b => decide (b + us 50 ≤ a.now)) = true) → 
    exec (.axsSilence t x) s = .next (withHref (axisLost x) a)) ∧
  (∀ (s a : State) (t : Time) (x : Fin 4) (la lb : EncLine), a = s.at_ t → hubUp a = true → 
    exec (.encoderEdge t x la lb) s = .next (beside (encoderEdge x la lb) a)) ∧
  (∀ (s a : State) (t : Time) (l : ZLine) (r : Rec), a = s.at_ t → hubUp a = true → axisOf a l.enc.val = some r → axEfilt r < l.samples → 
    exec (.zEdge t l) s = .next (beside (zEdge l.enc) a)) ∧
  (∀ (s a : State) (t : Time) (x : Fin 4) (line : Fin 3) (held : Time), a = s.at_ t → hubUp a = true → us 1 ≤ held → 
    exec (.encoderLineFault t x line held) s = .next (beside (encoderFault x line) a)) ∧
  (∀ (s a : State) (t : Time) (x : Fin 4) (u v : Bool) (held : Time), a = s.at_ t → hubUp a = true → ms 100 ≤ held → 
    exec (.lostClear t x u v held) s = .next (beside (lostClear x u v) a)) ∧
  (∀ (s a : State) (t : Time) (src : Nat) (bytes : List Byte), a = s.at_ t → hubUp a = true → bytes.length = 40 → 
    exec (.axsFrameReceived t src bytes) s = .next (beside (axsTake src bytes) a)) ∧
  (∀ (s a : State) (t : Time) (x : Fin 8), a = s.at_ t → hubUp a = true → 
    exec (.axsSilence t x) s = .next (beside (axsSilence x) a)) ∧
  (∀ (f : State → State) (s : State), { beside f s with reh := (f s).reh } = f s ∧ (rehOf s = none → beside f s = f s))

/-- At an axis tick the contexts are computed and published, run-downs advance, lanes end their dwell and cam lanes act; a TIME lane issues its next entry no further than ISSUE ahead; TRDMAX ends a run-down that has not come to rest; a hub reflex whose condition has held for QUAL fires; a loop runs at LPHASE + n TS, after the outputs due; a count totaliser that is not preset at this epoch adds its increment, journals it and latches its tags. -/
def Obligations.AxisEngineEvents : Prop :=
  (∀ (s a : State) (t : Time), a = s.at_ t → rehOf a = none → hubUp a = true → sysNs a % 10000 = 0 → 
    exec (.axisTick t) s = .next (withHref (fun z =>
        let cs := contexts (settle z)
        let z2 := forEach (List.finRange 96) laneTick (forEach cs (fun e y => axisRundown e.1 e.2 y)
          (forEach (cs.filter fun e => e.1.val < 4) (fun e y => axisPublish e.1 e.2 (axisCompute e.1 e.2 y)) (settle z)))
        doActs (cs.flatMap fun e => camActs z2 e.1 e.2) z2) a)) ∧
  (∀ (s a : State) (t : Time) (lane : Fin 96) (r : Rec) (k : Fin 96) (tick : Int) (v before : Word), a = s.at_ t → rehOf a = none → hubUp a = true → laneOf a lane.val = some r → asFin 96 (laneTarget r) = some k → timeEntry a lane r (a.eng.lane.get lane).nextEntry = some (tick, v, before) → laneCam r = false → (a.eng.lane.get lane).state = 1 → nearLater ((tick : Rat) - leadOf a k r before v * 2 / 5) ≤ (sysTick a + laneIssue r * 400 : Nat) → laneLive a k = true → laneOneshot r = true → 
    exec (.timeLaneIssue t lane) s = .next (sendLane lane (a.eng.lane.get lane).nextEntry (nearLater ((tick : Rat) - leadOf a k r before v * 2 / 5)) v false 0
      (modLane lane (fun l => { l with nextEntry := l.nextEntry + 1 }) a))) ∧
  (∀ (s a : State) (t : Time) (x : Fin 8) (r : Rec), a = s.at_ t → rehOf a = none → hubUp a = true → axisOf a x.val = some r → (a.eng.axis.get x).flags.rundown = true → (a.eng.axis.get x).stopAt + ms (axTrdmax r) ≤ a.now → 
    exec (.trdmaxExpiry t x) s = .next (endRundown x false (recordAxis x 3 a))) ∧
  (∀ (s a : State) (t : Time) (entry : Nat) (r : Rec) (b : Time), a = s.at_ t → rehOf a = none → hubUp a = true → ((castAll a (·.href)).find? (fun r => hrEntry r == entry) = some r) → (hrefSt a entry).fired = false → hrefKept a r = false → (hrefSt a entry).since = some b → b + us (hrQual r) ≤ a.now → (hrCond r).any (termHolds a) = true → 
    exec (.hubReflexQualExpiry t entry) s = .next (withHref (fireHref r false) a)) ∧
  (∀ (s a : State) (t : Time) (block : Fin 48) (r : Rec), a = s.at_ t → rehOf a = none → hubUp a = true → loopRec a block.val = some r → us (lpPhase r) ≤ sysHalf a → 0 < lpTs r → (sysHalf a - us (lpPhase r)) % us (lpTs r) = 0 → 
    exec (.loopSample t block) s = .next (loopSample block r (settle a))) ∧
  (∀ (s a : State) (t : Time) (n : Fin 96) (r : Rec) (k : Fin 96) (c : Word), a = s.at_ t → rehOf a = none → hubUp a = true → totRec a n.val = some r → a.ep.counting = true → (a.eng.tot.get n).lastEpoch ≠ some a.ep.e → ttCount r = true → asFin 96 (ttSource r) = some k → (a.eng.tot.get n).lastCount = some c → (a.eng.tot.get n).preset = none → 
    exec (.totaliserIncrement t n) s = .next (withHref (fun z =>
        let o2 := addAcc (ttDelta r (int32 ((a.chan.get k).dig.offset + (a.chan.get k).dig.countE - c) : Rat) none) { a.eng.tot.get n with
          srcBad := false
          lastRate := none
          lastCount := some ((a.chan.get k).dig.offset + (a.chan.get k).dig.countE)
          lastEpoch := some a.ep.e
          gap := false
          preset := none }
        let o3 := { o2 with limit := o2.limit || overLimit r o2, past := ((a.ep.e, o2.acc, some ((a.chan.get k).dig.offset + (a.chan.get k).dig.countE)) :: o2.past).take 1366 }
        latchTags (fun q => tagKind q == 6 && tagNum q == n.val && tagSub q != 0) (epochHalf z a.ep.e).toNat
          (journal 7 ([BitVec.ofNat 8 n.val] ++ List.replicate 7 0 ++ leBytes 6 a.ep.e ++ [0, 0] ++ leBytes 8 o3.acc.toNat) (modTot n (fun _ => o3) z))) a)) ∧
  (∀ (s a : State) (t : Time), a = s.at_ t → hubUp a = true → sysNs a % 10000 = 0 → 
    exec (.axisTick t) s = .next (beside axisTick a)) ∧
  (∀ (s a : State) (t : Time) (lane : Fin 96), a = s.at_ t → hubUp a = true → 
    exec (.timeLaneIssue t lane) s = .next (beside (timeIssue lane) a)) ∧
  (∀ (s a : State) (t : Time) (x : Fin 8), a = s.at_ t → hubUp a = true → 
    exec (.trdmaxExpiry t x) s = .next (beside (trdmaxEnd x) a)) ∧
  (∀ (s a : State) (t : Time) (entry : Nat), a = s.at_ t → hubUp a = true → 
    exec (.hubReflexQualExpiry t entry) s = .next (beside (qualFire entry) a)) ∧
  (∀ (s a : State) (t : Time) (block : Fin 48), a = s.at_ t → hubUp a = true → 
    exec (.loopSample t block) s = .next (beside (sampleDue block) a)) ∧
  (∀ (s a : State) (t : Time) (n : Fin 96), a = s.at_ t → hubUp a = true → a.ep.counting = true → 
    exec (.totaliserIncrement t n) s = .next (beside (totIncrement n) a))

/-- The token of the coming epoch is visited and passed on by a member that did not launch it, and decided by the one that did; a verdict of the coming epoch is taken once, with its sender as leader; at T_E - 100 us every member group without one has NOVERDICT and defers; a member that no token has visited for three epochs and no frame of which has come for 5 ms departs, and at the next token the departure takes effect: at itself the state is OUT, at another member that is CTLDEV host silence begins. A verdict for another epoch than the coming one has no effect. -/
def Obligations.TokenEvents : Prop :=
  (∀ (s a : State) (t : Time) (bytes : List Byte) (x : Group), a = s.at_ t → hubUp a = true → a.ep.counting = true → tkPhase bytes = 0 → grpHas (grpRec a (tkGroup bytes)) (grpSelf a) = true → tkEpoch bytes = a.ep.e + 1 → groupOf a (tkGroup bytes) = some x → x.launched ≠ some (tkEpoch bytes) → 
    exec (.tokFrame t bytes) s = .next (passToken (tkGroup bytes) (visit (tkGroup bytes) bytes (departGroup (tkEpoch bytes) (tkGroup bytes) a)).1 (visit (tkGroup bytes) bytes (departGroup (tkEpoch bytes) (tkGroup bytes) a)).2)) ∧
  (∀ (s a : State) (t : Time) (bytes : List Byte) (x : Group) (y : State), a = s.at_ t → hubUp a = true → a.ep.counting = true → tkPhase bytes = 0 → grpHas (grpRec a (tkGroup bytes)) (grpSelf a) = true → tkEpoch bytes = a.ep.e + 1 → groupOf a (tkGroup bytes) = some x → x.launched ≠ some (tkEpoch bytes) → x.leaving = [grpSelf a] → x.state ≠ 3 → (y = modGroup (tkGroup bytes) (fun z => { z with leaving := [] }) (modGroup (tkGroup bytes) (fun z => { z with state := 0, readyRun := 0, rejoin := false }) a)) → 
    exec (.tokFrame t bytes) s = .next (passToken (tkGroup bytes) (visit (tkGroup bytes) bytes y).1 (visit (tkGroup bytes) bytes y).2)) ∧
  (∀ (s a : State) (t : Time) (bytes : List Byte) (x : Group) (m : Nat) (y : State), a = s.at_ t → hubUp a = true → a.ep.counting = true → tkPhase bytes = 0 → grpHas (grpRec a (tkGroup bytes)) (grpSelf a) = true → tkEpoch bytes = a.ep.e + 1 → groupOf a (tkGroup bytes) = some x → x.launched ≠ some (tkEpoch bytes) → x.leaving = [m] → m ≠ grpSelf a → isLeader a x = false → ctlDev a (tkGroup bytes) = some m → (y = modGroup (tkGroup bytes) (fun z => { z with leaving := [] }) (modGroup (tkGroup bytes) (fun z => { z with silence := true, served := false }) a)) → 
    exec (.tokFrame t bytes) s = .next (passToken (tkGroup bytes) (visit (tkGroup bytes) bytes y).1 (visit (tkGroup bytes) bytes y).2)) ∧
  (∀ (s a : State) (t : Time) (bytes : List Byte) (x : Group), a = s.at_ t → hubUp a = true → a.ep.counting = true → tkPhase bytes = 0 → grpHas (grpRec a (tkGroup bytes)) (grpSelf a) = true → tkEpoch bytes = a.ep.e + 1 → groupOf a (tkGroup bytes) = some x → x.launched = some (tkEpoch bytes) → 
    exec (.tokFrame t bytes) s = .next (decideToken (tkGroup bytes) bytes a)) ∧
  (∀ (s a : State) (t : Time) (src : Nat) (bytes : List Byte) (x : Group), a = s.at_ t → hubUp a = true → a.ep.counting = true → tkPhase bytes = 1 → grpHas (grpRec a (tkGroup bytes)) (grpSelf a) = true → tkEpoch bytes = a.ep.e + 1 → groupOf a (tkGroup bytes) = some x → (x.verdict.all (fun v => v.epoch != tkEpoch bytes) = true) → x.noVerdict ≠ some (tkEpoch bytes) → lookupO x.visits (grpSelf a) = some (tkEpoch bytes) ∨ tkHash bytes = ghash (grpRec a (tkGroup bytes)) → 
    exec (.tokVerdict t src bytes) s = .next (takeVerdict (tkGroup bytes) { epoch := tkEpoch bytes, commit := bitOf (tkFlags bytes) 0, silent := bitOf (tkFlags bytes) 1, exclude := bitOf (tkFlags bytes) 3, rdDone := bitOf (tkFlags bytes) 4 }
      (tkNr bytes) (modGroup (tkGroup bytes) (fun y => { y with leader := some (src, tkEpoch bytes), silence := y.silence || bitOf (tkFlags bytes) 1 }) a))) ∧
  (∀ (s a : State) (t : Time) (src : Nat) (bytes : List Byte), a = s.at_ t → tkEpoch bytes ≠ a.ep.e + 1 → 
    exec (.tokVerdict t src bytes) s = .next a) ∧
  (∀ (s a : State) (t : Time), a = s.at_ t → hubUp a = true → a.ep.counting = true → epochHalf a (a.ep.e + 1) ≤ (sysHalf a + us 100 : Nat) → 
    exec (.tokenDeadline t) s = .next (forEach ((a.ep.groups.filter fun x => lacksVerdict x (a.ep.e + 1)).map (·.num)) (fun g z => noVerdict g (a.ep.e + 1) z) a)) ∧
  (∀ (s a : State) (t : Time) (group member : Nat) (x : Group), a = s.at_ t → hubUp a = true → a.ep.counting = true → groupOf a group = some x → group ≠ ownGroup → grpHas (grpRec a group) member = true → ((lookupO x.visits member).all (fun e => decide (e + 3 ≤ a.ep.e)) = true) → member = grpSelf a → a.net.ownBack = none → 
    exec (.memberDepart t group member) s = .next (modGroup group (fun y => { y with leaving := if y.leaving.contains member then y.leaving else y.leaving ++ [member] }) a)) ∧
  (∀ (s a : State) (t : Time) (group member : Nat) (x : Group) (back : Time), a = s.at_ t → hubUp a = true → a.ep.counting = true → groupOf a group = some x → group ≠ ownGroup → grpHas (grpRec a group) member = true → ((lookupO x.visits member).all (fun e => decide (e + 3 ≤ a.ep.e)) = true) → member = grpSelf a → a.net.ownBack = some back → back + ms 5 ≤ a.now → 
    exec (.memberDepart t group member) s = .next (modGroup group (fun y => { y with leaving := if y.leaving.contains member then y.leaving else y.leaving ++ [member] }) a)) ∧
  (∀ (s a : State) (t : Time) (group member : Nat) (x : Group), a = s.at_ t → hubUp a = true → a.ep.counting = true → groupOf a group = some x → group ≠ ownGroup → grpHas (grpRec a group) member = true → ((lookupO x.visits member).all (fun e => decide (e + 3 ≤ a.ep.e)) = true) → member ≠ grpSelf a → a.net.pmaps = [] → (a.net.srcs.all (fun q => q.num != member || decide (q.last + ms 5 ≤ a.now)) = true) → 
    exec (.memberDepart t group member) s = .next (modGroup group (fun y => { y with leaving := if y.leaving.contains member then y.leaving else y.leaving ++ [member] }) a))

/-- At the first instant of a later epoch the boundary of that epoch is taken, at the changed period if one is due; GUARD before T_(E-1) the commit set of E closes; from 84 us before T_E a set of committing groups without an image switch is loaded into the tiles, output values and overrides at the tick of T_E, once for each epoch. At a device that does not count epochs the boundary is that of its own grid, by which WDH alone counts, and the others have no effect. -/
def Obligations.EpochInstants : Prop :=
  (∀ (s a : State) (t : Time), a = s.at_ t → hubUp a = true → a.ep.counting = true → a.ep.e < epochNow (changePeriod a) → 
    exec (.epochBoundary t) s = .next (withHref (boundary (epochNow (changePeriod a))) (changePeriod a))) ∧
  (∀ (s a : State) (t : Time), a = s.at_ t → hubUp a = true → a.ep.counting = true → epochHalf a (a.ep.e + 1) - (guardHalf a : Int) ≤ (sysHalf a : Int) → 
    exec (.commitSetClose t) s = .next ({ a with ep := { a.ep with closed := a.ep.e + 2 } })) ∧
  (∀ (s a : State) (t : Time) (items : List SetItem), a = s.at_ t → hubUp a = true → a.ep.counting = true → a.ep.loaded ≠ a.ep.e + 1 → epochHalf a (a.ep.e + 1) ≤ (sysHalf a + us 84 : Nat) → (items = ((committing (a.ep.e + 1) (forEach ((a.ep.groups.filter fun g => g.state == 1 && fixedReady g (a.ep.e + 1)).map (·.num)) (modGroup · fun g => { g with state := 2 }) a)).flatMap fun g => (splitSets (dueSets a g (a.ep.e + 1))).1).flatMap (·.items)) → ((items.any fun i => isSwitch i.act) = false) → 
    exec (.commitLoad t) s = .next (forEach (loadOf items).2 (loadOvr (epochTick a (a.ep.e + 1)).toNat) (forEach (loadOf items).1 (loadValue (epochTick a (a.ep.e + 1)).toNat)
      { a with ep := { a.ep with loaded := a.ep.e + 1 } }))) ∧
  (∀ (s a : State) (t : Time), a = s.at_ t → hubUp a = true → a.ep.counting = false → 
    exec (.epochBoundary t) s = .next (ownGrid (changePeriod a))) ∧
  (∀ (s a : State) (t : Time), a = s.at_ t → a.ep.counting = false → 
    exec (.commitSetClose t) s = .next a) ∧
  (∀ (s a : State) (t : Time), a = s.at_ t → a.ep.counting = false → 
    exec (.commitLoad t) s = .next a)

/-- From 25 us after T_E the own image of E is complete, once, with the records stored for E; it is sent in frames of whole records unless the member does not drive its pair, and the cuts due are delivered; a frame of another device joins its image, its last-good values are those that are neither ABSENT nor of an image sent UNLOCKED, and never give way to an older epoch, the last-good values that they replace being kept as those of before; a queue whose next cut is due delivers it. An own frame has no effect. -/
def Obligations.ImageFrameAndCutEvents : Prop :=
  (∀ (s a : State) (t : Time), a = s.at_ t → hubUp a = true → a.ep.counting = true → a.ep.ownDone ≠ a.ep.e → epochHalf a a.ep.e + (us 25 : Nat) ≤ (sysHalf a : Int) → (sysHalf a : Int) < epochHalf a (a.ep.e + 1) → mute a = true → 
    exec (.imgSend t) s = .next (cutsAll { a with ep := { a.ep with
        ownDone := a.ep.e
        imgSent := a.ep.e
        rimg := a.ep.rimg ++ [{ dev := a.net.num, epoch := a.ep.e, parts := [0], last := some 0, unlocked := false, recs := a.ep.tags.filterMap fun x => if x.2.epoch = a.ep.e then some (x.1, x.2.value, x.2.csw) else none }] } })) ∧
  (∀ (s a : State) (t : Time), a = s.at_ t → hubUp a = true → a.ep.counting = true → a.ep.ownDone ≠ a.ep.e → epochHalf a a.ep.e + (us 25 : Nat) ≤ (sysHalf a : Int) → (sysHalf a : Int) < epochHalf a (a.ep.e + 1) → mute a = false → netUp a = true → a.ep.published = [] → 
    exec (.imgSend t) s = .next (cutsAll (forEach ((List.range (packAll []).length).zip (packAll []))
      (fun x z => castSend 1 scopeSeg (z.net.imgExp.contains (selfNum z)) (imgBytes a.ep.e (!z.net.locked) (x.1 + 1 == (packAll []).length) x.1 x.2) z)
      { a with ep := { a.ep with
        ownDone := a.ep.e
        imgSent := a.ep.e
        rimg := a.ep.rimg ++ [{ dev := a.net.num, epoch := a.ep.e, parts := [0], last := some 0, unlocked := false, recs := a.ep.tags.filterMap fun x => if x.2.epoch = a.ep.e then some (x.1, x.2.value, x.2.csw) else none }] } }))) ∧
  (∀ (s a : State) (t : Time) (src : Nat) (bytes : List Byte), a = s.at_ t → isSelf a src = true → 
    exec (.imgFrameReceived t src bytes) s = .next a) ∧
  (∀ (s a : State) (t : Time) (src : Nat) (bytes : List Byte) (i : RImage), a = s.at_ t → hubUp a = true → isSelf a src = false → bitOf (u8 bytes 6) 0 = true → i = (imageOf a src (uN bytes 0 6)).getD { dev := src, epoch := uN bytes 0 6, parts := [], last := none, unlocked := false, recs := [] } → 
    exec (.imgFrameReceived t src bytes) s = .next (cutsAll { a with ep := { a.ep with
        rimg := { i with
          parts := u8 bytes 7 :: i.parts
          last := if bitOf (u8 bytes 6) 1 then some (u8 bytes 7) else i.last
          unlocked := true
          recs := i.recs ++ imgRuns (u16 bytes 8) (bytes.drop 12) } :: a.ep.rimg.filter fun x => !(x.dev == src && x.epoch == uN bytes 0 6)
        rlast := a.ep.rlast
        rprev := a.ep.rprev } })) ∧
  (∀ (s a : State) (t : Time) (src : Nat) (bytes : List Byte) (i : RImage) (fresh : List (Word × TagRec)), a = s.at_ t → hubUp a = true → isSelf a src = false → bitOf (u8 bytes 6) 0 = false → i = (imageOf a src (uN bytes 0 6)).getD { dev := src, epoch := uN bytes 0 6, parts := [], last := none, unlocked := false, recs := [] } → (fresh = ((imgRuns (u16 bytes 8) (bytes.drop 12)).filter fun r => r.2.2 &&& cswAbsent == 0).map fun r => ((BitVec.ofNat 32 (src * 32768 + r.1), { value := r.2.1, csw := r.2.2, epoch := uN bytes 0 6 }) : Word × TagRec)) → 
    exec (.imgFrameReceived t src bytes) s = .next (cutsAll { a with ep := { a.ep with
        rimg := { i with
          parts := u8 bytes 7 :: i.parts
          last := if bitOf (u8 bytes 6) 1 then some (u8 bytes 7) else i.last
          recs := i.recs ++ imgRuns (u16 bytes 8) (bytes.drop 12) } :: a.ep.rimg.filter fun x => !(x.dev == src && x.epoch == uN bytes 0 6)
        rlast := fresh.filter (fun y => !a.ep.rlast.any fun x => x.1 == y.1 && decide (y.2.epoch < x.2.epoch))
          ++ a.ep.rlast.filter (fun x => !fresh.any fun y => y.1 == x.1 && decide (x.2.epoch ≤ y.2.epoch))
        rprev := a.ep.rlast.filter (fun x => (fresh.any fun y => y.1 == x.1 && decide (x.2.epoch ≤ y.2.epoch)) && !fresh.any fun y => y.1 == x.1 && y.2.epoch == x.2.epoch)
          ++ a.ep.rprev.filter (fun x => !a.ep.rlast.any fun y => y.1 == x.1 && fresh.any fun q => q.1 == y.1 && decide (y.2.epoch ≤ q.2.epoch)) } })) ∧
  (∀ (s a : State) (t : Time) (iq : Fin 16), a = s.at_ t → cutDue iq a = true → 
    exec (.cutDeadline t iq) s = .next (dropImages (cutsDue (a.ep.e - (a.ep.iq.get iq).done) iq a))) ∧
  (∀ (s a : State) (t : Time) (iq : Fin 16), a = s.at_ t → cutDue iq a = false → 
    exec (.cutDeadline t iq) s = .next a)

/-- A ring port that has decoded for 1 ms and is not blocked comes up with its errors cleared and is recorded; a port that goes down is recorded and raises its source; invalid code groups at a running port are counted as bad frames are; a frame that arrives on a running ring port is handled as its check and end code say, a bad one on the partner link is counted too, and on a port that is not running it has no effect; a source unheard for 10 ms is forgotten; ALL_PORTS_DOWN for 10 ms leaves the ring. -/
def Obligations.PortEvents : Prop :=
  (∀ (s a : State) (t : Time) (port : Fin 5) (held : Time), a = s.at_ t → hubAlive a = true → (a.net.port.get port).state = 0 → ms 1 ≤ held → ((a.flt.blocks.any fun b => b.1 == portSource port) = false) → port.val = 4 → 
    exec (.portUp t port held) s = .next (recordPort port 1 (a.net.port.get port).bad (modPort port (fun p => { p with state := 1, errs := [] }) a))) ∧
  (∀ (s a : State) (t : Time) (port : Fin 5) (held : Time), a = s.at_ t → hubAlive a = true → (a.net.port.get port).state = 0 → ms 1 ≤ held → ((a.flt.blocks.any fun b => b.1 == portSource port) = false) → port.val ≠ 4 → (ringIn a).contains port = true → 
    exec (.portUp t port held) s = .next (netRise (recordPort port 1 (a.net.port.get port).bad (modPort port (fun p => { p with state := 1, errs := [] }) a)))) ∧
  (∀ (s a : State) (t : Time) (port : Fin 5), a = s.at_ t → hubAlive a = true → portOn a port = true → port.val ≠ 4 → (ringsDown (raise (portSource port) (recordPort port 2 (a.net.port.get port).bad (modPort port (fun p => { p with state := 0, downAt := a.now, cand := none, echo := none }) a))) = false) → 
    exec (.portDown t port) s = .next (raise (portSource port) (recordPort port 2 (a.net.port.get port).bad (modPort port (fun p => { p with state := 0, downAt := a.now, cand := none, echo := none }) a)))) ∧
  (∀ (s a : State) (t : Time) (port : Fin 5), a = s.at_ t → hubAlive a = true → portOn a port = true → port.val = 4 → 
    exec (.portDown t port) s = .next ((fun z => couchCause { z with pair := { z.pair with linkLostAt := match z.pair.linkLostAt with | some b => some b | none => some z.now } })
      (raise (portSource port) (recordPort port 2 (a.net.port.get port).bad (modPort port (fun p => { p with state := 0, downAt := a.now, cand := none, echo := none }) a))))) ∧
  (∀ (s a : State) (t : Time) (port : Fin 5) (q : Fin 4) (bytes : List Byte) (fin : FrameEnd) (z : State), a = s.at_ t → hubAlive a = true → portOn a port = true → port.val = q.val → bytes ≠ [] → z = portErrors port fin.codes (raiseDrops a) → 
    exec (.pelrunFrame t port bytes fin) s = .next (ringFrame q bytes (fin.v || !frCheckOk bytes) z)) ∧
  (∀ (s a : State) (t : Time) (port : Fin 5) (bytes : List Byte) (fin : FrameEnd) (z : State), a = s.at_ t → hubAlive a = true → portOn a port = true → port.val = 4 → bytes ≠ [] → z = portErrors port fin.codes (raiseDrops a) → 
    exec (.pelrunFrame t port bytes fin) s = .next (if fin.v || !frCheckOk bytes || !prtLegal bytes then portError port z else z)) ∧
  (∀ (s a : State) (t : Time) (port : Fin 5) (bytes : List Byte) (fin : FrameEnd), a = s.at_ t → hubAlive a = true → portOn a port = true → bytes = [] → 
    exec (.pelrunFrame t port bytes fin) s = .next (portErrors port fin.codes (raiseDrops a))) ∧
  (∀ (s a : State) (t : Time) (port : Fin 5) (bytes : List Byte) (fin : FrameEnd), a = s.at_ t → portOn a port = false → 
    exec (.pelrunFrame t port bytes fin) s = .next a) ∧
  (∀ (s a : State) (t : Time) (src : Nat), a = s.at_ t → hubAlive a = true → 
    exec (.sourceForgotten t src) s = .next ({ a with net := { a.net with srcs := a.net.srcs.filter fun w => w.num != src || decide (a.now < w.last + ms 10) } })) ∧
  (∀ (s a : State) (t : Time), a = s.at_ t → hubUp a = true → a.net.state = 3 → (((ringIn a).all fun p => !portOn a p && decide ((a.net.port.get p).downAt + ms 10 ≤ a.now)) = true) → 
    exec (.allPortsDown t) s = .next (netLeave 0 a)) ∧
  (∀ (s a : State) (t : Time), a = s.at_ t → hubUp a = true → a.net.state = 2 → a.net.listenAt + ms 10 ≤ a.now → a.net.locked = false → 
    exec (.listenEnd t) s = .next (chooseUpstream { a with net := { a.net with state := 3 }, ep := { a.ep with joinAt := none } })) ∧
  (∀ (s a : State) (t : Time), a = s.at_ t → hubUp a = true → a.net.state = 2 → a.net.listenAt + ms 10 ≤ a.now → a.net.locked = true → 
    exec (.listenEnd t) s = .next (chooseUpstream { a with net := { a.net with state := 3 }, ep := { a.ep with joinAt := some ((a.net.lockedAt + 2 * us a.ep.p : Nat) + a.sysOff).toNat } }))

/-- TIM_SEND advances MSEQ at the master alone and sends on every running ring port; a TIM at a running port is its candidate and echo, one that answers an own TIM gives the port its delay and offset, and where the port is upstream it gives the grid and, when its ETX answers an own TIM, steers the time; 250 ms without a valid TIM gives the upstream up, with HOLDOVER where no other is found; 10 ms without an upstream unlock; a stale candidate is forgotten; the held priority returns after 1 s of lock or 10 ms without any TIM. -/
def Obligations.NetworkTimeEvents : Prop :=
  (∀ (s a : State) (t : Time) (z : State), a = s.at_ t → netUp a = true → z = raiseDrops a → isMaster z = false → 
    exec (.timSend t) s = .next (forEach (ringIn z) timOut z)) ∧
  (∀ (s a : State) (t : Time) (z : State), a = s.at_ t → netUp a = true → z = raiseDrops a → isMaster z = true → 
    exec (.timSend t) s = .next (forEach (ringIn { z with net := { z.net with mseq := (z.net.mseq + 1) % 2 ^ 32 } }) timOut { z with net := { z.net with mseq := (z.net.mseq + 1) % 2 ^ 32 } })) ∧
  (∀ (s a : State) (t : Time) (port : Fin 4) (src : Nat) (bytes : List Byte) (z : State), a = s.at_ t → hubUp a = true → portOn a ⟨port.val, by omega⟩ = true → 60 ≤ bytes.length → (((a.net.port.get ⟨port.val, by omega⟩).txs.any fun e => e.1 == fieldTime bytes 9 && decide (a.now ≤ e.2 + ms 1)) = false) → (z = chooseUpstream (modPort ⟨port.val, by omega⟩ (fun x => { x with
          cand := takeCand a.now bytes x.cand
          echo := some (fieldTime bytes 0, sys256 a)
          lastTim := some a.now }) a)) → 
    exec (.timReceived t port src bytes) s = .next (if z.net.upPort = some port then takeGrid bytes z else z)) ∧
  (∀ (s a : State) (t : Time) (port : Fin 4) (src : Nat) (bytes : List Byte) (z : State), a = s.at_ t → hubUp a = true → portOn a ⟨port.val, by omega⟩ = true → 60 ≤ bytes.length → (((a.net.port.get ⟨port.val, by omega⟩).txs.any fun e => e.1 == fieldTime bytes 9 && decide (a.now ≤ e.2 + ms 1)) = true) → (z = chooseUpstream (modPort ⟨port.val, by omega⟩ (fun x => { x with
          cand := takeCand a.now bytes x.cand
          echo := some (fieldTime bytes 0, sys256 a)
          lastTim := some a.now
          lastValid := some a.now
          delay := (((sys256 a : Int) - fieldTime bytes 9) - ((fieldTime bytes 0 : Int) - fieldTime bytes 18)) / 2
          offset := (((fieldTime bytes 18 : Int) - fieldTime bytes 9) + ((fieldTime bytes 0 : Int) - (sys256 a : Int))) / 2 }) a)) → z.net.upPort ≠ some port → 
    exec (.timReceived t port src bytes) s = .next z) ∧
  (∀ (s a : State) (t : Time) (port : Fin 4) (src : Nat) (bytes : List Byte) (z y : State), a = s.at_ t → hubUp a = true → portOn a ⟨port.val, by omega⟩ = true → 60 ≤ bytes.length → (((a.net.port.get ⟨port.val, by omega⟩).txs.any fun e => e.1 == fieldTime bytes 9 && decide (a.now ≤ e.2 + ms 1)) = true) → (z = chooseUpstream (modPort ⟨port.val, by omega⟩ (fun x => { x with
          cand := takeCand a.now bytes x.cand
          echo := some (fieldTime bytes 0, sys256 a)
          lastTim := some a.now
          lastValid := some a.now
          delay := (((sys256 a : Int) - fieldTime bytes 9) - ((fieldTime bytes 0 : Int) - fieldTime bytes 18)) / 2
          offset := (((fieldTime bytes 18 : Int) - fieldTime bytes 9) + ((fieldTime bytes 0 : Int) - (sys256 a : Int))) / 2 }) a)) → z.net.upPort = some port → y = takeGrid bytes z → 
    exec (.timReceived t port src bytes) s = .next (steer ((((fieldTime bytes 18 : Int) - fieldTime bytes 9) + ((fieldTime bytes 0 : Int) - (sys256 a : Int))) / 2) (bitOf (u8 bytes 31) 0) { y with net := { y.net with delay := (((sys256 a : Int) - fieldTime bytes 9) - ((fieldTime bytes 0 : Int) - fieldTime bytes 18)) / 2 } })) ∧
  (∀ (s a : State) (t : Time) (p : Fin 4) (b : Time) (z : State), a = s.at_ t → hubUp a = true → a.net.upPort = some p → (a.net.port.get ⟨p.val, by omega⟩).lastValid = some b → b + us 250 ≤ a.now → (z = chooseUpstream (modPort ⟨p.val, by omega⟩ (fun x => { x with cand := none }) a)) → 
    exec (.upstreamLoss t) s = .next (if z.net.upPort.isNone && z.net.locked && !isMaster z then { z with net := { z.net with holdover := true } } else z)) ∧
  (∀ (s a : State) (t : Time) (b : Time), a = s.at_ t → hubUp a = true → a.net.locked = true → a.net.upPort.isNone = true → isMaster a = false → a.net.upLostAt = some b → b + ms 10 ≤ a.now → 
    exec (.noUpstreamUnlock t) s = .next (timeUnlock a)) ∧
  (∀ (s a : State) (t : Time) (port : Fin 4) (c : Cand), a = s.at_ t → hubUp a = true → (a.net.port.get ⟨port.val, by omega⟩).cand = some c → candLive a c = false → 
    exec (.candidateForgotten t port) s = .next (chooseUpstream (modPort ⟨port.val, by omega⟩ (fun x => { x with cand := none }) a))) ∧
  (∀ (s a : State) (t : Time), a = s.at_ t → hubUp a = true → a.net.prioHeld = true → a.net.locked = true → a.net.lockedAt + sec 1 ≤ a.now → 
    exec (.prioRestore t) s = .next (chooseUpstream { a with net := { a.net with prioHeld := false } }))

/-- A JOINED, UNNUM or DUPNUM device sends its heartbeat with the next FSEQ on every ring port, as device 0 where it is UNNUM; the flags of a received heartbeat are kept with their instant, and the PMAP of a coupler's; a heartbeat under the own number with another serial number makes the device DUPNUM, recorded with that serial number, and raises source 0x095; a STANDBY's heartbeat has no effect. -/
def Obligations.HeartbeatEvents : Prop :=
  (∀ (s a : State) (t : Time), a = s.at_ t → hubUp a = true → a.pwr.failing = false → a.net.state = 1 → 
    exec (.hbtSend t) s = .next (forEach (ringIn (takeFseq false a).2) (fun p z => portSend p.val (frameBytes 8 (if a.net.coupler then scopeSys else scopeSeg) (if 2 ≤ p.val then 64 else 32) 0 0 (takeFseq false a).1 (hbtPayload a)) z) (takeFseq false a).2)) ∧
  (∀ (s a : State) (t : Time), a = s.at_ t → hubUp a = true → a.pwr.failing = false → a.net.state = 3 ∨ a.net.state = 4 → 
    exec (.hbtSend t) s = .next (forEach (ringIn (takeFseq false a).2) (fun p z => portSend p.val (frameBytes 8 (if a.net.coupler then scopeSys else scopeSeg) (if 2 ≤ p.val then 64 else 32) a.net.num a.net.num (takeFseq false a).1 (hbtPayload a)) z) (takeFseq false a).2)) ∧
  (∀ (s a : State) (t : Time) (src : Nat) (bytes : List Byte), a = s.at_ t → hubUp a = true → bitOf (u8 bytes 9) 5 = false → bitOf (u8 bytes 9) 4 = true → src ≠ a.net.num → 
    exec (.hbtReceived t src bytes) s = .next ({ a with net := { a.net with
        hbts := (src, BitVec.ofNat 8 (u8 bytes 9), a.now) :: a.net.hbts.filter fun p => p.1 != src
        pmaps := (src, w32 bytes 12, a.now) :: a.net.pmaps.filter fun p => p.1 != src } })) ∧
  (∀ (s a : State) (t : Time) (src : Nat) (bytes : List Byte), a = s.at_ t → hubUp a = true → bitOf (u8 bytes 9) 5 = false → bitOf (u8 bytes 9) 4 = false → src ≠ a.net.num → 
    exec (.hbtReceived t src bytes) s = .next ({ a with net := { a.net with hbts := (src, BitVec.ofNat 8 (u8 bytes 9), a.now) :: a.net.hbts.filter fun p => p.1 != src } })) ∧
  (∀ (s a : State) (t : Time) (src : Nat) (bytes : List Byte) (z : State), a = s.at_ t → hubUp a = true → bitOf (u8 bytes 9) 5 = false → bitOf (u8 bytes 9) 4 = false → a.net.numValid = true → src = a.net.num → u64 bytes 0 ≠ a.nvs.store.serial.toNat → a.net.state = 3 → (z = { a with net := { a.net with hbts := (src, BitVec.ofNat 8 (u8 bytes 9), a.now) :: a.net.hbts.filter fun p => p.1 != src } }) → 
    exec (.hbtReceived t src bytes) s = .next (raise 0x095 (recordArgs 0x0602 (srcOf 8 0) [u32 bytes 0, u32 bytes 4] (netLeave 4 z)))) ∧
  (∀ (s a : State) (t : Time) (src : Nat) (bytes : List Byte), a = s.at_ t → bitOf (u8 bytes 9) 5 = true → 
    exec (.hbtReceived t src bytes) s = .next a)

/-- A seated member sends SHD, no longer SYNCED where the conditions have gone; the items of a JNL STATE frame are taken by the member that mirrors; 1 ms without the link makes an ARMED STANDBY an ORPHAN, 2 ms ends PARTNERED; an ORPHAN whose witness W2 has asserted for ORPHWAIT becomes ACTIVE; two witnesses make an ARMED STANDBY take over 20 us ahead; a YIELD makes the mirroring member take the ACTIVE role at its stamp; TAKEN makes an ORPHAN STANDBY; the end of a hold-off lets what it held off take effect; JNL_IMAGE bytes join the mirrored image and its last part loads it. -/
def Obligations.PairMemberEvents : Prop :=
  (∀ (s a : State) (t : Time), a = s.at_ t → hubUp a = true → seated a = true → 
    exec (.shdSend t) s = .next (prtSend 9 (shdPayload (keepSync a)) (keepSync a))) ∧
  (∀ (s a : State) (t : Time) (bytes : List Byte), a = s.at_ t → hubUp a = true → mirrors a = true → 
    exec (.jnlState t bytes) s = .next (forEach (List.range (bytes.length / 24)) (fun i z => takeItem (slice bytes (24 * i) 24) z) a)) ∧
  (∀ (s a : State) (t : Time) (b : Time), a = s.at_ t → hubUp a = true → a.pair.state = .standby → a.pair.armed = true → a.pair.linkLostAt = some b → b + ms 1 ≤ a.now → 
    exec (.armedLinkLoss t) s = .next (becomeOrphan a)) ∧
  (∀ (s a : State) (t : Time) (b : Time), a = s.at_ t → hubUp a = true → a.pair.state = .active → a.pair.partnered = true → a.pair.linkLostAt = some b → b + ms 2 ≤ a.now → 
    exec (.partneredLinkLoss t) s = .next (clearPartnered a)) ∧
  (∀ (s a : State) (t : Time) (b : Time) (i : Image), a = s.at_ t → hubUp a = true → seated a = true → a.pair.state = .orphan → paired a = true → a.pair.wit.2.1 = true → a.pair.orphanSince = some b → a.img.cast = some i → b + ms (prOrphwait i.pair) ≤ a.now → 
    exec (.orphwaitExpiry t) s = .next (goActive a)) ∧
  (∀ (s a : State) (t : Time) (equal still : Time) (field : List (Fin 96 × Int × Time)) (w1 w2 w3 : Bool) (z : State), a = s.at_ t → hubUp a = true → seated a = true → w1 = linkWitness a → w2 = (decide (us 5 ≤ equal) || decide (us 500 ≤ still)) → w3 = fieldWitness field a → 2 ≤ count3 w1 w2 w3 → (z = (fun s1 : State => if w2 then raiseLevel 0x097 s1 else calm 0x097 s1) { a with pair := { a.pair with
          wit := (w1, w2, w3)
          linkLostAt := if w1 then (match a.pair.linkLostAt with | some b => some b | none => some a.now) else none
          orphanSince := if w1 && w2 && !foreignDrive field a then (match a.pair.orphanSince with | some b => some b | none => some a.now) else none } }) → mayTake z = true → z.pair.armed = true → 
    exec (.witnessAssert t equal still field) s = .next (becomeActive (sysNs z + 20000) (nsTick (sysNs z + 20000)) (witMask z) z)) ∧
  (∀ (s a : State) (t : Time) (epoch stamp reason : Nat), a = s.at_ t → hubUp a = true → mayTake a = true → 
    exec (.cchYield t epoch stamp reason) s = .next (becomeActive stamp (nsTick stamp) 0 a)) ∧
  (∀ (s a : State) (t : Time) (epoch stamp : Nat), a = s.at_ t → hubUp a = true → seated a = true → a.pair.state = .orphan → 
    exec (.cchTaken t epoch stamp) s = .next (sendRoles true false (roleTick a) { a with pair := { a.pair with state := .standby, orphanSince := none } })) ∧
  (∀ (s a : State) (t : Time) (epoch stamp : Nat), a = s.at_ t → hubUp a = true → seated a = true → drivesLogical a = true → a.pair.state ≠ .orphan → a.pair.yielding = false → 
    exec (.cchTaken t epoch stamp) s = .next (everyTileRole true false (sendRoles true false (sysTick a) (standAside a)))) ∧
  (∀ (s a : State) (t : Time) (stop : Time) (cause src : Nat), a = s.at_ t → hubAlive a = true → a.pair.holdOff = some (stop, cause, src) → stop ≤ a.now → cause ≠ 15 → a.pwr.failing = false → 
    exec (.yieldHoldoffEnd t) s = .next (hubReset cause src { a with pair := { a.pair with holdOff := none } })) ∧
  (∀ (s a : State) (t : Time) (stop : Time) (src : Nat), a = s.at_ t → hubAlive a = true → a.pair.holdOff = some (stop, 15, src) → stop ≤ a.now → 
    exec (.yieldHoldoffEnd t) s = .next (lockNow src { a with pair := { a.pair with holdOff := none } })) ∧
  (∀ (s a : State) (t : Time) (off : Word) (bytes : List Byte) (last : Bool), a = s.at_ t → hubUp a = true → mirrors a = true → a.img.maqState ≠ .armed → last = false → 
    exec (.jnlImage t off bytes last) s = .next ({ a with pair := { a.pair with image := cellWrites off.toNat bytes a.pair.image } })) ∧
  (∀ (s a : State) (t : Time) (off : Word) (bytes : List Byte) (last : Bool), a = s.at_ t → hubUp a = true → mirrors a = true → a.img.maqState ≠ .armed → last = true → 
    exec (.jnlImage t off bytes last) s = .next (mirrorImage (maqChanged .loaded { a with pair := { a.pair with image := cellWrites off.toNat bytes a.pair.image } }))) ∧
  (∀ (s a : State) (t : Time) (joff : Word) (bytes : List Byte) (p : Shd), a = s.at_ t → hubUp a = true → mirrors a = true → a.pair.partner = some p → (a.host.jnl.acked + a.host.jnl.mirror.length) % 131072 = joff.toNat % 131072 → 
    exec (.jnlEntry t joff bytes) s = .next ((fun z => takeEntries (z.host.jnl.mirror.length / 24 + 1) z) { a with host := { a.host with jnl := { a.host.jnl with mirror := a.host.jnl.mirror ++ bytes } } })) ∧
  (∀ (s a : State) (t : Time) (bytes : List Byte) (d : Nat), a = s.at_ t → hubUp a = true → partnerNum a = some d → drivesLogical a = true → 
    exec (.jnlFwd t bytes) s = .next (reqIn d bytes a)) ∧
  (∀ (s a : State) (t : Time) (bytes : List Byte) (d : Nat), a = s.at_ t → hubUp a = true → partnerNum a = some d → 36 ≤ bytes.length → 
    exec (.jnlCpl t bytes) s = .next (rspIn d bytes a))

/-- COUCHSET of the own seat makes an ARMED STANDBY with every tile LIVE enter the couch and any other answer COUCHABORT; COUCHGO sets t_C and E_C, COUCHEND the epoch of the exchange; step k moves both members' shares by one eighth at t_C + k x 25 us and holds HART until 1 ms after the last; COUCHABORT before step 1 ends the couch, with result 5, or with 4 or 1 where the partner never showed COUCH (the model's reading, log entry 178); the window's end lets HART resume. -/
def Obligations.CouchEvents : Prop :=
  (∀ (s a : State) (t : Time) (epoch seat : Nat), a = s.at_ t → hubUp a = true → a.pair.state = .standby → seat = ownSeat a → a.pair.couch.isNone = true → a.pair.armed = true → allLive a = true → 
    exec (.cchCouchset t epoch seat) s = .next (enterCouch true epoch none a)) ∧
  (∀ (s a : State) (t : Time) (epoch seat : Nat), a = s.at_ t → hubUp a = true → a.pair.state = .standby → seat = ownSeat a → a.pair.couch.isNone = true → a.pair.armed = false → 
    exec (.cchCouchset t epoch seat) s = .next (cchSend 4 epoch (sysNs a) 0 a)) ∧
  (∀ (s a : State) (t : Time) (epoch stamp : Nat) (c : Couch), a = s.at_ t → hubUp a = true → a.pair.couch = some c → c.incoming = true → c.step = 0 → 
    exec (.cchCouchgo t epoch stamp) s = .next ({ a with pair := { a.pair with couch := some { c with ec := some epoch, tc := some (2 * stamp) } } })) ∧
  (∀ (s a : State) (t : Time) (c : Couch) (b : Time), a = s.at_ t → hubUp a = true → a.pair.couch = some c → c.step < 8 → c.tc = some b → b + (c.step + 1) * us 25 ≤ sysHalf a → 
    exec (.couchStep t) s = .next (setShares (some (if c.incoming then c.step + 1 else 8 - (c.step + 1))) (holdHart true { a with pair := { a.pair with
        couch := some { c with step := c.step + 1 }
        hartWindow := if c.step + 1 = 8 then some (a.now + ms 1) else a.pair.hartWindow } }))) ∧
  (∀ (s a : State) (t : Time) (epoch : Nat) (c : Couch), a = s.at_ t → hubUp a = true → a.pair.couch = some c → c.incoming = true → 0 < epoch → 
    exec (.cchCouchend t epoch) s = .next ({ a with pair := { a.pair with couch := some { c with ec := some (epoch - 1) } } })) ∧
  (∀ (s a : State) (t : Time) (epoch : Nat) (c : Couch), a = s.at_ t → hubUp a = true → a.pair.couch = some c → c.step = 0 → c.e0 = epoch → 
    exec (.cchCouchabort t epoch) s = .next (leaveCouch (finishCouch (abortCode a) a))) ∧
  (∀ (s a : State) (t : Time) (b : Time), a = s.at_ t → hubUp a = true → a.pair.hartWindow = some b → b ≤ a.now → 
    exec (.couchHartWindowEnd t) s = .next (forEach allChans hartResume (holdHart false { a with pair := { a.pair with hartWindow := none } }))) ∧
  (∀ (s a : State) (t : Time) (bytes : List Byte) (z : State), a = s.at_ t → hubUp a = true → seated a = true → 46 ≤ bytes.length → z = partnerAccepts (arming a.pair.partner (shdOf bytes a.now) (dualActive a.pair.partner (shdOf bytes a.now) (negotiate (shdOf bytes a.now)
          { a with pair := { a.pair with
            partner := some (shdOf bytes a.now)
            linkLostAt := none
            orphanSince := none
            wit := (false, a.pair.wit.2.1, a.pair.wit.2.2) } }))) → z.pair.state ≠ .active → 
    exec (.shdReceived t bytes) s = .next z)

/-- A 4-byte write at its place on its page moves the tail of CRn or the head of CQn to INDEX when INDEX is below the size and GEN is that of the ring, the head of IQn when the value is below the size, which releases its entries up to there, the head of EQ0 when it is a multiple of 4 below the size, and serves the host watchdog; an index or size out of range, another access size or place, or a page without that doorbell only counts and records an ignored doorbell, another GEN only counts. -/
def Obligations.RingDoorbells : Prop :=
  (∀ (s a : State) (t : Time) (n : Nat) (off size : Nat) (value : Word) (r : Fin 64), a = s.at_ t → hubAlive a = true → size = 4 → off = 0 → n < 64 → asFin 64 n = some r → bits value.toNat 0 16 < crSize a n → bits value.toNat 16 16 = (a.host.cr.get r).gen → 
    exec (.crTailDoorbell t n off size value) s = .next (modCr r (fun c => { c with tail := bits value.toNat 0 16 }) a)) ∧
  (∀ (s a : State) (t : Time) (n : Nat) (off size : Nat) (value : Word) (r : Fin 64), a = s.at_ t → hubAlive a = true → size = 4 → off = 0 → n < 64 → asFin 64 n = some r → crSize a n ≤ bits value.toNat 0 16 → 
    exec (.crTailDoorbell t n off size value) s = .next (dbIgnore n a)) ∧
  (∀ (s a : State) (t : Time) (n : Nat) (off size : Nat) (value : Word) (r : Fin 64), a = s.at_ t → hubAlive a = true → size = 4 → off = 0 → n < 64 → asFin 64 n = some r → bits value.toNat 0 16 < crSize a n → bits value.toNat 16 16 ≠ (a.host.cr.get r).gen → 
    exec (.crTailDoorbell t n off size value) s = .next (genIgnore a)) ∧
  (∀ (s a : State) (t : Time) (n : Nat) (off size : Nat) (value : Word) (q : Fin 64), a = s.at_ t → hubAlive a = true → size = 4 → off = 4 → n < 64 → asFin 64 n = some q → bits value.toNat 0 16 < cqSize a n → bits value.toNat 16 16 = (a.host.cq.get q).gen → 
    exec (.cqHeadUpdate t n off size value) s = .next (modCq q (fun c => { c with head := bits value.toNat 0 16 }) a)) ∧
  (∀ (s a : State) (t : Time) (n : Nat) (off size : Nat) (value : Word) (q : Fin 16), a = s.at_ t → hubAlive a = true → size = 4 → off = 8 → n < 64 → asFin 16 n = some q → n < 16 → value.toNat < iqSize a n → 
    exec (.iqHeadUpdate t n off size value) s = .next (cutsAll (modIq q (fun c => { c with head := value.toNat, used := c.used - (value.toNat + iqSize a n - c.head % iqSize a n) % iqSize a n }) a))) ∧
  (∀ (s a : State) (t : Time) (n : Nat) (off size : Nat) (value : Word), a = s.at_ t → hubAlive a = true → size = 4 → off = 12 → n < 64 → n = 0 → value.toNat % 4 = 0 → value.toNat < eq0Size a → 
    exec (.eq0HeadUpdate t n off size value) s = .next ({ a with host := { a.host with eq0Head := value.toNat, eq0Paused := false } })) ∧
  (∀ (s a : State) (t : Time) (n : Nat) (off size : Nat) (value : Word), a = s.at_ t → hubAlive a = true → size = 4 → off = 12 → n < 64 → n = 0 → value.toNat % 4 ≠ 0 → 
    exec (.eq0HeadUpdate t n off size value) s = .next (dbIgnore 0x100 a)) ∧
  (∀ (s a : State) (t : Time) (n : Nat) (off size : Nat) (value : Word), a = s.at_ t → hubUp a = true → size = 4 → off = 0x800 → n = 0 → 
    exec (.wdhHeartbeat t n off size value) s = .next (wdhService value a)) ∧
  (∀ (s a : State) (t : Time) (n : Nat) (off size : Nat) (value : Word), a = s.at_ t → hubUp a = true → size ≠ 4 ∨ off ≠ 0x800 ∨ n ≠ 0 → 
    exec (.wdhHeartbeat t n off size value) s = .next (dbIgnore 0x400 a))

/-- Enabling a disabled ring whose conditions hold gives the next GEN, clears its indices, journals and reposts; one whose conditions fail sets ENREF and is recorded; a ring that is on or in ERROR stays as it is; disabling makes it DRAINING, drained it is DISABLED; a host error of a kind puts it in ERROR; FORGET at a disabled ring that owes no class J descriptor its final completion drops its record of class J work and its high mark; the same for completion, image and event queues; a held completion is posted when there is room, and the moderation time signals. -/
def Obligations.RingStateEvents : Prop :=
  (∀ (s a : State) (t : Time) (n : Fin 64), a = s.at_ t → hubUp a = true → (a.host.cr.get n).state = 1 ∨ (a.host.cr.get n).state = 3 → 
    exec (.crEnable t n) s = .next a) ∧
  (∀ (s a : State) (t : Time) (n : Fin 64), a = s.at_ t → hubUp a = true → (a.host.cr.get n).state = 2 → 
    exec (.crEnable t n) s = .next (recordRing n.val 2 (modCr n (fun c => { c with enRef := true }) a))) ∧
  (∀ (s a : State) (t : Time) (n : Fin 64) (q : Fin 64) (z : State), a = s.at_ t → hubUp a = true → (a.host.cr.get n).state = 0 → a.pwr.ready = true → asFin 64 (crCq a n.val) = some q → (a.host.cq.get q).en = true → sizeOk (bits (reg a (crReg n.val + 0x10)) 0 5) = true → baseOk a (crReg n.val) = true → (z = modCr n (fun c => { c with state := 1, gen := ((a.host.cr.get n).gen + 1) % 65536, fetch := 0, tail := 0, reposted := false, enRef := false, prev := [] }) a) → 
    exec (.crEnable t n) s = .next (modCr n (fun c => { c with reposted := true }) (repostRing n.val (journalGen n.val { z with host := { z.host with
        work := z.host.work.map fun w => if ringWork a n.val w && w.final.isNone then { w with gen := ((a.host.cr.get n).gen + 1) % 65536, masked := crMasked z n.val } else w } })))) ∧
  (∀ (s a : State) (t : Time) (n : Fin 64), a = s.at_ t → hubAlive a = true → 
    exec (.crDisable t n) s = .next (modCr n (fun c => { c with state := if c.state = 1 then 2 else if c.state = 3 then 0 else c.state }) a)) ∧
  (∀ (s a : State) (t : Time) (n : Fin 64), a = s.at_ t → hubAlive a = true → (a.host.cr.get n).state = 2 → ringDrained a n.val = true → 
    exec (.drainComplete t n) s = .next (modCr n (fun c => { c with state := 0 }) a)) ∧
  (∀ (s a : State) (t : Time) (n : Fin 64) (kind : Fin 4), a = s.at_ t → hubUp a = true → (a.host.cr.get n).state = 1 → 
    exec (.ringError t n kind) s = .next (recordRing n.val 1 (hostErr kind.val (modCr n (fun c => { c with state := 3 }) a)))) ∧
  (∀ (s a : State) (t : Time) (n : Fin 64), a = s.at_ t → hubAlive a = true → (a.host.cr.get n).state = 0 → ringOwes a n.val = false → 
    exec (.forget t n) s = .next (journal 9 (refBytes { origin := a.net.num, ring := n.val, seq := 0 }) (modCr n (fun c => { c with forgetRef := false, high := eraseK a.net.num c.high })
      { a with host := { a.host with work := a.host.work.filter fun w => !(ringWork a n.val w && w.classJ) } }))) ∧
  (∀ (s a : State) (t : Time) (n : Fin 64), a = s.at_ t → hubAlive a = true → (a.host.cr.get n).state ≠ 0 → 
    exec (.forget t n) s = .next (recordRing n.val 5 (modCr n (fun c => { c with forgetRef := true }) a))) ∧
  (∀ (s a : State) (t : Time) (n : Fin 64) (on : Bool), a = s.at_ t → hubAlive a = true → on = true → (a.host.cq.get n).en = false → a.pwr.ready = true → sizeOk (bits (reg a (cqReg n.val + 0xC)) 4 5) = true → baseOk a (cqReg n.val) = true → 
    exec (.cqEnable t n on) s = .next (journalGen n.val (modCq n (fun c => { c with
        en := true
        enRef := false
        log2 := bits (reg a (cqReg n.val + 0xC)) 4 5
        gen := (c.gen + 1) % 65536
        head := 0
        wr := 0
        phase := true
        unsignalled := 0
        firstAt := none }) a))) ∧
  (∀ (s a : State) (t : Time) (n : Fin 64) (on : Bool), a = s.at_ t → hubAlive a = true → on = false → (((List.finRange 64).any fun r => crCq a r.val == n.val && (a.host.cr.get r).state != 0) = false) → 
    exec (.cqEnable t n on) s = .next (modCq n (fun c => { c with en := false }) a)) ∧
  (∀ (s a : State) (t : Time) (n : Fin 16) (readOk : Bool) (tags : List Word) (r : Fin 64), a = s.at_ t → hubAlive a = true → tags.length = iqNtags a n.val → (a.ep.iq.get n).en = false → a.pwr.ready = true → 1 ≤ bits (reg a (iqReg n.val + 0x10)) 0 4 → bits (reg a (iqReg n.val + 0x10)) 0 4 ≤ 12 → baseOk a (iqReg n.val) = true → asFin 64 (iqCr a n.val) = some r → (a.host.cr.get r).state ≠ 0 → readOk = true → ((tags.any fun x => (tagParts x).isNone) = false) → 
    exec (.iqEnable t n readOk tags) s = .next (modIq n (fun _ => { en := true, tags := tags, done := a.ep.e }) a)) ∧
  (∀ (s a : State) (t : Time) (cq : Fin 64) (c : Cpl) (irq : Bool) (rest : List (Cpl × Bool)), a = s.at_ t → hubUp a = true → (a.host.cq.get cq).held = (c, irq) :: rest → (a.host.cq.get cq).en = true → cqFull a cq = false → 
    exec (.completionPost t cq) s = .next (cqWrite cq c irq (modCq cq (fun q => { q with held := rest }) a))) ∧
  (∀ (s a : State) (t : Time) (cq : Fin 64) (b : Time), a = s.at_ t → hubAlive a = true → (a.host.cq.get cq).firstAt = some b → b + us (bits (reg a (cqReg cq.val + 8)) 16 16) ≤ a.now → 
    exec (.cqModerationTimer t cq) s = .next (cqSignal cq a)) ∧
  (∀ (s a : State) (t : Time), a = s.at_ t → hubUp a = true → a.pwr.wdh.en = true → a.pwr.wdh.close + a.pwr.wdh.open_ ≤ a.pwr.wdh.t → 
    exec (.wdhExpire t) s = .next (wdhFault 4 a))

/-- A whole descriptor that is fetched advances the fetch index, which is written back, and is parsed; a read that fails puts the ring in ERROR; the store write of a journal entry marks its work stored; a fence that nothing holds any more is released; a request under a number below 1,024 is judged by reqIn at the member that drives; one held for 2 ms without its predecessor is forgotten; RSP entries end their request; a request unanswered for 2 ms is sent again three times with its FLAGS bit, then ends OUTCOME_UNKNOWN. Studio's request for a buffered descriptor parses the fetch buffer again in its order; a descriptor so parsed whose resource the cast does not claim is rejected, raises 0x016 and is recorded (log entry 154). -/
def Obligations.DescriptorsInFlight : Prop :=
  (∀ (s a : State) (t : Time) (ring : Fin 64) (bytes payload : List Byte) (rd : HostRead), a = s.at_ t → hubUp a = true → (a.host.cr.get ring).state = 1 → (a.host.cr.get ring).fetch ≠ (a.host.cr.get ring).tail → fetchRoom a ring = true → rd = .good → bytes.length = 64 → (payload.length = if dInd bytes then dLen bytes else 0) → 
    exec (.descriptorFetch t ring bytes payload rd) s = .next (fetched ring bytes payload true (fetchNext ring a))) ∧
  (∀ (s a : State) (t : Time) (ring : Fin 64) (bytes payload : List Byte) (rd : HostRead) (k : Fin 4), a = s.at_ t → hubUp a = true → (a.host.cr.get ring).state = 1 → (a.host.cr.get ring).fetch ≠ (a.host.cr.get ring).tail → fetchRoom a ring = true → rd = .ringFail k → 
    exec (.descriptorFetch t ring bytes payload rd) s = .next (ringFails ring k.val a)) ∧
  (∀ (s a : State) (t : Time) (w : WorkRef), a = s.at_ t → hubAlive a = true → blockHeld a 0x0A8 = false → a.nvs.store.jobs.contains (.journal (some w)) = true → 
    exec (.storeAccept t w) s = .next (storedEntry w { a with nvs := { a.nvs with store := { a.nvs.store with jobs := a.nvs.store.jobs.erase (.journal (some w)) } } })) ∧
  (∀ (s a : State) (t : Time) (w : WorkRef) (x : Work), a = s.at_ t → hubUp a = true → workOf a w = some x → x.fenced = true → waitsOpen a x.waits = false → 
    exec (.fenceRelease t w) s = .next (unfence x a)) ∧
  (∀ (s a : State) (t : Time) (w : WorkRef), a = s.at_ t → hubUp a = true → workOf a w = none → ((a.host.buf.any fun f => f.ref == w) = true) → 
    exec (.fenceRelease t w) s = .next (parseAll a)) ∧
  (∀ (s a : State) (t : Time) (w : WorkRef), a = s.at_ t → hubUp a = true → a.flt.studioUp = true → ((a.host.buf.any fun f => f.ref == w) = true) → 
    exec (.gateJournal t w) s = .next (forEach a.host.buf parse { a with host := { a.host with buf := [] } })) ∧
  (∀ (s a : State) (t : Time) (w : WorkRef) (f : Fetched) (z : State) (res : Nat), a = s.at_ t → hubUp a = true → a.flt.studioUp = true → a.host.buf = [f] → f.ref = w → z = { a with host := { a.host with buf := [] } } → f.ref.origin ≠ a.net.num → blocked z f none = false → u32 f.bytes 60 = descCheck f.ref.ring f.ref.seq.toNat (f.bytes.take 60) → formatBad z true f.bytes f.payload f.payloadOk = none → dInd f.bytes = false → seqVerdict z (asWork z f) = .fresh → claimMissing z f.bytes = some res → 
    exec (.gateJournal t w) s = .next (reject f 0x12 (BitVec.ofNat 32 res) (recordGeneric 11 0 (raise 0x016 z)))) ∧
  (∀ (s a : State) (t : Time) (src : Nat) (bytes : List Byte), a = s.at_ t → netUp a = true → mute a = false → src < 1024 → 
    exec (.reqReceived t src bytes) s = .next (reqIn src bytes a)) ∧
  (∀ (s a : State) (t : Time) (src ring : Nat) (seq : Word), a = s.at_ t → hubUp a = true → 
    exec (.reqHoldExpiry t src ring seq) s = .next ({ a with host := { a.host with reqHeld := a.host.reqHeld.filter fun h =>
        !(h.1 == src && bits (u16 h.2.1 0) 0 6 == ring && w32 h.2.1 12 == seq && decide (h.2.2 + ms 2 ≤ a.now)) } })) ∧
  (∀ (s a : State) (t : Time) (src : Nat) (bytes : List Byte), a = s.at_ t → hubUp a = true → 36 ≤ bytes.length → 
    exec (.rspReceived t src bytes) s = .next (rspIn src bytes a)) ∧
  (∀ (s a : State) (t : Time) (ring : Fin 64) (seq : Word) (q : ReqOut), a = s.at_ t → hubUp a = true → (a.host.reqs.find? (fun q => q.ring == ring.val && q.seq == seq) = some q) → q.answered = false → q.fwd = false → q.sent + ms 2 ≤ a.now → 3 ≤ q.resends → 
    exec (.reqResend t ring seq) s = .next (endReq q 0x20 a)) ∧
  (∀ (s a : State) (t : Time) (ring : Fin 64) (seq : Word) (q : ReqOut), a = s.at_ t → hubUp a = true → (a.host.reqs.find? (fun q => q.ring == ring.val && q.seq == seq) = some q) → q.answered = false → q.fwd = false → q.sent + ms 2 ≤ a.now → q.resends < 3 → 
    exec (.reqResend t ring seq) s = .next (uniSend 6 q.target (q.frame.take 2 ++ [BitVec.ofNat 8 (u8 q.frame 2 ||| 2)] ++ q.frame.drop 3) { a with host := { a.host with
        reqs := a.host.reqs.map fun r => if r == q then { r with sent := a.now, resends := r.resends + 1 } else r } })) ∧
  (∀ (s a : State) (t : Time) (b : Nat), a = s.at_ t → hubUp a = true → a.net.locked = true → a.net.state = 3 → a.ep.joined = false → a.ep.joinAt = some b → (b : Int) ≤ epochHalf a (epochNow a) → a.ep.everJoined = true → epochNow a ≤ a.ep.e → 
    exec (.epochJoin t) s = .next (parseAll { a with ep := { a.ep with joined := true, counting := true, everJoined := true }, net := { a.net with holdover := false } }))

/-- TAGWRITE, TAGWRITEN, RESTOREACK, OVERRIDE, OVRELEASE and COUCH, ready at a running hub, are taken up and put what they act on into the commit set of their group and epoch, each item in its place, when that epoch is not below the earliest that is open. Nothing else of the sets changes. -/
def Obligations.CommitSetOpcodes : Prop :=
  (∀ (s a : State) (t : Time) (w : WorkRef) (x : Work) (g e : Nat) (z : State), a = s.at_ t → readyWork a w 0x0100 = some x → hubUp a = true → x.set = some (g, e) → eMin (takeUp w a) ≤ e → z = joinSet g e [] (takeUp w a) → 
    exec (.tagwrite t w) s = .next ({ z with ep := { z.ep with sets := z.ep.sets.map fun c => if c.group = g && c.epoch = e then
        { c with items := placeItems z w (x.acts.map fun y => { w := w, act := y : SetItem }) c.items } else c } })) ∧
  (∀ (s a : State) (t : Time) (w : WorkRef) (x : Work) (g e : Nat) (z : State), a = s.at_ t → readyWork a w 0x0101 = some x → hubUp a = true → x.set = some (g, e) → eMin (takeUp w a) ≤ e → z = joinSet g e [] (takeUp w a) → 
    exec (.tagwriten t w) s = .next ({ z with ep := { z.ep with sets := z.ep.sets.map fun c => if c.group = g && c.epoch = e then
        { c with items := placeItems z w (x.acts.map fun y => { w := w, act := y : SetItem }) c.items } else c } })) ∧
  (∀ (s a : State) (t : Time) (w : WorkRef) (x : Work) (g e : Nat) (z : State), a = s.at_ t → readyWork a w 0x0103 = some x → hubUp a = true → x.set = some (g, e) → eMin (takeUp w a) ≤ e → z = joinSet g e [] (takeUp w a) → 
    exec (.restoreack t w) s = .next ({ z with ep := { z.ep with sets := z.ep.sets.map fun c => if c.group = g && c.epoch = e then
        { c with items := placeItems z w (x.acts.map fun y => { w := w, act := y : SetItem }) c.items } else c } })) ∧
  (∀ (s a : State) (t : Time) (w : WorkRef) (x : Work) (g e : Nat) (z : State), a = s.at_ t → readyWork a w 0x0403 = some x → hubUp a = true → x.set = some (g, e) → eMin (takeUp w a) ≤ e → z = joinSet g e [] (takeUp w a) → 
    exec (.override t w) s = .next ({ z with ep := { z.ep with sets := z.ep.sets.map fun c => if c.group = g && c.epoch = e then
        { c with items := placeItems z w (x.acts.map fun y => { w := w, act := y : SetItem }) c.items } else c } })) ∧
  (∀ (s a : State) (t : Time) (w : WorkRef) (x : Work) (g e : Nat) (z : State), a = s.at_ t → readyWork a w 0x0404 = some x → hubUp a = true → x.set = some (g, e) → eMin (takeUp w a) ≤ e → z = joinSet g e [] (takeUp w a) → 
    exec (.ovrelease t w) s = .next ({ z with ep := { z.ep with sets := z.ep.sets.map fun c => if c.group = g && c.epoch = e then
        { c with items := placeItems z w (x.acts.map fun y => { w := w, act := y : SetItem }) c.items } else c } })) ∧
  (∀ (s a : State) (t : Time) (w : WorkRef) (x : Work) (g e : Nat) (z : State), a = s.at_ t → readyWork a w 0x0700 = some x → hubUp a = true → x.set = some (g, e) → eMin (takeUp w a) ≤ e → z = joinSet g e [] (takeUp w a) → 
    exec (.couch t w) s = .next ({ z with ep := { z.ep with sets := z.ep.sets.map fun c => if c.group = g && c.epoch = e then
        { c with items := placeItems z w (x.acts.map fun y => { w := w, act := y : SetItem }) c.items } else c } }))

/-- A work that is ready at a running hub is taken up and does what its opcode says: NOP and FENCE complete DONE, FENCE only once nothing that it waits for is open; TAGREAD writes one record per tag; HARTTX queues its transaction in ring order, then SEQ order, or, where its drop shows NOLINK at the member that executes it and it was not queued before, ends it NOTSENT; TRIMARM arms, TRIMDISARM disarms the armed channel alone, TRIMCLEAR clears; RELEASE completes with the result of its channel's latches; TEST waits for a window or completes NOCLAIM; REFLEXREL releases; RECREAD returns whole records; RECNOTE enters the event queue; CUJOB takes its place at its unit; SEIZE and YIELD complete with 0 or 1. -/
def Obligations.WorkOpcodes : Prop :=
  (∀ (s a : State) (t : Time) (w : WorkRef) (x : Work), a = s.at_ t → readyWork a w 0x0000 = some x → hubUp a = true → 
    exec (.nop t w) s = .next (endWork x 0 (takeUp w a))) ∧
  (∀ (s a : State) (t : Time) (w : WorkRef) (x : Work), a = s.at_ t → readyWork a w 0x0001 = some x → hubUp a = true → workOf a w = some x → waitsOpen a x.waits = false → 
    exec (.fence t w) s = .next (endWork x 0 (takeUp w a))) ∧
  (∀ (s a : State) (t : Time) (w : WorkRef) (x : Work), a = s.at_ t → workOf a w = some x → waitsOpen a x.waits = true → 
    exec (.fence t w) s = .next a) ∧
  (∀ (s a : State) (t : Time) (w : WorkRef) (x : Work), a = s.at_ t → readyWork a w 0x0102 = some x → hubUp a = true → 
    exec (.tagread t w) s = .next (finishData x.ref 0 ((readTags x.bytes x.payload).flatMap (readRecord (takeUp w a) x.masked)) (takeUp w a))) ∧
  (∀ (s a : State) (t : Time) (w : WorkRef) (x : Work) (k : Fin 96), a = s.at_ t → readyWork a w 0x0200 = some x → hubUp a = true → asFin 96 (dK x.bytes) = some k → hartLinked (takeUp w a) k = true ∨ mirrors (takeUp w a) = true ∨ x.again = true → 
    exec (.harttx t w) s = .next (hartResume k (modHart k (fun h => { h with queue := queueWork a.net.num x.ref h.queue }) (takeUp w a)))) ∧
  (∀ (s a : State) (t : Time) (w : WorkRef) (x : Work) (k : Fin 96), a = s.at_ t → readyWork a w 0x0200 = some x → hubUp a = true → asFin 96 (dK x.bytes) = some k → hartLinked (takeUp w a) k = false → mirrors (takeUp w a) = false → x.again = false → 
    exec (.harttx t w) s = .next (endTransaction k x.ref 5 [] (takeUp w a))) ∧
  (∀ (s a : State) (t : Time) (w : WorkRef) (x : Work) (k : Fin 96), a = s.at_ t → readyWork a w 0x0400 = some x → hubUp a = true → asFin 96 (dK x.bytes) = some k → 
    exec (.trimarm t w) s = .next (endWork x 0 (armTrim k x.bytes (takeUp w a)))) ∧
  (∀ (s a : State) (t : Time) (w : WorkRef) (x : Work), a = s.at_ t → readyWork a w 0x0401 = some x → hubUp a = true → a.nvs.armed = none → 
    exec (.trimdisarm t w) s = .next (endWork x 0 (takeUp w a))) ∧
  (∀ (s a : State) (t : Time) (w : WorkRef) (x : Work) (m : Armed), a = s.at_ t → readyWork a w 0x0401 = some x → hubUp a = true → a.nvs.armed = some m → m.k.val = dK x.bytes → 
    exec (.trimdisarm t w) s = .next (endWork x 0 (disarm (takeUp w a)))) ∧
  (∀ (s a : State) (t : Time) (w : WorkRef) (x : Work), a = s.at_ t → readyWork a w 0x0402 = some x → hubUp a = true → 
    exec (.trimclear t w) s = .next (endWork x 0 (clearTrim (dK x.bytes) (u8 x.bytes 34) (u8 x.bytes 35) (takeUp w a)))) ∧
  (∀ (s a : State) (t : Time) (w : WorkRef) (x : Work) (k : Fin 96), a = s.at_ t → readyWork a w 0x0405 = some x → hubUp a = true → asFin 96 (dK x.bytes) = some k → 
    exec (.release t w) s = .next (endWork x (releaseLatch k (u8 x.bytes 34) (takeUp w a)).1 (releaseLatch k (u8 x.bytes 34) (takeUp w a)).2)) ∧
  (∀ (s a : State) (t : Time) (w : WorkRef) (x : Work) (k : Fin 96), a = s.at_ t → readyWork a w 0x0406 = some x → hubUp a = true → asFin 96 (dK x.bytes) = some k → testMissing (takeUp w a) k (u8 x.bytes 34) = none → 
    exec (.test t w) s = .next ((fun z => { z with misc := { z.misc with tests := z.misc.tests ++ [{ w := x.ref, k := k, kind := u8 x.bytes 34, since := z.now }] } }) (takeUp w a))) ∧
  (∀ (s a : State) (t : Time) (w : WorkRef) (x : Work) (k : Fin 96) (res : Nat), a = s.at_ t → readyWork a w 0x0406 = some x → hubUp a = true → asFin 96 (dK x.bytes) = some k → testMissing (takeUp w a) k (u8 x.bytes 34) = some res → 
    exec (.test t w) s = .next (finishClaim x.ref res (takeUp w a))) ∧
  (∀ (s a : State) (t : Time) (w : WorkRef) (x : Work), a = s.at_ t → readyWork a w 0x0407 = some x → hubUp a = true → 
    exec (.reflexrel t w) s = .next (endWork x 0 (releaseReflex x.bytes (takeUp w a)))) ∧
  (∀ (s a : State) (t : Time) (w : WorkRef) (x : Work), a = s.at_ t → readyWork a w 0x0500 = some x → hubUp a = true → 
    exec (.recread t w) s = .next (finishData x.ref (readRecords (dataRoom (takeUp w a) x.ref.origin) x.bytes (takeUp w a)).1.length (readRecords (dataRoom (takeUp w a) x.ref.origin) x.bytes (takeUp w a)).1.flatten (readRecords (dataRoom (takeUp w a) x.ref.origin) x.bytes (takeUp w a)).2)) ∧
  (∀ (s a : State) (t : Time) (w : WorkRef) (x : Work) (z : State), a = s.at_ t → readyWork a w 0x0501 = some x → hubUp a = true → a.recd.queue.length < recQueueMax - recQueueKept → z = takeUp w a → 
    exec (.recnote t w) s = .next (recordEvt { type := 0x0802, source := srcOf 7 x.ref.ring, flags := unlockedFlag z, text := noteText x, time := ((x.acceptedAt : Int) + z.sysOff).toNat / 2 % 2 ^ 64 } z)) ∧
  (∀ (s a : State) (t : Time) (w : WorkRef), a = s.at_ t → recQueueMax - recQueueKept ≤ a.recd.queue.length → 
    exec (.recnote t w) s = .next a) ∧
  (∀ (s a : State) (t : Time) (w : WorkRef) (x : Work) (n : Fin 4), a = s.at_ t → readyWork a w 0x0600 = some x → hubUp a = true → asFin 4 (u8 x.bytes 32) = some n → 
    exec (.cujob t w) s = .next (cuQueue n x.ref (takeUp w a))) ∧
  (∀ (s a : State) (t : Time) (w : WorkRef) (x : Work), a = s.at_ t → readyWork a w 0x0701 = some x → hubUp a = true → a.pair.state = .orphan → a.img.cast.isSome = true → a.pair.wit.2.1 = true → 
    exec (.seize t w) s = .next (endWork x 0 (goActive (takeUp w a)))) ∧
  (∀ (s a : State) (t : Time) (w : WorkRef) (x : Work), a = s.at_ t → readyWork a w 0x0701 = some x → hubUp a = true → a.pair.state ≠ .orphan ∨ a.img.cast.isSome = false ∨ a.pair.wit.2.1 = false → 
    exec (.seize t w) s = .next (endWork x 1 (takeUp w a))) ∧
  (∀ (s a : State) (t : Time) (w : WorkRef) (x : Work), a = s.at_ t → readyWork a w 0x0702 = some x → hubUp a = true → mayYield (takeUp w a) = true → 
    exec (.yield t w) s = .next (sendYield 7 0 (endWork x 0 (takeUp w a)))) ∧
  (∀ (s a : State) (t : Time) (w : WorkRef) (x : Work), a = s.at_ t → readyWork a w 0x0702 = some x → hubUp a = true → mayYield (takeUp w a) = false → 
    exec (.yield t w) s = .next (endWork x 1 (takeUp w a)))

/-- START at a legal and idle unit begins a register job from the unit's initial value and fold, at a busy one it only sets the refusal flag (at this instant, R12); a DATA word feeds its four bytes, the LAST word one to four bytes and ends the job with the result and DONE, and the next waiting CUJOB begins; a job that keeps a CUJOB waiting for 10 ms is aborted; a CUJOB that ends writes its 8 result bytes and completes. -/
def Obligations.CheckUnitJobs : Prop :=
  (∀ (s a : State) (t : Time) (n : Fin 4), a = s.at_ t → hubAlive a = true → cuHeld a n = false → cuLegal a n.val = true → cuBusy (a.cu.get n) = false → 
    exec (.cuStart t n) s = .next (modCu n (fun c => { c with job := some (BitVec.ofNat 64 (cuBegin a n.val)), lastAt := a.now, done := false }) a)) ∧
  (∀ (s a : State) (t : Time) (n : Fin 4), a = s.at_ t → hubAlive a = true → cuHeld a n = false → cuLegal a n.val = true → cuBusy (a.cu.get n) = true → 
    exec (.cuStart t n) s = .next (sourceSets (0x442C + 64 * n.val) 2 (modCu n (fun c => { c with busyRef := true }) a))) ∧
  (∀ (s a : State) (t : Time) (n : Fin 4) (word : Word) (r : BitVec 64), a = s.at_ t → hubAlive a = true → cuHeld a n = false → (a.cu.get n).job = some r → 
    exec (.cuData t n word) s = .next (modCu n (fun c => { c with job := some (BitVec.ofNat 64 (cuFeed a n.val r.toNat (leBytes 4 word.toNat))), lastAt := a.now }) a)) ∧
  (∀ (s a : State) (t : Time) (n : Fin 4) (word : Word), a = s.at_ t → (a.cu.get n).job = none → 
    exec (.cuData t n word) s = .next a) ∧
  (∀ (s a : State) (t : Time) (n : Fin 4) (nbytes : Fin 8) (word : Word) (r : BitVec 64), a = s.at_ t → hubAlive a = true → cuHeld a n = false → (a.cu.get n).job = some r → 1 ≤ nbytes.val → nbytes.val ≤ 4 → 
    exec (.cuLast t n nbytes word) s = .next (cuNext n (modCu n (fun c => { c with job := none, done := true, result := BitVec.ofNat 64 (cuEnd a n.val (cuFeed a n.val r.toNat (leBytes nbytes.val word.toNat))) }) a))) ∧
  (∀ (s a : State) (t : Time) (n : Fin 4), a = s.at_ t → hubAlive a = true → (a.cu.get n).job.isSome = true → (a.cu.get n).queue ≠ [] → (a.cu.get n).lastAt + ms 10 ≤ a.now → 
    exec (.cuAbort t n) s = .next (cuNext n (sourceSets (0x442C + 64 * n.val) 1 (modCu n (fun c => { c with job := none, aborted := true }) a)))) ∧
  (∀ (s a : State) (t : Time) (n : Fin 4) (r : WorkRef) (rest : List WorkRef) (x : Work), a = s.at_ t → hubUp a = true → cuHeld a n = false → (a.cu.get n).queue = r :: rest → (a.cu.get n).busy = true → workOf a r = some x → 
    exec (.cujobDone t n) s = .next (cuNext n (finishData r 0 (leBytes 8 (cuEnd a n.val (cuFeed a n.val (cuBegin a n.val) x.payload))) (modCu n (fun c => { c with queue := rest, busy := false }) a))))

/-- Listed sources that were healthy raise their events, a source under injection through the rails of its INJ value alone, and stay asserted while injected; a wire fault of a source that is not injected raises it as such; source 0x022 stays asserted after its event, and either kind of event of it locks the host interface; a block that is back after 1 us leaves the list, one that is not in its time raises its source again; the trap handler's end, and 60 s after the first committed epoch for C4, clear PEND; a C2 event that stands for 2 ms raises 0x006; a PEND write clears C1 and C4 alone, and not in the cycle of an event of the source; 20 us after LOCK the tile-link masters stop. -/
def Obligations.FaultCollectorEvents : Prop :=
  (∀ (s a : State) (t : Time) (srcs : List Nat) (inj : Bool) (ids : List Nat), a = s.at_ t → hubAlive a = true → (ids = srcs.filter fun id => !(srcEntry a id).asserted && injOf a id == b2n inj) → ids ≠ [] → 
    exec (.faultEvent t srcs inj) s = .next (raiseAll false inj ids (forEach ids (fun id => holdAsserted (inj || id == 0x022) id) (hostLocks ids a)))) ∧
  (∀ (s a : State) (t : Time) (src : Nat) (inj : Bool), a = s.at_ t → hubAlive a = true → faultListed src = true → inj = false → injOf a src = 0 → 
    exec (.wireFault t src inj) s = .next (raiseAll true false [src] (hostLocks [src] a))) ∧
  (∀ (s a : State) (t : Time) (src : Nat) (inj : Bool), a = s.at_ t → hubAlive a = true → faultListed src = true → inj = true → (srcEntry a src).asserted = false → 2 ≤ injOf a src → 
    exec (.wireFault t src inj) s = .next (raiseAll true true [src] (holdAsserted true src (hostLocks [src] a)))) ∧
  (∀ (s a : State) (t : Time) (src : Nat) (inj : Bool), a = s.at_ t → faultListed src = false → 
    exec (.wireFault t src inj) s = .next a) ∧
  (∀ (s a : State) (t : Time) (src : Nat) (back : Bool) (b : BlockId) (n : Nat) (u : Time), a = s.at_ t → hubAlive a = true → back = true → blockOf src = some b → (a.flt.blocks.find? (fun b => b.1 == src) = some (n, u)) → u + us 1 ≤ a.now → 
    exec (.blockRecovery t src back) s = .next (blockBack b src a)) ∧
  (∀ (s a : State) (t : Time) (src : Nat) (back : Bool) (b : BlockId) (n : Nat) (u : Time), a = s.at_ t → hubAlive a = true → back = false → blockOf src = some b → (a.flt.blocks.find? (fun b => b.1 == src) = some (n, u)) → u + recoverTime b ≤ a.now → 
    exec (.blockRecovery t src back) s = .next (raise src (dropBlock src a))) ∧
  (∀ (s a : State) (t : Time) (src : Nat), a = s.at_ t → hubAlive a = true → (srcEntry a src).pend = true → (srcEntry a src).ecls = 2 → 
    exec (.trapHandlerEnd t src) s = .next (clearPend src a)) ∧
  (∀ (s a : State) (t : Time) (src : Nat), a = s.at_ t → hubAlive a = true → (srcEntry a src).pend = true → (srcEntry a src).ecls = 2 → (srcEntry a src).since + ms 2 ≤ a.now → 
    exec (.trapAckTimeout t src) s = .next (raise 0x006 a)) ∧
  (∀ (s a : State) (t : Time) (src : Nat) (b : Time), a = s.at_ t → hubAlive a = true → (srcEntry a src).pend = true → (srcEntry a src).ecls = 4 → a.img.cast.isSome = true → a.flt.firstCommit = some b → b + sec 60 ≤ a.now → 
    exec (.c4PendAutoClear t src) s = .next (clearPend src a)) ∧
  (∀ (s a : State) (t : Time) (src : Nat), a = s.at_ t → hubAlive a = true → (srcEntry a src).pend = true → (srcEntry a src).ecls = 4 → a.img.cast.isSome = false → a.flt.loaded = true → a.flt.loadedAt + sec 60 ≤ a.now → 
    exec (.c4PendAutoClear t src) s = .next (clearPend src a)) ∧
  (∀ (s a : State) (t : Time) (src : Nat), a = s.at_ t → hubAlive a = true → faultListed src = true → (srcEntry a src).ecls = 1 ∨ (srcEntry a src).ecls = 4 → clears a (0x3004 + 8 * src) 2 1 = true → 
    exec (.pendClear t src) s = .next (clearPend src a)) ∧
  (∀ (s a : State) (t : Time) (src : Nat), a = s.at_ t → hubAlive a = true → faultListed src = true → (srcEntry a src).ecls = 1 ∨ (srcEntry a src).ecls = 4 → clears a (0x3004 + 8 * src) 2 1 = false → 
    exec (.pendClear t src) s = .next a) ∧
  (∀ (s a : State) (t : Time) (src : Nat), a = s.at_ t → hubAlive a = true → faultListed src = true → (srcEntry a src).ecls ≠ 1 → (srcEntry a src).ecls ≠ 4 → 
    exec (.pendClear t src) s = .next (recordRefused (0x3004 + 8 * src) 1024 a)) ∧
  (∀ (s a : State) (t : Time) (src : Nat) (field : Fin 3) (value : Nat), a = s.at_ t → hubAlive a = true → faultListed src = true → a.flt.cfgLock = false → fltLegal (srcEntry a src) field.val value = true → 
    exec (.fltConfigRequest t src field value) s = .next (recordFltcfg src 1 field.val value (keepFlt src (modSrc src (fltSet field.val value) a)))) ∧
  (∀ (s a : State) (t : Time) (src : Nat) (field : Fin 3) (value : Nat), a = s.at_ t → hubAlive a = true → faultListed src = true → a.flt.cfgLock = true → 
    exec (.fltConfigRequest t src field value) s = .next (recordFltcfg src 2 field.val value a)) ∧
  (∀ (s a : State) (t : Time) (src : Nat) (value : Fin 4), a = s.at_ t → hubAlive a = true → faultListed src = true → a.flt.injEn = true → value = 0 → 
    exec (.injWrite t src value) s = .next (modSrc src (fun e => { e with inj := 0, asserted := false }) a)) ∧
  (∀ (s a : State) (t : Time) (src : Nat) (value : Fin 4), a = s.at_ t → hubAlive a = true → a.flt.injEn = false → 
    exec (.injWrite t src value) s = .next a) ∧
  (∀ (s a : State) (t : Time) (b : Time), a = s.at_ t → hubAlive a = true → a.flt.lock = true → a.flt.mastersStop = some b → b ≤ a.now → 
    exec (.tileLinkMastersStop t) s = .next ({ a with link := a.link.all fun l => { l with hubSilent := true, stoppedAt := none }, flt := { a.flt with mastersStop := none } })) ∧
  (∀ (s a : State) (t : Time) (key : Byte) (byHost : Bool), a = s.at_ t → hubAlive a = true → byHost = true → 
    exec (.wdaKey t key byHost) s = .next (recordRefused 0x280C 1024 a)) ∧
  (∀ (s a : State) (t : Time) (key : Byte) (byHost : Bool), a = s.at_ t → hubAlive a = true → byHost = false → a.pwr.wda.en = true → a.pwr.wda.expired = false → wdaTicks a < a.pwr.wda.close + a.pwr.wda.open_ → a.pwr.wda.close ≤ wdaTicks a → key = a.pwr.wda.key → 
    exec (.wdaKey t key byHost) s = .next (modWda (fun w => { w with from_ := a.now, key := if w.key = 0x5C then 0xA3 else 0x5C, last := 1, good := (w.good + 1) % 65536 }) a)) ∧
  (∀ (s a : State) (t : Time), a = s.at_ t → hubAlive a = true → a.pwr.wda.en = true → a.pwr.wda.expired = false → a.pwr.wda.close + a.pwr.wda.open_ ≤ wdaTicks a → 
    exec (.wdaExpire t) s = .next (raise 4 (modWda (fun w => { w with expired := true }) a)))

/-- Edge counts from 272 to 300 are good, others bad; a KCLK period over 100 us or more than 1 % off asserts 0x005, a good one releases it; a pin that goes low for 1 us resets the hub and DEVRST asks for a reset of its cause, a pin low for less than 100 ns does nothing, and a pin that already resets the hub only ends its pulse; the hub leaves reset 100 us after it with both pins high and CCLK locked and 2 good periods after a clock failure; 19.8 V for 10 ms releases POR, its release, both pins high, samples the straps; power-fail begins below 18.0 V, its flush ends at the end or at 14.0 V and POR follows; the plinth's records follow their rules, and are lost below 1.6 V without VLOG. -/
def Obligations.PowerAndClockEvents : Prop :=
  (∀ (s a : State) (t : Time), a = s.at_ t → a.pwr.phase ≠ .por → 
    exec (.cclkPllLock t) s = .next ({ a with pwr := { a.pwr with pllLocked := true } })) ∧
  (∀ (s a : State) (t : Time) (count : Nat), a = s.at_ t → a.pwr.phase ≠ .por → a.pwr.pllLocked = true → 272 ≤ count → count ≤ 300 → 
    exec (.clockMonitor t count) s = .next (clockGood (modPwr (fun p => { p with clkStopped := count == 0 }) a))) ∧
  (∀ (s a : State) (t : Time) (count : Nat), a = s.at_ t → a.pwr.phase ≠ .por → a.pwr.pllLocked = true → count < 272 ∨ 300 < count → 
    exec (.clockMonitor t count) s = .next (clockBad (modPwr (fun p => { p with clkStopped := count == 0 }) a))) ∧
  (∀ (s a : State) (t : Time) (period : Time), a = s.at_ t → hubAlive a = true → us 100 < period → 
    exec (.kclkCheck t period) s = .next (raiseLevel 0x005 a)) ∧
  (∀ (s a : State) (t : Time) (period : Time), a = s.at_ t → hubAlive a = true → 61035 ≤ period → period ≤ 61645 → 
    exec (.kclkCheck t period) s = .next (calm 0x005 a)) ∧
  (∀ (s a : State) (t : Time) (perst : Bool) (held : Time) (low : Bool), a = s.at_ t → pinLow perst a = false → us 1 ≤ held → 
    exec (.resetPin t ⟨perst, low⟩ held) s = .next (pinReset perst low a)) ∧
  (∀ (s a : State) (t : Time) (perst : Bool) (held : Time) (low : Bool), a = s.at_ t → pinLow perst a = true → 
    exec (.resetPin t ⟨perst, low⟩ held) s = .next (setPin perst low a)) ∧
  (∀ (s a : State) (t : Time) (perst : Bool) (held : Time) (low : Bool), a = s.at_ t → pinLow perst a = false → held < 200 → 
    exec (.resetPin t ⟨perst, low⟩ held) s = .next a) ∧
  (∀ (s a : State) (t : Time), a = s.at_ t → hubAlive a = true → 
    exec (.devrst t) s = .next (requestReset 8 0 a)) ∧
  (∀ (s a : State) (t : Time), a = s.at_ t → a.pwr.phase = .reset → pinsLow a = false → a.pwr.pllLocked = true → a.pwr.resetAt + us 100 ≤ a.now → a.pwr.cause ≠ 4 ∨ 2 ≤ a.pwr.clkGood → 
    exec (.hubResetRelease t) s = .next (hubStart a)) ∧
  (∀ (s a : State) (t : Time) (straps : Straps), a = s.at_ t → a.pwr.phase = .cold → pinsLow a = false → 
    exec (.porRelease t straps) s = .next ((fun z => reportLost (clearLatches (reportTestmode (hubStart { z with pair := { z.pair with state := if straps.pairId = 2 then .solo else .orphan } }))))
      { a with pwr := { a.pwr with straps := straps, cause := porCause a.plinth, causeSrc := 0 } })) ∧
  (∀ (s a : State) (t : Time) (vhold : Nat) (held : Time), a = s.at_ t → a.pwr.phase = .por → 19800 ≤ vhold → ms 10 ≤ held → 
    exec (.vlogGood t vhold held) s = .next ({ a with pwr := { a.pwr with phase := .cold } })) ∧
  (∀ (s a : State) (t : Time) (vhold : Nat), a = s.at_ t → hubAlive a = true → a.pwr.failing = false → vhold < 18000 → 
    exec (.powerFail t vhold) s = .next (powerFails vhold a)) ∧
  (∀ (s a : State) (t : Time) (vhold : Nat), a = s.at_ t → 18000 ≤ vhold → 
    exec (.powerFail t vhold) s = .next a) ∧
  (∀ (s a : State) (t : Time), a = s.at_ t → hubAlive a = true → a.pwr.failing = true → 
    exec (.flushDone t) s = .next (porClear (modPlinth (fun p => { p with pfail := true }) (storeSealed a)))) ∧
  (∀ (s a : State) (t : Time) (vhold : Nat), a = s.at_ t → hubAlive a = true → a.pwr.failing = true → vhold ≤ 14000 → 
    exec (.flushFloor t vhold) s = .next (porClear (modPlinth (fun p => { p with pfailShort := true }) (dropUnspilled a)))) ∧
  (∀ (s a : State) (t : Time) (vkeep : Nat), a = s.at_ t → a.pwr.phase = .por → vkeep < 1600 → 
    exec (.plinthLoss t vkeep) s = .next ({ a with plinth := {} })) ∧
  (∀ (s a : State) (t : Time) (vhold : Nat), a = s.at_ t → hubUp a = true → a.pwr.testing = false → a.pwr.holdRun = false ∨ a.pwr.holdAt + sec 86400 ≤ a.now → 19800 ≤ vhold → 
    exec (.holdupTest t vhold) s = .next ({ a with pwr := { a.pwr with testing := true } })) ∧
  (∀ (s a : State) (t : Time) (current : Nat) (dt : Time) (fell : Bool), a = s.at_ t → hubUp a = true → a.pwr.testing = true → fell = false ∨ 806000000 ≤ current * dt → 
    exec (.holdupTestEnd t current dt fell) s = .next ({ a with pwr := { a.pwr with testing := false, holdRun := true, holdOk := true, holdAt := a.now } })) ∧
  (∀ (s a : State) (t : Time) (current : Nat) (dt : Time) (fell : Bool), a = s.at_ t → hubUp a = true → a.pwr.testing = true → fell = true → current * dt < 806000000 → 
    exec (.holdupTestEnd t current dt fell) s = .next (raise 0x01C { a with pwr := { a.pwr with testing := false, holdRun := true, holdOk := false, holdAt := a.now } })) ∧
  (∀ (s a : State) (t : Time), a = s.at_ t → hubUp a = true → a.net.locked = true → 
    exec (.tsetUpdate t) s = .next ({ a with plinth := { a.plinth with kcount := kNow a, tset := some (sysNs a, (kNow a).toNat) } })) ∧
  (∀ (s a : State) (t : Time), a = s.at_ t → 
    exec (.intrusion t) s = .next ({ a with plinth := { a.plinth with intrusion := true, told := false } })) ∧
  (∀ (s a : State) (t : Time), a = s.at_ t → hubUp a = true → a.nvs.studio.running.isSome = true → a.flt.studioUp = false → ((a.flt.blocks.any fun b => blockOf b.1 == some .studio) = false) → 
    exec (.studioRunning t) s = .next (forEach allChans hartResume (parseAll { a with flt := { a.flt with studioUp := true, studioAt := a.now }, pwr := { a.pwr with ready := true, readyAt := if a.pwr.ready then a.pwr.readyAt else a.now } })))

/-- In their turn: IMGLOAD puts its payload into the maquette partition, which becomes LOADED, and completes; IMGDISCARD empties the maquette; IMGSTAGE begins staging, or completes NOIMAGE on an EMPTY maquette; IMGREHEARSE begins a rehearsal of N epochs of a STAGED maquette; IMGACTIVATE arms a STAGED maquette, loads the shadow banks and joins its commit set; IMGREVERT joins its commit set after the last-good image verified again, else completes with the reason. On an ARMED maquette each completes 0x600 and changes no maquette. -/
def Obligations.ImageOpcodes : Prop :=
  (∀ (s a : State) (t : Time) (w : WorkRef) (x : Work), a = s.at_ t → hubUp a = true → workOf a w = some x → x.opcode = 0x0300 → x.taken = false → x.fenced = false → x.final = none → mayRun a x = true → earlierTaken a x = true → imgTurn a w = true → mayAccept a x = true → a.img.maqState ≠ .armed → 
    exec (.imgload t w) s = .next (endWork x 0 (acceptWork w (loadImage (u32 x.bytes 32) x.payload (takeUp w a))))) ∧
  (∀ (s a : State) (t : Time) (w : WorkRef) (x : Work), a = s.at_ t → hubUp a = true → workOf a w = some x → x.opcode = 0x0300 → x.taken = false → x.fenced = false → x.final = none → mayRun a x = true → earlierTaken a x = true → imgTurn a w = true → mayAccept a x = true → a.img.maqState = .armed → 
    exec (.imgload t w) s = .next (endWork x 0x600 (acceptWork w (takeUp w a)))) ∧
  (∀ (s a : State) (t : Time) (w : WorkRef) (x : Work), a = s.at_ t → readyWork a w 0x0305 = some x → hubUp a = true → imgTurn a w = true → a.img.maqState ≠ .armed → 
    exec (.imgdiscard t w) s = .next (endWork x 0 (emptyMaquette (takeUp w a)))) ∧
  (∀ (s a : State) (t : Time) (w : WorkRef) (x : Work), a = s.at_ t → readyWork a w 0x0305 = some x → hubUp a = true → imgTurn a w = true → a.img.maqState = .armed → 
    exec (.imgdiscard t w) s = .next (endWork x 0x600 (takeUp w a))) ∧
  (∀ (s a : State) (t : Time) (w : WorkRef) (x : Work), a = s.at_ t → readyWork a w 0x0301 = some x → hubUp a = true → imgTurn a w = true → imgBusy a = false → a.img.maqState = .loaded → 
    exec (.imgstage t w) s = .next (modImg (fun m => { m with maqState := .staging, stager := some x.ref, stageCls := 1, maq := none }) (takeUp w a))) ∧
  (∀ (s a : State) (t : Time) (w : WorkRef) (x : Work), a = s.at_ t → readyWork a w 0x0301 = some x → hubUp a = true → imgTurn a w = true → imgBusy a = false → a.img.maqState = .empty → mirrors (takeUp w a) = false → 
    exec (.imgstage t w) s = .next (finishData x.ref 0x100 (findingBytes (errAt 0x100 0xFFFFFFFF)) (takeUp w a))) ∧
  (∀ (s a : State) (t : Time) (w : WorkRef) (x : Work), a = s.at_ t → readyWork a w 0x0301 = some x → hubUp a = true → imgTurn a w = true → imgBusy a = false → a.img.maqState = .armed → 
    exec (.imgstage t w) s = .next (endWork x 0x600 (takeUp w a))) ∧
  (∀ (s a : State) (t : Time) (w : WorkRef) (x : Work), a = s.at_ t → readyWork a w 0x0302 = some x → hubUp a = true → imgTurn a w = true → imgBusy a = false → a.img.maqState = .staged → 
    exec (.imgrehearse t w) s = .next (modImg (fun m => { m with
        maqState := .rehearsing
        rehearser := some x.ref
        rehearseFirst := 0
        rehearseLeft := u32 x.bytes 32
        rehearseEnd := none }) (takeUp w a))) ∧
  (∀ (s a : State) (t : Time) (w : WorkRef) (x : Work), a = s.at_ t → readyWork a w 0x0302 = some x → hubUp a = true → imgTurn a w = true → imgBusy a = false → a.img.maqState = .loaded → 
    exec (.imgrehearse t w) s = .next (endWork x 0x100 (takeUp w a))) ∧
  (∀ (s a : State) (t : Time) (w : WorkRef) (x : Work), a = s.at_ t → readyWork a w 0x0303 = some x → hubUp a = true → imgTurn a w = true → workOf a w = some x → x.accepted = true → a.img.stager.isNone = true → a.img.activator.isNone = true → a.img.maqState = .staged → 
    exec (.imgactivate t w) s = .next (joinWork x (shadowsAfresh (modImg (fun m => { m with maqState := .armed, activator := some (x.ref, false) }) (cutRehearsal 2 .armed (takeUp w a)))))) ∧
  (∀ (s a : State) (t : Time) (w : WorkRef) (x : Work), a = s.at_ t → readyWork a w 0x0303 = some x → hubUp a = true → imgTurn a w = true → workOf a w = some x → x.accepted = true → a.img.stager.isNone = true → a.img.activator.isNone = true → a.img.maqState = .loaded → 
    exec (.imgactivate t w) s = .next (endWork x 0x100 (takeUp w a))) ∧
  (∀ (s a : State) (t : Time) (w : WorkRef) (x : Work), a = s.at_ t → readyWork a w 0x0304 = some x → hubUp a = true → imgTurn a w = true → workOf a w = some x → x.accepted = true → a.img.stager.isNone = true → a.img.activator.isNone = true → a.img.maqState ≠ .armed → 
    exec (.imgrevert t w) s = .next (match revertCode (takeUp w a) with
        | some code => endWork x code (takeUp w a)
        | none => joinWork x (shadowsAfresh (modImg (fun m => { m with activator := some (x.ref, true) }) (takeUp w a))))) ∧
  (∀ (s a : State) (t : Time) (w : WorkRef) (x : Work), a = s.at_ t → readyWork a w 0x0302 = some x → hubUp a = true → imgTurn a w = true → imgBusy a = false → a.img.maqState = .armed → 
    exec (.imgrehearse t w) s = .next (endWork x 0x600 (takeUp w a))) ∧
  (∀ (s a : State) (t : Time) (w : WorkRef) (x : Work), a = s.at_ t → readyWork a w 0x0303 = some x → hubUp a = true → imgTurn a w = true → workOf a w = some x → x.accepted = true → a.img.stager.isNone = true → a.img.maqState = .armed → 
    exec (.imgactivate t w) s = .next (endWork x 0x600 (takeUp w a))) ∧
  (∀ (s a : State) (t : Time) (w : WorkRef) (x : Work), a = s.at_ t → readyWork a w 0x0304 = some x → hubUp a = true → imgTurn a w = true → workOf a w = some x → x.accepted = true → a.img.stager.isNone = true → a.img.maqState = .armed → 
    exec (.imgrevert t w) s = .next (endWork x 0x600 (takeUp w a)))

/-- Staging that ends makes the maquette STAGED or LOADED by its findings and completes IMGSTAGE with at most 128 of them; a rehearsal that has ended completes IMGREHEARSE with its report; a LIVE tile over a good link takes its part of the incoming image into its shadow bank; the role record written completes the activation with E_A. -/
def Obligations.ImageEvents : Prop :=
  (∀ (s a : State) (t : Time) (w : WorkRef) (z : State), a = s.at_ t → hubUp a = true → a.flt.studioUp = true → a.img.stager = some w → (z = staged (stageNow a).1 (modImg (fun m => { m with stager := none, stageCls := 0 }) (stageNow a).2)) → workOf z w = none → 
    exec (.stagingEnd t) s = .next z) ∧
  (∀ (s a : State) (t : Time) (w : WorkRef) (z : State) (x : Work), a = s.at_ t → hubUp a = true → a.flt.studioUp = true → a.img.stager = some w → (z = staged (stageNow a).1 (modImg (fun m => { m with stager := none, stageCls := 0 }) (stageNow a).2)) → workOf z w = some x → mirrors z = false → 
    exec (.stagingEnd t) s = .next (finishData w (stageResult (stageNow a).1) (((stageNow a).1.take 128).flatMap findingBytes) z)) ∧
  (∀ (s a : State) (t : Time) (counts : List Word) (w : WorkRef) (x : Work) (result : Nat), a = s.at_ t → hubAlive a = true → a.img.rehearser = some w → a.img.rehearseEnd = some result → workOf a w = some x → 
    exec (.rehearsalEnd t counts) s = .next (finishData w result (rehearsalReport a.img.rehearseFirst (u32 x.bytes 32 - a.img.rehearseLeft) a.reh)
      (modImg (fun m => { m with rehearser := none, rehearseEnd := none, rehearseFirst := 0, rehearseLeft := 0 }) { a with reh := none }))) ∧
  (∀ (s a : State) (t : Time) (tile : Fin 12) (i : Image), a = s.at_ t → hubUp a = true → incoming a = some i → (a.tile.get tile).state = .live → linkUp a tile = true → 
    exec (.shadowBankLoaded t tile) s = .next (modTile tile (fun x => { x with shadow := some (bankOf i tile) }) a)) ∧
  (∀ (s a : State) (t : Time) (e : Nat) (w : WorkRef) (u : Time), a = s.at_ t → hubAlive a = true → a.img.roleDue = some (e, w, u) → workOf a w = none → 
    exec (.roleRecordWritten t) s = .next (modImg (fun m => { m with roleDue := none }) (controlNote a))) ∧
  (∀ (s a : State) (t : Time) (e : Nat) (w : WorkRef) (u : Time) (x : Work), a = s.at_ t → hubAlive a = true → a.img.roleDue = some (e, w, u) → workOf a w = some x → mirrors a = false → 
    exec (.roleRecordWritten t) s = .next (finishWith w 0 e 0 0 0 [] (modImg (fun m => { m with roleDue := none }) (controlNote a))))

/-- GO with SRC = HOST begins a load, in the window it closes the window, and is BUSY once the window of a load is closed; OPEN begins a load in window mode and is ignored in host mode; the 256th word of an open window joins a chunk at OFFSET where that lies on 1,024 and within the slot; the load's end sets CODE, and a good one fills the slot and makes it TRIAL; APPLY without a TRIAL Studio has no effect; a slot that has run its time is marked good: CONF and TRIAL move and OTP rises to its SVN. -/
def Obligations.FirmwareEvents : Prop :=
  (∀ (s a : State) (t : Time), a = s.at_ t → hubUp a = true → fwWindow a = false → 
    exec (.fwGo t) s = .next (beginLoad false a)) ∧
  (∀ (s a : State) (t : Time), a = s.at_ t → hubUp a = true → fwWindow a = true → a.nvs.load.windowOpen = true → 
    exec (.fwGo t) s = .next (modLoad (fun l => { l with windowOpen := false, word := [] }) a)) ∧
  (∀ (s a : State) (t : Time), a = s.at_ t → hubUp a = true → fwWindow a = true → a.nvs.load.windowOpen = false → a.nvs.load.target.isSome = true → 
    exec (.fwGo t) s = .next (modLoad (fun l => { l with code := 3 }) a)) ∧
  (∀ (s a : State) (t : Time), a = s.at_ t → hubUp a = true → fwWindow a = true → 
    exec (.fwOpen t) s = .next (beginLoad true a)) ∧
  (∀ (s a : State) (t : Time), a = s.at_ t → hubUp a = true → fwWindow a = false → 
    exec (.fwOpen t) s = .next a) ∧
  (∀ (s a : State) (t : Time) (word : Word), a = s.at_ t → hubUp a = true → a.nvs.load.windowOpen = true → a.nvs.load.word.length + 1 < 256 → 
    exec (.fwChunk t word) s = .next (modLoad (fun l => { l with word := a.nvs.load.word ++ [word] }) a)) ∧
  (∀ (s a : State) (t : Time) (word : Word) (off : Nat), a = s.at_ t → hubUp a = true → a.nvs.load.windowOpen = true → 256 ≤ a.nvs.load.word.length + 1 → off = bits (reg a 0x2C0C) 0 24 → off % 1024 = 0 → off + 1024 ≤ slotSize a.nvs.load.kind → 
    exec (.fwChunk t word) s = .next (modLoad (fun l => { l with
        word := []
        chunks := insertK off (a.nvs.load.word ++ [word]) l.chunks
        done := (insertK off (a.nvs.load.word ++ [word]) l.chunks).length }) a)) ∧
  (∀ (s a : State) (t : Time) (word : Word), a = s.at_ t → hubUp a = true → a.nvs.load.windowOpen = false → 
    exec (.fwChunk t word) s = .next a) ∧
  (∀ (s a : State) (t : Time) (image : List Byte) (readOk : Bool) (i : Fin 2), a = s.at_ t → hubUp a = true → a.nvs.load.target = some i → a.nvs.load.windowOpen = false → slotErased a = true → a.nvs.load.window = false → 
    exec (.fwLoadEnd t image readOk) s = .next (endLoad i (if readOk then some (image.take (reg a 0x2C08)) else none) a)) ∧
  (∀ (s a : State) (t : Time) (image : List Byte) (readOk : Bool) (i : Fin 2), a = s.at_ t → hubUp a = true → a.nvs.load.target = some i → a.nvs.load.windowOpen = false → slotErased a = true → a.nvs.load.window = true → 
    exec (.fwLoadEnd t image readOk) s = .next (endLoad i (chunkBytes (reg a 0x2C08) a.nvs.load.chunks) a)) ∧
  (∀ (s a : State) (t : Time), a = s.at_ t → hubUp a = true → a.nvs.studio.trial ≠ 2 → 
    exec (.fwApply t) s = .next (studioRestart a)) ∧
  (∀ (s a : State) (t : Time), a = s.at_ t → hubUp a = true → a.nvs.studio.trial = 2 → 
    exec (.fwApply t) s = .next a) ∧
  (∀ (s a : State) (t : Time) (studio : Bool) (i : Fin 2), a = s.at_ t → hubUp a = true → goodDue studio a = true → ((if studio then a.nvs.studio else a.nvs.patch).running = some i) → 
    exec (.goodMark t studio) s = .next (recordFw studio 2 i.val ((if studio then a.nvs.studio else a.nvs.patch).slot.get i).svn (controlWrite (modFw (if studio then 2 else 1) (fun f => { f with
        conf := f.trial
        trial := 2
        bootCnt := 0
        otp := max f.otp ((if studio then a.nvs.studio else a.nvs.patch).slot.get i).svn }) a))))

/-- An erase that ends ends its intent and counts for the block that it is mapped to, and a failed block, or one at 100,000 erases while blocks of the reserve are left, is replaced; a program that ends serves the job of highest rank, one that fails is tried on a block of the reserve; PATINA_WRITE keeps the running counters and counts an hour; once a day with fewer than 32 reserve blocks STOREWEAR is recorded. -/
def Obligations.StoreEvents : Prop :=
  (∀ (s a : State) (t : Time) (block : Nat) (failed : Bool) (b purpose p : Nat), a = s.at_ t → hubAlive a = true → a.pwr.failing = false → (a.nvs.store.intents.find? (fun x => x.1 == block) = some (b, purpose)) → p = lookupD a.nvs.store.map b b → failed = false → lookupD a.nvs.store.erases p 0 + 1 < 100000 → 
    exec (.storeEraseDone t block failed) s = .next (modStore (fun x => { x with erases := insertK p (lookupD a.nvs.store.erases p 0 + 1) x.erases }) (eraseDone b purpose a))) ∧
  (∀ (s a : State) (t : Time) (block : Nat) (failed : Bool) (b purpose p : Nat), a = s.at_ t → hubAlive a = true → a.pwr.failing = false → (a.nvs.store.intents.find? (fun x => x.1 == block) = some (b, purpose)) → p = lookupD a.nvs.store.map b b → failed = false → 100000 ≤ lookupD a.nvs.store.erases p 0 + 1 → a.nvs.store.reserve = 0 → 
    exec (.storeEraseDone t block failed) s = .next (modStore (fun x => { x with erases := insertK p (lookupD a.nvs.store.erases p 0 + 1) x.erases }) (eraseDone b purpose a))) ∧
  (∀ (s a : State) (t : Time) (block : Nat) (failed : Bool) (b purpose p : Nat), a = s.at_ t → hubAlive a = true → a.pwr.failing = false → (a.nvs.store.intents.find? (fun x => x.1 == block) = some (b, purpose)) → p = lookupD a.nvs.store.map b b → failed = true → 
    exec (.storeEraseDone t block failed) s = .next (replaceBlock b (modStore (fun x => { x with erases := insertK p (lookupD a.nvs.store.erases p 0 + 1) x.erases }) (eraseDone b purpose a)))) ∧
  (∀ (s a : State) (t : Time) (block : Nat) (failed : Bool) (b purpose p : Nat), a = s.at_ t → hubAlive a = true → a.pwr.failing = false → (a.nvs.store.intents.find? (fun x => x.1 == block) = some (b, purpose)) → p = lookupD a.nvs.store.map b b → 100000 ≤ lookupD a.nvs.store.erases p 0 + 1 → a.nvs.store.reserve ≠ 0 → 
    exec (.storeEraseDone t block failed) s = .next (replaceBlock b (modStore (fun x => { x with erases := insertK p (lookupD a.nvs.store.erases p 0 + 1) x.erases }) (eraseDone b purpose a)))) ∧
  (∀ (s a : State) (t : Time) (failed : Bool) (j : StoreJob), a = s.at_ t → hubAlive a = true → blockHeld a 0x0A8 = false → nextJob a.nvs.store.jobs = some j → failed = false → 
    exec (.storeWriteDone t failed) s = .next (serveJob j a)) ∧
  (∀ (s a : State) (t : Time) (failed : Bool) (j : StoreJob), a = s.at_ t → hubAlive a = true → blockHeld a 0x0A8 = false → nextJob a.nvs.store.jobs = some j → failed = true → 
    exec (.storeWriteDone t failed) s = .next (replaceBlock ((freeW a).1.toNat % 2048) (freeW a).2)) ∧
  (∀ (s a : State) (t : Time), a = s.at_ t → hubUp a = true → 
    exec (.patinaWrite t) s = .next ({ a with nvs := { a.nvs with
        patKept := a.nvs.pat
        cyclesKept := a.nvs.tileCycles
        stopsKept := a.nvs.tileStops
        store := { a.nvs.store with hours := (a.nvs.store.hours + 1) % 2 ^ 32 } } })) ∧
  (∀ (s a : State) (t : Time), a = s.at_ t → hubUp a = true → a.nvs.store.reserve < 32 → a.nvs.store.dayWear = none → 
    exec (.storewear t) s = .next (recordStore 2 (modStore (fun x => { x with wear := true, dayWear := some a.now }) a))) ∧
  (∀ (s a : State) (t : Time) (b : Time), a = s.at_ t → hubUp a = true → a.nvs.store.reserve < 32 → a.nvs.store.dayWear = some b → b + sec 86400 ≤ a.now → 
    exec (.storewear t) s = .next (recordStore 2 (modStore (fun x => { x with wear := true, dayWear := some a.now }) a))) ∧
  (∀ (s a : State) (t : Time), a = s.at_ t → 32 ≤ a.nvs.store.reserve → 
    exec (.storewear t) s = .next a)

/-- With Studio up: MODEMSET sets the HART path of a channel whose modem the cast claims; STAGE notes the class of a staging under way; STOREREC queues that many sealed records; FLTREQ is a configuration request or clears PEND of a C1 event; PATINARD of area 0 or 5 changes nothing, and so does one of area 1 to 4 with an index the area has; STARTED journals the mark once. A request outside the claims or the lists is refused: it raises 0x016 and is recorded. -/
def Obligations.GateRequests : Prop :=
  (∀ (s a : State) (t : Time) (k : Nat) (opened : Bool) (c : Fin 96), a = s.at_ t → gateOpen a = true → asFin 96 k = some c → castClaims a (resId 6 k) = true → 
    exec (.gateModemset t k opened) s = .next (modHart c (fun h => { h with path := opened }) a)) ∧
  (∀ (s a : State) (t : Time) (k : Nat) (opened : Bool), a = s.at_ t → gateOpen a = true → castClaims a (resId 6 k) = false → 
    exec (.gateModemset t k opened) s = .next (gateRefuse a)) ∧
  (∀ (s a : State) (t : Time) (begins : Bool) (cls : Nat), a = s.at_ t → gateOpen a = true → a.img.stager.isSome = true → 1 ≤ cls → cls ≤ 5 → begins = true → 
    exec (.gateStage t begins cls) s = .next (modImg (fun m => { m with stageCls := cls }) a)) ∧
  (∀ (s a : State) (t : Time) (begins : Bool) (cls : Nat), a = s.at_ t → begins = false → 
    exec (.gateStage t begins cls) s = .next a) ∧
  (∀ (s a : State) (t : Time) (n : Nat), a = s.at_ t → gateOpen a = true → a.recd.capped = false → n ≠ 0 → n ≤ a.recd.sealed_.length → 
    exec (.gateStorerec t n) s = .next (modStore (fun x => { x with jobs := x.jobs ++ [.record n] }) a)) ∧
  (∀ (s a : State) (t : Time) (n : Nat), a = s.at_ t → gateOpen a = true → a.recd.capped = true ∨ n = 0 ∨ a.recd.sealed_.length < n → 
    exec (.gateStorerec t n) s = .next (gateRefuse a)) ∧
  (∀ (s a : State) (t : Time) (req : FltReq) (src : Nat) (field : Fin 3) (value : Nat), a = s.at_ t → gateOpen a = true → req = .config src field value → 
    exec (.gateFltreq t req) s = .next (fltRequest src field.val value a)) ∧
  (∀ (s a : State) (t : Time) (req : FltReq) (src : Nat), a = s.at_ t → gateOpen a = true → req = .clear src → faultListed src = true → (srcEntry a src).ecls = 1 → 
    exec (.gateFltreq t req) s = .next (clearPend src a)) ∧
  (∀ (s a : State) (t : Time) (req : FltReq) (src : Nat), a = s.at_ t → gateOpen a = true → req = .clear src → (srcEntry a src).ecls ≠ 1 → 
    exec (.gateFltreq t req) s = .next (gateRefuse a)) ∧
  (∀ (s a : State) (t : Time) (area index : Nat), a = s.at_ t → area = 0 ∨ area = 5 → 
    exec (.gatePatinard t area index) s = .next a) ∧
  (∀ (s a : State) (t : Time) (area index : Nat), a = s.at_ t → gateOpen a = true → 5 < area → 
    exec (.gatePatinard t area index) s = .next (gateRefuse a)) ∧
  (∀ (s a : State) (t : Time) (area index : Nat), a = s.at_ t → (area = 1 ∧ index < 96) ∨ (area = 2 ∧ index < 12) ∨ (area = 3 ∧ index < 2048) ∨ (area = 4 ∧ index < 8640) → 
    exec (.gatePatinard t area index) s = .next a) ∧
  (∀ (s a : State) (t : Time) (area index : Nat), a = s.at_ t → gateOpen a = true → (area = 1 ∧ 96 ≤ index) ∨ (area = 2 ∧ 12 ≤ index) ∨ (area = 3 ∧ 2048 ≤ index) ∨ (area = 4 ∧ 8640 ≤ index) → 
    exec (.gatePatinard t area index) s = .next (gateRefuse a)) ∧
  (∀ (s a : State) (t : Time) (w : WorkRef) (x : Work), a = s.at_ t → gateOpen a = true → workOf a w = some x → x.opcode = 0x0200 → castClaims a (resId 6 (u16 x.bytes 32)) = true → x.marked = false → x.final = none → 
    exec (.gateStarted t w) s = .next (startMark w a)) ∧
  (∀ (s a : State) (t : Time) (w : WorkRef), a = s.at_ t → gateOpen a = true → workOf a w = none → 
    exec (.gateStarted t w) s = .next (gateRefuse a))

/-- The oldest event of the queue is taken into the open record, or counted as a thrift edge; a record is sealed at its time; a queue that stays full for 100 ms raises 0x0A9; a thrift edge is counted while thrift is on; an hour after the evaluation before the next one joins the hour to the last 24 and judges thrift and the cap; EQ0 is switched, and delivers the next sealed record in SEQ order, or one LOSTRANGE where records are no longer held; a write to the read-sequence register begins a load that ends with the record, or MISSING. -/
def Obligations.RecorderEvents : Prop :=
  (∀ (s a : State) (t : Time) (e : RecEvt) (rest : List RecEvt), a = s.at_ t → hubAlive a = true → recInReset a = false → a.recd.queue = e :: rest → e.type ≠ 0x0302 → 
    exec (.recEventTake t) s = .next (let s1 := modRec (fun x => { x with queue := rest, fullSince := if recQueueMax - recQueueKept ≤ rest.length then x.fullSince else none }) a
      dropNote (closeMinute (sysNs s1) (takeEvent e s1)))) ∧
  (∀ (s a : State) (t : Time) (e : RecEvt) (rest : List RecEvt), a = s.at_ t → hubAlive a = true → recInReset a = false → a.recd.queue = e :: rest → e.type = 0x0302 → a.recd.thrift = true → 
    exec (.recEventTake t) s = .next (dropNote (thriftEdge e (modRec (fun x => { x with queue := rest, fullSince := if recQueueMax - recQueueKept ≤ rest.length then x.fullSince else none }) a)))) ∧
  (∀ (s a : State) (t : Time), a = s.at_ t → hubAlive a = true → sealDue a = true → 
    exec (.recordSealTime t) s = .next (closeMinute (sysNs a) (sealOpen a))) ∧
  (∀ (s a : State) (t : Time) (b : Time), a = s.at_ t → hubAlive a = true → a.recd.fullSince = some b → b + ms 100 ≤ a.now → 
    exec (.recorderStall t) s = .next (raise 0x0A9 (modRec (fun x => { x with fullSince := some a.now }) a))) ∧
  (∀ (s a : State) (t : Time) (rate24 bytes24 rate1 bytes1 : Nat), a = s.at_ t → hubAlive a = true → a.recd.hourAt + sec 3600 ≤ a.now → 
    exec (.thriftEvaluation t rate24 bytes24 rate1 bytes1) s = .next (evalThrift a)) ∧
  (∀ (s a : State) (t : Time) (on : Bool), a = s.at_ t → hubAlive a = true → on = false → 
    exec (.eq0Enable t on) s = .next ({ a with host := { a.host with eq0On := false } })) ∧
  (∀ (s a : State) (t : Time) (on : Bool), a = s.at_ t → hubAlive a = true → on = true → 
    exec (.eq0Enable t on) s = .next (eq0TurnOn a)) ∧
  (∀ (s a : State) (t : Time) (r : RecRec), a = s.at_ t → hubUp a = true → a.host.eq0On = true → a.host.eq0Paused = false → ((a.recd.stored ++ a.recd.sealed_).find? (fun r => r.seq == a.recd.eqNext) = some r) → 
    exec (.eq0Deliver t) s = .next (eq0Put (recBytes r) (a.recd.eqNext + 1) a)) ∧
  (∀ (s a : State) (t : Time) (r : RecRec), a = s.at_ t → hubUp a = true → a.host.eq0On = true → a.host.eq0Paused = false → ((a.recd.stored ++ a.recd.sealed_).find? (fun r => r.seq == a.recd.eqNext) = none) → ((a.recd.stored ++ a.recd.sealed_).find? (fun r => decide ((r.seq - a.recd.eqNext).toNat < 2 ^ 31)) = some r) → 
    exec (.eq0Deliver t) s = .next (eq0Put (lostFor a.recd.eqNext r.seq a).1 r.seq (lostFor a.recd.eqNext r.seq a).2)) ∧
  (∀ (s a : State) (t : Time) (seq : Word), a = s.at_ t → hubAlive a = true → 
    exec (.recRdseqWrite t seq) s = .next (modRec (fun x => { x with rdSeq := seq, rdBusy := true, rdValid := false, rdMissing := false, rdBytes := [] }) a)) ∧
  (∀ (s a : State) (t : Time) (r : RecRec), a = s.at_ t → hubAlive a = true → a.recd.rdBusy = true → ((a.recd.stored ++ a.recd.sealed_).find? (fun r => r.seq == a.recd.rdSeq) = some r) → 
    exec (.recRdwinLoaded t) s = .next (modRec (fun x => { x with rdBusy := false, rdValid := true, rdMissing := false, rdBytes := recBytes r }) a)) ∧
  (∀ (s a : State) (t : Time), a = s.at_ t → hubAlive a = true → a.recd.rdBusy = true → ((a.recd.stored ++ a.recd.sealed_).find? (fun r => r.seq == a.recd.rdSeq) = none) → 
    exec (.recRdwinLoaded t) s = .next (modRec (fun x => { x with rdBusy := false, rdValid := false, rdMissing := true, rdBytes := [] }) a))

/-- SUBMIT announces PN and EC when they are legal and this device may set the period, STEP sets SYSTIME while no device of the system takes part in epochs; a number write sets the number; COUPLER trains or disables PEL2 and PEL3, and at a member of a pair a write of 1 is only recorded as refused (DESIGN CHOICE, log entry 175); RDSEL begins a window load that LOADED ends; a SEC command needs its confirmation word, else it is only recorded as refused, and is ignored while another runs; its end has its effect, zeroes SEC_KEYDATA and SEC_TOKEN and gives the error; other register writes of 4 or 8 aligned bytes write registers, and any other access is bad. -/
def Obligations.SetupRegisterCommands : Prop :=
  (∀ (s a : State) (t : Time), a = s.at_ t → hubAlive a = true → 
    exec (.timeSubmit t) s = .next (masterWrite 0x0820 1024 (periodOk (reg a 0x0814) && decide (epochNow a + 256 ≤ reg64 a 0x0818))
      (fun z => { z with ep := { z.ep with pn := reg a 0x0814, ec := reg64 a 0x0818, pchg := true } }) a)) ∧
  (∀ (s a : State) (t : Time), a = s.at_ t → hubAlive a = true → 
    exec (.timeCmdStep t) s = .next (masterWrite 0x0840 1024 (!someoneTakesPart a) (fun z => { z with sysOff := 2 * (reg64 a 0x0838 : Int) - z.now }) a)) ∧
  (∀ (s a : State) (t : Time) (value : Word), a = s.at_ t → hubAlive a = true → 
    exec (.pelNumWrite t value) s = .next (setNumber (bits value.toNat 0 10) (bitOf value.toNat 15) a)) ∧
  (∀ (s a : State) (t : Time) (coupler : Bool) (z : State), a = s.at_ t → hubAlive a = true → (coupler && paired a) = false → z = trainPort coupler 3 (trainPort coupler 2 { a with net := { a.net with coupler := coupler } }) → 
    exec (.pelCouplerWrite t coupler) s = .next ({ z with nvs := { z.nvs with store := { z.nvs.store with jobs := z.nvs.store.jobs ++ [.trim] } } })) ∧
  (∀ (s a : State) (t : Time) (coupler : Bool), a = s.at_ t → hubAlive a = true → coupler = true → paired a = true → 
    exec (.pelCouplerWrite t coupler) s = .next (recordRefused 0x0C04 1024 a)) ∧
  (∀ (s a : State) (t : Time) (value : Word), a = s.at_ t → hubAlive a = true → 
    exec (.nvsRdselWrite t value) s = .next ({ a with nvs := { a.nvs with rdSel := BitVec.ofNat 32 (bits value.toNat 0 4 + 256 * bits value.toNat 8 16), rdBusy := true, rdValid := false, rdBytes := [] } })) ∧
  (∀ (s a : State) (t : Time), a = s.at_ t → hubAlive a = true → a.nvs.rdBusy = true → 
    exec (.nvsRdwinLoaded t) s = .next ({ a with nvs := { a.nvs with rdBusy := false, rdValid := true, rdBytes := nvsRecord a (bits a.nvs.rdSel.toNat 0 4) (bits a.nvs.rdSel.toNat 8 16) } })) ∧
  (∀ (s a : State) (t : Time) (slot : Fin 4) (confirm : BitVec 16), a = s.at_ t → hubAlive a = true → confirm = 0x4B59 → a.sec.cmd = none → 
    exec (.secProgram t slot confirm) s = .next ({ a with sec := { a.sec with cmd := some (1, slot) } })) ∧
  (∀ (s a : State) (t : Time) (slot : Fin 4) (confirm : BitVec 16), a = s.at_ t → hubAlive a = true → confirm ≠ 0x4B59 → 
    exec (.secProgram t slot confirm) s = .next (recordRefused 0x5C04 1024 a)) ∧
  (∀ (s a : State) (t : Time) (slot : Fin 4) (confirm : BitVec 16), a = s.at_ t → hubAlive a = true → confirm = 0x4B59 → a.sec.cmd = none → 
    exec (.secRevoke t slot confirm) s = .next ({ a with sec := { a.sec with cmd := some (2, slot) } })) ∧
  (∀ (s a : State) (t : Time) (slot : Fin 4) (confirm : BitVec 16), a = s.at_ t → hubAlive a = true → confirm ≠ 0x4B59 → 
    exec (.secRevoke t slot confirm) s = .next (recordRefused 0x5C04 1024 a)) ∧
  (∀ (s a : State) (t : Time) (confirm : BitVec 16), a = s.at_ t → hubAlive a = true → confirm = 0x4B59 → a.sec.cmd = none → 
    exec (.secToken t confirm) s = .next ({ a with sec := { a.sec with cmd := some (3, 0) } })) ∧
  (∀ (s a : State) (t : Time) (confirm : BitVec 16), a = s.at_ t → hubAlive a = true → confirm ≠ 0x4B59 → 
    exec (.secToken t confirm) s = .next (recordRefused 0x5C04 1024 a)) ∧
  (∀ (s a : State) (t : Time) (confirm : BitVec 16), a = s.at_ t → hubAlive a = true → confirm = 0x4B59 → a.sec.cmd = none → 
    exec (.secClrintr t confirm) s = .next ({ a with sec := { a.sec with cmd := some (4, 0) } })) ∧
  (∀ (s a : State) (t : Time) (confirm : BitVec 16), a = s.at_ t → hubAlive a = true → confirm ≠ 0x4B59 → 
    exec (.secClrintr t confirm) s = .next (recordRefused 0x5C04 1024 a)) ∧
  (∀ (s a : State) (t : Time) (slot : Fin 4), a = s.at_ t → hubAlive a = true → a.sec.cmd = some (2, slot) → 
    exec (.secCmdDone t) s = .next ({ a with sec := { a.sec with
        ikey := a.sec.ikey.upd slot fun k => { k with revoked := true }
        cmd := none
        err := false
        keyData := List.replicate 32 0
        token := List.replicate 96 0 } })) ∧
  (∀ (s a : State) (t : Time) (slot : Fin 4), a = s.at_ t → hubAlive a = true → a.sec.cmd = some (4, slot) → 
    exec (.secCmdDone t) s = .next ({ a with plinth := { a.plinth with intrusion := false, told := false }, sec := { a.sec with
        cmd := none
        err := false
        keyData := List.replicate 32 0
        token := List.replicate 96 0 } })) ∧
  (∀ (s a : State) (t : Time) (op : Nat) (slot : Fin 4) (z : State) (err : Bool), a = s.at_ t → hubAlive a = true → a.sec.cmd = some (op, slot) → secEffect op slot a = (z, err) → 
    exec (.secCmdDone t) s = .next ({ z with sec := { z.sec with
        cmd := none
        err := err
        keyData := List.replicate 32 0
        token := List.replicate 96 0 } })) ∧
  (∀ (s a : State) (t : Time), a = s.at_ t → a.sec.cmd = none → 
    exec (.secCmdDone t) s = .next a) ∧
  (∀ (s a : State) (t : Time) (off size : Nat) (value : BitVec 64) (requester : Nat), a = s.at_ t → hubAlive a = true → size = 4 → off % 4 = 0 → off < 0x10000 → 
    exec (.registerWrite t off size value requester) s = .next (regWrite requester off (bits value.toNat 0 32) a)) ∧
  (∀ (s a : State) (t : Time) (off size : Nat) (value : BitVec 64) (requester : Nat), a = s.at_ t → hubAlive a = true → size = 8 → off % 8 = 0 → off < 0x10000 → 
    exec (.registerWrite t off size value requester) s = .next (regWrite requester (off + 4) (bits value.toNat 32 32) (regWrite requester off (bits value.toNat 0 32) a))) ∧
  (∀ (s a : State) (t : Time) (off size : Nat) (value : BitVec 64) (requester : Nat), a = s.at_ t → hubAlive a = true → size ≠ 4 → size ≠ 8 → 
    exec (.registerWrite t off size value requester) s = .next (badAcc a)) ∧
  (∀ (s a : State) (t : Time) (off size : Nat) (value : BitVec 64) (requester : Nat), a = s.at_ t → hubAlive a = true → size = 4 → off % 4 ≠ 0 → 
    exec (.registerWrite t off size value requester) s = .next (badAcc a))

/-- At a running member a read frame, or one of a reserved OP, and a whole write frame are served once per MTAG; SETNUM of the own serial number gives the number; MGTREAD and MGTWRITE of a remote target are sent to it, of the own device are served here; SETNUM of the own serial number completes and takes the number, of another it is sent on the segment ports; a reply of the request's MTAG completes it; a request without reply for 2 ms is sent again, and after three times completes TIMEOUT. -/
def Obligations.ManagementCommands : Prop :=
  (∀ (s a : State) (t : Time) (src : Nat) (bytes : List Byte), a = s.at_ t → netUp a = true → 8 ≤ bytes.length → mgOp bytes = 1 → 
    exec (.mgtFrameRead t src bytes) s = .next (mgOnce src bytes (mgServeRead src bytes) a)) ∧
  (∀ (s a : State) (t : Time) (src : Nat) (bytes : List Byte), a = s.at_ t → netUp a = true → mgOp bytes = 2 → bytes.length = 8 + 4 * mgCount bytes → 
    exec (.mgtFrameWrite t src bytes) s = .next (mgOnce src bytes (mgServeWrite src bytes) a)) ∧
  (∀ (s a : State) (t : Time) (src : Nat) (bytes : List Byte), a = s.at_ t → hubUp a = true → a.net.state ≠ 0 → mgOp bytes = 3 → bytes.length = 18 → u64 bytes 8 = a.nvs.store.serial.toNat → 
    exec (.mgtFrameSetnum t src bytes) s = .next (serveSetnum src bytes a)) ∧
  (∀ (s a : State) (t : Time) (w : WorkRef) (x : Work) (d : Nat), a = s.at_ t → readyWork a w 0x0800 = some x → hubUp a = true → place (takeUp w a) x.bytes = .remote d → 
    exec (.mgtread t w) s = .next (mgRemote x d 1 (u16 x.bytes 32) (u16 x.bytes 34) [] (takeUp w a))) ∧
  (∀ (s a : State) (t : Time) (w : WorkRef) (x : Work), a = s.at_ t → readyWork a w 0x0800 = some x → hubUp a = true → place (takeUp w a) x.bytes = .here → 
    exec (.mgtread t w) s = .next (mgSelfRead x (u16 x.bytes 32) (u16 x.bytes 34) (takeUp w a))) ∧
  (∀ (s a : State) (t : Time) (w : WorkRef) (x : Work) (d : Nat), a = s.at_ t → readyWork a w 0x0801 = some x → hubUp a = true → place (takeUp w a) x.bytes = .remote d → 
    exec (.mgtwrite t w) s = .next (mgRemote x d 2 (u16 x.bytes 32) (u16 x.bytes 34) (mgData x) (takeUp w a))) ∧
  (∀ (s a : State) (t : Time) (w : WorkRef) (x : Work), a = s.at_ t → readyWork a w 0x0801 = some x → hubUp a = true → place (takeUp w a) x.bytes = .here → 
    exec (.mgtwrite t w) s = .next (mgSelfWrite x (u16 x.bytes 32) (u16 x.bytes 34) (mgData x) (takeUp w a))) ∧
  (∀ (s a : State) (t : Time) (w : WorkRef) (x : Work), a = s.at_ t → readyWork a w 0x0802 = some x → hubUp a = true → u64 x.bytes 32 = a.nvs.store.serial.toNat → 
    exec (.setnum t w) s = .next (setNumber (bits (u16 x.bytes 40) 0 10) true (finishDone x.ref 0 (takeUp w a)))) ∧
  (∀ (s a : State) (t : Time) (w : WorkRef) (x : Work), a = s.at_ t → readyWork a w 0x0802 = some x → hubUp a = true → u64 x.bytes 32 ≠ a.nvs.store.serial.toNat → 
    exec (.setnum t w) s = .next (mgRequest x 1024 3 0 0 (slice x.bytes 32 8 ++ leBytes 2 (bits (u16 x.bytes 40) 0 10)) (takeUp w a))) ∧
  (∀ (s a : State) (t : Time) (src : Nat) (bytes : List Byte) (m : MgtOut), a = s.at_ t → hubUp a = true → (a.host.mgts.find? (fun m => m.mtag == mgTag bytes) = some m) → mgOp bytes = mgOp m.frame + 0x80 → mgOp m.frame ≠ 1 ∨ mgStat bytes ≠ 0 ∨ (bytes.drop 8).length = 4 * mgCount m.frame → 
    exec (.mgtReply t src bytes) s = .next (mgFinish src 4 (mgOp m.frame) m.w (mgStat bytes) (bytes.drop 8) { a with host := { a.host with mgts := a.host.mgts.erase m } })) ∧
  (∀ (s a : State) (t : Time) (mtag : BitVec 16) (m : MgtOut), a = s.at_ t → hubUp a = true → (a.host.mgts.find? (fun m => m.mtag == mtag) = some m) → m.sent + ms 2 ≤ a.now → 3 ≤ m.resends → 
    exec (.mgtResend t mtag) s = .next (finishWith m.w 0x21 0 0 0 0 [] { a with host := { a.host with mgts := a.host.mgts.erase m } })) ∧
  (∀ (s a : State) (t : Time) (mtag : BitVec 16) (m : MgtOut), a = s.at_ t → hubUp a = true → (a.host.mgts.find? (fun m => m.mtag == mtag) = some m) → m.sent + ms 2 ≤ a.now → m.resends < 3 → 
    exec (.mgtResend t mtag) s = .next (mgSend m.target m.frame { a with host := { a.host with mgts := a.host.mgts.map fun y => if y == m then { y with sent := a.now, resends := y.resends + 1 } else y } }))
end

