-- ==== Sys2Proof/Laws/Bank.lean ====
section
/-! SUPPORT. The laws of a bank of like things: an item read after a write. -/

namespace Sys2Proof

theorem Bank.ext_list {α : Type} {n : Nat} {a b : Bank α n} (h : a.list = b.list) : a = b := by
  cases a; cases b; cases h; rfl

@[simp] theorem Bank.get_set_self {α : Type} {n : Nat} (b : Bank α n) (i : Fin n) (x : α) : (b.set i x).get i = x := by
  simp [Bank.get, Bank.set]

theorem Bank.get_set_other {α : Type} {n : Nat} (b : Bank α n) (i j : Fin n) (x : α) (h : i ≠ j) : (b.set i x).get j = b.get j := by
  have h : i.val ≠ j.val := fun e => h (Fin.ext e)
  simp [Bank.get, Bank.set, List.getElem_set_ne h]

@[simp] theorem Bank.get_upd_self {α : Type} {n : Nat} (b : Bank α n) (i : Fin n) (f : α → α) : (b.upd i f).get i = f (b.get i) := by
  simp [Bank.upd]

theorem Bank.get_upd_other {α : Type} {n : Nat} (b : Bank α n) (i j : Fin n) (f : α → α) (h : i ≠ j) : (b.upd i f).get j = b.get j := by
  simp [Bank.upd, Bank.get_set_other _ _ _ _ h]

@[simp] theorem Bank.get_fill {α : Type} (n : Nat) (x : α) (i : Fin n) : (Bank.fill n x).get i = x := by
  simp [Bank.get, Bank.fill]

@[simp] theorem Bank.get_all {α : Type} {n : Nat} (b : Bank α n) (f : α → α) (i : Fin n) : (b.all f).get i = f (b.get i) := by
  simp [Bank.get, Bank.all]

end Sys2Proof
end

