-- ==== Sys2Proof/Laws/Kept.lean ====
section
/-! SUPPORT. What almost every operation leaves alone: elapsed time, the queue of waiting commands, the fuses, the factory's data, the image
partitions and the mirrored image. One lemma per operation says that it does; the files Laws/Kept*.lean go through the operations of the machine in their order. -/

namespace Sys2Proof.Machine

open Sys2Proof

/-- The parts of the state that few operations change. -/
structure Kept where
  now : Time
  pending : List Instr
  ikey : Bank IKey 4
  fkRev : Bool × Bool
  fieldLock : Bool
  serial : BitVec 64
  idBad : Bool
  part : Bank (List Host.Cell) 3
  mirror : List Host.Cell

/-- They are read from a state. -/
def kept (s : State) : Kept :=
  ⟨s.now, s.pending, s.sec.ikey, s.sec.fkRev, s.sec.fieldLock, s.nvs.store.serial, s.nvs.store.idBad, s.img.part, s.pair.image⟩

@[simp] theorem kept_mk (pending : List Instr) (now : Time) (sysOff : Int) (free : Nat) (tile : Bank Tile 12) (link : Bank TLink 12)
    (sns : Bank TSns 12) (iso : Bank TIso 12) (chan : Bank Chan 96) (eng : Engines) (ep : Epochs) (host : HostIf) (net : Net) (pair : Pair)
    (img : Images) (flt : Flt) (pwr : Pwr) (plinth : Plinth) (nvs : Nvs) (recd : Recorder) (cu : Bank CU 4) (sec : Sec) (misc : Misc) (tap : Tap) (reh : Option Reh)
    (regs : List (Nat × Word)) :
    kept ⟨pending, now, sysOff, free, tile, link, sns, iso, chan, eng, ep, host, net, pair, img, flt, pwr, plinth, nvs, recd, cu, sec, misc, tap, reh, regs⟩ =
      ⟨now, pending, sec.ikey, sec.fkRev, sec.fieldLock, nvs.store.serial, nvs.store.idBad, img.part, pair.image⟩ := rfl

@[simp] theorem kept_fold (s : State) :
    (⟨s.now, s.pending, s.sec.ikey, s.sec.fkRev, s.sec.fieldLock, s.nvs.store.serial, s.nvs.store.idBad, s.img.part, s.pair.image⟩ : Kept) = kept s := rfl

@[simp] theorem kept_ite (c : Prop) [Decidable c] (a b : State) : kept (if c then a else b) = if c then kept a else kept b := by
  split <;> rfl

@[simp] theorem kept_forEach {α : Type} (l : List α) (f : α → State → State) (s : State) (h : ∀ x z, kept (f x z) = kept z) :
    kept (forEach l f s) = kept s := by
  unfold forEach
  induction l generalizing s with
  | nil => rfl
  | cons x xs ih => simp only [List.foldl_cons]; rw [ih, h]

@[simp] theorem kept_foldl {α : Type} (l : List α) (f : State → α → State) (s : State) (h : ∀ x z, kept (f z x) = kept z) :
    kept (l.foldl f s) = kept s := by
  induction l generalizing s with
  | nil => rfl
  | cons x xs ih => simp only [List.foldl_cons]; rw [ih, h]

theorem kept_foldl_fst {α β : Type} (l : List α) (f : State × β → α → State × β) (a : State × β) (h : ∀ a x, kept (f a x).1 = kept a.1) :
    kept (l.foldl f a).1 = kept a.1 := by
  induction l generalizing a with
  | nil => rfl
  | cons x xs ih => simp only [List.foldl_cons]; rw [ih, h]

/-! ## Operations that change a partition or a key slot -/

/-- A written key slot keeps its digest and a revocation stands. -/
def KeysHeld (a b : Bank IKey 4) : Prop :=
  (∀ i d, (a.get i).digest = some d → (b.get i).digest = some d) ∧ ∀ i, (a.get i).revoked = true → (b.get i).revoked = true

theorem KeysHeld.refl (a : Bank IKey 4) : KeysHeld a a := ⟨fun _ _ h => h, fun _ h => h⟩

theorem KeysHeld.trans {a b c : Bank IKey 4} (h : KeysHeld a b) (g : KeysHeld b c) : KeysHeld a c :=
  ⟨fun i d x => g.1 i d (h.1 i d x), fun i x => g.2 i (h.2 i x)⟩

theorem KeysHeld.upd (a : Bank IKey 4) (i : Fin 4) (f : IKey → IKey) (h : ∀ d, (a.get i).digest = some d → (f (a.get i)).digest = some d)
    (g : (a.get i).revoked = true → (f (a.get i)).revoked = true) : KeysHeld a (a.upd i f) := by
  constructor
  · intro j d x
    by_cases e : i = j
    · subst e; rw [Bank.get_upd_self]; exact h d x
    · rw [Bank.get_upd_other _ _ _ _ e]; exact x
  · intro j x
    by_cases e : i = j
    · subst e; rw [Bank.get_upd_self]; exact g x
    · rw [Bank.get_upd_other _ _ _ _ e]; exact x

/-- What every operation keeps: everything but the partitions and the key slots is as it was, the slots are held, and partitions in their
canonical form stay in it. -/
def Grows (a b : Kept) : Prop :=
  b.now = a.now ∧ b.pending = a.pending ∧ KeysHeld a.ikey b.ikey ∧ b.fkRev = a.fkRev ∧ b.fieldLock = a.fieldLock ∧ b.serial = a.serial ∧ b.idBad = a.idBad ∧
    (a.part.list.all Memory.wf = true ∧ Memory.wf a.mirror = true → b.part.list.all Memory.wf = true ∧ Memory.wf b.mirror = true)

theorem Grows.of_eq {a b : Kept} (h : b = a) : Grows a b := by
  subst h; exact ⟨rfl, rfl, KeysHeld.refl _, rfl, rfl, rfl, rfl, id⟩

theorem Grows.refl (a : Kept) : Grows a a := Grows.of_eq rfl

theorem Grows.trans {a b c : Kept} (h : Grows a b) (g : Grows b c) : Grows a c := by
  obtain ⟨h1, h2, h3, h4, h5, h6, h7, h8⟩ := h
  obtain ⟨g1, g2, g3, g4, g5, g6, g7, g8⟩ := g
  exact ⟨g1.trans h1, g2.trans h2, h3.trans g3, g4.trans h4, g5.trans h5, g6.trans h6, g7.trans h7, fun x => g8 (h8 x)⟩

theorem Grows.ite {c : Prop} [Decidable c] {a : Kept} {x y : State} (h : Grows a (kept x)) (g : Grows a (kept y)) :
    Grows a (kept (if c then x else y)) := by
  split <;> assumption

theorem Grows.forEach {α : Type} (l : List α) (f : α → State → State) (s : State) (h : ∀ x z, Grows (kept z) (kept (f x z))) :
    Grows (kept s) (kept (Machine.forEach l f s)) := by
  unfold Machine.forEach
  induction l generalizing s with
  | nil => exact Grows.refl _
  | cons x xs ih => exact (h x s).trans (ih _)

/-- One partition replaced by one in its canonical form. -/
theorem part_set_wf (b : Bank (List Host.Cell) 3) (i : Fin 3) (m : List Host.Cell) (h : b.list.all Memory.wf = true) (hm : Memory.wf m = true) :
    (b.set i m).list.all Memory.wf = true := by
  rw [List.all_eq_true] at h ⊢
  intro x hx
  rcases List.mem_or_eq_of_mem_set hx with hx | rfl
  · exact h x hx
  · exact hm

/-- Each partition of a bank in canonical form is in it. -/
theorem part_get_wf (b : Bank (List Host.Cell) 3) (i : Fin 3) (h : b.list.all Memory.wf = true) : Memory.wf (b.get i) = true :=
  List.all_eq_true.mp h _ (List.getElem_mem _)

theorem wfFrom_le {lo lo' : Nat} (h : lo' ≤ lo) (m : List Host.Cell) (w : Memory.wfFrom lo m = true) : Memory.wfFrom lo' m = true := by
  cases m with
  | nil => rfl
  | cons c cs =>
    simp only [Memory.wfFrom, Bool.and_eq_true, decide_eq_true_eq] at w ⊢
    exact ⟨⟨by omega, w.1.2⟩, w.2⟩

theorem insertK_wfFrom (a : Nat) (b : Byte) (hb : b ≠ 0) (m : List Host.Cell) (lo : Nat) (ha : lo ≤ a) (w : Memory.wfFrom lo m = true) :
    Memory.wfFrom lo (insertK a b m) = true := by
  induction m generalizing lo with
  | nil => simpa [insertK, Memory.wfFrom, ha] using hb
  | cons c cs ih =>
    obtain ⟨j, v⟩ := c
    simp only [Memory.wfFrom, Bool.and_eq_true, decide_eq_true_eq] at w
    obtain ⟨⟨h1, h2⟩, h3⟩ := w
    unfold insertK
    split
    · simp only [Memory.wfFrom, Bool.and_eq_true, decide_eq_true_eq]
      exact ⟨⟨ha, by simpa using hb⟩, ⟨by omega, h2⟩, h3⟩
    · split
      · subst a
        simp only [Memory.wfFrom, Bool.and_eq_true, decide_eq_true_eq]
        exact ⟨⟨h1, by simpa using hb⟩, h3⟩
      · simp only [Memory.wfFrom, Bool.and_eq_true, decide_eq_true_eq]
        exact ⟨⟨h1, h2⟩, ih (j + 1) (by omega) h3⟩

theorem eraseK_wfFrom (a : Nat) (m : List Host.Cell) (lo : Nat) (w : Memory.wfFrom lo m = true) : Memory.wfFrom lo (eraseK a m) = true := by
  induction m generalizing lo with
  | nil => rfl
  | cons c cs ih =>
    simp only [Memory.wfFrom, Bool.and_eq_true, decide_eq_true_eq] at w
    obtain ⟨⟨h1, h2⟩, h3⟩ := w
    have ih := ih _ h3
    unfold eraseK at ih ⊢
    rw [List.filter_cons]
    split
    · simp only [Memory.wfFrom, Bool.and_eq_true, decide_eq_true_eq]
      exact ⟨⟨h1, h2⟩, ih⟩
    · exact wfFrom_le (by omega) _ ih

/-- A byte written keeps the canonical form. -/
theorem cellWrite_wf (a : Nat) (b : Byte) (m : List Host.Cell) (w : Memory.wf m = true) : Memory.wf (cellWrite a b m) = true := by
  unfold cellWrite Memory.wf at *
  split
  · exact eraseK_wfFrom a m 0 w
  · exact insertK_wfFrom a b (by assumption) m 0 (by omega) w

/-- Bytes written keep the canonical form. -/
theorem cellWrites_wf (a : Nat) (l : List Byte) (m : List Host.Cell) (w : Memory.wf m = true) : Memory.wf (cellWrites a l m) = true := by
  induction l generalizing a m with
  | nil => exact w
  | cons b bs ih => exact ih _ _ (cellWrite_wf a b m w)

end Sys2Proof.Machine
end

