-- ==== Sys2Proof/Laws/KeptOps.lean ====
section
/-! SUPPORT. The operations of Machine/Ops.lean leave the parts of Laws/Kept.lean alone. -/

namespace Sys2Proof.Machine

open Sys2Proof

@[simp] theorem kept_modTile (t : Fin 12) (f : Tile → Tile) (s : State) : kept (modTile t f s) = kept s := by
  unfold modTile; simp

@[simp] theorem kept_modLink (t : Fin 12) (f : TLink → TLink) (s : State) : kept (modLink t f s) = kept s := by
  unfold modLink; simp

@[simp] theorem kept_modChan (k : Fin 96) (f : Chan → Chan) (s : State) : kept (modChan k f s) = kept s := by
  unfold modChan; simp

@[simp] theorem kept_modLev (k : Fin 96) (f : Levels → Levels) (s : State) : kept (modLev k f s) = kept s := by
  unfold modLev; simp

@[simp] theorem kept_modSw (k : Fin 96) (f : Sw → Sw) (s : State) : kept (modSw k f s) = kept s := by
  unfold modSw; simp

@[simp] theorem kept_modPg (k : Fin 96) (f : PGen → PGen) (s : State) : kept (modPg k f s) = kept s := by
  unfold modPg; simp

@[simp] theorem kept_modAna (k : Fin 96) (f : Ana → Ana) (s : State) : kept (modAna k f s) = kept s := by
  unfold modAna; simp

@[simp] theorem kept_modDig (k : Fin 96) (f : Dig → Dig) (s : State) : kept (modDig k f s) = kept s := by
  unfold modDig; simp

@[simp] theorem kept_modDg (k : Fin 96) (f : Diag → Diag) (s : State) : kept (modDg k f s) = kept s := by
  unfold modDg; simp

@[simp] theorem kept_modHart (k : Fin 96) (f : Hart → Hart) (s : State) : kept (modHart k f s) = kept s := by
  unfold modHart; simp

@[simp] theorem kept_setReg (off v : Nat) (s : State) : kept (setReg off v s) = kept s := by
  unfold setReg; simp

@[simp] theorem kept_freeW (s : State) : kept (freeW s).2 = kept s := by
  unfold freeW; simp

@[simp] theorem kept_freeB (s : State) : kept (freeB s).2 = kept s := by
  unfold freeB; simp

@[simp] theorem kept_modStore (f : Store → Store) (s : State) (h : ∀ m, (f m).serial = m.serial) (h' : ∀ m, (f m).idBad = m.idBad) :
    kept (modStore f s) = kept s := by
  unfold modStore; simp [h, h']

@[simp] theorem kept_queueErases (purpose : Nat) (blocks : List Nat) (s : State) : kept (queueErases purpose blocks s) = kept s := by
  unfold queueErases; simp

@[simp] theorem kept_controlNote (s : State) : kept (controlNote s) = kept s := by
  unfold controlNote; simp

@[simp] theorem kept_controlWrite (s : State) : kept (controlWrite s) = kept s := by
  unfold controlWrite; simp

@[simp] theorem kept_spill (n : Nat) (s : State) : kept (spill n s) = kept s := by
  unfold spill; dsimp only; (repeat' split) <;> simp

@[simp] theorem kept_recordEvt (e : RecEvt) (s : State) : kept (recordEvt e s) = kept s := by
  unfold recordEvt; simp

@[simp] theorem kept_recordArgs (type source : Nat) (args : List Nat) (s : State) : kept (recordArgs type source args s) = kept s := by
  unfold recordArgs; simp

@[simp] theorem kept_record (type source ev hi : Nat) (rest : List Nat) (s : State) : kept (record type source ev hi rest s) = kept s := by
  unfold record; simp

@[simp] theorem kept_recordGeneric (kind inst : Nat) (s : State) : kept (recordGeneric kind inst s) = kept s := by
  unfold recordGeneric; simp

@[simp] theorem kept_recordRefused (off requester : Nat) (s : State) : kept (recordRefused off requester s) = kept s := by
  unfold recordRefused; simp

@[simp] theorem kept_sourceSets (off bit : Nat) (s : State) : kept (sourceSets off bit s) = kept s := by
  unfold sourceSets; simp

@[simp] theorem kept_signal (v : Nat) (s : State) : kept (signal v s) = kept s := by
  unfold signal; simp

@[simp] theorem kept_hostWrite (addr : Nat) (bytes : List Byte) (s : State) : kept (hostWrite addr bytes s) = kept s := by
  unfold hostWrite; simp

@[simp] theorem kept_tileSend (t : Fin 12) (slot c op handle stamp value : Nat) (s : State) : kept (tileSend t slot c op handle stamp value s) = kept s := by
  unfold tileSend; simp

@[simp] theorem kept_putQueue (p : Nat) (i : Fin 5) (queue : List Sent) (s : State) : kept (putQueue p i queue s) = kept s := by
  unfold putQueue; simp

@[simp] theorem kept_frameOut (own : Bool) (p : Nat) (bytes : List Byte) (v : Bool) (s : State) : kept (frameOut own p bytes v s) = kept s := by
  unfold frameOut; dsimp only; (repeat' split) <;> simp

@[simp] theorem kept_portOut (p : Nat) (bytes : List Byte) (v : Bool) (s : State) : kept (portOut p bytes v s) = kept s := by
  unfold portOut; simp

@[simp] theorem kept_ownDrop (p : Nat) (s : State) : kept (ownDrop p s) = kept s := by
  unfold ownDrop; dsimp only; (repeat' split) <;> simp

@[simp] theorem kept_portSend (p : Nat) (bytes : List Byte) (s : State) : kept (portSend p bytes s) = kept s := by
  unfold portSend; simp

@[simp] theorem kept_mgtSend (t : Fin 12) (kind : TKind) (c : Fin 8) (s : State) : kept (mgtSend t kind c s) = kept s := by
  unfold mgtSend; simp

@[simp] theorem kept_mgtTrim (k : Fin 96) (on : Bool) (s : State) : kept (mgtTrim k on s) = kept s := by
  unfold mgtTrim; simp

end Sys2Proof.Machine
end

