-- ==== Sys2Proof/Laws/KeptFlags.lean ====
section
/-! SUPPORT. The operations of Machine/Flags.lean leave the parts of Laws/Kept.lean alone. -/

namespace Sys2Proof.Machine

open Sys2Proof

@[simp] theorem kept_noteInvalid (k : Fin 96) (s : State) : kept (noteInvalid k s) = kept s := by
  unfold noteInvalid; simp

@[simp] theorem kept_judging (k : Fin 96) (f : State → State) (s : State) (hf : ∀ z, kept (f z) = kept z) : kept (judging k f s) = kept s := by
  unfold judging; (repeat' split) <;> simp_all

@[simp] theorem kept_judgingTile (t : Fin 12) (f : State → State) (s : State) (hf : ∀ z, kept (f z) = kept z) : kept (judgingTile t f s) = kept s := by
  unfold judgingTile; (repeat' split) <;> simp_all

@[simp] theorem kept_setVerdict (k : Fin 96) (v : Nat) (s : State) : kept (setVerdict k v s) = kept s := by
  unfold setVerdict; simp

@[simp] theorem kept_clearVerdict (k : Fin 96) (v : Nat) (s : State) : kept (clearVerdict k v s) = kept s := by
  unfold clearVerdict; simp

@[simp] theorem kept_putVerdict (k : Fin 96) (v : Nat) (on : Bool) (s : State) : kept (putVerdict k v on s) = kept s := by
  unfold putVerdict; simp

end Sys2Proof.Machine
end

