-- ==== Sys2Proof/Laws/KeptFrames.lean ====
section
/-! SUPPORT. The operations of Machine/Frames.lean leave the parts of Laws/Kept.lean alone. -/

namespace Sys2Proof.Machine

open Sys2Proof

@[simp] theorem kept_takeFseq (logical : Bool) (s : State) : kept (takeFseq logical s).2 = kept s := by
  unfold takeFseq; dsimp only; (repeat' split) <;> simp

@[simp] theorem kept_ringSend (kind scope : Nat) (dst : Nat) (backbone : Bool) (payload : List Byte) (s : State) : kept (ringSend kind scope dst backbone payload s) = kept s := by
  unfold ringSend; simp

@[simp] theorem kept_castSend (kind scope : Nat) (exported : Bool) (payload : List Byte) (s : State) : kept (castSend kind scope exported payload s) = kept s := by
  unfold castSend; simp

@[simp] theorem kept_uniSend (kind dst : Nat) (payload : List Byte) (s : State) : kept (uniSend kind dst payload s) = kept s := by
  unfold uniSend; simp

@[simp] theorem kept_physSend (kind dst : Nat) (payload : List Byte) (s : State) : kept (physSend kind dst payload s) = kept s := by
  unfold physSend; simp

@[simp] theorem kept_prtSend (kind : Nat) (payload : List Byte) (s : State) : kept (prtSend kind payload s) = kept s := by
  unfold prtSend; simp

@[simp] theorem kept_jnlSend (sub count joff : Nat) (body : List Byte) (s : State) : kept (jnlSend sub count joff body s) = kept s := by
  unfold jnlSend; simp

@[simp] theorem kept_cchSend (op epoch stamp arg : Nat) (s : State) : kept (cchSend op epoch stamp arg s) = kept s := by
  unfold cchSend; simp

@[simp] theorem kept_jnlChunks (n : Nat) (off : Nat) (b : List Byte) (s : State) : kept (jnlChunks n off b s) = kept s := by
  induction n generalizing off b s with
  | zero => rfl
  | succ n ih => unfold jnlChunks; split <;> simp [ih]

@[simp] theorem kept_imageItems (n : Nat) (off : Nat) (b : List Byte) (s : State) : kept (imageItems n off b s) = kept s := by
  induction n generalizing off b s with
  | zero => rfl
  | succ n ih => unfold imageItems; split <;> simp [ih]

end Sys2Proof.Machine
end

