-- ==== Sys2Proof/Laws/KeptRings.lean ====
section
/-! SUPPORT. The operations of Machine/Rings.lean leave the parts of Laws/Kept.lean alone. -/

namespace Sys2Proof.Machine

open Sys2Proof

@[simp] theorem kept_putEntry (etype : Nat) (body : List Byte) (s : State) : kept (putEntry etype body s) = kept s := by
  unfold putEntry; simp

@[simp] theorem kept_askSpill (n : Nat) (s : State) : kept (askSpill n s) = kept s := by
  unfold askSpill; simp

@[simp] theorem kept_setUnspilled (n : Nat) (s : State) : kept (setUnspilled n s) = kept s := by
  unfold setUnspilled; simp

@[simp] theorem kept_makeRoom (n : Nat) (s : State) : kept (makeRoom n s) = kept s := by
  unfold makeRoom; simp

@[simp] theorem kept_padEntry (etype : Nat) (body : List Byte) (s : State) : kept (padEntry etype body s) = kept s := by
  unfold padEntry
  extract_lets off n rest s1
  have h : kept s1 = kept s := by
    simp only [s1]; split <;> simp
  split <;> simp [h]

@[simp] theorem kept_journal (etype : Nat) (body : List Byte) (s : State) : kept (journal etype body s) = kept s := by
  unfold journal
  extract_lets n mark
  split
  · rfl
  · rw [kept_padEntry, kept_forEach]
    intro x z
    simp only [mark]
    split <;> simp

@[simp] theorem kept_modCq (q : Fin 64) (f : CQ → CQ) (s : State) : kept (modCq q f s) = kept s := by
  unfold modCq; simp

@[simp] theorem kept_modCr (n : Fin 64) (f : CR → CR) (s : State) : kept (modCr n f s) = kept s := by
  unfold modCr; simp

@[simp] theorem kept_cqSignal (q : Fin 64) (s : State) : kept (cqSignal q s) = kept s := by
  unfold cqSignal; simp

@[simp] theorem kept_cqWrite (q : Fin 64) (c : Cpl) (irq : Bool) (s : State) : kept (cqWrite q c irq s) = kept s := by
  unfold cqWrite; simp

@[simp] theorem kept_postCpl (c : Cpl) (irq : Bool) (s : State) : kept (postCpl c irq s) = kept s := by
  unfold postCpl; dsimp only; (repeat' split) <;> simp

@[simp] theorem kept_modWork (r : WorkRef) (f : Work → Work) (s : State) : kept (modWork r f s) = kept s := by
  unfold modWork; simp

@[simp] theorem kept_emit (r : WorkRef) (o : Answer) (s : State) : kept (emit r o s) = kept s := by
  unfold emit; simp

@[simp] theorem kept_flushFirsts (n : Nat) (x : First) (s : State) : kept (flushFirsts n x s) = kept s := by
  induction n generalizing x s with
  | zero => rfl
  | succ n ih => unfold flushFirsts; (repeat' split) <;> simp [ih]

@[simp] theorem kept_deliverRef (r : WorkRef) (o : Answer) (s : State) : kept (deliverRef r o s) = kept s := by
  unfold deliverRef; dsimp only; (repeat' split) <;> simp

@[simp] theorem kept_deliver (w : Work) (c : Cpl) (data : List Byte) (s : State) : kept (deliver w c data s) = kept s := by
  unfold deliver; simp

@[simp] theorem kept_trimRecord (origin ring : Nat) (s : State) : kept (trimRecord origin ring s) = kept s := by
  unfold trimRecord; dsimp only; (repeat' split) <;> simp

@[simp] theorem kept_finishFrom (dev flags : Nat) (r : WorkRef) (status epoch result : Nat) (detail : Word) (rlen : Nat) (data : List Byte) (s : State) : kept (finishFrom dev flags r status epoch result detail rlen data s) = kept s := by
  unfold finishFrom; dsimp only; (repeat' split) <;> simp

@[simp] theorem kept_finishWith (r : WorkRef) (status epoch result : Nat) (detail : Word) (rlen : Nat) (data : List Byte) (s : State) :
    kept (finishWith r status epoch result detail rlen data s) = kept s := by
  unfold finishWith; simp

@[simp] theorem kept_finishDone (r : WorkRef) (result : Nat) (s : State) : kept (finishDone r result s) = kept s := by
  unfold finishDone; simp

@[simp] theorem kept_finishClaim (r : WorkRef) (res : Nat) (s : State) : kept (finishClaim r res s) = kept s := by
  unfold finishClaim; simp

@[simp] theorem kept_finishFormat (r : WorkRef) (reason byteOff idx : Nat) (s : State) : kept (finishFormat r reason byteOff idx s) = kept s := by
  unfold finishFormat; simp

@[simp] theorem kept_postNotice (r : WorkRef) (epoch : Nat) (s : State) : kept (postNotice r epoch s) = kept s := by
  unfold postNotice; (repeat' split) <;> simp_all

@[simp] theorem kept_acceptWork (r : WorkRef) (s : State) : kept (acceptWork r s) = kept s := by
  unfold acceptWork; (repeat' split) <;> simp_all

@[simp] theorem kept_acceptOrWait (r : WorkRef) (s : State) : kept (acceptOrWait r s) = kept s := by
  unfold acceptOrWait; simp

@[simp] theorem kept_joinSet (group epoch : Nat) (items : List SetItem) (s : State) : kept (joinSet group epoch items s) = kept s := by
  unfold joinSet; simp

@[simp] theorem kept_modGroup (g : Nat) (f : Group → Group) (s : State) : kept (modGroup g f s) = kept s := by
  unfold modGroup; simp

end Sys2Proof.Machine
end

