-- ==== Sys2Proof/Laws/KeptHartOps.lean ====
section
/-! SUPPORT. The operations of Machine/HartOps.lean leave the parts of Laws/Kept.lean alone. -/

namespace Sys2Proof.Machine

open Sys2Proof

@[simp] theorem kept_hartItem (k : Fin 96) (addr : Nat) (s : State) : kept (hartItem k addr s) = kept s := by
  unfold hartItem; dsimp only; (repeat' split) <;> simp

@[simp] theorem kept_setDropState (k : Fin 96) (addr st : Nat) (s : State) : kept (setDropState k addr st s) = kept s := by
  unfold setDropState; dsimp only; (repeat' split) <;> simp

@[simp] theorem kept_hartFlag (k : Fin 96) (s : State) : kept (hartFlag k s) = kept s := by
  unfold hartFlag; simp

@[simp] theorem kept_hartWait (k : Fin 96) (n : Nat) (s : State) : kept (hartWait k n s) = kept s := by
  unfold hartWait; simp

@[simp] theorem kept_freshPlan (k : Fin 96) (s : State) : kept (freshPlan k s) = kept s := by
  unfold freshPlan; simp

@[simp] theorem kept_sendRequest (k : Fin 96) (addr : Nat) (long : List Byte) (cmd : Nat) (data : List Byte) (s : State) : kept (sendRequest k addr long cmd data s) = kept s := by
  unfold sendRequest; simp

@[simp] theorem kept_startMark (w : WorkRef) (s : State) : kept (startMark w s) = kept s := by
  unfold startMark; simp

@[simp] theorem kept_attempt (k : Fin 96) (s : State) : kept (attempt k s) = kept s := by
  unfold attempt; dsimp only; (repeat' split) <;> simp

@[simp] theorem kept_endTransaction_hostIf (w : Work) (data : List Byte) (s : State) : kept (endTransaction.hostIf w data s) = kept s := by
  unfold endTransaction.hostIf; split <;> simp

@[simp] theorem kept_endTransaction (k : Fin 96) (r : WorkRef) (outcome : Nat) (data : List Byte) (s : State) :
    kept (endTransaction k r outcome data s) = kept s := by
  unfold endTransaction
  dsimp only
  repeat' first | (simp; done) | (simp; split) | split

@[simp] theorem kept_startTurn (k : Fin 96) (i : Nat) (stop : Time) (next : Nat) (host : Option WorkRef) (s : State) : kept (startTurn k i stop next host s) = kept s := by
  unfold startTurn; simp

@[simp] theorem kept_idleTurn (k : Fin 96) (s : State) : kept (idleTurn k s) = kept s := by
  unfold idleTurn; simp

@[simp] theorem kept_firstTurn (k : Fin 96) (s : State) : kept (firstTurn k s) = kept s := by
  unfold firstTurn; (repeat' split) <;> simp_all

@[simp] theorem kept_nextTurn (k : Fin 96) (s' : State) : kept (nextTurn k s') = kept s' := by
  unfold nextTurn; dsimp only; (repeat' split) <;> simp

@[simp] theorem kept_hartResume (k : Fin 96) (s : State) : kept (hartResume k s) = kept s := by
  unfold hartResume; simp

@[simp] theorem kept_endTurn (k : Fin 96) (good : Bool) (s : State) : kept (endTurn k good s) = kept s := by
  unfold endTurn; dsimp only; (repeat' split) <;> simp

@[simp] theorem kept_hartInterrupt (k : Fin 96) (s : State) : kept (hartInterrupt k s) = kept s := by
  unfold hartInterrupt; dsimp only; (repeat' split) <;> simp

@[simp] theorem kept_modemStop (k : Fin 96) (s : State) : kept (modemStop k s) = kept s := by
  unfold modemStop; simp

end Sys2Proof.Machine
end

