-- ==== Sys2Proof/Laws/KeptLaneOps.lean ====
section
/-! SUPPORT. The operations of Machine/LaneOps.lean leave the parts of Laws/Kept.lean alone. -/

namespace Sys2Proof.Machine

open Sys2Proof

@[simp] theorem kept_modLane (n : Fin 96) (f : Lane → Lane) (s : State) : kept (modLane n f s) = kept s := by
  unfold modLane; simp

@[simp] theorem kept_modAxis (x : Fin 8) (f : Axis → Axis) (s : State) : kept (modAxis x f s) = kept s := by
  unfold modAxis; simp

@[simp] theorem kept_slotTake (s : State) (t : Fin 12) (slot : Nat) : kept (slotTake s t slot).2 = kept s := by
  unfold slotTake; simp

@[simp] theorem kept_putLane (n : Fin 96) (entry st : Nat) (clip : Bool) (v : Word) (rev : Bool) (cross : Int) (s : State) : kept (putLane n entry st clip v rev cross s) = kept s := by
  unfold putLane; dsimp only; (repeat' split) <;> simp

@[simp] theorem kept_sendLane (n : Fin 96) (entry : Nat) (stamp : Int) (v : Word) (rev : Bool) (cross : Int) (s : State) : kept (sendLane n entry stamp v rev cross s) = kept s := by
  unfold sendLane; dsimp only; (repeat' split) <;> simp

@[simp] theorem kept_sendPresent (n : Fin 96) (stamp : Nat) (s : State) : kept (sendPresent n stamp s) = kept s := by
  unfold sendPresent; (repeat' split) <;> simp_all

@[simp] theorem kept_markCancel (n : Fin 96) (c : LaneCmd) (s : State) : kept (markCancel n c s) = kept s := by
  unfold markCancel; simp

@[simp] theorem kept_sendCancel (n : Fin 96) (c : LaneCmd) (s : State) : kept (sendCancel n c s) = kept s := by
  unfold sendCancel; simp only []; (repeat' split) <;> simp

@[simp] theorem kept_laneItem (n : Fin 96) (s : State) : kept (laneItem n s) = kept s := by
  unfold laneItem; simp

@[simp] theorem kept_setLaneState (n : Fin 96) (st : Nat) (s : State) : kept (setLaneState n st s) = kept s := by
  unfold setLaneState; simp

@[simp] theorem kept_laneIdle (n : Fin 96) (tick : Nat) (s : State) : kept (laneIdle n tick s) = kept s := by
  unfold laneIdle; dsimp only; (repeat' split) <;> simp

@[simp] theorem kept_sendRdval (n : Fin 96) (r : Rec) (at_ : Nat) (clip : Bool) (s : State) : kept (sendRdval n r at_ clip s) = kept s := by
  unfold sendRdval; simp

@[simp] theorem kept_laneRunEnd (n : Fin 96) (tick : Nat) (lost : Bool) (s : State) : kept (laneRunEnd n tick lost s) = kept s := by
  unfold laneRunEnd; dsimp only; (repeat' split) <;> simp

@[simp] theorem kept_recordAxisOf (src : Nat) (x : Fin 8) (ev : Nat) (s : State) : kept (recordAxisOf src x ev s) = kept s := by
  unfold recordAxisOf; simp

@[simp] theorem kept_recordAxis (x : Fin 8) (ev : Nat) (s : State) : kept (recordAxis x ev s) = kept s := by
  unfold recordAxis; simp

@[simp] theorem kept_endRundown (x : Fin 8) (lost : Bool) (s : State) : kept (endRundown x lost s) = kept s := by
  unfold endRundown; simp

@[simp] theorem kept_stopOrder (x : Fin 8) (s : State) : kept (stopOrder x s) = kept s := by
  unfold stopOrder; simp

@[simp] theorem kept_axisLost (x : Fin 8) (s : State) : kept (axisLost x s) = kept s := by
  unfold axisLost; simp

end Sys2Proof.Machine
end

