-- ==== Sys2Proof/Laws/KeptHrefOps.lean ====
section
/-! SUPPORT. The operations of Machine/HrefOps.lean leave the parts of Laws/Kept.lean alone. -/

namespace Sys2Proof.Machine

open Sys2Proof

@[simp] theorem kept_putHref (a : HrefSt) (s : State) : kept (putHref a s) = kept s := by
  unfold putHref; simp

@[simp] theorem kept_sendFlash (t : Fin 12) (d0 : Nat) (s : State) : kept (sendFlash t d0 s) = kept s := by
  unfold sendFlash; simp

@[simp] theorem kept_flashHref (r : Rec) (apply : Bool) (s : State) : kept (flashHref r apply s) = kept s := by
  unfold flashHref; dsimp only; (repeat' split) <;> simp

@[simp] theorem kept_fireHref (r : Rec) (silent : Bool) (s : State) : kept (fireHref r silent s) = kept s := by
  unfold fireHref; dsimp only; (repeat' split) <;> simp

@[simp] theorem kept_releaseHref (r : Rec) (s : State) : kept (releaseHref r s) = kept s := by
  unfold releaseHref; simp

@[simp] theorem kept_evalHref (r : Rec) (s : State) : kept (evalHref r s) = kept s := by
  unfold evalHref; simp

@[simp] theorem kept_evalLits (n : Nat) (l : List Nat) (s : State) : kept (evalLits n l s) = kept s := by
  induction n generalizing l s with
  | zero => rfl
  | succ n ih => unfold evalLits; (repeat' split) <;> simp [ih]

@[simp] theorem kept_withHref (f : State → State) (s : State) (hf : ∀ z, kept (f z) = kept z) : kept (withHref f s) = kept s := by
  unfold withHref; (repeat' split) <;> simp_all

@[simp] theorem kept_hrefSilent (t : Fin 12) (s : State) : kept (hrefSilent t s) = kept s := by
  unfold hrefSilent; simp

end Sys2Proof.Machine
end

