-- ==== Sys2Proof/Laws/KeptTerminal.lean ====
section
/-! SUPPORT. The operations of Machine/Terminal.lean leave the parts of Laws/Kept.lean alone. -/

namespace Sys2Proof.Machine

open Sys2Proof

@[simp] theorem kept_testSkip (k : Fin 96) (s : State) : kept (testSkip k s) = kept s := by
  unfold testSkip; simp

theorem kept_pat (k : Fin 96) (c : Prop) [Decidable c] (f : Diag → Diag) (s : State) (p : Bank Patina 96) :
    kept { (if c then modDg k f s else s) with nvs := { s.nvs with pat := p } } = kept s := by
  split <;> rfl

@[simp] theorem kept_refresh (k : Fin 96) (s : State) : kept (refresh k s) = kept s := by
  unfold refresh
  dsimp only
  rw [kept_ite, kept_testSkip, kept_pat]
  exact ite_self _

@[simp] theorem kept_refreshTile (t : Fin 12) (s : State) : kept (refreshTile t s) = kept s := by
  unfold refreshTile; simp

@[simp] theorem kept_withRefresh (k : Fin 96) (f : State → State) (s : State) (hf : ∀ z, kept (f z) = kept z) : kept (withRefresh k f s) = kept s := by
  unfold withRefresh; (repeat' split) <;> simp_all

end Sys2Proof.Machine
end

