-- ==== Sys2Proof/Laws/KeptShadow.lean ====
section
/-! SUPPORT. The operations of Machine/Shadow.lean leave the parts of Laws/Kept.lean alone. -/

namespace Sys2Proof.Machine

open Sys2Proof

@[simp] theorem kept_rehView (h : Reh) (s : State) : kept (rehView h s) = kept s := by
  unfold rehView; dsimp only; (repeat' split) <;> simp

@[simp] theorem kept_beside (f : State → State) (s : State) (hf : ∀ z, kept (f z) = kept z) : kept (beside f s) = kept s := by
  unfold beside; (repeat' split) <;> simp_all

end Sys2Proof.Machine
end

