-- ==== Sys2Proof/Laws/KeptCollector.lean ====
section
/-! SUPPORT. The operations of Machine/Collector.lean leave the parts of Laws/Kept.lean alone. -/

namespace Sys2Proof.Machine

open Sys2Proof

@[simp] theorem kept_sealOpen (s : State) : kept (sealOpen s) = kept s := by
  unfold sealOpen; dsimp only; (repeat' split) <;> simp

@[simp] theorem kept_storeRun (l : List RecRec) (s : State) : kept (storeRun l s) = kept s := by
  unfold storeRun; dsimp only; (repeat' split) <;> simp

@[simp] theorem kept_storeSealed (s : State) : kept (storeSealed s) = kept s := by
  unfold storeSealed; simp

@[simp] theorem kept_sendRoles (standby partnered : Bool) (tick : Nat) (s : State) : kept (sendRoles standby partnered tick s) = kept s := by
  unfold sendRoles; simp

@[simp] theorem kept_recordPair (ev hi : Nat) (s : State) : kept (recordPair ev hi s) = kept s := by
  unfold recordPair; simp

@[simp] theorem kept_sendYield (reason tile : Nat) (s : State) : kept (sendYield reason tile s) = kept s := by
  unfold sendYield; simp

@[simp] theorem kept_yieldIf (reason tile : Nat) (s : State) : kept (yieldIf reason tile s) = kept s := by
  unfold yieldIf; simp

@[simp] theorem kept_selectorWrite (old new : Fw) (s : State) : kept (selectorWrite old new s) = kept s := by
  unfold selectorWrite; simp

@[simp] theorem kept_recordFw (studio : Bool) (ev slot svn : Nat) (s : State) : kept (recordFw studio ev slot svn s) = kept s := by
  unfold recordFw; simp

@[simp] theorem kept_recordFwAll (studio : Bool) (f : Fw) (l : List (Nat × Nat)) (s : State) : kept (recordFwAll studio f l s) = kept s := by
  unfold recordFwAll; simp

@[simp] theorem kept_dataFrom (dev flags : Nat) (r : WorkRef) (result : Nat) (data : List Byte) (s : State) :
    kept (dataFrom dev flags r result data s) = kept s := by
  unfold dataFrom
  split
  · rfl
  · split
    · simp
    · dsimp only; split <;> simp

@[simp] theorem kept_finishData (r : WorkRef) (result : Nat) (data : List Byte) (s : State) :
    kept (finishData r result data s) = kept s := by
  unfold finishData; simp

@[simp] theorem kept_abortStaging (s : State) : kept (abortStaging s) = kept s := by
  unfold abortStaging; dsimp only; (repeat' split) <;> simp

@[simp] theorem kept_cutRehearsal (result : Nat) (next : MaqState) (s : State) : kept (cutRehearsal result next s) = kept s := by
  unfold cutRehearsal; dsimp only; (repeat' split) <;> simp

@[simp] theorem kept_studioRestart (s : State) : kept (studioRestart s) = kept s := by
  unfold studioRestart; simp

@[simp] theorem kept_modSrc (id : Nat) (f : FltSt → FltSt) (s : State) : kept (modSrc id f s) = kept s := by
  unfold modSrc; dsimp only; (repeat' split) <;> simp

@[simp] theorem kept_modPort (p : Fin 5) (f : Port → Port) (s : State) : kept (modPort p f s) = kept s := by
  unfold modPort; simp

@[simp] theorem kept_recordPort (p : Fin 5) (ev n : Nat) (s : State) : kept (recordPort p ev n s) = kept s := by
  unfold recordPort; simp

@[simp] theorem kept_portFalls (p : Fin 5) (s : State) : kept (portFalls p s) = kept s := by
  unfold portFalls; simp

@[simp] theorem kept_modCu (n : Fin 4) (f : CU → CU) (s : State) : kept (modCu n f s) = kept s := by
  unfold modCu; simp

@[simp] theorem kept_cutLoad (s : State) : kept (cutLoad s) = kept s := by
  unfold cutLoad; simp

@[simp] theorem kept_blockReset (b : BlockId) (s : State) : kept (blockReset b s) = kept s := by
  unfold blockReset; dsimp only; (repeat' split) <;> simp

@[simp] theorem kept_lockNow (src : Nat) (s : State) : kept (lockNow src s) = kept s := by
  unfold lockNow; simp

@[simp] theorem kept_disarmQuiet (s : State) : kept (disarmQuiet s) = kept s := by
  unfold disarmQuiet; dsimp only; (repeat' split) <;> simp

@[simp] theorem kept_hubClear (s : State) : kept (hubClear s) = kept s := by
  unfold hubClear; simp

@[simp] theorem kept_hubReset (cause src : Nat) (s : State) : kept (hubReset cause src s) = kept s := by
  unfold hubReset; dsimp only; (repeat' split) <;> simp

@[simp] theorem kept_requestReset (cause src : Nat) (s : State) : kept (requestReset cause src s) = kept s := by
  unfold requestReset; dsimp only; (repeat' split) <;> simp

@[simp] theorem kept_requestLock (src : Nat) (s : State) : kept (requestLock src s) = kept s := by
  unfold requestLock; dsimp only; (repeat' split) <;> simp

@[simp] theorem kept_recordFault (id cls : Nat) (esc wire inj : Bool) (s : State) : kept (recordFault id cls esc wire inj s) = kept s := by
  unfold recordFault; simp

@[simp] theorem kept_noteEvent (wire inj : Bool) (id cfg eff : Nat) (s : State) : kept (noteEvent wire inj id cfg eff s) = kept s := by
  unfold noteEvent; simp

@[simp] theorem kept_react (id eff : Nat) (s : State) : kept (react id eff s) = kept s := by
  unfold react; dsimp only; (repeat' split) <;> simp

@[simp] theorem kept_raiseAll (wire inj : Bool) (ids : List Nat) (s : State) : kept (raiseAll wire inj ids s) = kept s := by
  unfold raiseAll
  split
  · rfl
  · dsimp only
    rw [kept_forEach (f := fun (e : Nat × Nat) s => react e.1 e.2 s) (h := fun e z => kept_react e.1 e.2 z)]
    exact kept_foldl_fst _ _ _ (fun a x => by simp)

@[simp] theorem kept_raise (id : Nat) (s : State) : kept (raise id s) = kept s := by
  unfold raise; simp

@[simp] theorem kept_gateRefuse (s : State) : kept (gateRefuse s) = kept s := by
  unfold gateRefuse; simp

@[simp] theorem kept_raiseLevel (id : Nat) (s : State) : kept (raiseLevel id s) = kept s := by
  unfold raiseLevel; simp

@[simp] theorem kept_calm (id : Nat) (s : State) : kept (calm id s) = kept s := by
  unfold calm; simp

@[simp] theorem kept_hostErr (bit : Nat) (s : State) : kept (hostErr bit s) = kept s := by
  unfold hostErr; simp

@[simp] theorem kept_protecting (k : Fin 96) (f : State → State) (s : State) (hf : ∀ z, kept (f z) = kept z) : kept (protecting k f s) = kept s := by
  unfold protecting; (repeat' split) <;> simp_all

@[simp] theorem kept_raiseDrops (s : State) : kept (raiseDrops s) = kept s := by
  unfold raiseDrops; simp

end Sys2Proof.Machine
end

