-- ==== Sys2Proof/Laws/KeptPairOps.lean ====
section
/-! SUPPORT. The operations of Machine/PairOps.lean leave the parts of Laws/Kept.lean alone. -/

namespace Sys2Proof.Machine

open Sys2Proof

@[simp] theorem kept_setShares (n : Option Nat) (s : State) : kept (setShares n s) = kept s := by
  unfold setShares; simp

@[simp] theorem kept_holdHart (on : Bool) (s : State) : kept (holdHart on s) = kept s := by
  unfold holdHart; simp

@[simp] theorem kept_finishCouch (code : Nat) (s : State) : kept (finishCouch code s) = kept s := by
  unfold finishCouch; (repeat' split) <;> simp_all

@[simp] theorem kept_leaveCouch (s : State) : kept (leaveCouch s) = kept s := by
  unfold leaveCouch; dsimp only; (repeat' split) <;> simp

@[simp] theorem kept_surviveCouch (stampTick : Nat) (s : State) : kept (surviveCouch stampTick s) = kept s := by
  unfold surviveCouch; simp

@[simp] theorem kept_couchCause (s : State) : kept (couchCause s) = kept s := by
  unfold couchCause; (repeat' split) <;> simp_all

@[simp] theorem kept_repost (w : Work) (s : State) : kept (repost w s) = kept s := by
  unfold repost; dsimp only; (repeat' split) <;> simp

@[simp] theorem kept_endInFlight (s : State) : kept (endInFlight s) = kept s := by
  unfold endInFlight
  try dsimp only
  repeat' first | (simp; done) | (refine (kept_forEach _ _ _ ?_).trans ?_ <;> intros) | split | (simp; first | split | (refine (kept_forEach _ _ _ ?_).trans ?_ <;> intros))

@[simp] theorem kept_becomeActive (stampNs stampTick wit : Nat) (s : State) : kept (becomeActive stampNs stampTick wit s) = kept s := by
  unfold becomeActive; simp

@[simp] theorem kept_roleFresh (t : Fin 12) (standby : Bool) (s : State) : kept (roleFresh t standby s) = kept s := by
  unfold roleFresh; simp

@[simp] theorem kept_tileRole (t : Fin 12) (standby partnered : Bool) (s : State) : kept (tileRole t standby partnered s) = kept s := by
  unfold tileRole; dsimp only; (repeat' split) <;> simp

@[simp] theorem kept_everyTileRole (standby partnered : Bool) (s : State) : kept (everyTileRole standby partnered s) = kept s := by
  unfold everyTileRole; simp

@[simp] theorem kept_partnerAccepts (s : State) : kept (partnerAccepts s) = kept s := by
  unfold partnerAccepts; simp

@[simp] theorem kept_clearPartnered (s : State) : kept (clearPartnered s) = kept s := by
  unfold clearPartnered; simp

@[simp] theorem kept_standAside (s : State) : kept (standAside s) = kept s := by
  unfold standAside; dsimp only; (repeat' split) <;> simp

@[simp] theorem kept_goActive (s : State) : kept (goActive s) = kept s := by
  unfold goActive; simp

@[simp] theorem kept_becomeOrphan (s : State) : kept (becomeOrphan s) = kept s := by
  unfold becomeOrphan; simp

end Sys2Proof.Machine
end

