-- ==== Sys2Proof/Laws/KeptTileOps.lean ====
section
/-! SUPPORT. The operations of Machine/TileOps.lean leave the parts of Laws/Kept.lean alone. -/

namespace Sys2Proof.Machine

open Sys2Proof

@[simp] theorem kept_tack (t : Fin 12) (handle code : Nat) (s : State) : kept (tack t handle code s) = kept s := by
  unfold tack; simp

@[simp] theorem kept_queueEvtAt (at_ : Nat) (t : Fin 12) (kind idx : Nat) (on : Bool) (s : State) : kept (queueEvtAt at_ t kind idx on s) = kept s := by
  unfold queueEvtAt; simp

@[simp] theorem kept_queueEvt (t : Fin 12) (kind idx : Nat) (on : Bool) (s : State) : kept (queueEvt t kind idx on s) = kept s := by
  unfold queueEvt; simp

@[simp] theorem kept_endTrain (k : Fin 96) (s : State) : kept (endTrain k s) = kept s := by
  unfold endTrain; simp

@[simp] theorem kept_fallBack (k : Fin 96) (s : State) : kept (fallBack k s) = kept s := by
  unfold fallBack; simp

@[simp] theorem kept_holdChan (k : Fin 96) (s : State) : kept (holdChan k s) = kept s := by
  unfold holdChan; dsimp only; (repeat' split) <;> simp

@[simp] theorem kept_discardAll (t : Fin 12) (s : State) : kept (discardAll t s) = kept s := by
  unfold discardAll; simp

@[simp] theorem kept_enterHold (t : Fin 12) (s : State) : kept (enterHold t s) = kept s := by
  unfold enterHold; simp

@[simp] theorem kept_putTref (t : Fin 12) (a : TrefSt) (s : State) : kept (putTref t a s) = kept s := by
  unfold putTref; simp

@[simp] theorem kept_fireTref (t : Fin 12) (r : Rec) (s : State) : kept (fireTref t r s) = kept s := by
  unfold fireTref; dsimp only; (repeat' split) <;> simp

@[simp] theorem kept_liftTref (t : Fin 12) (r : Rec) (s : State) : kept (liftTref t r s) = kept s := by
  unfold liftTref; (repeat' split) <;> simp_all

@[simp] theorem kept_releaseTref (t : Fin 12) (r : Rec) (s : State) : kept (releaseTref t r s) = kept s := by
  unfold releaseTref; (repeat' split) <;> simp_all

@[simp] theorem kept_evalTref (t : Fin 12) (r : Rec) (s : State) : kept (evalTref t r s) = kept s := by
  unfold evalTref; simp

@[simp] theorem kept_evalTile (t : Fin 12) (bit : Nat) (s : State) : kept (evalTile t bit s) = kept s := by
  unfold evalTile; simp

@[simp] theorem kept_upFlash (t : Fin 12) (kind : Nat) (d0 : Nat) (s : State) : kept (upFlash t kind d0 s) = kept s := by
  unfold upFlash; simp

@[simp] theorem kept_comparatorSet (k : Fin 96) (b state : Bool) (s : State) : kept (comparatorSet k b state s) = kept s := by
  unfold comparatorSet; simp

@[simp] theorem kept_hrefReturn (t : Fin 12) (s : State) : kept (hrefReturn t s) = kept s := by
  unfold hrefReturn; simp

@[simp] theorem kept_restoreChan (k : Fin 96) (ack : Bool) (s : State) : kept (restoreChan k ack s) = kept s := by
  unfold restoreChan; simp

@[simp] theorem kept_ackLevels (k : Fin 96) (s : State) : kept (ackLevels k s) = kept s := by
  unfold ackLevels; simp

@[simp] theorem kept_ackLevel3 (k : Fin 96) (s : State) : kept (ackLevel3 k s) = kept s := by
  unfold ackLevel3; simp

@[simp] theorem kept_lanesReturn (t : Fin 12) (s : State) : kept (lanesReturn t s) = kept s := by
  unfold lanesReturn
  try dsimp only
  repeat' first | (simp; done) | (refine (kept_forEach _ _ _ ?_).trans ?_ <;> intros) | split | (simp; first | split | (refine (kept_forEach _ _ _ ?_).trans ?_ <;> intros))

@[simp] theorem kept_publishCount (k : Fin 96) (s : State) : kept (publishCount k s) = kept s := by
  unfold publishCount; simp

@[simp] theorem kept_resendOvr (k : Fin 96) (s : State) : kept (resendOvr k s) = kept s := by
  unfold resendOvr; simp

@[simp] theorem kept_goLive (t : Fin 12) (s : State) : kept (goLive t s) = kept s := by
  unfold goLive; simp

@[simp] theorem kept_keepSync (s : State) : kept (keepSync s) = kept s := by
  unfold keepSync; simp

end Sys2Proof.Machine
end

