-- ==== Sys2Proof/Laws/KeptBankOps.lean ====
section
/-! SUPPORT. The operations of Machine/BankOps.lean leave the parts of Laws/Kept.lean alone. -/

namespace Sys2Proof.Machine

open Sys2Proof

@[simp] theorem kept_recordTrim (ev source reason : Nat) (v : Word) (s : State) : kept (recordTrim ev source reason v s) = kept s := by
  unfold recordTrim; simp

@[simp] theorem kept_disarm (s : State) : kept (disarm s) = kept s := by
  unfold disarm; dsimp only; (repeat' split) <;> simp

@[simp] theorem kept_dropPar (k : Fin 96) (other : Nat) (s : State) : kept (dropPar k other s) = kept s := by
  unfold dropPar; simp

@[simp] theorem kept_freshChan (first : Bool) (k : Fin 96) (s : State) : kept (freshChan first k s) = kept s := by
  unfold freshChan
  try dsimp only
  repeat' first | (simp; done) | (refine (kept_forEach _ _ _ ?_).trans ?_ <;> intros) | split | (simp; first | split | (refine (kept_forEach _ _ _ ?_).trans ?_ <;> intros))

@[simp] theorem kept_cancelWhere (t : Fin 12) (p : TEntry → Bool) (s : State) : kept (cancelWhere t p s) = kept s := by
  unfold cancelWhere; simp

@[simp] theorem kept_switchBank (t : Fin 12) (b : TileBank) (s : State) : kept (switchBank t b s) = kept s := by
  unfold switchBank
  extract_lets old first changed gone s1 s2 s3 s4 s5
  have hs1 : kept s1 = kept s := by
    simp only [s1]
    repeat' first | (simp [*]; done) | (refine (kept_forEach _ _ _ ?_).trans ?_ <;> intros) | split | (simp; first | split | (refine (kept_forEach _ _ _ ?_).trans ?_ <;> intros))
  clear_value s1
  have hs2 : kept s2 = kept s := by
    simp only [s2]
    repeat' first | (simp [*]; done) | (refine (kept_forEach _ _ _ ?_).trans ?_ <;> intros) | split | (simp; first | split | (refine (kept_forEach _ _ _ ?_).trans ?_ <;> intros))
  clear_value s2
  have hs3 : kept s3 = kept s := by
    simp only [s3]
    repeat' first | (simp [*]; done) | (refine (kept_forEach _ _ _ ?_).trans ?_ <;> intros) | split | (simp; first | split | (refine (kept_forEach _ _ _ ?_).trans ?_ <;> intros))
  clear_value s3
  have hs4 : kept s4 = kept s := by
    simp only [s4]
    repeat' first | (simp [*]; done) | (refine (kept_forEach _ _ _ ?_).trans ?_ <;> intros) | split | (simp; first | split | (refine (kept_forEach _ _ _ ?_).trans ?_ <;> intros))
  clear_value s4
  have hs5 : kept s5 = kept s := by
    simp only [s5]
    repeat' first | (simp [*]; done) | (refine (kept_forEach _ _ _ ?_).trans ?_ <;> intros) | split | (simp; first | split | (refine (kept_forEach _ _ _ ?_).trans ?_ <;> intros))
  clear_value s5
  repeat' first | (simp [*]; done) | (refine (kept_forEach _ _ _ ?_).trans ?_ <;> intros) | split | (simp; first | split | (refine (kept_forEach _ _ _ ?_).trans ?_ <;> intros))

@[simp] theorem kept_pushConfig (t : Fin 12) (s : State) : kept (pushConfig t s) = kept s := by
  unfold pushConfig; dsimp only; (repeat' split) <;> simp

end Sys2Proof.Machine
end

