-- ==== Sys2Proof/Laws/KeptLinks.lean ====
section
/-! SUPPORT. The operations of Machine/Links.lean leave the parts of Laws/Kept.lean alone. -/

namespace Sys2Proof.Machine

open Sys2Proof

@[simp] theorem kept_goQuiet (t : Fin 12) (s : State) : kept (goQuiet t s) = kept s := by
  unfold goQuiet; simp

@[simp] theorem kept_tileDies (t : Fin 12) (s : State) : kept (tileDies t s) = kept s := by
  unfold tileDies; simp

@[simp] theorem kept_assignRole (t : Fin 12) (s : State) : kept (assignRole t s) = kept s := by
  unfold assignRole; simp

@[simp] theorem kept_hubLinkUp (t : Fin 12) (s : State) : kept (hubLinkUp t s) = kept s := by
  unfold hubLinkUp; simp

@[simp] theorem kept_dieCycle (t : Fin 12) (temp : Int) (s : State) : kept (dieCycle t temp s) = kept s := by
  unfold dieCycle; dsimp only; (repeat' split) <;> simp

@[simp] theorem kept_badFlash (t : Fin 12) (s : State) : kept (badFlash t s) = kept s := by
  unfold badFlash; simp

@[simp] theorem kept_compTake (n : Nat) (on : Bool) (s : State) : kept (compTake n on s) = kept s := by
  unfold compTake; simp

@[simp] theorem kept_forgetSent (t : Fin 12) (s : State) : kept (forgetSent t s) = kept s := by
  unfold forgetSent; simp

end Sys2Proof.Machine
end

