-- ==== Sys2Proof/Laws/KeptTcmd.lean ====
section
/-! SUPPORT. The operations of Machine/Tcmd.lean leave the parts of Laws/Kept.lean alone. -/

namespace Sys2Proof.Machine

open Sys2Proof

@[simp] theorem kept_applyEntry (t : Fin 12) (e : TEntry) (s : State) : kept (applyEntry t e s) = kept s := by
  unfold applyEntry; dsimp only; (repeat' split) <;> simp

@[simp] theorem kept_levelEntry (t : Fin 12) (e : TEntry) (s : State) : kept (levelEntry t e s) = kept s := by
  unfold levelEntry; simp

@[simp] theorem kept_reportRun (t : Fin 12) (code : Nat) (e : TEntry) (s : State) : kept (reportRun t code e s) = kept s := by
  unfold reportRun; (repeat' split) <;> simp_all

@[simp] theorem kept_runEntries (t : Fin 12) (code : Nat) (due : List TEntry) (s : State) : kept (runEntries t code due s) = kept s := by
  unfold runEntries; simp

@[simp] theorem kept_holdOrRun (t : Fin 12) (e : TEntry) (s : State) : kept (holdOrRun t e s) = kept s := by
  unfold holdOrRun; dsimp only; (repeat' split) <;> simp

@[simp] theorem kept_setOrDuty (t : Fin 12) (duty : Bool) (slot : Nat) (c : Fin 8) (handle : Byte) (stamp : Word) (value : BitVec 16) (s : State) : kept (setOrDuty t duty slot c handle stamp value s) = kept s := by
  unfold setOrDuty; simp

@[simp] theorem kept_missing (t : Fin 12) (h : Nat) (s : State) : kept (missing t h s) = kept s := by
  unfold missing; simp

@[simp] theorem kept_tcmdReplace (t : Fin 12) (slot : Nat) (handle : Byte) (stamp : Word) (value : BitVec 16) (s : State) : kept (tcmdReplace t slot handle stamp value s) = kept s := by
  unfold tcmdReplace; dsimp only; (repeat' split) <;> simp

@[simp] theorem kept_tcmdCancel (t : Fin 12) (slot : Nat) (handle : Byte) (s : State) : kept (tcmdCancel t slot handle s) = kept s := by
  unfold tcmdCancel; dsimp only; (repeat' split) <;> simp

@[simp] theorem kept_tcmdRelease (t : Fin 12) (slot : Nat) (c : Fin 8) (handle : Byte) (stamp : Word) (s : State) : kept (tcmdRelease t slot c handle stamp s) = kept s := by
  unfold tcmdRelease; dsimp only; (repeat' split) <;> simp

@[simp] theorem kept_tcmdOp (t : Fin 12) (slot op : Nat) (c : Fin 8) (handle : Byte) (stamp : Word) (value : BitVec 16) (s : State) : kept (tcmdOp t slot op c handle stamp value s) = kept s := by
  unfold tcmdOp; (repeat' split) <;> simp_all

@[simp] theorem kept_tcmdWord (t : Fin 12) (slot : Nat) (b : List Byte) (s : State) : kept (tcmdWord t slot b s) = kept s := by
  unfold tcmdWord; simp

@[simp] theorem kept_recordTcmd (source code : Nat) (late : Int) (s : State) : kept (recordTcmd source code late s) = kept s := by
  unfold recordTcmd; simp

@[simp] theorem kept_laneExecuted (n : Fin 96) (c : LaneCmd) (late : Int) (s : State) : kept (laneExecuted n c late s) = kept s := by
  unfold laneExecuted; simp

@[simp] theorem kept_laneDropped (n : Fin 96) (c : LaneCmd) (s : State) : kept (laneDropped n c s) = kept s := by
  unfold laneDropped; simp

@[simp] theorem kept_laneAnswered (n : Fin 96) (c : LaneCmd) (s : State) : kept (laneAnswered n c s) = kept s := by
  unfold laneAnswered; simp

@[simp] theorem kept_laneReport (n : Fin 96) (c : LaneCmd) (code : Nat) (ticks : Word) (s : State) : kept (laneReport n c code ticks s) = kept s := by
  unfold laneReport; dsimp only; (repeat' split) <;> simp

@[simp] theorem kept_partReset (t : Fin 12) (slot : Nat) (s : State) : kept (partReset t slot s) = kept s := by
  unfold partReset; simp

@[simp] theorem kept_configCommit (t : Fin 12) (s : State) : kept (configCommit t s) = kept s := by
  unfold configCommit; simp

@[simp] theorem kept_roleChange (t : Fin 12) (standby partnered : Bool) (stamp : Word) (s : State) : kept (roleChange t standby partnered stamp s) = kept s := by
  unfold roleChange; simp

@[simp] theorem kept_tileLock (t : Fin 12) (s : State) : kept (tileLock t s) = kept s := by
  unfold tileLock; simp

end Sys2Proof.Machine
end

