-- ==== Sys2Proof/Laws/KeptAnalog.lean ====
section
/-! SUPPORT. The operations of Machine/Analog.lean leave the parts of Laws/Kept.lean alone. -/

namespace Sys2Proof.Machine

open Sys2Proof

@[simp] theorem kept_rtdJudge (k : Fin 96) (r : Rec) (o : Word) (s : State) : kept (rtdJudge k r o s) = kept s := by
  unfold rtdJudge; dsimp only; (repeat' split) <;> simp

@[simp] theorem kept_leadJudge (k : Fin 96) (lead : Word) (s : State) : kept (leadJudge k lead s) = kept s := by
  unfold leadJudge; simp

@[simp] theorem kept_tcJudge (k : Fin 96) (ohms : Word) (s : State) : kept (tcJudge k ohms s) = kept s := by
  unfold tcJudge; simp

@[simp] theorem kept_noteJunction (k : Fin 96) (s : State) : kept (noteJunction k s) = kept s := by
  unfold noteJunction; simp

@[simp] theorem kept_convert (k : Fin 96) (n : Nat) (r : Rec) (x aux : Word) (s : State) : kept (convert k n r x aux s) = kept s := by
  unfold convert; simp

@[simp] theorem kept_storeTrim (t : Trim) (s : State) : kept (storeTrim t s) = kept s := by
  unfold storeTrim; simp

@[simp] theorem kept_trimFollow (k : Fin 96) (s : State) : kept (trimFollow k s) = kept s := by
  unfold trimFollow
  try dsimp only
  repeat' first | (simp; done) | (refine (kept_forEach _ _ _ ?_).trans ?_ <;> intros) | split | (simp; first | split | (refine (kept_forEach _ _ _ ?_).trans ?_ <;> intros))

@[simp] theorem kept_refusePress (k : Fin 96) (s : State) : kept (refusePress k s) = kept s := by
  unfold refusePress; simp

@[simp] theorem kept_ignorePress (span : Bool) (s : State) : kept (ignorePress span s) = kept s := by
  unfold ignorePress; simp

@[simp] theorem kept_showPoint (a : Armed) (s : State) : kept (showPoint a s) = kept s := by
  unfold showPoint; simp

@[simp] theorem kept_capture (a : Armed) (r : Rec) (span : Bool) (s : State) : kept (capture a r span s) = kept s := by
  unfold capture; simp

@[simp] theorem kept_stepPoint (a : Armed) (r : Rec) (span up : Bool) (s : State) : kept (stepPoint a r span up s) = kept s := by
  unfold stepPoint; simp

@[simp] theorem kept_press (span up : Bool) (s : State) : kept (press span up s) = kept s := by
  unfold press; dsimp only; (repeat' split) <;> simp

end Sys2Proof.Machine
end

