-- ==== Sys2Proof/Laws/KeptDigital.lean ====
section
/-! SUPPORT. The operations of Machine/Digital.lean leave the parts of Laws/Kept.lean alone. -/

namespace Sys2Proof.Machine

open Sys2Proof

@[simp] theorem kept_setLine (k : Fin 96) (line : Option Bool) (s : State) : kept (setLine k line s) = kept s := by
  unfold setLine; simp

end Sys2Proof.Machine
end

