-- ==== Sys2Proof/Laws/KeptSwitching.lean ====
section
/-! SUPPORT. The operations of Machine/Switching.lean leave the parts of Laws/Kept.lean alone. -/

namespace Sys2Proof.Machine

open Sys2Proof

@[simp] theorem kept_recordLatch (k : Fin 96) (ev mask result : Nat) (s : State) : kept (recordLatch k ev mask result s) = kept s := by
  unfold recordLatch; simp

@[simp] theorem kept_modPat (k : Fin 96) (f : Patina → Patina) (s : State) : kept (modPat k f s) = kept s := by
  unfold modPat; simp

@[simp] theorem kept_judgedSw (k : Fin 96) (f : Sw → Sw) (s : State) : kept (judgedSw k f s) = kept s := by
  unfold judgedSw; simp

@[simp] theorem kept_cutOff (k : Fin 96) (kind : CutKind) (s : State) : kept (cutOff k kind s) = kept s := by
  unfold cutOff; simp

@[simp] theorem kept_setLock (k : Fin 96) (s : State) : kept (setLock k s) = kept s := by
  unfold setLock; simp

@[simp] theorem kept_clampEnergy (k : Fin 96) (energy : Nat) (s : State) : kept (clampEnergy k energy s) = kept s := by
  unfold clampEnergy; simp

@[simp] theorem kept_releaseLatch (k : Fin 96) (mask : Nat) (s : State) : kept (releaseLatch k mask s).2 = kept s := by
  unfold releaseLatch; dsimp only; (repeat' split) <;> simp

end Sys2Proof.Machine
end

