-- ==== Sys2Proof/Laws/KeptDiagnostics.lean ====
section
/-! SUPPORT. The operations of Machine/Diagnostics.lean leave the parts of Laws/Kept.lean alone. -/

namespace Sys2Proof.Machine

open Sys2Proof

@[simp] theorem kept_modRun (slot : Nat) (f : DiagRun → DiagRun) (s : State) : kept (modRun slot f s) = kept s := by
  unfold modRun; simp

@[simp] theorem kept_endTests (r : Rec) (run : DiagRun) (s : State) : kept (endTests r run s) = kept s := by
  unfold endTests; simp

@[simp] theorem kept_closeRun (slot : Nat) (s : State) : kept (closeRun slot s) = kept s := by
  unfold closeRun; dsimp only; (repeat' split) <;> simp

@[simp] theorem kept_offJudge (k : Fin 96) (v1 v2 : Int) (s : State) : kept (offJudge k v1 v2 s) = kept s := by
  unfold offJudge; simp

@[simp] theorem kept_diagEvents (r : Rec) (s : State) : kept (diagEvents r s) = kept s := by
  unfold diagEvents; simp

@[simp] theorem kept_recordDiag (source ev other : Nat) (s : State) : kept (recordDiag source ev other s) = kept s := by
  unfold recordDiag; simp

@[simp] theorem kept_joinPar (k : Fin 96) (other : Nat) (s : State) : kept (joinPar k other s) = kept s := by
  unfold joinPar; simp

@[simp] theorem kept_judgedNow (k : Fin 96) (s : State) : kept (judgedNow k s) = kept s := by
  unfold judgedNow; simp

@[simp] theorem kept_partestOne (a b : Fin 96) (follows : Bool) (s : State) : kept (partestOne a b follows s) = kept s := by
  unfold partestOne; simp

@[simp] theorem kept_leakNote (k : Fin 96) (q : Rat) (s : State) : kept (leakNote k q s) = kept s := by
  unfold leakNote; simp

@[simp] theorem kept_leakJudge (k : Fin 96) (q : Rat) (bonded : Bool) (s : State) : kept (leakJudge k q bonded s) = kept s := by
  unfold leakJudge; simp

@[simp] theorem kept_modIso (t : Fin 12) (f : TIso → TIso) (s : State) : kept (modIso t f s) = kept s := by
  unfold modIso; simp

@[simp] theorem kept_isoResults (t : Fin 12) (m : IsoMeas) (s : State) : kept (isoResults t m s) = kept s := by
  unfold isoResults
  extract_lets du rt chans measured i nLow nHigh s1 s2 one s3 loMin shown
  have ho : ∀ x z, kept (one x z) = kept z := by
    intro x z
    simp only [one]
    (repeat' split) <;> simp
  have h3 : kept s3 = kept s := by
    simp only [s3, s2, s1]
    rw [kept_forEach _ _ _ ho, kept_forEach, kept_modIso]
    intro x z
    (repeat' split) <;> simp
  clear_value shown loMin s3
  (repeat' split) <;> simp [h3]

@[simp] theorem kept_driftJudge (k : Fin 96) (s : State) : kept (driftJudge k s) = kept s := by
  unfold driftJudge; simp

@[simp] theorem kept_putEdge (e : EdgeCal) (s : State) : kept (putEdge e s) = kept s := by
  unfold putEdge; simp

end Sys2Proof.Machine
end

