-- ==== Sys2Proof/Laws/KeptTags.lean ====
section
/-! SUPPORT. The operations of Machine/Tags.lean leave the parts of Laws/Kept.lean alone. -/

namespace Sys2Proof.Machine

open Sys2Proof

@[simp] theorem kept_latchTags (p : Rec → Bool) (te : Nat) (s : State) : kept (latchTags p te s) = kept s := by
  unfold latchTags; simp

end Sys2Proof.Machine
end

