-- ==== Sys2Proof/Laws/KeptAxes.lean ====
section
/-! SUPPORT. The operations of Machine/Axes.lean leave the parts of Laws/Kept.lean alone. -/

namespace Sys2Proof.Machine

open Sys2Proof

@[simp] theorem kept_setOffset (x : Fin 8) (v : Word) (committed : Bool) (tick : Nat) (s : State) : kept (setOffset x v committed tick s) = kept s := by
  unfold setOffset
  try dsimp only
  repeat' first | (simp; done) | (refine (kept_forEach _ _ _ ?_).trans ?_ <;> intros) | split | (simp; first | split | (refine (kept_forEach _ _ _ ?_).trans ?_ <;> intros))

@[simp] theorem kept_offsetOf (v : Word) (s : State) : kept (offsetOf v s).2 = kept s := by
  unfold offsetOf; dsimp only; (repeat' split) <;> simp

@[simp] theorem kept_settleOne (b : Fin 48) (s : State) : kept (settleOne b s) = kept s := by
  unfold settleOne; dsimp only; (repeat' split) <;> simp

@[simp] theorem kept_settle (s : State) : kept (settle s) = kept s := by
  unfold settle; simp

@[simp] theorem kept_quadError (x : Fin 8) (r : Rec) (s : State) : kept (quadError x r s) = kept s := by
  unfold quadError; simp

@[simp] theorem kept_lateEdge (x : Fin 8) (stamp : Nat) (d : Int) (s : State) : kept (lateEdge x stamp d s) = kept s := by
  unfold lateEdge; simp

@[simp] theorem kept_lateZ (x : Fin 8) (stamp : Nat) (p : BitVec 48) (s : State) : kept (lateZ x stamp p s) = kept s := by
  unfold lateZ; simp

@[simp] theorem kept_encoderEdge (x : Fin 4) (la lb : EncLine) (s : State) : kept (encoderEdge x la lb s) = kept s := by
  unfold encoderEdge
  split
  · rfl
  · refine (kept_withHref _ _ fun z => ?_).trans (by simp)
    dsimp only
    repeat' first | (simp; done) | split | (simp; split)

@[simp] theorem kept_zEdge (x : Fin 4) (s : State) : kept (zEdge x s) = kept s := by
  unfold zEdge; (repeat' split) <;> simp_all

@[simp] theorem kept_encoderFault (x : Fin 4) (line : Fin 3) (s : State) : kept (encoderFault x line s) = kept s := by
  unfold encoderFault; simp

@[simp] theorem kept_lostClear (x : Fin 4) (a b : Bool) (s : State) : kept (lostClear x a b s) = kept s := by
  unfold lostClear; simp

@[simp] theorem kept_axisCompute (x : Fin 8) (r : Rec) (s : State) : kept (axisCompute x r s) = kept s := by
  unfold axisCompute; dsimp only; (repeat' split) <;> simp

@[simp] theorem kept_axsSend (x : Fin 8) (c : Axis) (s : State) : kept (axsSend x c s) = kept s := by
  unfold axsSend; simp

@[simp] theorem kept_axisPublish (x : Fin 8) (r : Rec) (s : State) : kept (axisPublish x r s) = kept s := by
  unfold axisPublish; simp

@[simp] theorem kept_axisRundown (x : Fin 8) (r : Rec) (s : State) : kept (axisRundown x r s) = kept s := by
  unfold axisRundown; simp

@[simp] theorem kept_leaveUnsent (n : Fin 96) (c : LaneCmd) (s : State) : kept (leaveUnsent n c s) = kept s := by
  unfold leaveUnsent; simp

@[simp] theorem kept_tickCancel (i : Nat) (n : Fin 96) (c : LaneCmd) (s : State) : kept (tickCancel i n c s) = kept s := by
  unfold tickCancel; (repeat' split) <;> simp_all

@[simp] theorem kept_sendReplace (n : Fin 96) (c : LaneCmd) (st : Nat) (clip : Bool) (cross : Int) (s : State) : kept (sendReplace n c st clip cross s) = kept s := by
  unfold sendReplace; dsimp only; (repeat' split) <;> simp

@[simp] theorem kept_endUnsent (n : Fin 96) (c : LaneCmd) (counted : Bool) (s : State) : kept (endUnsent n c counted s) = kept s := by
  unfold endUnsent; simp

@[simp] theorem kept_doAct (a : CamAct) (s : State) : kept (doAct a s) = kept s := by
  unfold doAct; (repeat' split) <;> simp_all

@[simp] theorem kept_doCancels (sent l : List CamAct) (s : State) : kept (doCancels sent l s) = kept s := by
  induction l generalizing sent s with
  | nil => rfl
  | cons a rest ih => unfold doCancels; rw [ih]; split <;> simp

@[simp] theorem kept_doActs (l : List CamAct) (s : State) : kept (doActs l s) = kept s := by
  unfold doActs; (repeat' split) <;> simp_all

@[simp] theorem kept_laneTick (n : Fin 96) (s : State) : kept (laneTick n s) = kept s := by
  unfold laneTick; dsimp only; (repeat' split) <;> simp

@[simp] theorem kept_axisTick (s : State) : kept (axisTick s) = kept s := by
  unfold axisTick; simp

@[simp] theorem kept_axsTake (src : Nat) (bytes : List Byte) (s : State) : kept (axsTake src bytes s) = kept s := by
  unfold axsTake; simp

@[simp] theorem kept_axsSilence (x : Fin 8) (s : State) : kept (axsSilence x s) = kept s := by
  unfold axsSilence; simp

@[simp] theorem kept_timeIssue (lane : Fin 96) (s : State) : kept (timeIssue lane s) = kept s := by
  unfold timeIssue; dsimp only; (repeat' split) <;> simp

@[simp] theorem kept_laneRun (n : Fin 96) (r : Rec) (tick : Nat) (s : State) : kept (laneRun n r tick s) = kept s := by
  unfold laneRun; dsimp only; (repeat' split) <;> simp

@[simp] theorem kept_laneCtl (n : Fin 96) (v : Word) (tick : Nat) (s : State) : kept (laneCtl n v tick s) = kept s := by
  unfold laneCtl; (repeat' split) <;> simp_all

@[simp] theorem kept_stopCtl (x : Fin 8) (v : Word) (s : State) : kept (stopCtl x v s) = kept s := by
  unfold stopCtl; simp

@[simp] theorem kept_trdmaxEnd (x : Fin 8) (s : State) : kept (trdmaxEnd x s) = kept s := by
  unfold trdmaxEnd; dsimp only; (repeat' split) <;> simp

@[simp] theorem kept_qualFire (entry : Nat) (s : State) : kept (qualFire entry s) = kept s := by
  unfold qualFire; dsimp only; (repeat' split) <;> simp

end Sys2Proof.Machine
end

