-- ==== Sys2Proof/Laws/KeptLoops.lean ====
section
/-! SUPPORT. The operations of Machine/Loops.lean leave the parts of Laws/Kept.lean alone. -/

namespace Sys2Proof.Machine

open Sys2Proof

@[simp] theorem kept_free29 (s : State) : kept (free29 s).2 = kept s := by
  unfold free29; simp

@[simp] theorem kept_normQ (x lo hi : Word) (s : State) : kept (normQ x lo hi s).2 = kept s := by
  unfold normQ; (repeat' split) <;> simp_all

@[simp] theorem kept_modLoop (b : Fin 48) (f : Loop → Loop) (s : State) : kept (modLoop b f s) = kept s := by
  unfold modLoop; simp

@[simp] theorem kept_modTot (n : Fin 96) (f : Tot → Tot) (s : State) : kept (modTot n f s) = kept s := by
  unfold modTot; simp

@[simp] theorem kept_loopOut (b : Fin 48) (r : Rec) (s : State) : kept (loopOut b r s) = kept s := by
  unfold loopOut; dsimp only; (repeat' split) <;> simp

@[simp] theorem kept_loopItem (b : Fin 48) (s : State) : kept (loopItem b s) = kept s := by
  unfold loopItem; simp

theorem kept_appliedU (s : State) (k : Fin 96) (r : Rec) (g : State → Int × State) (h : appliedU s k r = some g) (z : State) :
    kept (g z).2 = kept z := by
  unfold appliedU at h
  dsimp only at h
  split at h
  · cases h; rfl
  · cases h; simp
  · cases h

@[simp] theorem kept_loopInputs (r : Rec) (l : Loop) (pvF : Word) (pvOk : Bool) (lim : Nat) (s : State) :
    kept (loopInputs r l pvF pvOk lim s).2 = kept s := by
  unfold loopInputs
  dsimp only
  repeat' first | (simp; done) | split | (simp; split)

@[simp] theorem kept_loopStep (r : Rec) (l : Loop) (x : LoopIn) (p d f : Int) (mirrored : Bool) (track : Option Track) (s : State) :
    kept (loopStep r l x p d f mirrored track s).2 = kept s := by
  unfold loopStep
  dsimp only
  split
  · rfl
  · split
    · rfl
    · rfl
    · split
      · exact kept_appliedU _ _ _ _ (by assumption) _
      · rfl
    · simp
    · split <;> simp

@[simp] theorem kept_loopSample (b : Fin 48) (r : Rec) (s : State) : kept (loopSample b r s) = kept s := by
  unfold loopSample; simp

@[simp] theorem kept_sampleDue (block : Fin 48) (s : State) : kept (sampleDue block s) = kept s := by
  unfold sampleDue; dsimp only; (repeat' split) <;> simp

@[simp] theorem kept_totIncrement (n : Fin 96) (s : State) : kept (totIncrement n s) = kept s := by
  unfold totIncrement; dsimp only; (repeat' split) <;> simp

@[simp] theorem kept_presetTot (n : Fin 96) (r : Rec) (v : Word) (s : State) : kept (presetTot n r v s) = kept s := by
  unfold presetTot; dsimp only; (repeat' split) <;> simp

end Sys2Proof.Machine
end

