-- ==== Sys2Proof/Laws/KeptGroups.lean ====
section
/-! SUPPORT. The operations of Machine/Groups.lean leave the parts of Laws/Kept.lean alone. -/

namespace Sys2Proof.Machine

open Sys2Proof

@[simp] theorem kept_recordGroup (g ev e : Nat) (devs : List Nat) (s : State) : kept (recordGroup g ev e devs s) = kept s := by
  unfold recordGroup; simp

@[simp] theorem kept_sendMaquette (b : List Byte) (s : State) : kept (sendMaquette b s) = kept s := by
  unfold sendMaquette; simp

@[simp] theorem kept_deferWork (e : Nat) (r : WorkRef) (s : State) : kept (deferWork e r s) = kept s := by
  unfold deferWork; simp

@[simp] theorem kept_holdSets (g e : Nat) (s : State) : kept (holdSets g e s) = kept s := by
  unfold holdSets; simp

@[simp] theorem kept_deferEpoch (g e : Nat) (nr : List Nat) (s : State) : kept (deferEpoch g e nr s) = kept s := by
  unfold deferEpoch; dsimp only; (repeat' split) <;> simp

@[simp] theorem kept_beginSilence (d : Nat) (s : State) : kept (beginSilence d s) = kept s := by
  unfold beginSilence; simp

@[simp] theorem kept_visit (g : Nat) (b : List Byte) (s : State) : kept (visit g b s).2 = kept s := by
  unfold visit; dsimp only; (repeat' split) <;> simp

@[simp] theorem kept_takeVerdict (g : Nat) (v : Verdict) (nr : List Nat) (s : State) : kept (takeVerdict g v nr s) = kept s := by
  unfold takeVerdict; dsimp only; (repeat' split) <;> simp

@[simp] theorem kept_restReady (x : Group) (self others : Nat) (b : List Byte) (s : State) : kept (restReady x self others b s).2 = kept s := by
  unfold restReady; (repeat' split) <;> simp_all

@[simp] theorem kept_leaderSilence (g : Nat) (x : Group) (s : State) : kept (leaderSilence g x s).2 = kept s := by
  unfold leaderSilence; (repeat' split) <;> simp_all

@[simp] theorem kept_decideToken (g : Nat) (b : List Byte) (s : State) : kept (decideToken g b s) = kept s := by
  unfold decideToken; dsimp only; (repeat' split) <;> simp

@[simp] theorem kept_passToken (g : Nat) (b : List Byte) (s : State) : kept (passToken g b s) = kept s := by
  unfold passToken; simp

@[simp] theorem kept_launch (g e : Nat) (s : State) : kept (launch g e s) = kept s := by
  unfold launch; simp

@[simp] theorem kept_noVerdict (g e : Nat) (s : State) : kept (noVerdict g e s) = kept s := by
  unfold noVerdict; simp

@[simp] theorem kept_setBase (k : Fin 96) (d : Drive) (s : State) : kept (setBase k d s) = kept s := by
  unfold setBase; simp

@[simp] theorem kept_groupFall (safe : Bool) (k : Fin 96) (s : State) : kept (groupFall safe k s) = kept s := by
  unfold groupFall; simp

@[simp] theorem kept_groupRestore (k : Fin 96) (s : State) : kept (groupRestore k s) = kept s := by
  unfold groupRestore; simp

@[simp] theorem kept_groupUnfall (k : Fin 96) (s : State) : kept (groupUnfall k s) = kept s := by
  unfold groupUnfall; simp

@[simp] theorem kept_departs (e g member : Nat) (s : State) : kept (departs e g member s) = kept s := by
  unfold departs; dsimp only; (repeat' split) <;> simp

@[simp] theorem kept_departGroup (e g : Nat) (s : State) : kept (departGroup e g s) = kept s := by
  unfold departGroup; (repeat' split) <;> simp_all

@[simp] theorem kept_departAll (e : Nat) (s : State) : kept (departAll e s) = kept s := by
  unfold departAll; simp

@[simp] theorem kept_loopRelease (r : Rec) (s : State) : kept (loopRelease r s) = kept s := by
  unfold loopRelease; (repeat' split) <;> simp_all

@[simp] theorem kept_groupSafeOn (ks : List (Fin 96)) (s : State) : kept (groupSafeOn ks s) = kept s := by
  unfold groupSafeOn; simp

@[simp] theorem kept_applyHspol (g : Nat) (s : State) : kept (applyHspol g s) = kept s := by
  unfold applyHspol; dsimp only; (repeat' split) <;> simp

@[simp] theorem kept_applyRdDone (g : Nat) (s : State) : kept (applyRdDone g s) = kept s := by
  unfold applyRdDone; simp

@[simp] theorem kept_resume (g : Nat) (s : State) : kept (resume g s) = kept s := by
  unfold resume; dsimp only; (repeat' split) <;> simp

end Sys2Proof.Machine
end

