-- ==== Sys2Proof/Laws/KeptActivate.lean ====
section
/-! SUPPORT. The operations of Machine/Activate.lean leave the parts of Laws/Kept.lean alone. -/

namespace Sys2Proof.Machine

open Sys2Proof

@[simp] theorem kept_laneAfresh (n : Fin 96) (s : State) : kept (laneAfresh n s) = kept s := by
  unfold laneAfresh; simp

@[simp] theorem kept_hrefAfresh (r : Rec) (s : State) : kept (hrefAfresh r s) = kept s := by
  unfold hrefAfresh; simp

@[simp] theorem kept_totAfresh (old : Option Rec) (n : Fin 96) (s : State) : kept (totAfresh old n s) = kept s := by
  unfold totAfresh; simp

@[simp] theorem kept_enginesAfresh (old : Option Image) (new : Image) (s : State) : kept (enginesAfresh old new s) = kept s := by
  unfold enginesAfresh
  try dsimp only
  repeat' first | (simp; done) | (refine (kept_forEach _ _ _ ?_).trans ?_ <;> intros) | split | (simp; first | split | (refine (kept_forEach _ _ _ ?_).trans ?_ <;> intros))

@[simp] theorem kept_chanSwitch (old : Option Image) (new : Image) (k : Fin 96) (s : State) : kept (chanSwitch old new k s) = kept s := by
  unfold chanSwitch; dsimp only; (repeat' split) <;> simp

@[simp] theorem kept_testsAgain (s : State) : kept (testsAgain s) = kept s := by
  unfold testsAgain
  try dsimp only
  repeat' first | (simp; done) | (refine (kept_forEach _ _ _ ?_).trans ?_ <;> intros) | split | (simp; first | split | (refine (kept_forEach _ _ _ ?_).trans ?_ <;> intros))

@[simp] theorem kept_diagSwitch (old : Option Image) (new : Image) (s : State) : kept (diagSwitch old new s) = kept s := by
  unfold diagSwitch
  try dsimp only
  repeat' first | (simp; done) | (refine (kept_forEach _ _ _ ?_).trans ?_ <;> intros) | split | (simp; first | split | (refine (kept_forEach _ _ _ ?_).trans ?_ <;> intros))

@[simp] theorem kept_epochSwitch (old : Option Image) (new : Image) (s : State) : kept (epochSwitch old new s) = kept s := by
  unfold epochSwitch; simp

@[simp] theorem kept_recordImage (ev : Nat) (i : Image) (s : State) : kept (recordImage ev i s) = kept s := by
  unfold recordImage; simp

theorem grows_swapRoles (new : Image) (revert : Bool) (s : State) : Grows (kept s) (kept (swapRoles new revert s)) := by
  unfold swapRoles
  dsimp only
  split
  · exact Grows.of_eq rfl
  · exact ⟨rfl, rfl, KeysHeld.refl _, rfl, rfl, rfl, rfl, fun h => ⟨part_set_wf _ _ _ h.1 rfl, h.2⟩⟩

@[simp] theorem kept_journalRole (e : Nat) (s : State) : kept (journalRole e s) = kept s := by
  unfold journalRole; simp

@[simp] theorem kept_trefMoved (old : Option Image) (new : Image) (t : Fin 12) (s : State) : kept (trefMoved old new t s) = kept s := by
  unfold trefMoved
  try dsimp only
  repeat' first | (simp; done) | (refine (kept_forEach _ _ _ ?_).trans ?_ <;> intros) | split | (simp; first | split | (refine (kept_forEach _ _ _ ?_).trans ?_ <;> intros))

@[simp] theorem kept_banksSwitch (old : Option Image) (new : Image) (s : State) : kept (banksSwitch old new s) = kept s := by
  unfold banksSwitch; simp

@[simp] theorem kept_fallAgain (s : State) : kept (fallAgain s) = kept s := by
  unfold fallAgain
  try dsimp only
  repeat' first | (simp; done) | (refine (kept_forEach _ _ _ ?_).trans ?_ <;> intros) | split | (simp; first | split | (refine (kept_forEach _ _ _ ?_).trans ?_ <;> intros))

theorem grows_activate (new : Image) (revert : Bool) (e : Nat) (w : WorkRef) (s : State) : Grows (kept s) (kept (activate new revert e w s)) := by
  have h : kept (activate new revert e w s) = kept (swapRoles new revert (diagSwitch s.img.cast new (enginesAfresh s.img.cast new s))) := by
    unfold activate; simp
  rw [h]
  exact (Grows.of_eq (by simp)).trans (grows_swapRoles new revert _)

end Sys2Proof.Machine
end

