-- ==== Sys2Proof/Laws/KeptBoundary.lean ====
section
/-! SUPPORT. The operations of Machine/Boundary.lean leave the parts of Laws/Kept.lean alone. -/

namespace Sys2Proof.Machine

open Sys2Proof

@[simp] theorem kept_freqLatch (te : Nat) (k : Fin 96) (s : State) : kept (freqLatch te k s) = kept s := by
  unfold freqLatch; simp

@[simp] theorem kept_countItem (e : Nat) (k : Fin 96) (s : State) : kept (countItem e k s) = kept s := by
  unfold countItem; simp

@[simp] theorem kept_latchChan (up : Bool) (k : Fin 96) (s : State) : kept (latchChan up k s) = kept s := by
  unfold latchChan; simp

@[simp] theorem kept_latch (e : Nat) (s : State) : kept (latch e s) = kept s := by
  have h (z : State) (f : Nat) (c : Bank Chan 96) (g : Engines) (p : Epochs) : kept { z with free := f, chan := c, eng := g, ep := p } = kept z := rfl
  unfold latch
  dsimp only
  rw [kept_ite, kept_forEach _ _ _ (fun k z => kept_countItem e k z), ite_self, h]
  simp

@[simp] theorem kept_edgeAtGrid (acc : Nat) (k : Fin 96) (rising : Bool) (s : State) : kept (edgeAtGrid acc k rising s) = kept s := by
  unfold edgeAtGrid; simp

@[simp] theorem kept_writeChan (k : Fin 96) (v : Word) (s : State) : kept (writeChan k v s) = kept s := by
  unfold writeChan; simp

@[simp] theorem kept_writeMode (b : Fin 48) (v : Word) (s : State) : kept (writeMode b v s) = kept s := by
  unfold writeMode; simp

@[simp] theorem kept_writeTag (r : Rec) (v : Word) (tick : Nat) (s : State) : kept (writeTag r v tick s) = kept s := by
  unfold writeTag; dsimp only; (repeat' split) <;> simp

@[simp] theorem kept_ackChan (k : Fin 96) (s : State) : kept (ackChan k s) = kept s := by
  unfold ackChan; simp

@[simp] theorem kept_setOvr (k : Fin 96) (v : Option Word) (s : State) : kept (setOvr k v s) = kept s := by
  unfold setOvr; simp

@[simp] theorem kept_enterCouch (incoming : Bool) (e : Nat) (w : Option WorkRef) (s : State) : kept (enterCouch incoming e w s) = kept s := by
  unfold enterCouch; simp

@[simp] theorem kept_startCouch (seat e : Nat) (w : WorkRef) (s : State) : kept (startCouch seat e w s) = kept s := by
  unfold startCouch; (repeat' split) <;> simp_all

@[simp] theorem kept_chooseEc (e : Nat) (s : State) : kept (chooseEc e s) = kept s := by
  unfold chooseEc; dsimp only; (repeat' split) <;> simp

@[simp] theorem kept_exchange (e : Nat) (s : State) : kept (exchange e s) = kept s := by
  unfold exchange; dsimp only; (repeat' split) <;> simp

@[simp] theorem kept_applyItem (e tick : Nat) (i : SetItem) (s : State) : kept (applyItem e tick i s) = kept s := by
  unfold applyItem; (repeat' split) <;> simp_all

@[simp] theorem kept_applySets (e : Nat) (l : List CSet) (s : State) : kept (applySets e l s) = kept s := by
  unfold applySets; simp

@[simp] theorem kept_takeSets (g e : Nat) (s : State) : kept (takeSets g e s).2 = kept s := by
  unfold takeSets; dsimp only; (repeat' split) <;> simp

@[simp] theorem kept_takeAll (e : Nat) (l : List Nat) (s : State) : kept (takeAll e l s).2 = kept s := by
  induction l generalizing s with
  | nil => rfl
  | cons g gs ih => unfold takeAll; simp [ih]

@[simp] theorem kept_doneWork (e : Nat) (before : State) (l : List SetItem) (r : WorkRef) (s : State) : kept (doneWork e before l r s) = kept s := by
  unfold doneWork; simp

/-- The switch of image within a boundary. -/
theorem grows_switch (e : Nat) (o : Option SetItem) (s : State) :
    Grows (kept s) (kept (match o with
      | some i => (match (if i.act = .revert then s.img.lastGood else s.img.maq) with
        | some new => activate new (i.act == .revert) e i.w s
        | none => s)
      | none => s)) := by
  split
  · split
    · exact grows_activate _ _ _ _ _
    · exact Grows.refl _
  · exact Grows.refl _

theorem grows_applyAll (e : Nat) (s : State) : Grows (kept s) (kept (applyAll e s)) := by
  have h (z : State) (p : Plinth) (f : Flt) (g : Grows (kept s) (kept z)) : Grows (kept s) (kept { z with plinth := p, flt := f }) := g
  unfold applyAll
  dsimp only
  refine h _ _ _ ?_
  rw [kept_forEach _ _ _ (fun g z => kept_journal _ _ z), kept_forEach _ _ _ (fun r z => kept_doneWork _ _ _ r z), kept_applySets]
  exact (Grows.of_eq (by simp)).trans (grows_switch e _ _)

@[simp] theorem kept_enterIn (e : Nat) (x : Group) (s : State) : kept (enterIn e x s) = kept s := by
  unfold enterIn; dsimp only; (repeat' split) <;> simp

@[simp] theorem kept_passOver (e : Nat) (x : Group) (s : State) : kept (passOver e x s) = kept s := by
  unfold passOver; simp

@[simp] theorem kept_afterSets (e : Nat) (before : State) (g : Nat) (s : State) : kept (afterSets e before g s) = kept s := by
  unfold afterSets; (repeat' split) <;> simp_all

@[simp] theorem kept_fixReady (e : Nat) (g : Nat) (s : State) : kept (fixReady e g s) = kept s := by
  unfold fixReady; dsimp only; (repeat' split) <;> simp

@[simp] theorem kept_launchAll (e : Nat) (s : State) : kept (launchAll e s) = kept s := by
  unfold launchAll; simp

@[simp] theorem kept_judgeBounds (s : State) : kept (judgeBounds s) = kept s := by
  unfold judgeBounds; simp

@[simp] theorem kept_changePeriod (s : State) : kept (changePeriod s) = kept s := by
  unfold changePeriod; simp

@[simp] theorem kept_rehBoundary (e : Nat) (s : State) : kept (rehBoundary e s) = kept s := by
  unfold rehBoundary
  dsimp only
  split <;> rfl

@[simp] theorem kept_rehearseTick (e : Nat) (s : State) : kept (rehearseTick e s) = kept s := by
  have h (z : State) (m : Images) (g : kept z = kept s) (p : m.part = s.img.part) : kept { z with img := m } = kept s := by
    simp only [kept, Kept.mk.injEq] at g ⊢
    exact ⟨g.1, g.2.1, g.2.2.1, g.2.2.2.1, g.2.2.2.2.1, g.2.2.2.2.2.1, g.2.2.2.2.2.2.1, p, g.2.2.2.2.2.2.2.2⟩
  unfold rehearseTick
  dsimp only
  split
  · rfl
  · split
    · rfl
    · exact h _ _ (kept_rehBoundary e s) rfl

@[simp] theorem kept_portLoads (s : State) : kept (portLoads s) = kept s := by
  unfold portLoads; simp

@[simp] theorem kept_exports (s : State) : kept (exports s) = kept s := by
  unfold exports; simp

@[simp] theorem kept_quietLive (e : Nat) (s : State) : kept (quietLive e s) = kept s := by
  unfold quietLive; simp

@[simp] theorem kept_lateImages (s : State) : kept (lateImages s) = kept s := by
  unfold lateImages; simp

@[simp] theorem kept_wdhTick (s : State) : kept (wdhTick s) = kept s := by
  unfold wdhTick; simp

theorem grows_boundary (e : Nat) (s : State) : Grows (kept s) (kept (boundary e s)) := by
  unfold boundary
  dsimp only
  rw [kept_launchAll, kept_departAll, kept_judgeBounds, kept_forEach _ _ _ (fun g z => kept_fixReady _ g z), kept_wdhTick,
    kept_chooseEc, kept_exports, kept_portLoads, kept_rehearseTick,
    kept_quietLive, kept_forEach _ _ _ (fun g z => kept_afterSets _ _ g z), kept_forEach _ _ _ (fun x z => kept_passOver _ x z)]
  exact (Grows.of_eq (by simp)).trans (grows_applyAll e _)

@[simp] theorem kept_ownGrid (s : State) : kept (ownGrid s) = kept s := by
  unfold ownGrid; simp

@[simp] theorem kept_loadValue (tick : Nat) (x : Nat × Word) (s : State) : kept (loadValue tick x s) = kept s := by
  unfold loadValue; (repeat' split) <;> simp_all

@[simp] theorem kept_loadOvr (tick : Nat) (x : Nat × Option Word) (s : State) : kept (loadOvr tick x s) = kept s := by
  unfold loadOvr; (repeat' split) <;> simp_all

end Sys2Proof.Machine
end

