-- ==== Sys2Proof/Laws/KeptCuts.lean ====
section
/-! SUPPORT. The operations of Machine/Cuts.lean leave the parts of Laws/Kept.lean alone. -/

namespace Sys2Proof.Machine

open Sys2Proof

@[simp] theorem kept_modIq (n : Fin 16) (f : IQ → IQ) (s : State) : kept (modIq n f s) = kept s := by
  unfold modIq; simp

@[simp] theorem kept_dropImages (s : State) : kept (dropImages s) = kept s := by
  unfold dropImages; simp

@[simp] theorem kept_skipCut (n : Fin 16) (e : Nat) (s : State) : kept (skipCut n e s) = kept s := by
  unfold skipCut; simp

@[simp] theorem kept_writeCut (n : Fin 16) (e : Nat) (s : State) : kept (writeCut n e s) = kept s := by
  unfold writeCut; simp

@[simp] theorem kept_deliverCut (n : Fin 16) (e : Nat) (s : State) : kept (deliverCut n e s) = kept s := by
  unfold deliverCut; simp

@[simp] theorem kept_cutsDue (n : Nat) (q : Fin 16) (s : State) : kept (cutsDue n q s) = kept s := by
  induction n generalizing q s with
  | zero => rfl
  | succ n ih => unfold cutsDue; (repeat' split) <;> simp [ih]

@[simp] theorem kept_cutsOf (n : Fin 16) (s : State) : kept (cutsOf n s) = kept s := by
  unfold cutsOf; simp

@[simp] theorem kept_cutsAll (s : State) : kept (cutsAll s) = kept s := by
  unfold cutsAll; simp

end Sys2Proof.Machine
end

