-- ==== Sys2Proof/Laws/KeptPelrun.lean ====
section
/-! SUPPORT. The operations of Machine/Pelrun.lean leave the parts of Laws/Kept.lean alone. -/

namespace Sys2Proof.Machine

open Sys2Proof

@[simp] theorem kept_netRise (s : State) : kept (netRise s) = kept s := by
  unfold netRise; simp

@[simp] theorem kept_netLeave (state : Nat) (s : State) : kept (netLeave state s) = kept s := by
  unfold netLeave; simp

@[simp] theorem kept_portErrors (p : Fin 5) (n : Nat) (s : State) : kept (portErrors p n s) = kept s := by
  unfold portErrors; simp

@[simp] theorem kept_portError (p : Fin 5) (s : State) : kept (portError p s) = kept s := by
  unfold portError; simp

@[simp] theorem kept_putSrc (w : Src) (l : List Src) (s : State) : kept (putSrc w l s) = kept s := rfl

@[simp] theorem kept_judged (now : Time) (f : Nat) (w : Src) (s : State) : kept (judged now f w s).2 = kept s := by
  unfold judged
  generalize judgeFseq now w f = o
  cases o <;> rfl

@[simp] theorem kept_acceptFrame (b : List Byte) (s : State) : kept (acceptFrame b s).2 = kept s := by
  unfold acceptFrame
  split
  · rfl
  · split
    · exact kept_putSrc _ _ _
    · exact kept_judged _ _ _ _

@[simp] theorem kept_passOn (p : Nat) (b : List Byte) (v : Bool) (s : State) : kept (passOn p b v s) = kept s := by
  unfold passOn; dsimp only; (repeat' split) <;> simp

@[simp] theorem kept_ringFrame (p : Fin 4) (b : List Byte) (bad : Bool) (s : State) : kept (ringFrame p b bad s) = kept s := by
  unfold ringFrame
  dsimp only
  have h : ∀ (c : Bool) (z : State), kept (if c = true then (false, { z with net := { z.net with ownBack := some z.now } }) else acceptFrame b z).2 = kept z := by
    intro c z; split
    · rfl
    · simp
  split
  · split <;> simp
  · have g : ∀ (c : Prop) [Decidable c] (x z : State), kept x = kept s → kept z = kept s → kept (if c then x else z) = kept s := by
      intro c _ x z h h'; split <;> assumption
    refine g _ _ _ ?_ ?_
    · rw [kept_foldl _ _ _ (fun x z => by simp)]
      refine g _ _ _ ?_ (h _ s)
      rw [kept_passOn]; exact h _ s
    · refine g _ _ _ ?_ (h _ s)
      rw [kept_passOn]; exact h _ s

@[simp] theorem kept_takeFrame (p : Fin 5) (b : List Byte) (bad : Bool) (s : State) : kept (takeFrame p b bad s) = kept s := by
  unfold takeFrame; (repeat' split) <;> simp_all

@[simp] theorem kept_timeLock (s : State) : kept (timeLock s) = kept s := by
  unfold timeLock; simp

@[simp] theorem kept_timeUnlock (s : State) : kept (timeUnlock s) = kept s := by
  unfold timeUnlock; simp

@[simp] theorem kept_chooseUpstream (s : State) : kept (chooseUpstream s) = kept s := by
  unfold chooseUpstream; simp

@[simp] theorem kept_timOut (p : Fin 5) (s : State) : kept (timOut p s) = kept s := by
  unfold timOut; simp

@[simp] theorem kept_takeGrid (b : List Byte) (s : State) : kept (takeGrid b s) = kept s := by
  unfold takeGrid; simp

@[simp] theorem kept_steer (off : Int) (upLocked : Bool) (s : State) : kept (steer off upLocked s) = kept s := by
  unfold steer; simp

end Sys2Proof.Machine
end

