-- ==== Sys2Proof/Laws/KeptPairs.lean ====
section
/-! SUPPORT. The operations of Machine/Pairs.lean leave the parts of Laws/Kept.lean alone. -/

namespace Sys2Proof.Machine

open Sys2Proof

@[simp] theorem kept_shadowAll (s : State) : kept (shadowAll s) = kept s := by
  unfold shadowAll; simp

@[simp] theorem kept_resendJournal (p : Shd) (s : State) : kept (resendJournal p s) = kept s := by
  unfold resendJournal; simp

@[simp] theorem kept_sendCast (p : Shd) (s : State) : kept (sendCast p s) = kept s := by
  unfold sendCast; (repeat' split) <;> simp_all

@[simp] theorem kept_sendStaged (s : State) : kept (sendStaged s) = kept s := by
  unfold sendStaged; (repeat' split) <;> simp_all

@[simp] theorem kept_negotiate (p : Shd) (s : State) : kept (negotiate p s) = kept s := by
  unfold negotiate; simp

@[simp] theorem kept_dualActive (before : Option Shd) (p : Shd) (s : State) : kept (dualActive before p s) = kept s := by
  unfold dualActive; dsimp only; (repeat' split) <;> simp

@[simp] theorem kept_arming (before : Option Shd) (p : Shd) (s : State) : kept (arming before p s) = kept s := by
  unfold arming; dsimp only; (repeat' split) <;> simp

@[simp] theorem kept_takeLoop (b : List Byte) (s : State) : kept (takeLoop b s) = kept s := by
  unfold takeLoop; (repeat' split) <;> simp_all

@[simp] theorem kept_takeAxis (b : List Byte) (s : State) : kept (takeAxis b s) = kept s := by
  unfold takeAxis
  generalize asFin 8 (u16 b 2) = o
  cases o with
  | none => rfl
  | some x =>
    dsimp only
    simp only [kept_ite, kept_modAxis, kept_recordAxis, ite_self]

@[simp] theorem kept_takeCount (b : List Byte) (s : State) : kept (takeCount b s) = kept s := by
  unfold takeCount; (repeat' split) <;> simp_all

@[simp] theorem kept_takeLane (b : List Byte) (s : State) : kept (takeLane b s) = kept s := by
  unfold takeLane; dsimp only; (repeat' split) <;> simp

@[simp] theorem kept_takeHart (b : List Byte) (s : State) : kept (takeHart b s) = kept s := by
  unfold takeHart; dsimp only; (repeat' split) <;> simp

@[simp] theorem kept_takeProt (b : List Byte) (s : State) : kept (takeProt b s) = kept s := by
  unfold takeProt; simp

@[simp] theorem kept_takeItem (b : List Byte) (s : State) : kept (takeItem b s) = kept s := by
  unfold takeItem
  dsimp only
  split <;> simp

end Sys2Proof.Machine
end

