-- ==== Sys2Proof/Laws/KeptRingCtl.lean ====
section
/-! SUPPORT. The operations of Machine/RingCtl.lean leave the parts of Laws/Kept.lean alone. -/

namespace Sys2Proof.Machine

open Sys2Proof

@[simp] theorem kept_recordRing (inst ev : Nat) (s : State) : kept (recordRing inst ev s) = kept s := by
  unfold recordRing; simp

@[simp] theorem kept_dbIgnore (inst : Nat) (s : State) : kept (dbIgnore inst s) = kept s := by
  unfold dbIgnore; simp

@[simp] theorem kept_genIgnore (s : State) : kept (genIgnore s) = kept s := by
  unfold genIgnore; simp

@[simp] theorem kept_doorbell (n off size at_ inst : Nat) (legal : Bool) (f : State → State) (s : State) (hf : ∀ z, kept (f z) = kept z) : kept (doorbell n off size at_ inst legal f s) = kept s := by
  unfold doorbell; (repeat' split) <;> simp_all

@[simp] theorem kept_wdhFault (code : Nat) (s : State) : kept (wdhFault code s) = kept s := by
  unfold wdhFault; simp

@[simp] theorem kept_wdhGood (s : State) : kept (wdhGood s) = kept s := by
  unfold wdhGood; simp

@[simp] theorem kept_wdhService (value : Word) (s : State) : kept (wdhService value s) = kept s := by
  unfold wdhService; simp

@[simp] theorem kept_journalGen (n : Nat) (s : State) : kept (journalGen n s) = kept s := by
  unfold journalGen; simp

@[simp] theorem kept_cqOn (q : Fin 64) (s : State) : kept (cqOn q s) = kept s := by
  unfold cqOn; simp

@[simp] theorem kept_cqOff (q : Fin 64) (s : State) : kept (cqOff q s) = kept s := by
  unfold cqOff; simp

@[simp] theorem kept_repostRing (n : Nat) (s : State) : kept (repostRing n s) = kept s := by
  unfold repostRing; simp

@[simp] theorem kept_crOn (n : Fin 64) (s : State) : kept (crOn n s) = kept s := by
  unfold crOn; simp

@[simp] theorem kept_crOff (n : Fin 64) (s : State) : kept (crOff n s) = kept s := by
  unfold crOff; simp

@[simp] theorem kept_ringFails (n : Fin 64) (kind : Nat) (s : State) : kept (ringFails n kind s) = kept s := by
  unfold ringFails; simp

@[simp] theorem kept_crForget (n : Fin 64) (s : State) : kept (crForget n s) = kept s := by
  unfold crForget; simp

@[simp] theorem kept_iqOn (n : Fin 16) (readOk : Bool) (tags : List Word) (s : State) : kept (iqOn n readOk tags s) = kept s := by
  unfold iqOn; simp

end Sys2Proof.Machine
end

