-- ==== Sys2Proof/Laws/KeptDescriptors.lean ====
section
/-! SUPPORT. The operations of Machine/Descriptors.lean leave the parts of Laws/Kept.lean alone. -/

namespace Sys2Proof.Machine

open Sys2Proof

@[simp] theorem kept_reject (f : Fetched) (status : Nat) (detail : Word) (s : State) : kept (reject f status detail s) = kept s := by
  unfold reject; simp

@[simp] theorem kept_setHigh (r : WorkRef) (s : State) : kept (setHigh r s) = kept s := by
  unfold setHigh; (repeat' split) <;> simp_all

@[simp] theorem kept_replay (w : Work) (s : State) : kept (replay w s) = kept s := by
  unfold replay; dsimp only; (repeat' split) <;> simp

@[simp] theorem kept_admitWork (w : Work) (s : State) : kept (admitWork w s) = kept s := by
  unfold admitWork; simp

@[simp] theorem kept_takeIn (f : Fetched) (v : SeqV) (s : State) : kept (takeIn f v s) = kept s := by
  unfold takeIn; simp

@[simp] theorem kept_putBack (f : Fetched) (s : State) : kept (putBack f s) = kept s := by
  unfold putBack; simp

@[simp] theorem kept_checkRest (f : Fetched) (far : Bool) (s : State) : kept (checkRest f far s) = kept s := by
  unfold checkRest; dsimp only; (repeat' split) <;> simp

@[simp] theorem kept_noteReq (fwd : Bool) (f : Fetched) (d : Nat) (frame : List Byte) (s : State) : kept (noteReq fwd f d frame s) = kept s := by
  unfold noteReq; simp

@[simp] theorem kept_forward (f : Fetched) (d : Nat) (s : State) : kept (forward f d s) = kept s := by
  unfold forward; dsimp only; (repeat' split) <;> simp

@[simp] theorem kept_forwardPair (f : Fetched) (s : State) : kept (forwardPair f s) = kept s := by
  unfold forwardPair; dsimp only; (repeat' split) <;> simp

@[simp] theorem kept_parse (f : Fetched) (s : State) : kept (parse f s) = kept s := by
  unfold parse; dsimp only; (repeat' split) <;> simp

@[simp] theorem kept_parseAll (s : State) : kept (parseAll s) = kept s := by
  unfold parseAll; simp

@[simp] theorem kept_fetchNext (n : Fin 64) (s : State) : kept (fetchNext n s) = kept s := by
  unfold fetchNext; simp

@[simp] theorem kept_fetched (n : Fin 64) (b payload : List Byte) (ok : Bool) (s : State) : kept (fetched n b payload ok s) = kept s := by
  unfold fetched; simp

@[simp] theorem kept_storedEntry (w : WorkRef) (s : State) : kept (storedEntry w s) = kept s := by
  unfold storedEntry; dsimp only; (repeat' split) <;> simp

@[simp] theorem kept_unfence (w : Work) (s : State) : kept (unfence w s) = kept s := by
  unfold unfence; dsimp only; (repeat' split) <;> simp

@[simp] theorem kept_takeReq (src : Nat) (p : List Byte) (s : State) : kept (takeReq src p s) = kept s := by
  unfold takeReq; simp

@[simp] theorem kept_takeHeld (n : Nat) (a : Nat) (s : State) : kept (takeHeld n a s) = kept s := by
  have h (z : State) (l : HostIf) : kept { z with host := l } = kept z := rfl
  induction n generalizing s with
  | zero => rfl
  | succ n ih =>
    unfold takeHeld
    split
    · rfl
    · rw [ih, kept_takeReq, h]

@[simp] theorem kept_reqIn (src : Nat) (p : List Byte) (s : State) : kept (reqIn src p s) = kept s := by
  unfold reqIn; simp

@[simp] theorem kept_endReq (q : ReqOut) (status : Nat) (s : State) : kept (endReq q status s) = kept s := by
  unfold endReq; simp

@[simp] theorem kept_rspIn (src : Nat) (b : List Byte) (s : State) : kept (rspIn src b s) = kept s := by
  unfold rspIn; dsimp only; (repeat' split) <;> simp

end Sys2Proof.Machine
end

