-- ==== Sys2Proof/Laws/KeptCheckUnits.lean ====
section
/-! SUPPORT. The operations of Machine/CheckUnits.lean leave the parts of Laws/Kept.lean alone. -/

namespace Sys2Proof.Machine

open Sys2Proof

@[simp] theorem kept_cuNext (n : Fin 4) (s : State) : kept (cuNext n s) = kept s := by
  unfold cuNext; simp

@[simp] theorem kept_cuStartJob (n : Fin 4) (s : State) : kept (cuStartJob n s) = kept s := by
  unfold cuStartJob; simp

@[simp] theorem kept_cuDataWord (n : Fin 4) (w : Word) (s : State) : kept (cuDataWord n w s) = kept s := by
  unfold cuDataWord; (repeat' split) <;> simp_all

@[simp] theorem kept_cuLastWord (n : Fin 4) (k : Nat) (w : Word) (s : State) : kept (cuLastWord n k w s) = kept s := by
  unfold cuLastWord; dsimp only; (repeat' split) <;> simp

@[simp] theorem kept_cuQueue (n : Fin 4) (r : WorkRef) (s : State) : kept (cuQueue n r s) = kept s := by
  unfold cuQueue; simp

end Sys2Proof.Machine
end

