-- ==== Sys2Proof/Laws/KeptOpcodes.lean ====
section
/-! SUPPORT. The operations of Machine/Opcodes.lean leave the parts of Laws/Kept.lean alone. -/

namespace Sys2Proof.Machine

open Sys2Proof

@[simp] theorem kept_takeUp (r : WorkRef) (s : State) : kept (takeUp r s) = kept s := by
  unfold takeUp; simp

@[simp] theorem kept_endWork (w : Work) (result : Nat) (s : State) : kept (endWork w result s) = kept s := by
  unfold endWork; simp

@[simp] theorem kept_joinWork (w : Work) (s : State) : kept (joinWork w s) = kept s := by
  unfold joinWork; dsimp only; (repeat' split) <;> simp

@[simp] theorem kept_armTrim (k : Fin 96) (b : List Byte) (s : State) : kept (armTrim k b s) = kept s := by
  unfold armTrim; simp

@[simp] theorem kept_clearTrim (k func range : Nat) (s : State) : kept (clearTrim k func range s) = kept s := by
  unfold clearTrim; dsimp only; (repeat' split) <;> simp

@[simp] theorem kept_releaseReflex (b : List Byte) (s : State) : kept (releaseReflex b s) = kept s := by
  unfold releaseReflex; dsimp only; (repeat' split) <;> simp

@[simp] theorem kept_lostFor (first oldest : Word) (s : State) : kept (lostFor first oldest s).2 = kept s := by
  unfold lostFor; simp

@[simp] theorem kept_readRecords (room : Nat) (b : List Byte) (s : State) : kept (readRecords room b s).2 = kept s := by
  unfold readRecords; dsimp only; (repeat' split) <;> simp

end Sys2Proof.Machine
end

