-- ==== Sys2Proof/Laws/KeptImages.lean ====
section
/-! SUPPORT. The operations of Machine/Images.lean leave the parts of Laws/Kept.lean alone. -/

namespace Sys2Proof.Machine

open Sys2Proof

@[simp] theorem kept_modImg (f : Images → Images) (s : State) (h : ∀ m, (f m).part = m.part) : kept (modImg f s) = kept s := by
  unfold modImg; simp [h]

@[simp] theorem kept_unlessArmed (w : Work) (f : State → State) (s : State) (hf : ∀ z, kept (f z) = kept z) : kept (unlessArmed w f s) = kept s := by
  unfold unlessArmed; (repeat' split) <;> simp_all

@[simp] theorem kept_maqChanged (next : MaqState) (s : State) : kept (maqChanged next s) = kept s := by
  unfold maqChanged; simp

theorem grows_loadImage (off : Nat) (data : List Byte) (s : State) : Grows (kept s) (kept (loadImage off data s)) := by
  unfold loadImage
  refine (Grows.of_eq (kept_maqChanged .loaded s)).trans ⟨rfl, rfl, KeysHeld.refl _, rfl, rfl, rfl, rfl, fun h => ⟨?_, h.2⟩⟩
  exact part_set_wf _ _ _ h.1 (cellWrites_wf _ _ _ (part_get_wf _ _ h.1))

theorem grows_emptyMaquette (s : State) : Grows (kept s) (kept (emptyMaquette s)) := by
  unfold emptyMaquette
  exact (Grows.of_eq (kept_maqChanged .empty s)).trans ⟨rfl, rfl, KeysHeld.refl _, rfl, rfl, rfl, rfl, fun h => ⟨part_set_wf _ _ _ h.1 rfl, h.2⟩⟩

@[simp] theorem kept_stageNow (s : State) : kept (stageNow s).2 = kept s := by
  unfold stageNow; dsimp only; (repeat' split) <;> simp

@[simp] theorem kept_recordStaged (i : Image) (l : List Finding) (s : State) : kept (recordStaged i l s) = kept s := by
  unfold recordStaged; simp

@[simp] theorem kept_staged (l : List Finding) (s : State) : kept (staged l s) = kept s := by
  unfold staged; dsimp only; (repeat' split) <;> simp

@[simp] theorem kept_shadowsAfresh (s : State) : kept (shadowsAfresh s) = kept s := by
  unfold shadowsAfresh; simp

@[simp] theorem kept_mirrorEntry (etype : Nat) (b : List Byte) (s : State) : kept (mirrorEntry etype b s) = kept s := by
  unfold mirrorEntry; dsimp only; (repeat' split) <;> simp

@[simp] theorem kept_takeEntries (n : Nat) (s : State) : kept (takeEntries n s) = kept s := by
  induction n generalizing s with
  | zero => rfl
  | succ n ih => unfold takeEntries; (repeat' split) <;> simp [ih]

theorem grows_mirrorImage (s : State) : Grows (kept s) (kept (mirrorImage s)) := by
  unfold mirrorImage
  extract_lets cells x y s1
  have a : Grows (kept s) (kept s1) := ⟨rfl, rfl, KeysHeld.refl _, rfl, rfl, rfl, rfl, fun h => ⟨part_set_wf _ _ _ h.1 h.2, rfl⟩⟩
  clear_value s1 cells
  refine a.trans ?_
  dsimp only
  split
  · exact Grows.of_eq (kept_stageNow _)
  · refine Grows.ite (Grows.of_eq (kept_stageNow _)) (Grows.ite ?_ ?_)
    · rw [kept_modImg (fun m => { m with roleDue := none }) _ (fun _ => rfl)]
      exact (Grows.of_eq (by simp)).trans (grows_activate _ _ _ _ _)
    · exact Grows.of_eq (by simp)

end Sys2Proof.Machine
end

