-- ==== Sys2Proof/Laws/Keeps.lean ====
section
/-! SUPPORT. What every command does: it answers a next state, and keeps what Laws/Kept.lean names. One lemma per meaning is in the files
Laws/Keeps*.lean. -/

namespace Sys2Proof.Machine

open Sys2Proof

/-- An outcome that is a next state and keeps what every operation keeps. -/
def Keeps (s : State) (o : Out) : Prop := ∃ z, o = .next z ∧ Grows (kept s) (kept z)

theorem Keeps.next {s z : State} (h : Grows (kept s) (kept z)) : Keeps s (.next z) := ⟨z, rfl, h⟩

theorem Keeps.noEffect (s : State) : Keeps s (noEffect s) := ⟨s, rfl, Grows.refl _⟩

theorem Keeps.when {c : Bool} {f : State → State} {s : State} (h : Grows (kept s) (kept (f s))) : Keeps s (when c f s) := by
  unfold Machine.when
  split
  · exact ⟨_, rfl, h⟩
  · exact ⟨_, rfl, Grows.refl _⟩

theorem Keeps.ite {c : Prop} [Decidable c] {s : State} {a b : Out} (h : Keeps s a) (g : Keeps s b) : Keeps s (if c then a else b) := by
  split <;> assumption

theorem Keeps.onWork {r : WorkRef} {op : Nat} {f : Work → State → State} {s : State} (h : ∀ w z, Grows (kept z) (kept (f w z))) :
    Keeps s (onWork r op f s) := by
  unfold Machine.onWork
  split
  · exact Keeps.when ((Grows.of_eq (kept_takeUp _ _)).trans (h _ _))
  · exact Keeps.noEffect s

theorem Keeps.onImage {r : WorkRef} {op : Nat} {c : Bool} {f : Work → State → State} {s : State}
    (h : ∀ w z, Grows (kept z) (kept (f w z))) : Keeps s (onImage r op c f s) := by
  unfold Machine.onImage
  split
  · exact Keeps.onWork h
  · exact Keeps.noEffect s

/-- An outcome that is a next state with exactly the kept parts it had. -/
def Same (s : State) (o : Out) : Prop := ∃ z, o = .next z ∧ kept z = kept s

theorem Same.keeps {s : State} {o : Out} (h : Same s o) : Keeps s o := by
  obtain ⟨z, hz, e⟩ := h
  exact ⟨z, hz, Grows.of_eq e⟩

theorem Same.next {s z : State} (h : kept z = kept s) : Same s (.next z) := ⟨z, rfl, h⟩

theorem Same.noEffect (s : State) : Same s (noEffect s) := ⟨s, rfl, rfl⟩

theorem Same.when {c : Bool} {f : State → State} {s : State} (h : kept (f s) = kept s) : Same s (when c f s) := by
  unfold Machine.when
  split
  · exact ⟨_, rfl, h⟩
  · exact ⟨_, rfl, rfl⟩

theorem Same.ite {c : Prop} [Decidable c] {s : State} {a b : Out} (h : Same s a) (g : Same s b) : Same s (if c then a else b) := by
  split <;> assumption

theorem Same.onWork {r : WorkRef} {op : Nat} {f : Work → State → State} {s : State} (h : ∀ w z, kept (f w z) = kept z) :
    Same s (onWork r op f s) := by
  unfold Machine.onWork
  split
  · exact Same.when ((h _ _).trans (kept_takeUp _ _))
  · exact Same.noEffect s

theorem Same.onImage {r : WorkRef} {op : Nat} {c : Bool} {f : Work → State → State} {s : State}
    (h : ∀ w z, kept (f w z) = kept z) : Same s (onImage r op c f s) := by
  unfold Machine.onImage
  split
  · exact Same.onWork h
  · exact Same.noEffect s

theorem grows_withHref (f : State → State) (s : State) (h : ∀ z, Grows (kept z) (kept (f z))) : Grows (kept s) (kept (withHref f s)) := by
  unfold withHref
  exact (h s).trans (Grows.of_eq (kept_evalLits _ _ _))

end Sys2Proof.Machine
end

