-- ==== Sys2Proof/Laws/KeepsAnalog.lean ====
section
/-! SUPPORT. The meanings of Machine/Analog.lean: each answers a next state and keeps what Laws/Kept.lean names. -/

namespace Sys2Proof.Machine

open Sys2Proof

theorem keeps_execAdcConversion (t : Time) (k : Fin 96) (x aux : Word) (s : State) : Keeps (s.at_ t) (execAdcConversion t k x aux s) := by
  unfold execAdcConversion
  generalize s.at_ t = z
  dsimp only
  refine Keeps.when (Grows.of_eq ?_)
  simp

theorem keeps_execComplSet (t : Time) (k : Fin 96) (headroom : Int) (held : Time) (s : State) :
    Keeps (s.at_ t) (execComplSet t k headroom held s) := by
  unfold execComplSet
  generalize s.at_ t = z
  dsimp only
  refine Keeps.when (Grows.of_eq ?_)
  simp

theorem keeps_execComplClear (t : Time) (k : Fin 96) (headroom : Int) (held : Time) (s : State) :
    Keeps (s.at_ t) (execComplClear t k headroom held s) := by
  unfold execComplClear
  generalize s.at_ t = z
  dsimp only
  refine Keeps.when (Grows.of_eq ?_)
  simp

theorem keeps_execComplactLowReturn (t : Time) (k : Fin 96) (predicted : Int) (held : Time) (s : State) :
    Keeps (s.at_ t) (execComplactLowReturn t k predicted held s) := by
  unfold execComplactLowReturn
  generalize s.at_ t = z
  dsimp only
  refine Keeps.when (Grows.of_eq ?_)
  simp

theorem keeps_execAnalogCurrentLimit (t : Time) (k : Fin 96) (limiting : Bool) (s : State) :
    Keeps (s.at_ t) (execAnalogCurrentLimit t k limiting s) := by
  unfold execAnalogCurrentLimit
  generalize s.at_ t = z
  dsimp only
  refine Keeps.when (Grows.of_eq ?_)
  simp

theorem keeps_execSinkOpen (t : Time) (k : Fin 96) (burden : Nat) (held : Time) (s : State) : Keeps (s.at_ t) (execSinkOpen t k burden held s) := by
  unfold execSinkOpen
  generalize s.at_ t = z
  dsimp only
  refine Keeps.when (Grows.of_eq ?_)
  simp

theorem keeps_execSinkRetry (t : Time) (k : Fin 96) (s : State) : Keeps (s.at_ t) (execSinkRetry t k s) := by
  unfold execSinkRetry
  generalize s.at_ t = z
  dsimp only
  refine Keeps.when (Grows.of_eq ?_)
  simp

theorem keeps_execTrimPress (t : Time) (span both trdHigh : Bool) (held : HeldFor) (s : State) :
    Keeps (s.at_ t) (execTrimPress t span both trdHigh held s) := by
  unfold execTrimPress
  generalize s.at_ t = z
  dsimp only
  refine Keeps.when (Grows.of_eq ?_)
  simp

theorem keeps_execTrimPressRepeat (t : Time) (held : Time) (s : State) : Keeps (s.at_ t) (execTrimPressRepeat t held s) := by
  unfold execTrimPressRepeat
  generalize s.at_ t = z
  dsimp only
  split
  · refine Keeps.when (Grows.of_eq ?_)
    simp
  · exact Keeps.noEffect _

theorem keeps_execTrimTimeout (t : Time) (s : State) : Keeps (s.at_ t) (execTrimTimeout t s) := by
  unfold execTrimTimeout
  generalize s.at_ t = z
  dsimp only
  refine Keeps.when (Grows.of_eq ?_)
  simp

end Sys2Proof.Machine
end

