-- ==== Sys2Proof/Laws/KeepsAxes.lean ====
section
/-! SUPPORT. The meanings of Machine/Axes.lean: each answers a next state and keeps what Laws/Kept.lean names. -/

namespace Sys2Proof.Machine

open Sys2Proof

theorem keeps_execEncoderEdge (t : Time) (x : Fin 4) (a b : EncLine) (s : State) : Keeps (s.at_ t) (execEncoderEdge t x a b s) := by
  unfold execEncoderEdge
  generalize s.at_ t = z
  dsimp only
  refine Keeps.when (Grows.of_eq ?_)
  simp

theorem keeps_execZEdge (t : Time) (z : ZLine) (s : State) : Keeps (s.at_ t) (execZEdge t z s) := by
  unfold execZEdge
  generalize s.at_ t = z
  dsimp only
  refine Keeps.when (Grows.of_eq ?_)
  simp

theorem keeps_execEncoderLineFault (t : Time) (x : Fin 4) (line : Fin 3) (held : Time) (s : State) :
    Keeps (s.at_ t) (execEncoderLineFault t x line held s) := by
  unfold execEncoderLineFault
  generalize s.at_ t = z
  dsimp only
  refine Keeps.when (Grows.of_eq ?_)
  simp

theorem keeps_execLostClear (t : Time) (x : Fin 4) (a b : Bool) (held : Time) (s : State) : Keeps (s.at_ t) (execLostClear t x a b held s) := by
  unfold execLostClear
  generalize s.at_ t = z
  dsimp only
  refine Keeps.when (Grows.of_eq ?_)
  simp

theorem keeps_execAxisTick (t : Time) (s : State) : Keeps (s.at_ t) (execAxisTick t s) := by
  unfold execAxisTick
  generalize s.at_ t = z
  dsimp only
  refine Keeps.when (Grows.of_eq ?_)
  simp

theorem keeps_execAxsFrameReceived (t : Time) (src : Nat) (bytes : List Byte) (s : State) :
    Keeps (s.at_ t) (execAxsFrameReceived t src bytes s) := by
  unfold execAxsFrameReceived
  generalize s.at_ t = z
  dsimp only
  refine Keeps.when (Grows.of_eq ?_)
  simp

theorem keeps_execAxsSilence (t : Time) (x : Fin 8) (s : State) : Keeps (s.at_ t) (execAxsSilence t x s) := by
  unfold execAxsSilence
  generalize s.at_ t = z
  dsimp only
  refine Keeps.when (Grows.of_eq ?_)
  simp

theorem keeps_execTimeLaneIssue (t : Time) (lane : Fin 96) (s : State) : Keeps (s.at_ t) (execTimeLaneIssue t lane s) := by
  unfold execTimeLaneIssue
  generalize s.at_ t = z
  dsimp only
  refine Keeps.when (Grows.of_eq ?_)
  simp

theorem keeps_execTrdmaxExpiry (t : Time) (x : Fin 8) (s : State) : Keeps (s.at_ t) (execTrdmaxExpiry t x s) := by
  unfold execTrdmaxExpiry
  generalize s.at_ t = z
  dsimp only
  refine Keeps.when (Grows.of_eq ?_)
  simp

theorem keeps_execHubReflexQualExpiry (t : Time) (entry : Nat) (s : State) : Keeps (s.at_ t) (execHubReflexQualExpiry t entry s) := by
  unfold execHubReflexQualExpiry
  generalize s.at_ t = z
  dsimp only
  refine Keeps.when (Grows.of_eq ?_)
  simp

end Sys2Proof.Machine
end

