-- ==== Sys2Proof/Laws/KeepsBoundary.lean ====
section
/-! SUPPORT. The meanings of Machine/Boundary.lean: each answers a next state and keeps what Laws/Kept.lean names. -/

namespace Sys2Proof.Machine

open Sys2Proof

theorem keeps_execEdgeAccept (t : Time) (k : Fin 96) (s : State) : Keeps (s.at_ t) (execEdgeAccept t k s) := by
  unfold execEdgeAccept
  generalize s.at_ t = z
  dsimp only
  refine Keeps.when (Grows.of_eq ?_)
  simp

theorem keeps_execEpochBoundary (t : Time) (s : State) : Keeps (s.at_ t) (execEpochBoundary t s) := by
  unfold execEpochBoundary
  generalize s.at_ t = z
  dsimp only
  split
  · refine Keeps.when ?_
    exact (Grows.of_eq (kept_changePeriod z)).trans (grows_withHref _ _ (fun y => grows_boundary _ y))
  · exact Keeps.when (Grows.of_eq ((kept_ownGrid _).trans (kept_changePeriod z)))

theorem keeps_execCommitSetClose (t : Time) (s : State) : Keeps (s.at_ t) (execCommitSetClose t s) := by
  unfold execCommitSetClose
  generalize s.at_ t = z
  dsimp only
  refine Keeps.when (Grows.of_eq ?_)
  simp

theorem keeps_execCommitLoad (t : Time) (s : State) : Keeps (s.at_ t) (execCommitLoad t s) := by
  unfold execCommitLoad
  generalize s.at_ t = z
  dsimp only
  refine Keeps.when (Grows.of_eq ?_)
  simp

end Sys2Proof.Machine
end

