-- ==== Sys2Proof/Laws/KeepsCheckUnits.lean ====
section
/-! SUPPORT. The meanings of Machine/CheckUnits.lean: each answers a next state and keeps what Laws/Kept.lean names. -/

namespace Sys2Proof.Machine

open Sys2Proof

theorem keeps_execCuStart (t : Time) (n : Fin 4) (s : State) : Keeps (s.at_ t) (execCuStart t n s) := by
  unfold execCuStart
  generalize s.at_ t = z
  dsimp only
  refine Keeps.when (Grows.of_eq ?_)
  simp

theorem keeps_execCuData (t : Time) (n : Fin 4) (word : Word) (s : State) : Keeps (s.at_ t) (execCuData t n word s) := by
  unfold execCuData
  generalize s.at_ t = z
  dsimp only
  refine Keeps.when (Grows.of_eq ?_)
  simp

theorem keeps_execCuLast (t : Time) (n : Fin 4) (nbytes : Fin 8) (word : Word) (s : State) : Keeps (s.at_ t) (execCuLast t n nbytes word s) := by
  unfold execCuLast
  generalize s.at_ t = z
  dsimp only
  refine Keeps.when (Grows.of_eq ?_)
  simp

theorem keeps_execCuAbort (t : Time) (n : Fin 4) (s : State) : Keeps (s.at_ t) (execCuAbort t n s) := by
  unfold execCuAbort
  generalize s.at_ t = z
  dsimp only
  refine Keeps.when (Grows.of_eq ?_)
  simp

theorem keeps_execCujobDone (t : Time) (n : Fin 4) (s : State) : Keeps (s.at_ t) (execCujobDone t n s) := by
  unfold execCujobDone
  generalize s.at_ t = z
  dsimp only
  split
  · exact Keeps.noEffect _
  · refine Keeps.when (Grows.of_eq ?_)
    simp

end Sys2Proof.Machine
end

