-- ==== Sys2Proof/Laws/KeepsCuts.lean ====
section
/-! SUPPORT. The meanings of Machine/Cuts.lean: each answers a next state and keeps what Laws/Kept.lean names. -/

namespace Sys2Proof.Machine

open Sys2Proof

theorem keeps_execImgSend (t : Time) (s : State) : Keeps (s.at_ t) (execImgSend t s) := by
  unfold execImgSend
  generalize s.at_ t = z
  dsimp only
  refine Keeps.when (Grows.of_eq ?_)
  simp

theorem keeps_execImgFrameReceived (t : Time) (src : Nat) (bytes : List Byte) (s : State) :
    Keeps (s.at_ t) (execImgFrameReceived t src bytes s) := by
  unfold execImgFrameReceived
  generalize s.at_ t = z
  dsimp only
  refine Keeps.when (Grows.of_eq ?_)
  simp

theorem keeps_execCutDeadline (t : Time) (iq : Fin 16) (s : State) : Keeps (s.at_ t) (execCutDeadline t iq s) := by
  unfold execCutDeadline
  generalize s.at_ t = z
  dsimp only
  refine Keeps.when (Grows.of_eq ?_)
  simp

end Sys2Proof.Machine
end

