-- ==== Sys2Proof/Laws/KeepsDescriptors.lean ====
section
/-! SUPPORT. The meanings of Machine/Descriptors.lean: each answers a next state and keeps what Laws/Kept.lean names. -/

namespace Sys2Proof.Machine

open Sys2Proof

theorem keeps_execDescriptorFetch (t : Time) (ring : Fin 64) (bytes payload : List Byte) (rd : HostRead) (s : State) :
    Keeps (s.at_ t) (execDescriptorFetch t ring bytes payload rd s) := by
  unfold execDescriptorFetch
  generalize s.at_ t = z
  dsimp only
  refine Keeps.when (Grows.of_eq ?_)
  (repeat' split) <;> simp

theorem keeps_execStoreAccept (t : Time) (w : WorkRef) (s : State) : Keeps (s.at_ t) (execStoreAccept t w s) := by
  unfold execStoreAccept
  generalize s.at_ t = z
  dsimp only
  refine Keeps.when (Grows.of_eq ?_)
  simp

theorem keeps_execFenceRelease (t : Time) (w : WorkRef) (s : State) : Keeps (s.at_ t) (execFenceRelease t w s) := by
  unfold execFenceRelease
  generalize s.at_ t = z
  dsimp only
  (repeat' split) <;> (refine Keeps.when (Grows.of_eq ?_); simp)

theorem keeps_execGateJournal (t : Time) (w : WorkRef) (s : State) : Keeps (s.at_ t) (execGateJournal t w s) := by
  unfold execGateJournal
  generalize s.at_ t = z
  dsimp only
  (repeat' split) <;> (refine Keeps.when (Grows.of_eq ?_); simp)

theorem keeps_execReqReceived (t : Time) (src : Nat) (bytes : List Byte) (s : State) : Keeps (s.at_ t) (execReqReceived t src bytes s) := by
  unfold execReqReceived
  generalize s.at_ t = z
  dsimp only
  refine Keeps.when (Grows.of_eq ?_)
  simp

theorem keeps_execReqHoldExpiry (t : Time) (src ring : Nat) (seq : Word) (s : State) : Keeps (s.at_ t) (execReqHoldExpiry t src ring seq s) := by
  unfold execReqHoldExpiry
  generalize s.at_ t = z
  dsimp only
  refine Keeps.when (Grows.of_eq ?_)
  simp

theorem keeps_execRspReceived (t : Time) (src : Nat) (bytes : List Byte) (s : State) : Keeps (s.at_ t) (execRspReceived t src bytes s) := by
  unfold execRspReceived
  generalize s.at_ t = z
  dsimp only
  refine Keeps.when (Grows.of_eq ?_)
  simp

theorem keeps_execReqResend (t : Time) (ring : Fin 64) (seq : Word) (s : State) : Keeps (s.at_ t) (execReqResend t ring seq s) := by
  unfold execReqResend
  generalize s.at_ t = z
  dsimp only
  split
  · exact Keeps.noEffect _
  · refine Keeps.when (Grows.of_eq ?_)
    simp

theorem keeps_execJnlFwd (t : Time) (bytes : List Byte) (s : State) : Keeps (s.at_ t) (execJnlFwd t bytes s) := by
  unfold execJnlFwd
  generalize s.at_ t = z
  dsimp only
  split
  · exact Keeps.noEffect _
  · refine Keeps.when (Grows.of_eq ?_)
    simp

theorem keeps_execJnlCpl (t : Time) (bytes : List Byte) (s : State) : Keeps (s.at_ t) (execJnlCpl t bytes s) := by
  unfold execJnlCpl
  generalize s.at_ t = z
  dsimp only
  split
  · exact Keeps.noEffect _
  · refine Keeps.when (Grows.of_eq ?_)
    simp

end Sys2Proof.Machine
end

