-- ==== Sys2Proof/Laws/KeepsDiagnostics.lean ====
section
/-! SUPPORT. The meanings of Machine/Diagnostics.lean: each answers a next state and keeps what Laws/Kept.lean names. -/

namespace Sys2Proof.Machine

open Sys2Proof

theorem keeps_execVerdictQualified (t : Time) (k : Fin 96) (c : CodeAt) (set : Bool) (held : Time) (s : State) :
    Keeps (s.at_ t) (execVerdictQualified t k c set held s) := by
  unfold execVerdictQualified
  generalize s.at_ t = z
  dsimp only
  refine Keeps.when (Grows.of_eq ?_)
  simp

theorem keeps_execOpenLoadOn (t : Time) (k : Fin 96) (counted : Time) (maxCurrent : Nat) (s : State) :
    Keeps (s.at_ t) (execOpenLoadOn t k counted maxCurrent s) := by
  unfold execOpenLoadOn
  generalize s.at_ t = z
  dsimp only
  refine Keeps.when (Grows.of_eq ?_)
  simp

theorem keeps_execVerdictRecord (t : Time) (k : Fin 96) (s : State) : Keeps (s.at_ t) (execVerdictRecord t k s) := by
  unfold execVerdictRecord
  generalize s.at_ t = z
  dsimp only
  refine Keeps.when (Grows.of_eq ?_)
  simp

theorem keeps_execDiagSlotStart (t : Time) (slot : Nat) (s : State) : Keeps (s.at_ t) (execDiagSlotStart t slot s) := by
  unfold execDiagSlotStart
  generalize s.at_ t = z
  dsimp only
  refine Keeps.when (Grows.of_eq ?_)
  (repeat' split) <;> simp

theorem keeps_execDiagSlotEnd (t : Time) (slot : Nat) (v1 v2 : Int) (s : State) : Keeps (s.at_ t) (execDiagSlotEnd t slot v1 v2 s) := by
  unfold execDiagSlotEnd
  generalize s.at_ t = z
  dsimp only
  split
  · exact Keeps.noEffect _
  · refine Keeps.when (Grows.of_eq ?_)
    (repeat' split) <;> simp

theorem keeps_execDiagWindowAbort (t : Time) (slot : Nat) (s : State) : Keeps (s.at_ t) (execDiagWindowAbort t slot s) := by
  unfold execDiagWindowAbort
  generalize s.at_ t = z
  dsimp only
  split
  · exact Keeps.noEffect _
  · refine Keeps.when (Grows.of_eq ?_)
    simp

theorem keeps_execPartestTransition (t : Time) (slot : Nat) (a : Fin 96) (followers : List Nat) (s : State) :
    Keeps (s.at_ t) (execPartestTransition t slot a followers s) := by
  unfold execPartestTransition
  generalize s.at_ t = z
  dsimp only
  refine Keeps.when (Grows.of_eq ?_)
  simp

theorem keeps_execIsoMeasurementEnd (t : Time) (slot : Nat) (meas : IsoMeas) (s : State) :
    Keeps (s.at_ t) (execIsoMeasurementEnd t slot meas s) := by
  unfold execIsoMeasurementEnd
  generalize s.at_ t = z
  dsimp only
  split
  · exact Keeps.noEffect _
  · refine Keeps.when (Grows.of_eq ?_)
    simp

theorem keeps_execInsulationHourly (t : Time) (s : State) : Keeps (s.at_ t) (execInsulationHourly t s) := by
  unfold execInsulationHourly
  generalize s.at_ t = z
  dsimp only
  refine Keeps.next (Grows.of_eq ?_)
  simp

theorem keeps_execEdgecalMeasurement (t : Time) (k : Fin 96) (on : Bool) (ticks : Nat) (level1 : Bool) (s : State) :
    Keeps (s.at_ t) (execEdgecalMeasurement t k on ticks level1 s) := by
  unfold execEdgecalMeasurement
  generalize s.at_ t = z
  dsimp only
  split
  · exact Keeps.noEffect _
  · refine Keeps.when (Grows.of_eq ?_)
    simp

theorem keeps_execNeverOffHourlyRecord (t : Time) (k : Fin 96) (s : State) : Keeps (s.at_ t) (execNeverOffHourlyRecord t k s) := by
  unfold execNeverOffHourlyRecord
  generalize s.at_ t = z
  dsimp only
  refine Keeps.when (Grows.of_eq ?_)
  simp

end Sys2Proof.Machine
end

