-- ==== Sys2Proof/Laws/KeepsDigital.lean ====
section
/-! SUPPORT. The meanings of Machine/Digital.lean: each answers a next state and keeps what Laws/Kept.lean names. -/

namespace Sys2Proof.Machine

open Sys2Proof

theorem keeps_execInputRawChange (t : Time) (k : Fin 96) (x : CompIn) (s : State) : Keeps (s.at_ t) (execInputRawChange t k x s) := by
  unfold execInputRawChange
  generalize s.at_ t = z
  dsimp only
  refine Keeps.when (Grows.of_eq ?_)
  simp

theorem keeps_execDivminLow (t : Time) (tile : Fin 12) (lpt : Nat) (s : State) : Keeps (s.at_ t) (execDivminLow t tile lpt s) := by
  unfold execDivminLow
  generalize s.at_ t = z
  dsimp only
  refine Keeps.when (Grows.of_eq ?_)
  simp

theorem keeps_execDivminRecover (t : Time) (tile : Fin 12) (lpt : Nat) (held : Time) (s : State) :
    Keeps (s.at_ t) (execDivminRecover t tile lpt held s) := by
  unfold execDivminRecover
  generalize s.at_ t = z
  dsimp only
  refine Keeps.when (Grows.of_eq ?_)
  simp

theorem keeps_execNamurLptBelow10v (t : Time) (tile : Fin 12) (lpt : Nat) (s : State) : Keeps (s.at_ t) (execNamurLptBelow10v t tile lpt s) := by
  unfold execNamurLptBelow10v
  generalize s.at_ t = z
  dsimp only
  refine Keeps.when (Grows.of_eq ?_)
  simp

theorem keeps_execNamLineFault (t : Time) (k : Fin 96) (current : Nat) (held : Time) (s : State) :
    Keeps (s.at_ t) (execNamLineFault t k current held s) := by
  unfold execNamLineFault
  generalize s.at_ t = z
  dsimp only
  refine Keeps.when (Grows.of_eq ?_)
  simp

theorem keeps_execNamLineFaultClear (t : Time) (k : Fin 96) (current : Nat) (held : Time) (s : State) :
    Keeps (s.at_ t) (execNamLineFaultClear t k current held s) := by
  unfold execNamLineFaultClear
  generalize s.at_ t = z
  dsimp only
  refine Keeps.when (Grows.of_eq ?_)
  simp

theorem keeps_execPwmPeriodStart (t : Time) (k : Fin 96) (s : State) : Keeps (s.at_ t) (execPwmPeriodStart t k s) := by
  unfold execPwmPeriodStart
  generalize s.at_ t = z
  dsimp only
  refine Keeps.when (Grows.of_eq ?_)
  simp

theorem keeps_execPwmOnTimeEnd (t : Time) (k : Fin 96) (s : State) : Keeps (s.at_ t) (execPwmOnTimeEnd t k s) := by
  unfold execPwmOnTimeEnd
  generalize s.at_ t = z
  dsimp only
  refine Keeps.when (Grows.of_eq ?_)
  simp

theorem keeps_execTrainPulse (t : Time) (k : Fin 96) (s : State) : Keeps (s.at_ t) (execTrainPulse t k s) := by
  unfold execTrainPulse
  generalize s.at_ t = z
  dsimp only
  refine Keeps.when (Grows.of_eq ?_)
  simp

end Sys2Proof.Machine
end

