-- ==== Sys2Proof/Laws/KeptFaults.lean ====
section
/-! SUPPORT. The operations of Machine/Faults.lean leave the parts of Laws/Kept.lean alone. -/

namespace Sys2Proof.Machine

open Sys2Proof

@[simp] theorem kept_holdAsserted (on : Bool) (id : Nat) (s : State) : kept (holdAsserted on id s) = kept s := by
  unfold holdAsserted; simp

@[simp] theorem kept_hostLocks (ids : List Nat) (s : State) : kept (hostLocks ids s) = kept s := by
  unfold hostLocks; simp

@[simp] theorem kept_clearPend (id : Nat) (s : State) : kept (clearPend id s) = kept s := by
  unfold clearPend; simp

@[simp] theorem kept_intentScan (s : State) : kept (intentScan s) = kept s := by
  unfold intentScan; simp

@[simp] theorem kept_dropBlock (id : Nat) (s : State) : kept (dropBlock id s) = kept s := by
  unfold dropBlock; simp

@[simp] theorem kept_blockBack (b : BlockId) (id : Nat) (s : State) : kept (blockBack b id s) = kept s := by
  unfold blockBack; simp

@[simp] theorem kept_pendWrite (requester id : Nat) (s : State) : kept (pendWrite requester id s) = kept s := by
  unfold pendWrite; simp

@[simp] theorem kept_recordFltcfg (id ev field value : Nat) (s : State) : kept (recordFltcfg id ev field value s) = kept s := by
  unfold recordFltcfg; simp

@[simp] theorem kept_keepFlt (id : Nat) (s : State) : kept (keepFlt id s) = kept s := by
  unfold keepFlt; simp

@[simp] theorem kept_fltRequest (id field value : Nat) (s : State) : kept (fltRequest id field value s) = kept s := by
  unfold fltRequest; simp

@[simp] theorem kept_fltLoad (s : State) : kept (fltLoad s) = kept s := by
  unfold fltLoad; simp

@[simp] theorem kept_injSet (id : Nat) (v : Fin 4) (s : State) : kept (injSet id v s) = kept s := by
  unfold injSet; simp

@[simp] theorem kept_modWda (f : Wdg → Wdg) (s : State) : kept (modWda f s) = kept s := by
  unfold modWda; simp

@[simp] theorem kept_wdaFault (code : Nat) (s : State) : kept (wdaFault code s) = kept s := by
  unfold wdaFault; simp

@[simp] theorem kept_wdaService (key : Byte) (s : State) : kept (wdaService key s) = kept s := by
  unfold wdaService; simp

end Sys2Proof.Machine
end

