-- ==== Sys2Proof/Laws/KeepsFaults.lean ====
section
/-! SUPPORT. The meanings of Machine/Faults.lean: each answers a next state and keeps what Laws/Kept.lean names. -/

namespace Sys2Proof.Machine

open Sys2Proof

theorem keeps_execFaultEvent (t : Time) (srcs : List Nat) (inj : Bool) (s : State) : Keeps (s.at_ t) (execFaultEvent t srcs inj s) := by
  unfold execFaultEvent
  generalize s.at_ t = z
  dsimp only
  refine Keeps.when (Grows.of_eq ?_)
  simp

theorem keeps_execWireFault (t : Time) (src : Nat) (inj : Bool) (s : State) : Keeps (s.at_ t) (execWireFault t src inj s) := by
  unfold execWireFault
  generalize s.at_ t = z
  dsimp only
  refine Keeps.when (Grows.of_eq ?_)
  simp

theorem keeps_execBlockRecovery (t : Time) (src : Nat) (back : Bool) (s : State) : Keeps (s.at_ t) (execBlockRecovery t src back s) := by
  unfold execBlockRecovery
  generalize s.at_ t = z
  dsimp only
  (repeat' split) <;> first | exact Keeps.noEffect _ | (refine Keeps.when (Grows.of_eq ?_); simp)

theorem keeps_execTrapHandlerEnd (t : Time) (src : Nat) (s : State) : Keeps (s.at_ t) (execTrapHandlerEnd t src s) := by
  unfold execTrapHandlerEnd
  generalize s.at_ t = z
  dsimp only
  refine Keeps.when (Grows.of_eq ?_)
  simp

theorem keeps_execTrapAckTimeout (t : Time) (src : Nat) (s : State) : Keeps (s.at_ t) (execTrapAckTimeout t src s) := by
  unfold execTrapAckTimeout
  generalize s.at_ t = z
  dsimp only
  refine Keeps.when (Grows.of_eq ?_)
  simp

theorem keeps_execC4PendAutoClear (t : Time) (src : Nat) (s : State) : Keeps (s.at_ t) (execC4PendAutoClear t src s) := by
  unfold execC4PendAutoClear
  generalize s.at_ t = z
  dsimp only
  refine Keeps.when (Grows.of_eq ?_)
  simp

theorem keeps_execPendClear (t : Time) (src : Nat) (s : State) : Keeps (s.at_ t) (execPendClear t src s) := by
  unfold execPendClear
  generalize s.at_ t = z
  dsimp only
  refine Keeps.when (Grows.of_eq ?_)
  simp

theorem keeps_execFltConfigRequest (t : Time) (src : Nat) (field : Fin 3) (value : Nat) (s : State) :
    Keeps (s.at_ t) (execFltConfigRequest t src field value s) := by
  unfold execFltConfigRequest
  generalize s.at_ t = z
  dsimp only
  refine Keeps.when (Grows.of_eq ?_)
  simp

theorem keeps_execInjWrite (t : Time) (src : Nat) (value : Fin 4) (s : State) : Keeps (s.at_ t) (execInjWrite t src value s) := by
  unfold execInjWrite
  generalize s.at_ t = z
  dsimp only
  refine Keeps.when (Grows.of_eq ?_)
  simp

theorem keeps_execTileLinkMastersStop (t : Time) (s : State) : Keeps (s.at_ t) (execTileLinkMastersStop t s) := by
  unfold execTileLinkMastersStop
  generalize s.at_ t = z
  dsimp only
  refine Keeps.when (Grows.of_eq ?_)
  simp

theorem keeps_execWdaKey (t : Time) (key : Byte) (byHost : Bool) (s : State) : Keeps (s.at_ t) (execWdaKey t key byHost s) := by
  unfold execWdaKey
  generalize s.at_ t = z
  dsimp only
  refine Keeps.when (Grows.of_eq ?_)
  (repeat' split) <;> simp

theorem keeps_execWdaExpire (t : Time) (s : State) : Keeps (s.at_ t) (execWdaExpire t s) := by
  unfold execWdaExpire
  generalize s.at_ t = z
  dsimp only
  refine Keeps.when (Grows.of_eq ?_)
  simp

end Sys2Proof.Machine
end

