-- ==== Sys2Proof/Laws/KeptResets.lean ====
section
/-! SUPPORT. The operations of Machine/Resets.lean leave the parts of Laws/Kept.lean alone. -/

namespace Sys2Proof.Machine

open Sys2Proof

@[simp] theorem kept_modPwr (f : Pwr → Pwr) (s : State) : kept (modPwr f s) = kept s := by
  unfold modPwr; simp

@[simp] theorem kept_modPlinth (f : Plinth → Plinth) (s : State) : kept (modPlinth f s) = kept s := by
  unfold modPlinth; simp

@[simp] theorem kept_clockBad (s : State) : kept (clockBad s) = kept s := by
  unfold clockBad; dsimp only; (repeat' split) <;> simp

@[simp] theorem kept_clockGood (s : State) : kept (clockGood s) = kept s := by
  unfold clockGood; simp

@[simp] theorem kept_setPin (perst low : Bool) (s : State) : kept (setPin perst low s) = kept s := by
  unfold setPin; simp

@[simp] theorem kept_pinReset (perst low : Bool) (s : State) : kept (pinReset perst low s) = kept s := by
  unfold pinReset; simp

@[simp] theorem kept_plinthStarted (s : State) : kept (plinthStarted s) = kept s := by
  unfold plinthStarted; simp

@[simp] theorem kept_netStart (s : State) : kept (netStart s) = kept s := by
  unfold netStart; simp

@[simp] theorem kept_recordStart (s : State) : kept (recordStart s) = kept s := by
  unfold recordStart; simp

@[simp] theorem kept_wdaStart (s : State) : kept (wdaStart s) = kept s := by
  unfold wdaStart; simp

@[simp] theorem kept_bootAll (s : State) : kept (bootAll s) = kept s := by
  unfold bootAll; simp

@[simp] theorem kept_putCast (i : Option Image) (s : State) : kept (putCast i s) = kept s := by
  unfold putCast; simp

@[simp] theorem kept_dropItems (r : WorkRef) (s : State) : kept (dropItems r s) = kept s := by
  unfold dropItems; simp

@[simp] theorem kept_imageGone (s : State) : kept (imageGone s) = kept s := by
  unfold imageGone; (repeat' split) <;> simp_all

theorem grows_castBad (b : List Byte) (s : State) : Grows (kept s) (kept (castBad b s)) := by
  unfold castBad
  dsimp only
  refine (Grows.of_eq (kept_recordImage 4 (decodeImage b) s)).trans ?_
  generalize recordImage 4 (decodeImage b) s = z
  split
  · exact Grows.of_eq (kept_putCast _ _)
  · rw [kept_ite, kept_putCast, kept_putCast, kept_recordImage, ite_self, kept_controlWrite, kept_queueErases, kept_journalRole]
    have e : (kept (imageGone z)).part = (kept z).part := congrArg Kept.part (kept_imageGone z)
    refine (Grows.of_eq (kept_imageGone z)).trans ?_
    generalize imageGone z = y at e ⊢
    change y.img.part = z.img.part at e
    rw [← e]
    exact ⟨rfl, rfl, KeysHeld.refl _, rfl, rfl, rfl, rfl, fun h => ⟨part_set_wf _ _ _ (part_set_wf _ _ _ h.1 rfl) rfl, h.2⟩⟩

theorem grows_castLoad (s : State) : Grows (kept s) (kept (castLoad s)) := by
  unfold castLoad
  dsimp only
  refine (Grows.of_eq (kept_modImg (fun m => { m with lastGood := (partImage s m.lgPart).map decodeImage }) s (fun _ => rfl))).trans ?_
  refine Grows.ite (Grows.of_eq (kept_putCast _ _)) ?_
  split
  · exact Grows.of_eq (kept_putCast _ _)
  · exact Grows.ite (Grows.of_eq (kept_putCast _ _)) (grows_castBad _ _)

@[simp] theorem kept_armedAgain (s : State) : kept (armedAgain s) = kept s := by
  unfold armedAgain; dsimp only; (repeat' split) <;> simp

@[simp] theorem kept_reportClock (s : State) : kept (reportClock s) = kept s := by
  unfold reportClock; simp

@[simp] theorem kept_reportIntrusion (s : State) : kept (reportIntrusion s) = kept s := by
  unfold reportIntrusion; simp

@[simp] theorem kept_recordStore (ev : Nat) (s : State) : kept (recordStore ev s) = kept s := by
  unfold recordStore; simp

@[simp] theorem kept_reportIdentity (s : State) : kept (reportIdentity s) = kept s := by
  unfold reportIdentity; simp

@[simp] theorem kept_loadIdle (s : State) : kept (loadIdle s) = kept s := by
  unfold loadIdle; simp

theorem grows_hubStart (s : State) : Grows (kept s) (kept (hubStart s)) := by
  have h (a : Kept) (z : State) (f : Epochs) (g : Grows a (kept z)) : Grows a (kept { z with ep := f }) := g
  unfold hubStart
  dsimp only
  rw [kept_reportIdentity, kept_reportIntrusion, kept_reportClock, kept_endInFlight, kept_armedAgain]
  refine h _ _ _ (Grows.trans (Grows.of_eq ?_) (grows_castLoad _))
  simp

@[simp] theorem kept_clearLatches (s : State) : kept (clearLatches s) = kept s := by
  unfold clearLatches; simp

@[simp] theorem kept_reportTestmode (s : State) : kept (reportTestmode s) = kept s := by
  unfold reportTestmode; simp

@[simp] theorem kept_reportLost (s : State) : kept (reportLost s) = kept s := by
  unfold reportLost; simp

@[simp] theorem kept_unEntry (e : JEntry) (s : State) : kept (unEntry e s) = kept s := by
  unfold unEntry; dsimp only; (repeat' split) <;> simp

@[simp] theorem kept_dropUnspilled (s : State) : kept (dropUnspilled s) = kept s := by
  unfold dropUnspilled; simp

@[simp] theorem kept_porClear (s : State) : kept (porClear s) = kept s := by
  unfold porClear; simp

@[simp] theorem kept_powerFails (vhold : Nat) (s : State) : kept (powerFails vhold s) = kept s := by
  unfold powerFails; simp

@[simp] theorem kept_rejoinSets (s : State) : kept (rejoinSets s) = kept s := by
  unfold rejoinSets; simp

@[simp] theorem kept_firstJoin (s : State) : kept (firstJoin s) = kept s := by
  unfold firstJoin; simp

end Sys2Proof.Machine
end

