-- ==== Sys2Proof/Laws/KeptFirmware.lean ====
section
/-! SUPPORT. The operations of Machine/Firmware.lean leave the parts of Laws/Kept.lean alone. -/

namespace Sys2Proof.Machine

open Sys2Proof

@[simp] theorem kept_modFw (kind : Nat) (f : Fw → Fw) (s : State) : kept (modFw kind f s) = kept s := by
  unfold modFw; simp

@[simp] theorem kept_modLoad (f : FwLoad → FwLoad) (s : State) : kept (modLoad f s) = kept s := by
  unfold modLoad; simp

@[simp] theorem kept_beginLoad (window : Bool) (s : State) : kept (beginLoad window s) = kept s := by
  unfold beginLoad; simp

@[simp] theorem kept_fwGo (s : State) : kept (fwGo s) = kept s := by
  unfold fwGo; simp

@[simp] theorem kept_fwOpen (s : State) : kept (fwOpen s) = kept s := by
  unfold fwOpen; simp

@[simp] theorem kept_fwWord (w : Word) (s : State) : kept (fwWord w s) = kept s := by
  unfold fwWord; simp

@[simp] theorem kept_endLoad (i : Fin 2) (b : Option (List Byte)) (s : State) : kept (endLoad i b s) = kept s := by
  unfold endLoad; dsimp only; (repeat' split) <;> simp

@[simp] theorem kept_fwApply (s : State) : kept (fwApply s) = kept s := by
  unfold fwApply; simp

@[simp] theorem kept_goodMark (studio : Bool) (s : State) : kept (goodMark studio s) = kept s := by
  unfold goodMark; dsimp only; (repeat' split) <;> simp

end Sys2Proof.Machine
end

