-- ==== Sys2Proof/Laws/KeepsFirmware.lean ====
section
/-! SUPPORT. The meanings of Machine/Firmware.lean: each answers a next state and keeps what Laws/Kept.lean names. -/

namespace Sys2Proof.Machine

open Sys2Proof

theorem keeps_execFwGo (t : Time) (s : State) : Keeps (s.at_ t) (execFwGo t s) := by
  unfold execFwGo
  generalize s.at_ t = z
  refine Keeps.when (Grows.of_eq ?_)
  simp

theorem keeps_execFwOpen (t : Time) (s : State) : Keeps (s.at_ t) (execFwOpen t s) := by
  unfold execFwOpen
  generalize s.at_ t = z
  refine Keeps.when (Grows.of_eq ?_)
  simp

theorem keeps_execFwChunk (t : Time) (word : Word) (s : State) : Keeps (s.at_ t) (execFwChunk t word s) := by
  unfold execFwChunk
  generalize s.at_ t = z
  refine Keeps.when (Grows.of_eq ?_)
  simp

theorem keeps_execFwLoadEnd (t : Time) (image : List Byte) (readOk : Bool) (s : State) : Keeps (s.at_ t) (execFwLoadEnd t image readOk s) := by
  unfold execFwLoadEnd
  generalize s.at_ t = z
  dsimp only
  split
  · exact Keeps.noEffect _
  · refine Keeps.when (Grows.of_eq ?_)
    simp

theorem keeps_execFwApply (t : Time) (s : State) : Keeps (s.at_ t) (execFwApply t s) := by
  unfold execFwApply
  generalize s.at_ t = z
  refine Keeps.when (Grows.of_eq ?_)
  simp

theorem keeps_execGoodMark (t : Time) (studio : Bool) (s : State) : Keeps (s.at_ t) (execGoodMark t studio s) := by
  unfold execGoodMark
  generalize s.at_ t = z
  dsimp only
  refine Keeps.when (Grows.of_eq ?_)
  simp

end Sys2Proof.Machine
end

