-- ==== Sys2Proof/Laws/KeepsGroups.lean ====
section
/-! SUPPORT. The meanings of Machine/Groups.lean: each answers a next state and keeps what Laws/Kept.lean names. -/

namespace Sys2Proof.Machine

open Sys2Proof

theorem keeps_execTokVerdict (t : Time) (src : Nat) (bytes : List Byte) (s : State) : Keeps (s.at_ t) (execTokVerdict t src bytes s) := by
  unfold execTokVerdict
  generalize s.at_ t = z
  dsimp only
  split
  · exact Keeps.noEffect _
  · refine Keeps.when (Grows.of_eq ?_)
    simp

theorem keeps_execTokenDeadline (t : Time) (s : State) : Keeps (s.at_ t) (execTokenDeadline t s) := by
  unfold execTokenDeadline
  generalize s.at_ t = z
  dsimp only
  refine Keeps.when (Grows.of_eq ?_)
  simp

theorem keeps_execMemberDepart (t : Time) (group member : Nat) (s : State) : Keeps (s.at_ t) (execMemberDepart t group member s) := by
  unfold execMemberDepart
  generalize s.at_ t = z
  dsimp only
  split
  · exact Keeps.noEffect _
  · refine Keeps.when (Grows.of_eq ?_)
    simp

theorem keeps_execTokFrame (t : Time) (bytes : List Byte) (s : State) : Keeps (s.at_ t) (execTokFrame t bytes s) := by
  unfold execTokFrame
  generalize s.at_ t = z
  dsimp only
  refine Keeps.when (Grows.of_eq ?_)
  simp

end Sys2Proof.Machine
end

