-- ==== Sys2Proof/Laws/KeptHart.lean ====
section
/-! SUPPORT. The operations of Machine/Hart.lean leave the parts of Laws/Kept.lean alone. -/

namespace Sys2Proof.Machine

open Sys2Proof

@[simp] theorem kept_putTag (x : HartTag) (s : State) : kept (putTag x s) = kept s := by
  unfold putTag; simp

@[simp] theorem kept_mapOne (k : Fin 96) (addr : Nat) (m : HartMsg) (e : Nat × Rec) (s : State) : kept (mapOne k addr m e s) = kept s := by
  unfold mapOne; dsimp only; (repeat' split) <;> simp

@[simp] theorem kept_mapStatus (e : Nat × Rec) (s : State) : kept (mapStatus e s) = kept s := by
  unfold mapStatus; simp

@[simp] theorem kept_takeMessage (k : Fin 96) (addr : Nat) (m : HartMsg) (s : State) : kept (takeMessage k addr m s) = kept s := by
  unfold takeMessage; simp

@[simp] theorem kept_requestOver (k : Fin 96) (s : State) : kept (requestOver k s) = kept s := by
  unfold requestOver; simp

@[simp] theorem kept_endHost (k : Fin 96) (outcome : Nat) (data : List Byte) (s : State) : kept (endHost k outcome data s) = kept s := by
  unfold endHost; (repeat' split) <;> simp_all

@[simp] theorem kept_failAttempt (k : Fin 96) (fail : Nat) (s : State) : kept (failAttempt k fail s) = kept s := by
  unfold failAttempt; dsimp only; (repeat' split) <;> simp

@[simp] theorem kept_identified (k : Fin 96) (addr : Nat) (m : HartMsg) (s : State) : kept (identified k addr m s) = kept s := by
  unfold identified; simp

@[simp] theorem kept_hostReply (k : Fin 96) (w : Work) (addr : Nat) (m : HartMsg) (s : State) : kept (hostReply k w addr m s) = kept s := by
  unfold hostReply; dsimp only; (repeat' split) <;> simp

@[simp] theorem kept_foreignReply (k : Fin 96) (msg : Option HartMsg) (s : State) : kept (foreignReply k msg s) = kept s := by
  unfold foreignReply; dsimp only; (repeat' split) <;> simp

@[simp] theorem kept_takeReply (k : Fin 96) (bytes : List Byte) (perr : Bool) (s : State) : kept (takeReply k bytes perr s) = kept s := by
  unfold takeReply; dsimp only; (repeat' split) <;> simp

@[simp] theorem kept_takeBurst (k : Fin 96) (bytes : List Byte) (perr : Bool) (s : State) : kept (takeBurst k bytes perr s) = kept s := by
  unfold takeBurst; dsimp only; (repeat' split) <;> simp

@[simp] theorem kept_messageEnd (k : Fin 96) (a : Option Time) (s : State) : kept (messageEnd k a s) = kept s := by
  unfold messageEnd; simp

@[simp] theorem kept_budgetOut (k : Fin 96) (cut : Bool) (s : State) : kept (budgetOut k cut s) = kept s := by
  unfold budgetOut; dsimp only; (repeat' split) <;> simp

@[simp] theorem kept_hartDown (c : Nat) (t : Fin 12) (p : List Byte) (s : State) : kept (hartDown c t p s) = kept s := by
  unfold hartDown; dsimp only; (repeat' split) <;> simp

@[simp] theorem kept_hartUp (c : Nat) (t : Fin 12) (p : List Byte) (s : State) : kept (hartUp c t p s) = kept s := by
  unfold hartUp; dsimp only; (repeat' split) <;> simp

@[simp] theorem kept_startedDurable (k : Fin 96) (w : WorkRef) (s : State) : kept (startedDurable k w s) = kept s := by
  unfold startedDurable; simp

end Sys2Proof.Machine
end

