-- ==== Sys2Proof/Laws/KeepsHart.lean ====
section
/-! SUPPORT. The meanings of Machine/Hart.lean: each answers a next state and keeps what Laws/Kept.lean names. -/

namespace Sys2Proof.Machine

open Sys2Proof

theorem keeps_execHartReplyReceived (t : Time) (k : Fin 96) (bytes : List Byte) (perr : Bool) (s : State) :
    Keeps (s.at_ t) (execHartReplyReceived t k bytes perr s) := by
  unfold execHartReplyReceived
  generalize s.at_ t = z
  dsimp only
  refine Keeps.when (Grows.of_eq ?_)
  simp

theorem keeps_execHartTreplyExpiry (t : Time) (k : Fin 96) (s : State) : Keeps (s.at_ t) (execHartTreplyExpiry t k s) := by
  unfold execHartTreplyExpiry
  generalize s.at_ t = z
  dsimp only
  refine Keeps.when (Grows.of_eq ?_)
  simp

theorem keeps_execHartBudgetExpiry (t : Time) (k : Fin 96) (s : State) : Keeps (s.at_ t) (execHartBudgetExpiry t k s) := by
  unfold execHartBudgetExpiry
  generalize s.at_ t = z
  dsimp only
  refine Keeps.when (Grows.of_eq ?_)
  (repeat' split) <;> simp

theorem keeps_execHartLoopSilence (t : Time) (k : Fin 96) (s : State) : Keeps (s.at_ t) (execHartLoopSilence t k s) := by
  unfold execHartLoopSilence
  generalize s.at_ t = z
  dsimp only
  refine Keeps.when (Grows.of_eq ?_)
  simp

theorem keeps_execHartBurstFrame (t : Time) (k : Fin 96) (bytes : List Byte) (perr : Bool) (s : State) :
    Keeps (s.at_ t) (execHartBurstFrame t k bytes perr s) := by
  unfold execHartBurstFrame
  generalize s.at_ t = z
  dsimp only
  refine Keeps.when (Grows.of_eq ?_)
  simp

theorem keeps_execHartStale (t : Time) (item : Nat) (s : State) : Keeps (s.at_ t) (execHartStale t item s) := by
  unfold execHartStale
  generalize s.at_ t = z
  dsimp only
  split
  · refine Keeps.when (Grows.of_eq ?_)
    simp
  · exact Keeps.noEffect _

theorem keeps_execHartModemStart (t : Time) (k : Fin 96) (bytes : List Byte) (s : State) : Keeps (s.at_ t) (execHartModemStart t k bytes s) := by
  unfold execHartModemStart
  generalize s.at_ t = z
  dsimp only
  refine Keeps.when (Grows.of_eq ?_)
  simp

theorem keeps_execHartModemEnd (t : Time) (k : Fin 96) (bytes : List Byte) (s : State) : Keeps (s.at_ t) (execHartModemEnd t k bytes s) := by
  unfold execHartModemEnd
  generalize s.at_ t = z
  dsimp only
  refine Keeps.when (Grows.of_eq ?_)
  simp

theorem keeps_execHartModemAbort (t : Time) (k : Fin 96) (s : State) : Keeps (s.at_ t) (execHartModemAbort t k s) := by
  unfold execHartModemAbort
  generalize s.at_ t = z
  dsimp only
  refine Keeps.when (Grows.of_eq ?_)
  simp

theorem keeps_execHartTxdone (t : Time) (k : Fin 96) (s : State) : Keeps (s.at_ t) (execHartTxdone t k s) := by
  unfold execHartTxdone
  generalize s.at_ t = z
  dsimp only
  refine Keeps.when (Grows.of_eq ?_)
  simp

theorem keeps_execHartRxByte (t : Time) (k : Fin 96) (byte : Byte) (perr eom : Bool) (s : State) :
    Keeps (s.at_ t) (execHartRxByte t k byte perr eom s) := by
  unfold execHartRxByte
  generalize s.at_ t = z
  dsimp only
  refine Keeps.when (Grows.of_eq ?_)
  simp

theorem keeps_execHartQtimeExpiry (t : Time) (w : WorkRef) (s : State) : Keeps (s.at_ t) (execHartQtimeExpiry t w s) := by
  unfold execHartQtimeExpiry
  generalize s.at_ t = z
  dsimp only
  (repeat' split) <;> first | exact Keeps.noEffect _ | (refine Keeps.when (Grows.of_eq ?_); simp)

theorem keeps_execHartStartedDurable (t : Time) (w : WorkRef) (s : State) : Keeps (s.at_ t) (execHartStartedDurable t w s) := by
  unfold execHartStartedDurable
  generalize s.at_ t = z
  dsimp only
  (repeat' split) <;> first | exact Keeps.noEffect _ | (refine Keeps.when (Grows.of_eq ?_); simp)

end Sys2Proof.Machine
end

