-- ==== Sys2Proof/Laws/KeepsImages.lean ====
section
/-! SUPPORT. The meanings of Machine/Images.lean: each answers a next state and keeps what Laws/Kept.lean names. -/

namespace Sys2Proof.Machine

open Sys2Proof

theorem keeps_execImgload (t : Time) (w : WorkRef) (s : State) : Keeps (s.at_ t) (execImgload t w s) := by
  unfold execImgload
  generalize s.at_ t = z
  dsimp only
  split
  · exact Keeps.noEffect _
  · refine Keeps.when (Grows.trans (Grows.of_eq (kept_takeUp w z)) (Grows.ite (Grows.of_eq (by simp)) ?_))
    rw [kept_endWork, kept_acceptWork]
    exact grows_loadImage _ _ _

theorem keeps_execImgdiscard (t : Time) (w : WorkRef) (s : State) : Keeps (s.at_ t) (execImgdiscard t w s) := by
  unfold execImgdiscard
  generalize s.at_ t = z
  dsimp only
  refine Keeps.onImage (fun w y => ?_)
  unfold unlessArmed
  refine Grows.ite (Grows.of_eq (kept_endWork _ _ _)) ?_
  rw [kept_endWork]
  exact grows_emptyMaquette y

theorem keeps_execImgstage (t : Time) (w : WorkRef) (s : State) : Keeps (s.at_ t) (execImgstage t w s) := by
  unfold execImgstage
  generalize s.at_ t = z
  dsimp only
  refine Keeps.onImage (fun _ _ => Grows.of_eq ?_)
  simp

theorem keeps_execStagingEnd (t : Time) (s : State) : Keeps (s.at_ t) (execStagingEnd t s) := by
  unfold execStagingEnd
  generalize s.at_ t = z
  dsimp only
  split
  · exact Keeps.noEffect _
  · refine Keeps.when (Grows.of_eq ?_)
    simp

theorem keeps_execImgrehearse (t : Time) (w : WorkRef) (s : State) : Keeps (s.at_ t) (execImgrehearse t w s) := by
  unfold execImgrehearse
  generalize s.at_ t = z
  dsimp only
  refine Keeps.onImage (fun _ _ => Grows.of_eq ?_)
  simp

theorem keeps_execRehearsalEnd (t : Time) (_counts : List Word) (s : State) : Keeps (s.at_ t) (execRehearsalEnd t _counts s) := by
  unfold execRehearsalEnd
  generalize s.at_ t = z
  dsimp only
  split
  · refine Keeps.when (Grows.of_eq ?_)
    simp
  · exact Keeps.noEffect _

theorem keeps_execImgactivate (t : Time) (w : WorkRef) (s : State) : Keeps (s.at_ t) (execImgactivate t w s) := by
  unfold execImgactivate
  generalize s.at_ t = z
  dsimp only
  refine Keeps.onImage (fun _ _ => Grows.of_eq ?_)
  simp

theorem keeps_execImgrevert (t : Time) (w : WorkRef) (s : State) : Keeps (s.at_ t) (execImgrevert t w s) := by
  unfold execImgrevert
  generalize s.at_ t = z
  dsimp only
  refine Keeps.onImage (fun w y => Grows.of_eq ?_)
  unfold unlessArmed
  rw [kept_ite, kept_endWork]
  split
  · rfl
  · dsimp only
    split <;> simp

theorem keeps_execShadowBankLoaded (t : Time) (tile : Fin 12) (s : State) : Keeps (s.at_ t) (execShadowBankLoaded t tile s) := by
  unfold execShadowBankLoaded
  generalize s.at_ t = z
  dsimp only
  split
  · exact Keeps.noEffect _
  · refine Keeps.when (Grows.of_eq ?_)
    simp

theorem keeps_execRoleRecordWritten (t : Time) (s : State) : Keeps (s.at_ t) (execRoleRecordWritten t s) := by
  unfold execRoleRecordWritten
  generalize s.at_ t = z
  dsimp only
  split
  · exact Keeps.noEffect _
  · refine Keeps.when (Grows.of_eq ?_)
    simp

theorem keeps_execJnlEntry (t : Time) (joff : Word) (bytes : List Byte) (s : State) : Keeps (s.at_ t) (execJnlEntry t joff bytes s) := by
  unfold execJnlEntry
  generalize s.at_ t = z
  dsimp only
  split
  · exact Keeps.noEffect _
  · refine Keeps.when (Grows.of_eq ?_)
    rw [kept_ite, kept_takeEntries, kept_ite, kept_takeEntries, kept_mk, kept_mk]
    simp

theorem keeps_execJnlImage (t : Time) (off : Word) (bytes : List Byte) (last : Bool) (s : State) :
    Keeps (s.at_ t) (execJnlImage t off bytes last s) := by
  unfold execJnlImage
  generalize s.at_ t = z
  dsimp only
  have g (b : List Host.Cell) (y : State) (h : Memory.wf y.pair.image = true → Memory.wf b = true) :
      Grows (kept y) (kept { y with pair := { y.pair with image := b } }) := ⟨rfl, rfl, KeysHeld.refl _, rfl, rfl, rfl, rfl, fun x => ⟨x.1, h x.2⟩⟩
  refine Keeps.when (Grows.trans (g (cellWrites off.toNat bytes z.pair.image) z (cellWrites_wf _ _ _)) (Grows.ite ?_ (Grows.refl _)))
  exact (Grows.of_eq (kept_maqChanged _ _)).trans (grows_mirrorImage _)

end Sys2Proof.Machine
end

