-- ==== Sys2Proof/Laws/KeptLinkFrames.lean ====
section
/-! SUPPORT. The operations of Machine/LinkFrames.lean leave the parts of Laws/Kept.lean alone. -/

namespace Sys2Proof.Machine

open Sys2Proof

@[simp] theorem kept_timeFrame (t : Fin 12) (b : List Byte) (s : State) : kept (timeFrame t b s) = kept s := by
  unfold timeFrame; simp

@[simp] theorem kept_stateFrame (t : Fin 12) (b : List Byte) (s : State) : kept (stateFrame t b s) = kept s := by
  unfold stateFrame; simp

@[simp] theorem kept_mgtItem (t : Fin 12) (i : CfgItem) (s : State) : kept (mgtItem t i s) = kept s := by
  unfold mgtItem; (repeat' split) <;> simp

@[simp] theorem kept_downAct (t : Fin 12) (slot : Nat) (b : List Byte) (item : CfgItem) (s : State) : kept (downAct t slot b item s) = kept s := by
  unfold downAct
  split
  · rfl
  · split
    · split
      · split <;> simp
      · rfl
    · simp only [kept_ite, kept_timeFrame, kept_tcmdWord, kept_modTile, kept_stateFrame, kept_hartDown, kept_mgtItem, ite_self]

@[simp] theorem kept_statusFrame (t : Fin 12) (state lpt : Nat) (temp : Int) (fill : List Nat) (evDrop : Nat) (silent : Bool) (latches windows : List Nat) (s : State) : kept (statusFrame t state lpt temp fill evDrop silent latches windows s) = kept s := by
  unfold statusFrame; simp

@[simp] theorem kept_edgeEvent (t : Fin 12) (c : Nat) (rising : Bool) (ticks : Nat) (s : State) : kept (edgeEvent t c rising ticks s) = kept s := by
  unfold edgeEvent; dsimp only; (repeat' split) <;> simp

@[simp] theorem kept_hubEvent (t : Fin 12) (e : UpEvt) (s : State) : kept (hubEvent t e s) = kept s := by
  unfold hubEvent; simp

@[simp] theorem kept_valueFrame (t : Fin 12) (slot : Nat) (b : List Byte) (s : State) : kept (valueFrame t slot b s) = kept s := by
  unfold valueFrame; simp

@[simp] theorem kept_senseFrame (t : Fin 12) (slot : Nat) (vals : List (Nat × Nat × Nat)) (s : State) : kept (senseFrame t slot vals s) = kept s := by
  unfold senseFrame; simp

@[simp] theorem kept_techoFrame (t : Fin 12) (a b : Nat) (s : State) : kept (techoFrame t a b s) = kept s := by
  unfold techoFrame; simp

@[simp] theorem kept_upAct (t : Fin 12) (slot : Nat) (b : List Byte) (rep : UpReport) (s : State) : kept (upAct t slot b rep s) = kept s := by
  unfold upAct; (repeat' split) <;> simp_all

end Sys2Proof.Machine
end

