-- ==== Sys2Proof/Laws/KeepsLinkFrames.lean ====
section
/-! SUPPORT. The meanings of Machine/LinkFrames.lean: each answers a next state and keeps what Laws/Kept.lean names. -/

namespace Sys2Proof.Machine

open Sys2Proof

theorem keeps_execTileDownstreamFrame (t : Time) (tile : Fin 12) (ok : Bool) (dev : Nat) (bytes : List Byte) (item : CfgItem) (s : State) :
    Keeps (s.at_ t) (execTileDownstreamFrame t tile ok dev bytes item s) := by
  unfold execTileDownstreamFrame
  generalize s.at_ t = z
  dsimp only
  refine Keeps.when (Grows.of_eq ?_)
  simp

theorem keeps_execHubUpstreamFrame (t : Time) (tile : Fin 12) (ok : Bool) (dev : Nat) (bytes : List Byte) (rep : UpReport) (s : State) :
    Keeps (s.at_ t) (execHubUpstreamFrame t tile ok dev bytes rep s) := by
  unfold execHubUpstreamFrame
  generalize s.at_ t = z
  dsimp only
  refine Keeps.when (Grows.of_eq ?_)
  simp

end Sys2Proof.Machine
end

