-- ==== Sys2Proof/Laws/KeepsLinks.lean ====
section
/-! SUPPORT. The meanings of Machine/Links.lean: each answers a next state and keeps what Laws/Kept.lean names. -/

namespace Sys2Proof.Machine

open Sys2Proof

theorem keeps_execTileSupplyLow (t : Time) (tile : Fin 12) (lpt : Nat) (s : State) : Keeps (s.at_ t) (execTileSupplyLow t tile lpt s) := by
  unfold execTileSupplyLow
  generalize s.at_ t = z
  dsimp only
  refine Keeps.when (Grows.of_eq ?_)
  simp

theorem keeps_execTileSupplyGood (t : Time) (tile : Fin 12) (lpt : Nat) (held : Time) (s : State) :
    Keeps (s.at_ t) (execTileSupplyGood t tile lpt held s) := by
  unfold execTileSupplyGood
  generalize s.at_ t = z
  dsimp only
  refine Keeps.when (Grows.of_eq ?_)
  simp

theorem keeps_execBrownout (t : Time) (tile : Fin 12) (lpt : Nat) (s : State) : Keeps (s.at_ t) (execBrownout t tile lpt s) := by
  unfold execBrownout
  generalize s.at_ t = z
  dsimp only
  refine Keeps.when (Grows.of_eq ?_)
  simp

theorem keeps_execRideThroughEnd (t : Time) (tile : Fin 12) (lpt : Nat) (s : State) : Keeps (s.at_ t) (execRideThroughEnd t tile lpt s) := by
  unfold execRideThroughEnd
  generalize s.at_ t = z
  dsimp only
  refine Keeps.when (Grows.of_eq ?_)
  simp

theorem keeps_execTileStop (t : Time) (tile : Fin 12) (lpt : Nat) (s : State) : Keeps (s.at_ t) (execTileStop t tile lpt s) := by
  unfold execTileStop
  generalize s.at_ t = z
  dsimp only
  refine Keeps.when (Grows.of_eq ?_)
  simp

theorem keeps_execTileStart (t : Time) (tile : Fin 12) (lpt : Nat) (held : Time) (s : State) :
    Keeps (s.at_ t) (execTileStart t tile lpt held s) := by
  unfold execTileStart
  generalize s.at_ t = z
  dsimp only
  refine Keeps.when (Grows.of_eq ?_)
  simp

theorem keeps_execDiewarn (t : Time) (tile : Fin 12) (temp : Int) (s : State) : Keeps (s.at_ t) (execDiewarn t tile temp s) := by
  unfold execDiewarn
  generalize s.at_ t = z
  dsimp only
  refine Keeps.when (Grows.of_eq ?_)
  simp

theorem keeps_execComparatorFlash (t : Time) (tile : Fin 12) (d0 d1 : Byte) (s : State) : Keeps (s.at_ t) (execComparatorFlash t tile d0 d1 s) := by
  unfold execComparatorFlash
  generalize s.at_ t = z
  dsimp only
  refine Keeps.when (Grows.of_eq ?_)
  simp

theorem keeps_execHubReflexFlash (t : Time) (tile : Fin 12) (d0 d1 : Byte) (s : State) : Keeps (s.at_ t) (execHubReflexFlash t tile d0 d1 s) := by
  unfold execHubReflexFlash
  generalize s.at_ t = z
  dsimp only
  refine Keeps.when (Grows.of_eq ?_)
  simp

theorem keeps_execNoticeFlash (t : Time) (tile : Fin 12) (d0 d1 : Byte) (s : State) : Keeps (s.at_ t) (execNoticeFlash t tile d0 d1 s) := by
  unfold execNoticeFlash
  generalize s.at_ t = z
  dsimp only
  refine Keeps.when (Grows.of_eq ?_)
  simp

theorem keeps_execTileLinkSilent (t : Time) (tile : Fin 12) (s : State) : Keeps (s.at_ t) (execTileLinkSilent t tile s) := by
  unfold execTileLinkSilent
  generalize s.at_ t = z
  dsimp only
  refine Keeps.when (Grows.of_eq ?_)
  simp

theorem keeps_execHubLinkSilent (t : Time) (tile : Fin 12) (s : State) : Keeps (s.at_ t) (execHubLinkSilent t tile s) := by
  unfold execHubLinkSilent
  generalize s.at_ t = z
  dsimp only
  refine Keeps.when (Grows.of_eq ?_)
  simp

theorem keeps_execHubLinkResume (t : Time) (tile : Fin 12) (s : State) : Keeps (s.at_ t) (execHubLinkResume t tile s) := by
  unfold execHubLinkResume
  generalize s.at_ t = z
  dsimp only
  refine Keeps.when (Grows.of_eq ?_)
  simp

theorem keeps_execLinkGood (t : Time) (tile : Fin 12) (up : Bool) (s : State) : Keeps (s.at_ t) (execLinkGood t tile up s) := by
  unfold execLinkGood
  generalize s.at_ t = z
  dsimp only
  (repeat' split) <;> (refine Keeps.when (Grows.of_eq ?_); simp)

theorem keeps_execFclkLock (t : Time) (tile : Fin 12) (s : State) : Keeps (s.at_ t) (execFclkLock t tile s) := by
  unfold execFclkLock
  generalize s.at_ t = z
  dsimp only
  refine Keeps.when (Grows.of_eq ?_)
  simp

theorem keeps_execHoldwinExpiry (t : Time) (k : Fin 96) (s : State) : Keeps (s.at_ t) (execHoldwinExpiry t k s) := by
  unfold execHoldwinExpiry
  generalize s.at_ t = z
  dsimp only
  refine Keeps.when (Grows.of_eq ?_)
  simp

theorem keeps_execTileRestore (t : Time) (tile : Fin 12) (s : State) : Keeps (s.at_ t) (execTileRestore t tile s) := by
  unfold execTileRestore
  generalize s.at_ t = z
  dsimp only
  refine Keeps.when (Grows.of_eq ?_)
  simp

end Sys2Proof.Machine
end

