-- ==== Sys2Proof/Laws/KeepsLoops.lean ====
section
/-! SUPPORT. The meanings of Machine/Loops.lean: each answers a next state and keeps what Laws/Kept.lean names. -/

namespace Sys2Proof.Machine

open Sys2Proof

theorem keeps_execLoopSample (t : Time) (block : Fin 48) (s : State) : Keeps (s.at_ t) (execLoopSample t block s) := by
  unfold execLoopSample
  generalize s.at_ t = z
  dsimp only
  refine Keeps.when (Grows.of_eq ?_)
  simp

theorem keeps_execTotaliserIncrement (t : Time) (n : Fin 96) (s : State) : Keeps (s.at_ t) (execTotaliserIncrement t n s) := by
  unfold execTotaliserIncrement
  generalize s.at_ t = z
  dsimp only
  refine Keeps.when (Grows.of_eq ?_)
  simp

end Sys2Proof.Machine
end

