-- ==== Sys2Proof/Laws/KeptStore.lean ====
section
/-! SUPPORT. The operations of Machine/Store.lean leave the parts of Laws/Kept.lean alone. -/

namespace Sys2Proof.Machine

open Sys2Proof

@[simp] theorem kept_replaceBlock (block : Nat) (s : State) : kept (replaceBlock block s) = kept s := by
  unfold replaceBlock; simp

@[simp] theorem kept_eraseDone (block purpose : Nat) (s : State) : kept (eraseDone block purpose s) = kept s := by
  unfold eraseDone; simp

@[simp] theorem kept_fitRing (s : State) : kept (fitRing s) = kept s := by
  unfold fitRing; simp

@[simp] theorem kept_storeRecords (n : Nat) (s : State) : kept (storeRecords n s) = kept s := by
  unfold storeRecords; simp

@[simp] theorem kept_trimWritten (s : State) : kept (trimWritten s) = kept s := by
  unfold trimWritten; simp

@[simp] theorem kept_serveJob (j : StoreJob) (s : State) : kept (serveJob j s) = kept s := by
  unfold serveJob; dsimp only; (repeat' split) <;> simp

end Sys2Proof.Machine
end

