-- ==== Sys2Proof/Laws/KeptRecorderRows.lean ====
section
/-! SUPPORT. The operations of Machine/RecorderRows.lean leave the parts of Laws/Kept.lean alone. -/

namespace Sys2Proof.Machine

open Sys2Proof

@[simp] theorem kept_modRec (f : Recorder → Recorder) (s : State) : kept (modRec f s) = kept s := by
  unfold modRec; simp

@[simp] theorem kept_repeatOpen (r : RecRec) (e : RecEvt) (aggr : Bool) (s : State) : kept (repeatOpen r e aggr s) = kept s := by
  unfold repeatOpen; simp

@[simp] theorem kept_noteDone (e : RecEvt) (seq : Word) (s : State) : kept (noteDone e seq s) = kept s := by
  unfold noteDone; (repeat' split) <;> simp_all

@[simp] theorem kept_openRecord (e : RecEvt) (s : State) : kept (openRecord e s) = kept s := by
  unfold openRecord; simp

@[simp] theorem kept_takeEvent (e : RecEvt) (s : State) : kept (takeEvent e s) = kept s := by
  unfold takeEvent; dsimp only; (repeat' split) <;> simp

@[simp] theorem kept_summaries (s : State) : kept (summaries s) = kept s := by
  unfold summaries; simp

@[simp] theorem kept_closeMinute (t : Nat) (s : State) : kept (closeMinute t s) = kept s := by
  unfold closeMinute; simp

@[simp] theorem kept_thriftEdge (e : RecEvt) (s : State) : kept (thriftEdge e s) = kept s := by
  unfold thriftEdge; dsimp only; (repeat' split) <;> simp

@[simp] theorem kept_dropNote (s : State) : kept (dropNote s) = kept s := by
  unfold dropNote; simp

@[simp] theorem kept_recordThrift (ev rate bytes : Nat) (s : State) : kept (recordThrift ev rate bytes s) = kept s := by
  unfold recordThrift; simp

@[simp] theorem kept_lostHour (s : State) : kept (lostHour s) = kept s := by
  unfold lostHour; (repeat' split) <;> simp_all

@[simp] theorem kept_thriftTurn (day hour : Nat × Nat) (s : State) : kept (thriftTurn day hour s) = kept s := by
  unfold thriftTurn; simp

@[simp] theorem kept_capTurn (day : Nat × Nat) (s : State) : kept (capTurn day s) = kept s := by
  unfold capTurn; simp

@[simp] theorem kept_evalThrift (s : State) : kept (evalThrift s) = kept s := by
  unfold evalThrift; simp

@[simp] theorem kept_eq0TurnOn (s : State) : kept (eq0TurnOn s) = kept s := by
  unfold eq0TurnOn; simp

@[simp] theorem kept_eq0Set (on : Bool) (s : State) : kept (eq0Set on s) = kept s := by
  unfold eq0Set; simp

@[simp] theorem kept_eq0Put (b : List Byte) (next : Word) (s : State) : kept (eq0Put b next s) = kept s := by
  unfold eq0Put; simp

@[simp] theorem kept_rdseqSet (seq : Word) (s : State) : kept (rdseqSet seq s) = kept s := by
  unfold rdseqSet; simp

end Sys2Proof.Machine
end

