-- ==== Sys2Proof/Laws/KeptSetup.lean ====
section
/-! SUPPORT. The operations of Machine/Setup.lean leave the parts of Laws/Kept.lean alone. -/

namespace Sys2Proof.Machine

open Sys2Proof

@[simp] theorem kept_masterWrite (off requester : Nat) (ok : Bool) (f : State → State) (s : State) (hf : ∀ z, kept (f z) = kept z) : kept (masterWrite off requester ok f s) = kept s := by
  unfold masterWrite; (repeat' split) <;> simp_all

@[simp] theorem kept_setT0 (requester v : Nat) (s : State) : kept (setT0 requester v s) = kept s := by
  unfold setT0
  exact kept_masterWrite _ _ _ _ _ (fun _ => rfl)

@[simp] theorem kept_setP (requester v : Nat) (s : State) : kept (setP requester v s) = kept s := by
  unfold setP
  exact kept_masterWrite _ _ _ _ _ (fun _ => rfl)

@[simp] theorem kept_submitPeriod (requester : Nat) (s : State) : kept (submitPeriod requester s) = kept s := by
  unfold submitPeriod
  exact kept_masterWrite _ _ _ _ _ (fun _ => rfl)

@[simp] theorem kept_stepTime (requester : Nat) (s : State) : kept (stepTime requester s) = kept s := by
  unfold stepTime
  exact kept_masterWrite _ _ _ _ _ (fun _ => rfl)

@[simp] theorem kept_renumber (a b : Nat) (s : State) : kept (renumber a b s) = kept s := by
  unfold renumber; simp

@[simp] theorem kept_setNumber (num : Nat) (valid : Bool) (s : State) : kept (setNumber num valid s) = kept s := by
  unfold setNumber; simp

@[simp] theorem kept_numWrite (v : Nat) (s : State) : kept (numWrite v s) = kept s := by
  unfold numWrite; simp

@[simp] theorem kept_trainPort (on : Bool) (p : Fin 5) (s : State) : kept (trainPort on p s) = kept s := by
  unfold trainPort; simp

@[simp] theorem kept_couplerWrite (requester : Nat) (on : Bool) (s : State) : kept (couplerWrite requester on s) = kept s := by
  unfold couplerWrite; simp

@[simp] theorem kept_rdselSet (v : Nat) (s : State) : kept (rdselSet v s) = kept s := by
  unfold rdselSet; simp

@[simp] theorem kept_secStart (op : Nat) (slot : Fin 4) (confirm requester : Nat) (s : State) : kept (secStart op slot confirm requester s) = kept s := by
  unfold secStart; simp

theorem grows_programKey (i : Fin 4) (s : State) : Grows (kept s) (kept (programKey i s).1) := by
  unfold programKey
  split
  · exact Grows.refl _
  · rename_i h
    exact ⟨rfl, rfl, KeysHeld.upd _ _ _ (fun d x => absurd (by change (s.sec.ikey.get i).digest = some d at x; rw [x]; rfl) h) id, rfl, rfl, rfl, rfl, id⟩

@[simp] theorem kept_takeToken (s : State) : kept (takeToken s).1 = kept s := by
  unfold takeToken; dsimp only; (repeat' split) <;> simp

theorem grows_secEffect (op : Nat) (slot : Fin 4) (s : State) : Grows (kept s) (kept (secEffect op slot s).1) := by
  unfold secEffect
  split
  · exact grows_programKey slot s
  · exact ⟨rfl, rfl, KeysHeld.upd _ _ _ (fun _ => id) (fun _ => rfl), rfl, rfl, rfl, rfl, id⟩
  · exact Grows.of_eq (kept_takeToken s)
  · exact Grows.of_eq rfl

end Sys2Proof.Machine
end

