-- ==== Sys2Proof/Laws/KeptRegisters.lean ====
section
/-! SUPPORT. The operations of Machine/Registers.lean leave the parts of Laws/Kept.lean alone. -/

namespace Sys2Proof.Machine

open Sys2Proof

@[simp] theorem kept_holdLo (requester off v : Nat) (s : State) : kept (holdLo requester off v s) = kept s := by
  unfold holdLo; simp

@[simp] theorem kept_dropLo (requester off : Nat) (s : State) : kept (dropLo requester off s) = kept s := by
  unfold dropLo; simp

@[simp] theorem kept_pairWrite (requester lo off v : Nat) (s : State) : kept (pairWrite requester lo off v s) = kept s := by
  unfold pairWrite; simp

@[simp] theorem kept_usePage (requester page : Nat) (s : State) : kept (usePage requester page s) = kept s := by
  unfold usePage; simp

@[simp] theorem kept_badAcc (s : State) : kept (badAcc s) = kept s := by
  unfold badAcc; simp

@[simp] theorem kept_writeGlb (requester off v : Nat) (s : State) : kept (writeGlb requester off v s) = kept s := by
  unfold writeGlb; simp

@[simp] theorem kept_writeTime (requester off v : Nat) (s : State) : kept (writeTime requester off v s) = kept s := by
  unfold writeTime; dsimp only; (repeat' split) <;> simp

@[simp] theorem kept_writePelCfg (requester v : Nat) (s : State) : kept (writePelCfg requester v s) = kept s := by
  unfold writePelCfg; simp

@[simp] theorem kept_writeCr (requester : Nat) (n : Fin 64) (off v : Nat) (s : State) : kept (writeCr requester n off v s) = kept s := by
  unfold writeCr; dsimp only; (repeat' split) <;> simp

@[simp] theorem kept_writeCq (requester : Nat) (q : Fin 64) (off v : Nat) (s : State) : kept (writeCq requester q off v s) = kept s := by
  unfold writeCq; dsimp only; (repeat' split) <;> simp

@[simp] theorem kept_writeIq (requester : Nat) (n : Fin 16) (off v : Nat) (s : State) : kept (writeIq requester n off v s) = kept s := by
  unfold writeIq; dsimp only; (repeat' split) <;> simp

@[simp] theorem kept_writeEq0 (requester off v : Nat) (s : State) : kept (writeEq0 requester off v s) = kept s := by
  unfold writeEq0; (repeat' split) <;> simp_all

@[simp] theorem kept_writeRing (requester off v : Nat) (s : State) : kept (writeRing requester off v s) = kept s := by
  unfold writeRing; (repeat' split) <;> simp_all

@[simp] theorem kept_writeFltCtl (v : Nat) (s : State) : kept (writeFltCtl v s) = kept s := by
  unfold writeFltCtl; simp

@[simp] theorem kept_fltField (id field old new : Nat) (s : State) : kept (fltField id field old new s) = kept s := by
  unfold fltField; simp

@[simp] theorem kept_writeSource (requester id half v : Nat) (s : State) : kept (writeSource requester id half v s) = kept s := by
  unfold writeSource; simp

@[simp] theorem kept_wdhEnable (on : Bool) (s : State) : kept (wdhEnable on s) = kept s := by
  unfold wdhEnable; simp

@[simp] theorem kept_writeWdg (requester off v : Nat) (s : State) : kept (writeWdg requester off v s) = kept s := by
  unfold writeWdg; simp

@[simp] theorem kept_writeNvs (requester off v : Nat) (s : State) : kept (writeNvs requester off v s) = kept s := by
  unfold writeNvs; simp

@[simp] theorem kept_writeCu (requester : Nat) (n : Fin 4) (off v : Nat) (s : State) : kept (writeCu requester n off v s) = kept s := by
  unfold writeCu; dsimp only; (repeat' split) <;> simp

@[simp] theorem kept_writeSec (requester off v : Nat) (s : State) : kept (writeSec requester off v s) = kept s := by
  have h1 (k : List Byte) : kept { s with sec := { s.sec with keyData := k } } = kept s := rfl
  have h2 (k : List Byte) : kept { s with sec := { s.sec with token := k } } = kept s := rfl
  unfold writeSec
  have ite (c : Prop) [Decidable c] (a b : State) (h : kept a = kept s) (g : kept b = kept s) : kept (if c then a else b) = kept s := by
    split <;> assumption
  refine ite _ _ _ (kept_recordRefused _ _ _) (ite _ _ _ (kept_secStart _ _ _ _ _) (ite _ _ _ (h1 _) (ite _ _ _ (h2 _) rfl)))

@[simp] theorem kept_regWrite (requester off v : Nat) (s : State) : kept (regWrite requester off v s) = kept s := by
  unfold regWrite
  have ite (c : Prop) [Decidable c] (a b : State) (h : kept a = kept s) (g : kept b = kept s) : kept (if c then a else b) = kept s := by
    split <;> assumption
  refine ite _ _ _ (ite _ _ _ (kept_badAcc _) (kept_recordRefused _ _ _)) ?_
  refine ite _ _ _ (kept_writeTime _ _ _ _) ?_
  refine ite _ _ _ (kept_writeNvs _ _ _ _) ?_
  cases plainMask off with
  | some m => exact ite _ _ _ ((kept_chooseUpstream _).trans (kept_setReg _ _ _)) (kept_setReg _ _ _)
  | none =>
    refine ite _ _ _ (kept_writeGlb _ _ _ _) ?_
    refine ite _ _ _ (kept_numWrite _ _) ?_
    refine ite _ _ _ (kept_writePelCfg _ _ _) ?_
    refine ite _ _ _ (kept_writeRing _ _ _ _) ?_
    refine ite _ _ _ (kept_writeFltCtl _ _) ?_
    refine ite _ _ _ (kept_writeWdg _ _ _ _) ?_
    refine ite _ _ _ (kept_writeSource _ _ _ _ _) ?_
    refine ite _ _ _ (kept_rdseqSet _ _) ?_
    refine ite _ _ _ ?_ (ite _ _ _ (kept_writeSec _ _ _ _) rfl)
    cases asFin 4 ((off - 0x4400) / 64) with
    | some n => exact kept_writeCu _ _ _ _ _
    | none => rfl

@[simp] theorem kept_barWrite (requester off size : Nat) (value : BitVec 64) (s : State) : kept (barWrite requester off size value s) = kept s := by
  unfold barWrite
  rw [kept_ite, kept_regWrite, kept_ite, kept_regWrite, kept_regWrite, kept_badAcc, ite_self, ite_self]

@[simp] theorem kept_withOpen (off v : Nat) (s : State) : kept (withOpen off v s).2 = kept s := by
  unfold withOpen; dsimp only; (repeat' split) <;> simp

@[simp] theorem kept_regRead (requester off : Nat) (s : State) : kept (regRead requester off s).2 = kept s := by
  unfold regRead; dsimp only; (repeat' split) <;> simp

end Sys2Proof.Machine
end

