-- ==== Sys2Proof/Laws/KeptMgt.lean ====
section
/-! SUPPORT. The operations of Machine/Mgt.lean leave the parts of Laws/Kept.lean alone. -/

namespace Sys2Proof.Machine

open Sys2Proof

@[simp] theorem kept_mgReadAll (requester : Nat) (l : List Nat) (s : State) : kept (mgReadAll requester l s).2 = kept s := by
  induction l generalizing s with
  | nil => rfl
  | cons x xs ih => unfold mgReadAll; simp [ih]

@[simp] theorem kept_mgWriteAll (requester off count : Nat) (data : List Byte) (s : State) :
    kept (mgWriteAll requester off count data s) = kept s := by
  unfold mgWriteAll
  exact kept_forEach _ _ _ (fun _ _ => kept_regWrite _ _ _ _)

@[simp] theorem kept_keepReply (src : Nat) (mtag : BitVec 16) (b : List Byte) (s : State) : kept (keepReply src mtag b s) = kept s := by
  unfold keepReply; simp

@[simp] theorem kept_mgReply (src : Nat) (b reply : List Byte) (s : State) : kept (mgReply src b reply s) = kept s := by
  unfold mgReply; simp

@[simp] theorem kept_mgOnce (src : Nat) (b : List Byte) (f : State → State) (s : State) (hf : ∀ z, kept (f z) = kept z) : kept (mgOnce src b f s) = kept s := by
  unfold mgOnce; (repeat' split) <;> simp_all

@[simp] theorem kept_mgServeRead (src : Nat) (b : List Byte) (s : State) : kept (mgServeRead src b s) = kept s := by
  unfold mgServeRead
  rw [kept_ite, kept_mgReply, kept_ite, kept_mgReply, kept_mgReply, kept_mgReadAll, ite_self, ite_self]

@[simp] theorem kept_mgServeWrite (src : Nat) (b : List Byte) (s : State) : kept (mgServeWrite src b s) = kept s := by
  unfold mgServeWrite
  dsimp only
  generalize mgWriteStat s src (mgOff b) (mgCount b) = st
  split
  · rw [kept_mgWriteAll, kept_mgReply]
  · rw [kept_recordRefused, kept_mgReply]
  · rw [kept_mgReply]

@[simp] theorem kept_setnumReply (dst : Nat) (b : List Byte) (s : State) : kept (setnumReply dst b s) = kept s := by
  unfold setnumReply; simp

@[simp] theorem kept_serveSetnum (src : Nat) (b : List Byte) (s : State) : kept (serveSetnum src b s) = kept s := by
  unfold serveSetnum; dsimp only; (repeat' split) <;> simp

@[simp] theorem kept_mgSend (target : Nat) (b : List Byte) (s : State) : kept (mgSend target b s) = kept s := by
  unfold mgSend; simp

@[simp] theorem kept_mgRequest (w : Work) (target op off count : Nat) (data : List Byte) (s : State) : kept (mgRequest w target op off count data s) = kept s := by
  unfold mgRequest; simp

@[simp] theorem kept_mgFinish (dev flags op : Nat) (w : WorkRef) (mstat : Nat) (data : List Byte) (s : State) : kept (mgFinish dev flags op w mstat data s) = kept s := by
  unfold mgFinish; simp

@[simp] theorem kept_mgSelfRead (w : Work) (off count : Nat) (s : State) : kept (mgSelfRead w off count s) = kept s := by
  unfold mgSelfRead
  rw [kept_ite, kept_mgFinish, kept_mgFinish, kept_mgReadAll, ite_self]

@[simp] theorem kept_mgSelfWrite (w : Work) (off count : Nat) (data : List Byte) (s : State) : kept (mgSelfWrite w off count data s) = kept s := by
  unfold mgSelfWrite
  dsimp only
  generalize mgWriteStat s s.net.num off count = st
  split
  · rw [kept_mgWriteAll, kept_mgFinish]
  · rw [kept_recordRefused, kept_mgFinish]
  · rw [kept_mgFinish]

@[simp] theorem kept_mgRemote (w : Work) (d op off count : Nat) (data : List Byte) (s : State) : kept (mgRemote w d op off count data s) = kept s := by
  unfold mgRemote; simp

end Sys2Proof.Machine
end

