-- ==== Sys2Proof/Laws/KeepsMgt.lean ====
section
/-! SUPPORT. The meanings of Machine/Mgt.lean: each answers a next state and keeps what Laws/Kept.lean names. -/

namespace Sys2Proof.Machine

open Sys2Proof

theorem keeps_execMgtFrameRead (t : Time) (src : Nat) (bytes : List Byte) (s : State) : Keeps (s.at_ t) (execMgtFrameRead t src bytes s) := by
  unfold execMgtFrameRead
  generalize s.at_ t = z
  dsimp only
  refine Keeps.when (Grows.of_eq ?_)
  simp

theorem keeps_execMgtFrameWrite (t : Time) (src : Nat) (bytes : List Byte) (s : State) : Keeps (s.at_ t) (execMgtFrameWrite t src bytes s) := by
  unfold execMgtFrameWrite
  generalize s.at_ t = z
  dsimp only
  refine Keeps.when (Grows.of_eq ?_)
  simp

theorem keeps_execMgtFrameSetnum (t : Time) (src : Nat) (bytes : List Byte) (s : State) : Keeps (s.at_ t) (execMgtFrameSetnum t src bytes s) := by
  unfold execMgtFrameSetnum
  generalize s.at_ t = z
  dsimp only
  refine Keeps.when (Grows.of_eq ?_)
  simp

theorem keeps_execMgtread (t : Time) (w : WorkRef) (s : State) : Keeps (s.at_ t) (execMgtread t w s) := by
  unfold execMgtread
  generalize s.at_ t = z
  refine Keeps.onWork (fun _ _ => Grows.of_eq ?_)
  (repeat' split) <;> simp

theorem keeps_execMgtwrite (t : Time) (w : WorkRef) (s : State) : Keeps (s.at_ t) (execMgtwrite t w s) := by
  unfold execMgtwrite
  generalize s.at_ t = z
  refine Keeps.onWork (fun _ _ => Grows.of_eq ?_)
  (repeat' split) <;> simp

theorem keeps_execSetnum (t : Time) (w : WorkRef) (s : State) : Keeps (s.at_ t) (execSetnum t w s) := by
  unfold execSetnum
  generalize s.at_ t = z
  refine Keeps.onWork (fun _ _ => Grows.of_eq ?_)
  simp

theorem keeps_execMgtReply (t : Time) (src : Nat) (bytes : List Byte) (s : State) : Keeps (s.at_ t) (execMgtReply t src bytes s) := by
  unfold execMgtReply
  generalize s.at_ t = z
  dsimp only
  split
  · exact Keeps.noEffect _
  · refine Keeps.when (Grows.of_eq ?_)
    simp

theorem keeps_execMgtResend (t : Time) (mtag : BitVec 16) (s : State) : Keeps (s.at_ t) (execMgtResend t mtag s) := by
  unfold execMgtResend
  generalize s.at_ t = z
  dsimp only
  split
  · exact Keeps.noEffect _
  · refine Keeps.when (Grows.of_eq ?_)
    simp

end Sys2Proof.Machine
end

