-- ==== Sys2Proof/Laws/KeepsOpcodes.lean ====
section
/-! SUPPORT. The meanings of Machine/Opcodes.lean: each answers a next state and keeps what Laws/Kept.lean names. -/

namespace Sys2Proof.Machine

open Sys2Proof

theorem keeps_execTagwrite (t : Time) (w : WorkRef) (s : State) : Keeps (s.at_ t) (execTagwrite t w s) := by
  unfold execTagwrite
  generalize s.at_ t = z
  refine Keeps.onWork (fun _ _ => Grows.of_eq ?_)
  simp

theorem keeps_execTagwriten (t : Time) (w : WorkRef) (s : State) : Keeps (s.at_ t) (execTagwriten t w s) := by
  unfold execTagwriten
  generalize s.at_ t = z
  refine Keeps.onWork (fun _ _ => Grows.of_eq ?_)
  simp

theorem keeps_execRestoreack (t : Time) (w : WorkRef) (s : State) : Keeps (s.at_ t) (execRestoreack t w s) := by
  unfold execRestoreack
  generalize s.at_ t = z
  refine Keeps.onWork (fun _ _ => Grows.of_eq ?_)
  simp

theorem keeps_execOverride (t : Time) (w : WorkRef) (s : State) : Keeps (s.at_ t) (execOverride t w s) := by
  unfold execOverride
  generalize s.at_ t = z
  refine Keeps.onWork (fun _ _ => Grows.of_eq ?_)
  simp

theorem keeps_execOvrelease (t : Time) (w : WorkRef) (s : State) : Keeps (s.at_ t) (execOvrelease t w s) := by
  unfold execOvrelease
  generalize s.at_ t = z
  refine Keeps.onWork (fun _ _ => Grows.of_eq ?_)
  simp

theorem keeps_execCouch (t : Time) (w : WorkRef) (s : State) : Keeps (s.at_ t) (execCouch t w s) := by
  unfold execCouch
  generalize s.at_ t = z
  refine Keeps.onWork (fun _ _ => Grows.of_eq ?_)
  simp

theorem keeps_execNop (t : Time) (w : WorkRef) (s : State) : Keeps (s.at_ t) (execNop t w s) := by
  unfold execNop
  generalize s.at_ t = z
  refine Keeps.onWork (fun _ _ => Grows.of_eq ?_)
  simp

theorem keeps_execFence (t : Time) (w : WorkRef) (s : State) : Keeps (s.at_ t) (execFence t w s) := by
  unfold execFence
  generalize s.at_ t = z
  dsimp only
  (repeat' split) <;> first | exact Keeps.noEffect _ | (refine Keeps.onWork (fun _ _ => Grows.of_eq ?_); simp)

theorem keeps_execTagread (t : Time) (w : WorkRef) (s : State) : Keeps (s.at_ t) (execTagread t w s) := by
  unfold execTagread
  generalize s.at_ t = z
  refine Keeps.onWork (fun _ _ => Grows.of_eq ?_)
  simp

theorem keeps_execHarttx (t : Time) (w : WorkRef) (s : State) : Keeps (s.at_ t) (execHarttx t w s) := by
  unfold execHarttx
  generalize s.at_ t = z
  refine Keeps.onWork (fun _ _ => Grows.of_eq ?_)
  (repeat' split) <;> simp

theorem keeps_execTrimarm (t : Time) (w : WorkRef) (s : State) : Keeps (s.at_ t) (execTrimarm t w s) := by
  unfold execTrimarm
  generalize s.at_ t = z
  refine Keeps.onWork (fun _ _ => Grows.of_eq ?_)
  (repeat' split) <;> simp

theorem keeps_execTrimdisarm (t : Time) (w : WorkRef) (s : State) : Keeps (s.at_ t) (execTrimdisarm t w s) := by
  unfold execTrimdisarm
  generalize s.at_ t = z
  refine Keeps.onWork (fun _ _ => Grows.of_eq ?_)
  simp

theorem keeps_execTrimclear (t : Time) (w : WorkRef) (s : State) : Keeps (s.at_ t) (execTrimclear t w s) := by
  unfold execTrimclear
  generalize s.at_ t = z
  refine Keeps.onWork (fun _ _ => Grows.of_eq ?_)
  simp

theorem keeps_execRelease (t : Time) (w : WorkRef) (s : State) : Keeps (s.at_ t) (execRelease t w s) := by
  unfold execRelease
  generalize s.at_ t = z
  refine Keeps.onWork (fun _ _ => Grows.of_eq ?_)
  try dsimp only
  repeat' first | (simp ; done) | (refine (kept_forEach _ _ _ ?_).trans ?_ <;> intros) | split | (simp; first | split | (refine (kept_forEach _ _ _ ?_).trans ?_ <;> intros))

theorem keeps_execTest (t : Time) (w : WorkRef) (s : State) : Keeps (s.at_ t) (execTest t w s) := by
  unfold execTest
  generalize s.at_ t = z
  refine Keeps.onWork (fun _ _ => Grows.of_eq ?_)
  (repeat' split) <;> simp

theorem keeps_execReflexrel (t : Time) (w : WorkRef) (s : State) : Keeps (s.at_ t) (execReflexrel t w s) := by
  unfold execReflexrel
  generalize s.at_ t = z
  refine Keeps.onWork (fun _ _ => Grows.of_eq ?_)
  simp

theorem keeps_execRecread (t : Time) (w : WorkRef) (s : State) : Keeps (s.at_ t) (execRecread t w s) := by
  unfold execRecread
  generalize s.at_ t = z
  refine Keeps.onWork (fun _ _ => Grows.of_eq ?_)
  simp

theorem keeps_execRecnote (t : Time) (w : WorkRef) (s : State) : Keeps (s.at_ t) (execRecnote t w s) := by
  unfold execRecnote
  generalize s.at_ t = z
  dsimp only
  split
  · exact Keeps.noEffect _
  · refine Keeps.onWork (fun _ _ => Grows.of_eq ?_)
    simp

theorem keeps_execCujob (t : Time) (w : WorkRef) (s : State) : Keeps (s.at_ t) (execCujob t w s) := by
  unfold execCujob
  generalize s.at_ t = z
  refine Keeps.onWork (fun _ _ => Grows.of_eq ?_)
  (repeat' split) <;> simp

theorem keeps_execSeize (t : Time) (w : WorkRef) (s : State) : Keeps (s.at_ t) (execSeize t w s) := by
  unfold execSeize
  generalize s.at_ t = z
  refine Keeps.onWork (fun _ _ => Grows.of_eq ?_)
  simp

theorem keeps_execYield (t : Time) (w : WorkRef) (s : State) : Keeps (s.at_ t) (execYield t w s) := by
  unfold execYield
  generalize s.at_ t = z
  refine Keeps.onWork (fun _ _ => Grows.of_eq ?_)
  simp

end Sys2Proof.Machine
end

