-- ==== Sys2Proof/Laws/KeepsPairs.lean ====
section
/-! SUPPORT. The meanings of Machine/Pairs.lean: each answers a next state and keeps what Laws/Kept.lean names. -/

namespace Sys2Proof.Machine

open Sys2Proof

theorem keeps_execShdSend (t : Time) (s : State) : Keeps (s.at_ t) (execShdSend t s) := by
  unfold execShdSend
  generalize s.at_ t = z
  dsimp only
  refine Keeps.when (Grows.of_eq ?_)
  simp

theorem keeps_execShdReceived (t : Time) (bytes : List Byte) (s : State) : Keeps (s.at_ t) (execShdReceived t bytes s) := by
  unfold execShdReceived
  generalize s.at_ t = z
  dsimp only
  refine Keeps.when (Grows.of_eq ?_)
  simp

theorem keeps_execOrphwaitExpiry (t : Time) (s : State) : Keeps (s.at_ t) (execOrphwaitExpiry t s) := by
  unfold execOrphwaitExpiry
  generalize s.at_ t = z
  dsimp only
  refine Keeps.when (Grows.of_eq ?_)
  simp

theorem keeps_execArmedLinkLoss (t : Time) (s : State) : Keeps (s.at_ t) (execArmedLinkLoss t s) := by
  unfold execArmedLinkLoss
  generalize s.at_ t = z
  dsimp only
  refine Keeps.when (Grows.of_eq ?_)
  simp

theorem keeps_execPartneredLinkLoss (t : Time) (s : State) : Keeps (s.at_ t) (execPartneredLinkLoss t s) := by
  unfold execPartneredLinkLoss
  generalize s.at_ t = z
  dsimp only
  refine Keeps.when (Grows.of_eq ?_)
  simp

theorem keeps_execJnlState (t : Time) (bytes : List Byte) (s : State) : Keeps (s.at_ t) (execJnlState t bytes s) := by
  unfold execJnlState
  generalize s.at_ t = z
  dsimp only
  refine Keeps.when (Grows.of_eq ?_)
  simp

theorem keeps_execCchCouchset (t : Time) (epoch seat : Nat) (s : State) : Keeps (s.at_ t) (execCchCouchset t epoch seat s) := by
  unfold execCchCouchset
  generalize s.at_ t = z
  dsimp only
  refine Keeps.when (Grows.of_eq ?_)
  simp

theorem keeps_execCchCouchgo (t : Time) (epoch stamp : Nat) (s : State) : Keeps (s.at_ t) (execCchCouchgo t epoch stamp s) := by
  unfold execCchCouchgo
  generalize s.at_ t = z
  dsimp only
  split
  · refine Keeps.when (Grows.of_eq ?_)
    simp
  · exact Keeps.noEffect _

theorem keeps_execCouchStep (t : Time) (s : State) : Keeps (s.at_ t) (execCouchStep t s) := by
  unfold execCouchStep
  generalize s.at_ t = z
  dsimp only
  split
  · exact Keeps.noEffect _
  · refine Keeps.when (Grows.of_eq ?_)
    simp

theorem keeps_execCouchHartWindowEnd (t : Time) (s : State) : Keeps (s.at_ t) (execCouchHartWindowEnd t s) := by
  unfold execCouchHartWindowEnd
  generalize s.at_ t = z
  dsimp only
  refine Keeps.when (Grows.of_eq ?_)
  simp

theorem keeps_execCchCouchend (t : Time) (epoch : Nat) (s : State) : Keeps (s.at_ t) (execCchCouchend t epoch s) := by
  unfold execCchCouchend
  generalize s.at_ t = z
  dsimp only
  split
  · refine Keeps.when (Grows.of_eq ?_)
    simp
  · exact Keeps.noEffect _

theorem keeps_execCchCouchabort (t : Time) (epoch : Nat) (s : State) : Keeps (s.at_ t) (execCchCouchabort t epoch s) := by
  unfold execCchCouchabort
  generalize s.at_ t = z
  dsimp only
  split
  · refine Keeps.when (Grows.of_eq ?_)
    simp
  · exact Keeps.noEffect _

theorem keeps_execCchYield (t : Time) (_epoch stamp _reason : Nat) (s : State) : Keeps (s.at_ t) (execCchYield t _epoch stamp _reason s) := by
  unfold execCchYield
  generalize s.at_ t = z
  dsimp only
  refine Keeps.when (Grows.of_eq ?_)
  simp

theorem keeps_execCchTaken (t : Time) (_epoch _stamp : Nat) (s : State) : Keeps (s.at_ t) (execCchTaken t _epoch _stamp s) := by
  unfold execCchTaken
  generalize s.at_ t = z
  dsimp only
  refine Keeps.when (Grows.of_eq ?_)
  simp

theorem keeps_execWitnessAssert (t : Time) (equal still : Time) (field : List (Fin 96 × Int × Time)) (s : State) :
    Keeps (s.at_ t) (execWitnessAssert t equal still field s) := by
  unfold execWitnessAssert
  generalize s.at_ t = z
  dsimp only
  refine Keeps.when (Grows.of_eq ?_)
  simp

theorem keeps_execYieldHoldoffEnd (t : Time) (s : State) : Keeps (s.at_ t) (execYieldHoldoffEnd t s) := by
  unfold execYieldHoldoffEnd
  generalize s.at_ t = z
  dsimp only
  split
  · exact Keeps.noEffect _
  · refine Keeps.when (Grows.of_eq ?_)
    simp

end Sys2Proof.Machine
end

