-- ==== Sys2Proof/Laws/KeepsPelrun.lean ====
section
/-! SUPPORT. The meanings of Machine/Pelrun.lean: each answers a next state and keeps what Laws/Kept.lean names. -/

namespace Sys2Proof.Machine

open Sys2Proof

theorem keeps_execPortUp (t : Time) (port : Fin 5) (held : Time) (s : State) : Keeps (s.at_ t) (execPortUp t port held s) := by
  unfold execPortUp
  generalize s.at_ t = z
  dsimp only
  refine Keeps.when (Grows.of_eq ?_)
  simp

theorem keeps_execPortDown (t : Time) (port : Fin 5) (s : State) : Keeps (s.at_ t) (execPortDown t port s) := by
  unfold execPortDown
  generalize s.at_ t = z
  dsimp only
  refine Keeps.when (Grows.of_eq ?_)
  simp

theorem keeps_execPelrunFrame (t : Time) (port : Fin 5) (bytes : List Byte) (fin : FrameEnd) (s : State) :
    Keeps (s.at_ t) (execPelrunFrame t port bytes fin s) := by
  unfold execPelrunFrame
  generalize s.at_ t = z
  dsimp only
  refine Keeps.when (Grows.of_eq ?_)
  simp

theorem keeps_execSourceForgotten (t : Time) (src : Nat) (s : State) : Keeps (s.at_ t) (execSourceForgotten t src s) := by
  unfold execSourceForgotten
  generalize s.at_ t = z
  dsimp only
  refine Keeps.when (Grows.of_eq ?_)
  simp

theorem keeps_execTimSend (t : Time) (s : State) : Keeps (s.at_ t) (execTimSend t s) := by
  unfold execTimSend
  generalize s.at_ t = z
  dsimp only
  refine Keeps.when (Grows.of_eq ?_)
  simp

theorem keeps_execTimReceived (t : Time) (port : Fin 4) (_src : Nat) (bytes : List Byte) (s : State) :
    Keeps (s.at_ t) (execTimReceived t port _src bytes s) := by
  unfold execTimReceived
  generalize s.at_ t = z
  dsimp only
  refine Keeps.when (Grows.of_eq ?_)
  simp

theorem keeps_execUpstreamLoss (t : Time) (s : State) : Keeps (s.at_ t) (execUpstreamLoss t s) := by
  unfold execUpstreamLoss
  generalize s.at_ t = z
  dsimp only
  split
  · exact Keeps.noEffect _
  · refine Keeps.when (Grows.of_eq ?_)
    simp

theorem keeps_execNoUpstreamUnlock (t : Time) (s : State) : Keeps (s.at_ t) (execNoUpstreamUnlock t s) := by
  unfold execNoUpstreamUnlock
  generalize s.at_ t = z
  dsimp only
  refine Keeps.when (Grows.of_eq ?_)
  simp

theorem keeps_execCandidateForgotten (t : Time) (port : Fin 4) (s : State) : Keeps (s.at_ t) (execCandidateForgotten t port s) := by
  unfold execCandidateForgotten
  generalize s.at_ t = z
  dsimp only
  refine Keeps.when (Grows.of_eq ?_)
  simp

theorem keeps_execPrioRestore (t : Time) (s : State) : Keeps (s.at_ t) (execPrioRestore t s) := by
  unfold execPrioRestore
  generalize s.at_ t = z
  dsimp only
  refine Keeps.when (Grows.of_eq ?_)
  simp

theorem keeps_execHbtSend (t : Time) (s : State) : Keeps (s.at_ t) (execHbtSend t s) := by
  unfold execHbtSend
  generalize s.at_ t = z
  dsimp only
  refine Keeps.when (Grows.of_eq ?_)
  simp

theorem keeps_execHbtReceived (t : Time) (src : Nat) (bytes : List Byte) (s : State) : Keeps (s.at_ t) (execHbtReceived t src bytes s) := by
  unfold execHbtReceived
  generalize s.at_ t = z
  dsimp only
  refine Keeps.when (Grows.of_eq ?_)
  simp

theorem keeps_execListenEnd (t : Time) (s : State) : Keeps (s.at_ t) (execListenEnd t s) := by
  unfold execListenEnd
  generalize s.at_ t = z
  dsimp only
  refine Keeps.when (Grows.of_eq ?_)
  simp

theorem keeps_execAllPortsDown (t : Time) (s : State) : Keeps (s.at_ t) (execAllPortsDown t s) := by
  unfold execAllPortsDown
  generalize s.at_ t = z
  dsimp only
  refine Keeps.when (Grows.of_eq ?_)
  simp

end Sys2Proof.Machine
end

