-- ==== Sys2Proof/Laws/KeepsRecorderRows.lean ====
section
/-! SUPPORT. The meanings of Machine/RecorderRows.lean: each answers a next state and keeps what Laws/Kept.lean names. -/

namespace Sys2Proof.Machine

open Sys2Proof

theorem keeps_execRecEventTake (t : Time) (s : State) : Keeps (s.at_ t) (execRecEventTake t s) := by
  unfold execRecEventTake
  generalize s.at_ t = z
  dsimp only
  split
  · exact Keeps.noEffect _
  · refine Keeps.when (Grows.of_eq ?_)
    simp

theorem keeps_execRecordSealTime (t : Time) (s : State) : Keeps (s.at_ t) (execRecordSealTime t s) := by
  unfold execRecordSealTime
  generalize s.at_ t = z
  dsimp only
  refine Keeps.when (Grows.of_eq ?_)
  simp

theorem keeps_execRecorderStall (t : Time) (s : State) : Keeps (s.at_ t) (execRecorderStall t s) := by
  unfold execRecorderStall
  generalize s.at_ t = z
  dsimp only
  refine Keeps.when (Grows.of_eq ?_)
  simp

theorem keeps_execThriftEvaluation (t : Time) (_rate24 _bytes24 _rate1 _bytes1 : Nat) (s : State) :
    Keeps (s.at_ t) (execThriftEvaluation t _rate24 _bytes24 _rate1 _bytes1 s) := by
  unfold execThriftEvaluation
  generalize s.at_ t = z
  dsimp only
  refine Keeps.when (Grows.of_eq ?_)
  simp

theorem keeps_execEq0Enable (t : Time) (on : Bool) (s : State) : Keeps (s.at_ t) (execEq0Enable t on s) := by
  unfold execEq0Enable
  generalize s.at_ t = z
  dsimp only
  refine Keeps.when (Grows.of_eq ?_)
  simp

theorem keeps_execEq0Deliver (t : Time) (s : State) : Keeps (s.at_ t) (execEq0Deliver t s) := by
  unfold execEq0Deliver
  generalize s.at_ t = z
  dsimp only
  refine Keeps.when (Grows.of_eq ?_)
  (repeat' split) <;> simp

theorem keeps_execRecRdseqWrite (t : Time) (seq : Word) (s : State) : Keeps (s.at_ t) (execRecRdseqWrite t seq s) := by
  unfold execRecRdseqWrite
  generalize s.at_ t = z
  dsimp only
  refine Keeps.when (Grows.of_eq ?_)
  simp

theorem keeps_execRecRdwinLoaded (t : Time) (s : State) : Keeps (s.at_ t) (execRecRdwinLoaded t s) := by
  unfold execRecRdwinLoaded
  generalize s.at_ t = z
  dsimp only
  refine Keeps.when (Grows.of_eq ?_)
  (repeat' split) <;> simp

end Sys2Proof.Machine
end

