-- ==== Sys2Proof/Laws/KeepsRegisters.lean ====
section
/-! SUPPORT. The meanings of Machine/Registers.lean: each answers a next state and keeps what Laws/Kept.lean names. -/

namespace Sys2Proof.Machine

open Sys2Proof

theorem keeps_execRegisterWrite (t : Time) (off size : Nat) (value : BitVec 64) (requester : Nat) (s : State) :
    Keeps (s.at_ t) (execRegisterWrite t off size value requester s) := by
  unfold execRegisterWrite
  generalize s.at_ t = z
  dsimp only
  refine Keeps.when (Grows.of_eq ?_)
  simp

end Sys2Proof.Machine
end

