-- ==== Sys2Proof/Laws/KeepsResets.lean ====
section
/-! SUPPORT. The meanings of Machine/Resets.lean: each answers a next state and keeps what Laws/Kept.lean names. -/

namespace Sys2Proof.Machine

open Sys2Proof

theorem keeps_execCclkPllLock (t : Time) (s : State) : Keeps (s.at_ t) (execCclkPllLock t s) := by
  unfold execCclkPllLock
  generalize s.at_ t = z
  dsimp only
  refine Keeps.when (Grows.of_eq ?_)
  simp

theorem keeps_execClockMonitor (t : Time) (count : Nat) (s : State) : Keeps (s.at_ t) (execClockMonitor t count s) := by
  unfold execClockMonitor
  generalize s.at_ t = z
  dsimp only
  refine Keeps.when (Grows.of_eq ?_)
  simp

theorem keeps_execKclkCheck (t : Time) (period : Time) (s : State) : Keeps (s.at_ t) (execKclkCheck t period s) := by
  unfold execKclkCheck
  generalize s.at_ t = z
  dsimp only
  refine Keeps.when (Grows.of_eq ?_)
  (repeat' split) <;> simp

theorem keeps_execResetPin (t : Time) (pin : PinIs) (held : Time) (s : State) : Keeps (s.at_ t) (execResetPin t pin held s) := by
  unfold execResetPin
  generalize s.at_ t = z
  dsimp only
  refine Keeps.ite (Keeps.next (Grows.of_eq (by simp))) (Keeps.ite (Keeps.next (Grows.of_eq (by simp))) (Keeps.ite (Keeps.next (Grows.refl _)) (Keeps.next (Grows.of_eq ?_))))
  split <;> simp

theorem keeps_execDevrst (t : Time) (s : State) : Keeps (s.at_ t) (execDevrst t s) := by
  unfold execDevrst
  generalize s.at_ t = z
  dsimp only
  refine Keeps.when (Grows.of_eq ?_)
  simp

theorem keeps_execTsetUpdate (t : Time) (s : State) : Keeps (s.at_ t) (execTsetUpdate t s) := by
  unfold execTsetUpdate
  generalize s.at_ t = z
  dsimp only
  refine Keeps.when (Grows.of_eq ?_)
  simp

theorem keeps_execIntrusion (t : Time) (s : State) : Keeps (s.at_ t) (execIntrusion t s) := by
  unfold execIntrusion
  generalize s.at_ t = z
  exact Keeps.next (Grows.of_eq (kept_modPlinth _ _))

theorem keeps_execPlinthLoss (t : Time) (vkeep : Nat) (s : State) : Keeps (s.at_ t) (execPlinthLoss t vkeep s) := by
  unfold execPlinthLoss
  generalize s.at_ t = z
  dsimp only
  refine Keeps.when (Grows.of_eq ?_)
  simp

theorem keeps_execHubResetRelease (t : Time) (s : State) : Keeps (s.at_ t) (execHubResetRelease t s) := by
  unfold execHubResetRelease
  generalize s.at_ t = z
  dsimp only
  exact Keeps.when (grows_hubStart z)

theorem keeps_execPorRelease (t : Time) (straps : Straps) (s : State) : Keeps (s.at_ t) (execPorRelease t straps s) := by
  unfold execPorRelease
  generalize s.at_ t = z
  dsimp only
  refine Keeps.when ?_
  rw [kept_reportLost, kept_clearLatches, kept_reportTestmode]
  refine Grows.trans (Grows.of_eq ?_) (grows_hubStart _)
  rfl

theorem keeps_execPowerFail (t : Time) (vhold : Nat) (s : State) : Keeps (s.at_ t) (execPowerFail t vhold s) := by
  unfold execPowerFail
  generalize s.at_ t = z
  dsimp only
  refine Keeps.when (Grows.of_eq ?_)
  simp

theorem keeps_execFlushDone (t : Time) (s : State) : Keeps (s.at_ t) (execFlushDone t s) := by
  unfold execFlushDone
  generalize s.at_ t = z
  dsimp only
  refine Keeps.when (Grows.of_eq ?_)
  simp

theorem keeps_execFlushFloor (t : Time) (vhold : Nat) (s : State) : Keeps (s.at_ t) (execFlushFloor t vhold s) := by
  unfold execFlushFloor
  generalize s.at_ t = z
  dsimp only
  refine Keeps.when (Grows.of_eq ?_)
  simp

theorem keeps_execVlogGood (t : Time) (vhold : Nat) (held : Time) (s : State) : Keeps (s.at_ t) (execVlogGood t vhold held s) := by
  unfold execVlogGood
  generalize s.at_ t = z
  dsimp only
  refine Keeps.when (Grows.of_eq ?_)
  simp

theorem keeps_execHoldupTest (t : Time) (vhold : Nat) (s : State) : Keeps (s.at_ t) (execHoldupTest t vhold s) := by
  unfold execHoldupTest
  generalize s.at_ t = z
  dsimp only
  refine Keeps.when (Grows.of_eq ?_)
  simp

theorem keeps_execHoldupTestEnd (t : Time) (current : Nat) (dt : Time) (fell : Bool) (s : State) :
    Keeps (s.at_ t) (execHoldupTestEnd t current dt fell s) := by
  unfold execHoldupTestEnd
  generalize s.at_ t = z
  dsimp only
  refine Keeps.when (Grows.of_eq ?_)
  simp

theorem keeps_execStudioRunning (t : Time) (s : State) : Keeps (s.at_ t) (execStudioRunning t s) := by
  unfold execStudioRunning
  generalize s.at_ t = z
  dsimp only
  refine Keeps.when (Grows.of_eq ?_)
  simp

theorem keeps_execEpochJoin (t : Time) (s : State) : Keeps (s.at_ t) (execEpochJoin t s) := by
  unfold execEpochJoin
  generalize s.at_ t = z
  dsimp only
  refine Keeps.when ?_
  rw [kept_parseAll]
  refine Grows.trans (Grows.of_eq ?_) (Grows.ite (grows_withHref _ _ (fun y => grows_boundary _ y)) (Grows.refl _))
  rw [kept_ite, kept_firstJoin, ite_self]
  rfl

end Sys2Proof.Machine
end

