-- ==== Sys2Proof/Laws/KeepsRingCtl.lean ====
section
/-! SUPPORT. The meanings of Machine/RingCtl.lean: each answers a next state and keeps what Laws/Kept.lean names. -/

namespace Sys2Proof.Machine

open Sys2Proof

theorem keeps_execCrTailDoorbell (t : Time) (n off size : Nat) (value : Word) (s : State) :
    Keeps (s.at_ t) (execCrTailDoorbell t n off size value s) := by
  unfold execCrTailDoorbell
  generalize s.at_ t = z
  dsimp only
  refine Keeps.when (Grows.of_eq ?_)
  (repeat' split) <;> simp

theorem keeps_execCqHeadUpdate (t : Time) (n off size : Nat) (value : Word) (s : State) :
    Keeps (s.at_ t) (execCqHeadUpdate t n off size value s) := by
  unfold execCqHeadUpdate
  generalize s.at_ t = z
  dsimp only
  refine Keeps.when (Grows.of_eq ?_)
  (repeat' split) <;> simp

theorem keeps_execIqHeadUpdate (t : Time) (n off size : Nat) (value : Word) (s : State) :
    Keeps (s.at_ t) (execIqHeadUpdate t n off size value s) := by
  unfold execIqHeadUpdate
  generalize s.at_ t = z
  dsimp only
  refine Keeps.when (Grows.of_eq ?_)
  (repeat' split) <;> simp

theorem keeps_execEq0HeadUpdate (t : Time) (n off size : Nat) (value : Word) (s : State) :
    Keeps (s.at_ t) (execEq0HeadUpdate t n off size value s) := by
  unfold execEq0HeadUpdate
  generalize s.at_ t = z
  dsimp only
  refine Keeps.when (Grows.of_eq ?_)
  simp

theorem keeps_execWdhHeartbeat (t : Time) (n off size : Nat) (value : Word) (s : State) :
    Keeps (s.at_ t) (execWdhHeartbeat t n off size value s) := by
  unfold execWdhHeartbeat
  generalize s.at_ t = z
  dsimp only
  refine Keeps.when (Grows.of_eq ?_)
  simp

theorem keeps_execWdhExpire (t : Time) (s : State) : Keeps (s.at_ t) (execWdhExpire t s) := by
  unfold execWdhExpire
  generalize s.at_ t = z
  dsimp only
  refine Keeps.when (Grows.of_eq ?_)
  simp

theorem keeps_execCqEnable (t : Time) (n : Fin 64) (on : Bool) (s : State) : Keeps (s.at_ t) (execCqEnable t n on s) := by
  unfold execCqEnable
  generalize s.at_ t = z
  dsimp only
  refine Keeps.when (Grows.of_eq ?_)
  (repeat' split) <;> simp

theorem keeps_execCompletionPost (t : Time) (cq : Fin 64) (s : State) : Keeps (s.at_ t) (execCompletionPost t cq s) := by
  unfold execCompletionPost
  generalize s.at_ t = z
  dsimp only
  split
  · exact Keeps.noEffect _
  · refine Keeps.when (Grows.of_eq ?_)
    simp

theorem keeps_execCqModerationTimer (t : Time) (cq : Fin 64) (s : State) : Keeps (s.at_ t) (execCqModerationTimer t cq s) := by
  unfold execCqModerationTimer
  generalize s.at_ t = z
  dsimp only
  refine Keeps.when (Grows.of_eq ?_)
  simp

theorem keeps_execCrEnable (t : Time) (n : Fin 64) (s : State) : Keeps (s.at_ t) (execCrEnable t n s) := by
  unfold execCrEnable
  generalize s.at_ t = z
  dsimp only
  refine Keeps.when (Grows.of_eq ?_)
  simp

theorem keeps_execCrDisable (t : Time) (n : Fin 64) (s : State) : Keeps (s.at_ t) (execCrDisable t n s) := by
  unfold execCrDisable
  generalize s.at_ t = z
  dsimp only
  refine Keeps.when (Grows.of_eq ?_)
  simp

theorem keeps_execDrainComplete (t : Time) (n : Fin 64) (s : State) : Keeps (s.at_ t) (execDrainComplete t n s) := by
  unfold execDrainComplete
  generalize s.at_ t = z
  dsimp only
  refine Keeps.when (Grows.of_eq ?_)
  simp

theorem keeps_execRingError (t : Time) (n : Fin 64) (kind : Fin 4) (s : State) : Keeps (s.at_ t) (execRingError t n kind s) := by
  unfold execRingError
  generalize s.at_ t = z
  dsimp only
  refine Keeps.when (Grows.of_eq ?_)
  simp

theorem keeps_execForget (t : Time) (n : Fin 64) (s : State) : Keeps (s.at_ t) (execForget t n s) := by
  unfold execForget
  generalize s.at_ t = z
  dsimp only
  refine Keeps.when (Grows.of_eq ?_)
  simp

theorem keeps_execIqEnable (t : Time) (n : Fin 16) (readOk : Bool) (tags : List Word) (s : State) :
    Keeps (s.at_ t) (execIqEnable t n readOk tags s) := by
  unfold execIqEnable
  generalize s.at_ t = z
  dsimp only
  refine Keeps.when (Grows.of_eq ?_)
  simp

end Sys2Proof.Machine
end

