-- ==== Sys2Proof/Laws/KeepsSetup.lean ====
section
/-! SUPPORT. The meanings of Machine/Setup.lean: each answers a next state and keeps what Laws/Kept.lean names. -/

namespace Sys2Proof.Machine

open Sys2Proof

theorem keeps_execTimeSubmit (t : Time) (s : State) : Keeps (s.at_ t) (execTimeSubmit t s) := by
  unfold execTimeSubmit
  generalize s.at_ t = z
  refine Keeps.when (Grows.of_eq ?_)
  simp

theorem keeps_execTimeCmdStep (t : Time) (s : State) : Keeps (s.at_ t) (execTimeCmdStep t s) := by
  unfold execTimeCmdStep
  generalize s.at_ t = z
  refine Keeps.when (Grows.of_eq ?_)
  simp

theorem keeps_execPelNumWrite (t : Time) (value : Word) (s : State) : Keeps (s.at_ t) (execPelNumWrite t value s) := by
  unfold execPelNumWrite
  generalize s.at_ t = z
  refine Keeps.when (Grows.of_eq ?_)
  simp

theorem keeps_execPelCouplerWrite (t : Time) (coupler : Bool) (s : State) : Keeps (s.at_ t) (execPelCouplerWrite t coupler s) := by
  unfold execPelCouplerWrite
  generalize s.at_ t = z
  refine Keeps.when (Grows.of_eq ?_)
  simp

theorem keeps_execNvsRdselWrite (t : Time) (value : Word) (s : State) : Keeps (s.at_ t) (execNvsRdselWrite t value s) := by
  unfold execNvsRdselWrite
  generalize s.at_ t = z
  refine Keeps.when (Grows.of_eq ?_)
  simp

theorem keeps_execNvsRdwinLoaded (t : Time) (s : State) : Keeps (s.at_ t) (execNvsRdwinLoaded t s) := by
  unfold execNvsRdwinLoaded
  generalize s.at_ t = z
  dsimp only
  refine Keeps.when (Grows.of_eq ?_)
  simp

theorem keeps_execSecProgram (t : Time) (slot : Fin 4) (confirm : BitVec 16) (s : State) : Keeps (s.at_ t) (execSecProgram t slot confirm s) := by
  unfold execSecProgram
  generalize s.at_ t = z
  dsimp only
  refine Keeps.when (Grows.of_eq ?_)
  simp

theorem keeps_execSecRevoke (t : Time) (slot : Fin 4) (confirm : BitVec 16) (s : State) : Keeps (s.at_ t) (execSecRevoke t slot confirm s) := by
  unfold execSecRevoke
  generalize s.at_ t = z
  dsimp only
  refine Keeps.when (Grows.of_eq ?_)
  simp

theorem keeps_execSecToken (t : Time) (confirm : BitVec 16) (s : State) : Keeps (s.at_ t) (execSecToken t confirm s) := by
  unfold execSecToken
  generalize s.at_ t = z
  dsimp only
  refine Keeps.when (Grows.of_eq ?_)
  simp

theorem keeps_execSecClrintr (t : Time) (confirm : BitVec 16) (s : State) : Keeps (s.at_ t) (execSecClrintr t confirm s) := by
  unfold execSecClrintr
  generalize s.at_ t = z
  dsimp only
  refine Keeps.when (Grows.of_eq ?_)
  simp

theorem keeps_execSecCmdDone (t : Time) (s : State) : Keeps (s.at_ t) (execSecCmdDone t s) := by
  unfold execSecCmdDone
  generalize s.at_ t = z
  dsimp only
  split
  · exact Keeps.noEffect _
  · exact Keeps.when (grows_secEffect _ _ z)

end Sys2Proof.Machine
end

