-- ==== Sys2Proof/Laws/KeepsStore.lean ====
section
/-! SUPPORT. The meanings of Machine/Store.lean: each answers a next state and keeps what Laws/Kept.lean names. -/

namespace Sys2Proof.Machine

open Sys2Proof

theorem keeps_execStoreEraseDone (t : Time) (block : Nat) (failed : Bool) (s : State) : Keeps (s.at_ t) (execStoreEraseDone t block failed s) := by
  unfold execStoreEraseDone
  generalize s.at_ t = z
  dsimp only
  split
  · exact Keeps.noEffect _
  · refine Keeps.when (Grows.of_eq ?_)
    simp

theorem keeps_execStoreWriteDone (t : Time) (failed : Bool) (s : State) : Keeps (s.at_ t) (execStoreWriteDone t failed s) := by
  unfold execStoreWriteDone
  generalize s.at_ t = z
  dsimp only
  split
  · exact Keeps.noEffect _
  · refine Keeps.when (Grows.of_eq ?_)
    simp

theorem keeps_execPatinaWrite (t : Time) (s : State) : Keeps (s.at_ t) (execPatinaWrite t s) := by
  unfold execPatinaWrite
  generalize s.at_ t = z
  dsimp only
  refine Keeps.when (Grows.of_eq ?_)
  simp

theorem keeps_execStorewear (t : Time) (s : State) : Keeps (s.at_ t) (execStorewear t s) := by
  unfold execStorewear
  generalize s.at_ t = z
  dsimp only
  refine Keeps.when (Grows.of_eq ?_)
  simp

theorem keeps_execGateModemset (t : Time) (k : Nat) (opened : Bool) (s : State) : Keeps (s.at_ t) (execGateModemset t k opened s) := by
  unfold execGateModemset
  generalize s.at_ t = z
  dsimp only
  refine Keeps.when (Grows.of_eq ?_)
  (repeat' split) <;> simp

theorem keeps_execGateStage (t : Time) (begins : Bool) (cls : Nat) (s : State) : Keeps (s.at_ t) (execGateStage t begins cls s) := by
  unfold execGateStage
  generalize s.at_ t = z
  dsimp only
  refine Keeps.when (Grows.of_eq ?_)
  simp

theorem keeps_execGateStorerec (t : Time) (n : Nat) (s : State) : Keeps (s.at_ t) (execGateStorerec t n s) := by
  unfold execGateStorerec
  generalize s.at_ t = z
  dsimp only
  refine Keeps.when (Grows.of_eq ?_)
  simp

theorem keeps_execGateFltreq (t : Time) (req : FltReq) (s : State) : Keeps (s.at_ t) (execGateFltreq t req s) := by
  unfold execGateFltreq
  generalize s.at_ t = z
  dsimp only
  refine Keeps.when (Grows.of_eq ?_)
  (repeat' split) <;> simp

theorem keeps_execGatePatinard (t : Time) (area index : Nat) (s : State) : Keeps (s.at_ t) (execGatePatinard t area index s) := by
  unfold execGatePatinard
  generalize s.at_ t = z
  dsimp only
  refine Keeps.when (Grows.of_eq ?_)
  simp

theorem keeps_execGateStarted (t : Time) (w : WorkRef) (s : State) : Keeps (s.at_ t) (execGateStarted t w s) := by
  unfold execGateStarted
  generalize s.at_ t = z
  dsimp only
  refine Keeps.when (Grows.of_eq ?_)
  (repeat' split) <;> simp

end Sys2Proof.Machine
end

