-- ==== Sys2Proof/Laws/KeepsSwitching.lean ====
section
/-! SUPPORT. The meanings of Machine/Switching.lean: each answers a next state and keeps what Laws/Kept.lean names. -/

namespace Sys2Proof.Machine

open Sys2Proof

theorem keeps_execCurrentLimit (t : Time) (j : Fin 96) (current : Nat) (s : State) : Keeps (s.at_ t) (execCurrentLimit t j current s) := by
  unfold execCurrentLimit
  generalize s.at_ t = z
  dsimp only
  refine Keeps.when (Grows.of_eq ?_)
  simp

theorem keeps_execCurrentBelowCeiling (t : Time) (j : Fin 96) (s : State) : Keeps (s.at_ t) (execCurrentBelowCeiling t j s) := by
  unfold execCurrentBelowCeiling
  generalize s.at_ t = z
  dsimp only
  refine Keeps.when (Grows.of_eq ?_)
  simp

theorem keeps_execShortVerdict (t : Time) (j : Fin 96) (v : AtSupply) (held : Time) (s : State) :
    Keeps (s.at_ t) (execShortVerdict t j v held s) := by
  unfold execShortVerdict
  generalize s.at_ t = z
  dsimp only
  refine Keeps.when (Grows.of_eq ?_)
  simp

theorem keeps_execOverloadVerdict (t : Time) (j : Fin 96) (v : AtSupply) (held : Time) (s : State) :
    Keeps (s.at_ t) (execOverloadVerdict t j v held s) := by
  unfold execOverloadVerdict
  generalize s.at_ t = z
  dsimp only
  refine Keeps.when (Grows.of_eq ?_)
  simp

theorem keeps_execRetrytExpiry (t : Time) (k : Fin 96) (s : State) : Keeps (s.at_ t) (execRetrytExpiry t k s) := by
  unfold execRetrytExpiry
  generalize s.at_ t = z
  dsimp only
  refine Keeps.when (Grows.of_eq ?_)
  simp

theorem keeps_execThermalShutdown (t : Time) (j : Fin 96) (temp : Int) (s : State) : Keeps (s.at_ t) (execThermalShutdown t j temp s) := by
  unfold execThermalShutdown
  generalize s.at_ t = z
  dsimp only
  refine Keeps.when (Grows.of_eq ?_)
  simp

theorem keeps_execThermalCooled (t : Time) (j : Fin 96) (temp : Int) (s : State) : Keeps (s.at_ t) (execThermalCooled t j temp s) := by
  unfold execThermalCooled
  generalize s.at_ t = z
  dsimp only
  refine Keeps.when (Grows.of_eq ?_)
  simp

theorem keeps_execValveTpeakEnd (t : Time) (k : Fin 96) (s : State) : Keeps (s.at_ t) (execValveTpeakEnd t k s) := by
  unfold execValveTpeakEnd
  generalize s.at_ t = z
  dsimp only
  refine Keeps.when (Grows.of_eq ?_)
  simp

theorem keeps_execCapRampEnd (t : Time) (k : Fin 96) (v : AtSupply) (s : State) : Keeps (s.at_ t) (execCapRampEnd t k v s) := by
  unfold execCapRampEnd
  generalize s.at_ t = z
  dsimp only
  refine Keeps.when (Grows.of_eq ?_)
  simp

theorem keeps_execClampEventEnd (t : Time) (j : Fin 96) (energy : Nat) (s : State) : Keeps (s.at_ t) (execClampEventEnd t j energy s) := by
  unfold execClampEventEnd
  generalize s.at_ t = z
  dsimp only
  refine Keeps.next (Grows.of_eq ?_)
  simp

theorem keeps_execClampEnergyLimit (t : Time) (j : Fin 96) (energy : Nat) (s : State) : Keeps (s.at_ t) (execClampEnergyLimit t j energy s) := by
  unfold execClampEnergyLimit
  generalize s.at_ t = z
  dsimp only
  refine Keeps.when (Grows.of_eq ?_)
  simp

theorem keeps_execClampStageReenable (t : Time) (j : Fin 96) (term : Int) (held : Time) (s : State) :
    Keeps (s.at_ t) (execClampStageReenable t j term held s) := by
  unfold execClampStageReenable
  generalize s.at_ t = z
  dsimp only
  refine Keeps.when (Grows.of_eq ?_)
  simp

theorem keeps_execClampBinRoll (t : Time) (tile : Fin 12) (s : State) : Keeps (s.at_ t) (execClampBinRoll t tile s) := by
  unfold execClampBinRoll
  generalize s.at_ t = z
  dsimp only
  refine Keeps.when (Grows.of_eq ?_)
  simp

theorem keeps_execTileTrip (t : Time) (tile : Fin 12) (currents : List Nat) (held : Time) (s : State) :
    Keeps (s.at_ t) (execTileTrip t tile currents held s) := by
  unfold execTileTrip
  generalize s.at_ t = z
  dsimp only
  refine Keeps.when (Grows.of_eq ?_)
  simp

theorem keeps_execSselCodeTaken (t : Time) (tile : Fin 12) (code : Fin 8) (held : Time) (s : State) :
    Keeps (s.at_ t) (execSselCodeTaken t tile code held s) := by
  unfold execSselCodeTaken
  generalize s.at_ t = z
  dsimp only
  refine Keeps.when (Grows.of_eq ?_)
  simp

theorem keeps_execMirrorCheck (t : Time) (tile : Fin 12) (mirror sense : Nat) (s : State) :
    Keeps (s.at_ t) (execMirrorCheck t tile mirror sense s) := by
  unfold execMirrorCheck
  generalize s.at_ t = z
  dsimp only
  refine Keeps.when (Grows.of_eq ?_)
  have h (s : State) (b : Bank TSns 12) : kept { s with sns := b } = kept s := rfl
  rw [kept_ite, h, kept_ite, kept_raise, kept_judgingTile _ _ _ (fun z => h z _), ite_self, ite_self]

end Sys2Proof.Machine
end

