-- ==== Sys2Proof/Laws/KeepsTcmd.lean ====
section
/-! SUPPORT. The meanings of Machine/Tcmd.lean: each answers a next state and keeps what Laws/Kept.lean names. -/

namespace Sys2Proof.Machine

open Sys2Proof

theorem keeps_execTcmdNop (t : Time) (_tile : Fin 12) (_slot : Nat) (_c : Fin 8) (_handle : Byte) (_stamp : Word) (_value : BitVec 16) (s : State) :
    Keeps (s.at_ t) (execTcmdNop t _tile _slot _c _handle _stamp _value s) := by
  exact Keeps.next (Grows.refl _)

theorem keeps_execTcmdSet (t : Time) (tile : Fin 12) (slot : Nat) (c : Fin 8) (handle : Byte) (stamp : Word) (value : BitVec 16) (s : State) :
    Keeps (s.at_ t) (execTcmdSet t tile slot c handle stamp value s) := by
  unfold execTcmdSet
  generalize s.at_ t = z
  dsimp only
  refine Keeps.when (Grows.of_eq ?_)
  simp

theorem keeps_execTcmdDuty (t : Time) (tile : Fin 12) (slot : Nat) (c : Fin 8) (handle : Byte) (stamp : Word) (value : BitVec 16) (s : State) :
    Keeps (s.at_ t) (execTcmdDuty t tile slot c handle stamp value s) := by
  unfold execTcmdDuty
  generalize s.at_ t = z
  dsimp only
  refine Keeps.when (Grows.of_eq ?_)
  simp

theorem keeps_execTcmdReplace (t : Time) (tile : Fin 12) (slot : Nat) (_c : Fin 8) (handle : Byte) (stamp : Word) (value : BitVec 16) (s : State) :
    Keeps (s.at_ t) (execTcmdReplace t tile slot _c handle stamp value s) := by
  unfold execTcmdReplace
  generalize s.at_ t = z
  dsimp only
  refine Keeps.when (Grows.of_eq ?_)
  simp

theorem keeps_execTcmdCancel (t : Time) (tile : Fin 12) (slot : Nat) (_c : Fin 8) (handle : Byte) (_stamp : Word) (_value : BitVec 16) (s : State) :
    Keeps (s.at_ t) (execTcmdCancel t tile slot _c handle _stamp _value s) := by
  unfold execTcmdCancel
  generalize s.at_ t = z
  dsimp only
  refine Keeps.when (Grows.of_eq ?_)
  simp

theorem keeps_execTcmdRelease (t : Time) (tile : Fin 12) (slot : Nat) (c : Fin 8) (handle : Byte) (stamp : Word) (_value : BitVec 16) (s : State) :
    Keeps (s.at_ t) (execTcmdRelease t tile slot c handle stamp _value s) := by
  unfold execTcmdRelease
  generalize s.at_ t = z
  dsimp only
  refine Keeps.when (Grows.of_eq ?_)
  simp

theorem keeps_execTcmdReservedOp (t : Time) (tile : Fin 12) (_slot : Nat) (_c : Fin 8) (_op : BitVec 5) (handle : Byte) (_stamp : Word) (_value : BitVec 16) (s : State) :
    Keeps (s.at_ t) (execTcmdReservedOp t tile _slot _c _op handle _stamp _value s) := by
  unfold execTcmdReservedOp
  generalize s.at_ t = z
  dsimp only
  refine Keeps.when (Grows.of_eq ?_)
  simp

theorem keeps_execTcmdExecute (t : Time) (tile : Fin 12) (stamp : Word) (s : State) : Keeps (s.at_ t) (execTcmdExecute t tile stamp s) := by
  unfold execTcmdExecute
  generalize s.at_ t = z
  dsimp only
  refine Keeps.when (Grows.of_eq ?_)
  simp

theorem keeps_execTackReport (t : Time) (tile : Fin 12) (c : Fin 8) (handle : Byte) (code : Nat) (ticks : Word) (slot : Nat) (s : State) :
    Keeps (s.at_ t) (execTackReport t tile c handle code ticks slot s) := by
  unfold execTackReport
  generalize s.at_ t = z
  dsimp only
  refine Keeps.when (Grows.of_eq ?_)
  (repeat' split) <;> simp

theorem keeps_execMgtRestoreAck (t : Time) (tile : Fin 12) (c : Fin 8) (s : State) : Keeps (s.at_ t) (execMgtRestoreAck t tile c s) := by
  unfold execMgtRestoreAck
  generalize s.at_ t = z
  dsimp only
  refine Keeps.when (Grows.of_eq ?_)
  simp

theorem keeps_execMgtPartitionReset (t : Time) (tile : Fin 12) (slot : Nat) (s : State) : Keeps (s.at_ t) (execMgtPartitionReset t tile slot s) := by
  unfold execMgtPartitionReset
  generalize s.at_ t = z
  dsimp only
  refine Keeps.when (Grows.of_eq ?_)
  simp

theorem keeps_execMgtConfigCommit (t : Time) (tile : Fin 12) (s : State) : Keeps (s.at_ t) (execMgtConfigCommit t tile s) := by
  unfold execMgtConfigCommit
  generalize s.at_ t = z
  dsimp only
  refine Keeps.when (Grows.of_eq ?_)
  simp

theorem keeps_execRoleChange (t : Time) (tile : Fin 12) (standby partnered : Bool) (stamp : Word) (s : State) :
    Keeps (s.at_ t) (execRoleChange t tile standby partnered stamp s) := by
  unfold execRoleChange
  generalize s.at_ t = z
  dsimp only
  refine Keeps.when (Grows.of_eq ?_)
  simp

theorem keeps_execRoleChangeApply (t : Time) (stamp : Word) (s : State) : Keeps (s.at_ t) (execRoleChangeApply t stamp s) := by
  unfold execRoleChangeApply
  generalize s.at_ t = z
  dsimp only
  have h : ∀ x (y : State), kept (match roleDueAt y stamp x with | some r => tileRole x r.standby r.partnered y | none => y) = kept y := by
    intro x y; split <;> simp
  refine Keeps.next (Grows.of_eq ?_)
  rw [kept_ite, kept_standAside, ite_self]
  exact kept_forEach _ _ _ h

theorem keeps_execTileLock (t : Time) (tile : Fin 12) (s : State) : Keeps (s.at_ t) (execTileLock t tile s) := by
  unfold execTileLock
  generalize s.at_ t = z
  dsimp only
  refine Keeps.when (Grows.of_eq ?_)
  simp

theorem keeps_execComparatorDecision (t : Time) (k : Fin 96) (cmpB : Bool) (value : Word) (s : State) :
    Keeps (s.at_ t) (execComparatorDecision t k cmpB value s) := by
  unfold execComparatorDecision
  generalize s.at_ t = z
  dsimp only
  refine Keeps.when (Grows.of_eq ?_)
  simp

theorem keeps_execTileReflexQualExpiry (t : Time) (tile : Fin 12) (entry : Nat) (s : State) :
    Keeps (s.at_ t) (execTileReflexQualExpiry t tile entry s) := by
  unfold execTileReflexQualExpiry
  generalize s.at_ t = z
  dsimp only
  split
  · exact Keeps.noEffect _
  · refine Keeps.when (Grows.of_eq ?_)
    simp

theorem keeps_execFastSenseConversion (t : Time) (tile : Fin 12) (code : SenseIn) (s : State) :
    Keeps (s.at_ t) (execFastSenseConversion t tile code s) := by
  unfold execFastSenseConversion
  generalize s.at_ t = z
  dsimp only
  refine Keeps.when (Grows.of_eq ?_)
  simp

end Sys2Proof.Machine
end

