-- ==== Sys2Proof/Laws/KeptTap.lean ====
section
/-! SUPPORT. The operations of Machine/Tap.lean leave the parts of Laws/Kept.lean alone. -/

namespace Sys2Proof.Machine

open Sys2Proof

theorem kept_freeBits (n : Nat) (s : State) : kept (freeBits n s).2 = kept s := by
  induction n generalizing s with
  | zero => rfl
  | succ n ih => exact (ih _).trans rfl

@[simp] theorem kept_modTap (f : Tap → Tap) (s : State) : kept (modTap f s) = kept s := by
  unfold modTap; simp

@[simp] theorem kept_tapCapture (s : State) : kept (tapCapture s) = kept s := by
  unfold tapCapture
  split <;> simp [kept_freeBits]

@[simp] theorem kept_tapRise (tdi : Bool) (s : State) : kept (tapRise tdi s) = kept s := by
  unfold tapRise
  split <;> simp [kept_freeBits]

@[simp] theorem kept_tapFall (s : State) : kept (tapFall s) = kept s := by
  unfold tapFall; (repeat' split) <;> simp_all

@[simp] theorem kept_tapClock (tms tdi : Bool) (s : State) : kept (tapClock tms tdi s) = kept s := by
  unfold tapClock; simp

@[simp] theorem kept_tapTake (e : TapEdge) (s : State) : kept (tapTake e s) = kept s := by
  unfold tapTake; (repeat' split) <;> simp_all

@[simp] theorem kept_idleStep (s : State) : kept (idleStep s) = kept s := by
  unfold idleStep; (repeat' split) <;> simp_all

end Sys2Proof.Machine
end

