-- ==== Sys2Proof/Laws/State.lean ====
section
/-! SUPPORT. What each small update of the state does to each of its fields. -/

namespace Sys2Proof.Machine

open Sys2Proof

@[simp] theorem State.at__pending (s : State) (t : Time) : (s.at_ t).pending = s.pending := rfl
@[simp] theorem State.at__now (s : State) (t : Time) : (s.at_ t).now = max s.now t := rfl
@[simp] theorem State.at__sysOff (s : State) (t : Time) : (s.at_ t).sysOff = s.sysOff := rfl
@[simp] theorem State.at__free (s : State) (t : Time) : (s.at_ t).free = s.free := rfl
@[simp] theorem State.at__tile (s : State) (t : Time) : (s.at_ t).tile = s.tile := rfl
@[simp] theorem State.at__link (s : State) (t : Time) : (s.at_ t).link = s.link := rfl
@[simp] theorem State.at__sns (s : State) (t : Time) : (s.at_ t).sns = s.sns := rfl
@[simp] theorem State.at__iso (s : State) (t : Time) : (s.at_ t).iso = s.iso := rfl
@[simp] theorem State.at__chan (s : State) (t : Time) : (s.at_ t).chan = s.chan := rfl
@[simp] theorem State.at__eng (s : State) (t : Time) : (s.at_ t).eng = s.eng := rfl
@[simp] theorem State.at__ep (s : State) (t : Time) : (s.at_ t).ep = s.ep := rfl
@[simp] theorem State.at__host (s : State) (t : Time) : (s.at_ t).host = s.host := rfl
@[simp] theorem State.at__net (s : State) (t : Time) : (s.at_ t).net = s.net := rfl
@[simp] theorem State.at__pair (s : State) (t : Time) : (s.at_ t).pair = s.pair := rfl
@[simp] theorem State.at__img (s : State) (t : Time) : (s.at_ t).img = s.img := rfl
@[simp] theorem State.at__flt (s : State) (t : Time) : (s.at_ t).flt = s.flt := rfl
@[simp] theorem State.at__pwr (s : State) (t : Time) : (s.at_ t).pwr = s.pwr := rfl
@[simp] theorem State.at__plinth (s : State) (t : Time) : (s.at_ t).plinth = s.plinth := rfl
@[simp] theorem State.at__nvs (s : State) (t : Time) : (s.at_ t).nvs = s.nvs := rfl
@[simp] theorem State.at__recd (s : State) (t : Time) : (s.at_ t).recd = s.recd := rfl
@[simp] theorem State.at__cu (s : State) (t : Time) : (s.at_ t).cu = s.cu := rfl
@[simp] theorem State.at__sec (s : State) (t : Time) : (s.at_ t).sec = s.sec := rfl
@[simp] theorem State.at__misc (s : State) (t : Time) : (s.at_ t).misc = s.misc := rfl
@[simp] theorem State.at__tap (s : State) (t : Time) : (s.at_ t).tap = s.tap := rfl
@[simp] theorem State.at__reh (s : State) (t : Time) : (s.at_ t).reh = s.reh := rfl
@[simp] theorem State.at__regs (s : State) (t : Time) : (s.at_ t).regs = s.regs := rfl

@[simp] theorem modTile_pending (t : Fin 12) (f : Tile → Tile) (s : State) : (modTile t f s).pending = s.pending := rfl
@[simp] theorem modTile_now (t : Fin 12) (f : Tile → Tile) (s : State) : (modTile t f s).now = s.now := rfl
@[simp] theorem modTile_sysOff (t : Fin 12) (f : Tile → Tile) (s : State) : (modTile t f s).sysOff = s.sysOff := rfl
@[simp] theorem modTile_free (t : Fin 12) (f : Tile → Tile) (s : State) : (modTile t f s).free = s.free := rfl
@[simp] theorem modTile_tile (t : Fin 12) (f : Tile → Tile) (s : State) : (modTile t f s).tile = s.tile.upd t f := rfl
@[simp] theorem modTile_link (t : Fin 12) (f : Tile → Tile) (s : State) : (modTile t f s).link = s.link := rfl
@[simp] theorem modTile_sns (t : Fin 12) (f : Tile → Tile) (s : State) : (modTile t f s).sns = s.sns := rfl
@[simp] theorem modTile_iso (t : Fin 12) (f : Tile → Tile) (s : State) : (modTile t f s).iso = s.iso := rfl
@[simp] theorem modTile_chan (t : Fin 12) (f : Tile → Tile) (s : State) : (modTile t f s).chan = s.chan := rfl
@[simp] theorem modTile_eng (t : Fin 12) (f : Tile → Tile) (s : State) : (modTile t f s).eng = s.eng := rfl
@[simp] theorem modTile_ep (t : Fin 12) (f : Tile → Tile) (s : State) : (modTile t f s).ep = s.ep := rfl
@[simp] theorem modTile_host (t : Fin 12) (f : Tile → Tile) (s : State) : (modTile t f s).host = s.host := rfl
@[simp] theorem modTile_net (t : Fin 12) (f : Tile → Tile) (s : State) : (modTile t f s).net = s.net := rfl
@[simp] theorem modTile_pair (t : Fin 12) (f : Tile → Tile) (s : State) : (modTile t f s).pair = s.pair := rfl
@[simp] theorem modTile_img (t : Fin 12) (f : Tile → Tile) (s : State) : (modTile t f s).img = s.img := rfl
@[simp] theorem modTile_flt (t : Fin 12) (f : Tile → Tile) (s : State) : (modTile t f s).flt = s.flt := rfl
@[simp] theorem modTile_pwr (t : Fin 12) (f : Tile → Tile) (s : State) : (modTile t f s).pwr = s.pwr := rfl
@[simp] theorem modTile_plinth (t : Fin 12) (f : Tile → Tile) (s : State) : (modTile t f s).plinth = s.plinth := rfl
@[simp] theorem modTile_nvs (t : Fin 12) (f : Tile → Tile) (s : State) : (modTile t f s).nvs = s.nvs := rfl
@[simp] theorem modTile_recd (t : Fin 12) (f : Tile → Tile) (s : State) : (modTile t f s).recd = s.recd := rfl
@[simp] theorem modTile_cu (t : Fin 12) (f : Tile → Tile) (s : State) : (modTile t f s).cu = s.cu := rfl
@[simp] theorem modTile_sec (t : Fin 12) (f : Tile → Tile) (s : State) : (modTile t f s).sec = s.sec := rfl
@[simp] theorem modTile_misc (t : Fin 12) (f : Tile → Tile) (s : State) : (modTile t f s).misc = s.misc := rfl
@[simp] theorem modTile_tap (t : Fin 12) (f : Tile → Tile) (s : State) : (modTile t f s).tap = s.tap := rfl
@[simp] theorem modTile_reh (t : Fin 12) (f : Tile → Tile) (s : State) : (modTile t f s).reh = s.reh := rfl
@[simp] theorem modTile_regs (t : Fin 12) (f : Tile → Tile) (s : State) : (modTile t f s).regs = s.regs := rfl

@[simp] theorem modLink_pending (t : Fin 12) (f : TLink → TLink) (s : State) : (modLink t f s).pending = s.pending := rfl
@[simp] theorem modLink_now (t : Fin 12) (f : TLink → TLink) (s : State) : (modLink t f s).now = s.now := rfl
@[simp] theorem modLink_sysOff (t : Fin 12) (f : TLink → TLink) (s : State) : (modLink t f s).sysOff = s.sysOff := rfl
@[simp] theorem modLink_free (t : Fin 12) (f : TLink → TLink) (s : State) : (modLink t f s).free = s.free := rfl
@[simp] theorem modLink_tile (t : Fin 12) (f : TLink → TLink) (s : State) : (modLink t f s).tile = s.tile := rfl
@[simp] theorem modLink_link (t : Fin 12) (f : TLink → TLink) (s : State) : (modLink t f s).link = s.link.upd t f := rfl
@[simp] theorem modLink_sns (t : Fin 12) (f : TLink → TLink) (s : State) : (modLink t f s).sns = s.sns := rfl
@[simp] theorem modLink_iso (t : Fin 12) (f : TLink → TLink) (s : State) : (modLink t f s).iso = s.iso := rfl
@[simp] theorem modLink_chan (t : Fin 12) (f : TLink → TLink) (s : State) : (modLink t f s).chan = s.chan := rfl
@[simp] theorem modLink_eng (t : Fin 12) (f : TLink → TLink) (s : State) : (modLink t f s).eng = s.eng := rfl
@[simp] theorem modLink_ep (t : Fin 12) (f : TLink → TLink) (s : State) : (modLink t f s).ep = s.ep := rfl
@[simp] theorem modLink_host (t : Fin 12) (f : TLink → TLink) (s : State) : (modLink t f s).host = s.host := rfl
@[simp] theorem modLink_net (t : Fin 12) (f : TLink → TLink) (s : State) : (modLink t f s).net = s.net := rfl
@[simp] theorem modLink_pair (t : Fin 12) (f : TLink → TLink) (s : State) : (modLink t f s).pair = s.pair := rfl
@[simp] theorem modLink_img (t : Fin 12) (f : TLink → TLink) (s : State) : (modLink t f s).img = s.img := rfl
@[simp] theorem modLink_flt (t : Fin 12) (f : TLink → TLink) (s : State) : (modLink t f s).flt = s.flt := rfl
@[simp] theorem modLink_pwr (t : Fin 12) (f : TLink → TLink) (s : State) : (modLink t f s).pwr = s.pwr := rfl
@[simp] theorem modLink_plinth (t : Fin 12) (f : TLink → TLink) (s : State) : (modLink t f s).plinth = s.plinth := rfl
@[simp] theorem modLink_nvs (t : Fin 12) (f : TLink → TLink) (s : State) : (modLink t f s).nvs = s.nvs := rfl
@[simp] theorem modLink_recd (t : Fin 12) (f : TLink → TLink) (s : State) : (modLink t f s).recd = s.recd := rfl
@[simp] theorem modLink_cu (t : Fin 12) (f : TLink → TLink) (s : State) : (modLink t f s).cu = s.cu := rfl
@[simp] theorem modLink_sec (t : Fin 12) (f : TLink → TLink) (s : State) : (modLink t f s).sec = s.sec := rfl
@[simp] theorem modLink_misc (t : Fin 12) (f : TLink → TLink) (s : State) : (modLink t f s).misc = s.misc := rfl
@[simp] theorem modLink_tap (t : Fin 12) (f : TLink → TLink) (s : State) : (modLink t f s).tap = s.tap := rfl
@[simp] theorem modLink_reh (t : Fin 12) (f : TLink → TLink) (s : State) : (modLink t f s).reh = s.reh := rfl
@[simp] theorem modLink_regs (t : Fin 12) (f : TLink → TLink) (s : State) : (modLink t f s).regs = s.regs := rfl

@[simp] theorem modChan_pending (k : Fin 96) (f : Chan → Chan) (s : State) : (modChan k f s).pending = s.pending := rfl
@[simp] theorem modChan_now (k : Fin 96) (f : Chan → Chan) (s : State) : (modChan k f s).now = s.now := rfl
@[simp] theorem modChan_sysOff (k : Fin 96) (f : Chan → Chan) (s : State) : (modChan k f s).sysOff = s.sysOff := rfl
@[simp] theorem modChan_free (k : Fin 96) (f : Chan → Chan) (s : State) : (modChan k f s).free = s.free := rfl
@[simp] theorem modChan_tile (k : Fin 96) (f : Chan → Chan) (s : State) : (modChan k f s).tile = s.tile := rfl
@[simp] theorem modChan_link (k : Fin 96) (f : Chan → Chan) (s : State) : (modChan k f s).link = s.link := rfl
@[simp] theorem modChan_sns (k : Fin 96) (f : Chan → Chan) (s : State) : (modChan k f s).sns = s.sns := rfl
@[simp] theorem modChan_iso (k : Fin 96) (f : Chan → Chan) (s : State) : (modChan k f s).iso = s.iso := rfl
@[simp] theorem modChan_chan (k : Fin 96) (f : Chan → Chan) (s : State) : (modChan k f s).chan = s.chan.upd k f := rfl
@[simp] theorem modChan_eng (k : Fin 96) (f : Chan → Chan) (s : State) : (modChan k f s).eng = s.eng := rfl
@[simp] theorem modChan_ep (k : Fin 96) (f : Chan → Chan) (s : State) : (modChan k f s).ep = s.ep := rfl
@[simp] theorem modChan_host (k : Fin 96) (f : Chan → Chan) (s : State) : (modChan k f s).host = s.host := rfl
@[simp] theorem modChan_net (k : Fin 96) (f : Chan → Chan) (s : State) : (modChan k f s).net = s.net := rfl
@[simp] theorem modChan_pair (k : Fin 96) (f : Chan → Chan) (s : State) : (modChan k f s).pair = s.pair := rfl
@[simp] theorem modChan_img (k : Fin 96) (f : Chan → Chan) (s : State) : (modChan k f s).img = s.img := rfl
@[simp] theorem modChan_flt (k : Fin 96) (f : Chan → Chan) (s : State) : (modChan k f s).flt = s.flt := rfl
@[simp] theorem modChan_pwr (k : Fin 96) (f : Chan → Chan) (s : State) : (modChan k f s).pwr = s.pwr := rfl
@[simp] theorem modChan_plinth (k : Fin 96) (f : Chan → Chan) (s : State) : (modChan k f s).plinth = s.plinth := rfl
@[simp] theorem modChan_nvs (k : Fin 96) (f : Chan → Chan) (s : State) : (modChan k f s).nvs = s.nvs := rfl
@[simp] theorem modChan_recd (k : Fin 96) (f : Chan → Chan) (s : State) : (modChan k f s).recd = s.recd := rfl
@[simp] theorem modChan_cu (k : Fin 96) (f : Chan → Chan) (s : State) : (modChan k f s).cu = s.cu := rfl
@[simp] theorem modChan_sec (k : Fin 96) (f : Chan → Chan) (s : State) : (modChan k f s).sec = s.sec := rfl
@[simp] theorem modChan_misc (k : Fin 96) (f : Chan → Chan) (s : State) : (modChan k f s).misc = s.misc := rfl
@[simp] theorem modChan_tap (k : Fin 96) (f : Chan → Chan) (s : State) : (modChan k f s).tap = s.tap := rfl
@[simp] theorem modChan_reh (k : Fin 96) (f : Chan → Chan) (s : State) : (modChan k f s).reh = s.reh := rfl
@[simp] theorem modChan_regs (k : Fin 96) (f : Chan → Chan) (s : State) : (modChan k f s).regs = s.regs := rfl

@[simp] theorem modLev_pending (k : Fin 96) (f : Levels → Levels) (s : State) : (modLev k f s).pending = s.pending := rfl
@[simp] theorem modLev_now (k : Fin 96) (f : Levels → Levels) (s : State) : (modLev k f s).now = s.now := rfl
@[simp] theorem modLev_sysOff (k : Fin 96) (f : Levels → Levels) (s : State) : (modLev k f s).sysOff = s.sysOff := rfl
@[simp] theorem modLev_free (k : Fin 96) (f : Levels → Levels) (s : State) : (modLev k f s).free = s.free := rfl
@[simp] theorem modLev_tile (k : Fin 96) (f : Levels → Levels) (s : State) : (modLev k f s).tile = s.tile := rfl
@[simp] theorem modLev_link (k : Fin 96) (f : Levels → Levels) (s : State) : (modLev k f s).link = s.link := rfl
@[simp] theorem modLev_sns (k : Fin 96) (f : Levels → Levels) (s : State) : (modLev k f s).sns = s.sns := rfl
@[simp] theorem modLev_iso (k : Fin 96) (f : Levels → Levels) (s : State) : (modLev k f s).iso = s.iso := rfl
@[simp] theorem modLev_chan (k : Fin 96) (f : Levels → Levels) (s : State) : (modLev k f s).chan = s.chan.upd k fun c => { c with lev := f c.lev } := rfl
@[simp] theorem modLev_eng (k : Fin 96) (f : Levels → Levels) (s : State) : (modLev k f s).eng = s.eng := rfl
@[simp] theorem modLev_ep (k : Fin 96) (f : Levels → Levels) (s : State) : (modLev k f s).ep = s.ep := rfl
@[simp] theorem modLev_host (k : Fin 96) (f : Levels → Levels) (s : State) : (modLev k f s).host = s.host := rfl
@[simp] theorem modLev_net (k : Fin 96) (f : Levels → Levels) (s : State) : (modLev k f s).net = s.net := rfl
@[simp] theorem modLev_pair (k : Fin 96) (f : Levels → Levels) (s : State) : (modLev k f s).pair = s.pair := rfl
@[simp] theorem modLev_img (k : Fin 96) (f : Levels → Levels) (s : State) : (modLev k f s).img = s.img := rfl
@[simp] theorem modLev_flt (k : Fin 96) (f : Levels → Levels) (s : State) : (modLev k f s).flt = s.flt := rfl
@[simp] theorem modLev_pwr (k : Fin 96) (f : Levels → Levels) (s : State) : (modLev k f s).pwr = s.pwr := rfl
@[simp] theorem modLev_plinth (k : Fin 96) (f : Levels → Levels) (s : State) : (modLev k f s).plinth = s.plinth := rfl
@[simp] theorem modLev_nvs (k : Fin 96) (f : Levels → Levels) (s : State) : (modLev k f s).nvs = s.nvs := rfl
@[simp] theorem modLev_recd (k : Fin 96) (f : Levels → Levels) (s : State) : (modLev k f s).recd = s.recd := rfl
@[simp] theorem modLev_cu (k : Fin 96) (f : Levels → Levels) (s : State) : (modLev k f s).cu = s.cu := rfl
@[simp] theorem modLev_sec (k : Fin 96) (f : Levels → Levels) (s : State) : (modLev k f s).sec = s.sec := rfl
@[simp] theorem modLev_misc (k : Fin 96) (f : Levels → Levels) (s : State) : (modLev k f s).misc = s.misc := rfl
@[simp] theorem modLev_tap (k : Fin 96) (f : Levels → Levels) (s : State) : (modLev k f s).tap = s.tap := rfl
@[simp] theorem modLev_reh (k : Fin 96) (f : Levels → Levels) (s : State) : (modLev k f s).reh = s.reh := rfl
@[simp] theorem modLev_regs (k : Fin 96) (f : Levels → Levels) (s : State) : (modLev k f s).regs = s.regs := rfl

@[simp] theorem modSw_pending (k : Fin 96) (f : Sw → Sw) (s : State) : (modSw k f s).pending = s.pending := rfl
@[simp] theorem modSw_now (k : Fin 96) (f : Sw → Sw) (s : State) : (modSw k f s).now = s.now := rfl
@[simp] theorem modSw_sysOff (k : Fin 96) (f : Sw → Sw) (s : State) : (modSw k f s).sysOff = s.sysOff := rfl
@[simp] theorem modSw_free (k : Fin 96) (f : Sw → Sw) (s : State) : (modSw k f s).free = s.free := rfl
@[simp] theorem modSw_tile (k : Fin 96) (f : Sw → Sw) (s : State) : (modSw k f s).tile = s.tile := rfl
@[simp] theorem modSw_link (k : Fin 96) (f : Sw → Sw) (s : State) : (modSw k f s).link = s.link := rfl
@[simp] theorem modSw_sns (k : Fin 96) (f : Sw → Sw) (s : State) : (modSw k f s).sns = s.sns := rfl
@[simp] theorem modSw_iso (k : Fin 96) (f : Sw → Sw) (s : State) : (modSw k f s).iso = s.iso := rfl
@[simp] theorem modSw_chan (k : Fin 96) (f : Sw → Sw) (s : State) : (modSw k f s).chan = s.chan.upd k fun c => { c with sw := f c.sw } := rfl
@[simp] theorem modSw_eng (k : Fin 96) (f : Sw → Sw) (s : State) : (modSw k f s).eng = s.eng := rfl
@[simp] theorem modSw_ep (k : Fin 96) (f : Sw → Sw) (s : State) : (modSw k f s).ep = s.ep := rfl
@[simp] theorem modSw_host (k : Fin 96) (f : Sw → Sw) (s : State) : (modSw k f s).host = s.host := rfl
@[simp] theorem modSw_net (k : Fin 96) (f : Sw → Sw) (s : State) : (modSw k f s).net = s.net := rfl
@[simp] theorem modSw_pair (k : Fin 96) (f : Sw → Sw) (s : State) : (modSw k f s).pair = s.pair := rfl
@[simp] theorem modSw_img (k : Fin 96) (f : Sw → Sw) (s : State) : (modSw k f s).img = s.img := rfl
@[simp] theorem modSw_flt (k : Fin 96) (f : Sw → Sw) (s : State) : (modSw k f s).flt = s.flt := rfl
@[simp] theorem modSw_pwr (k : Fin 96) (f : Sw → Sw) (s : State) : (modSw k f s).pwr = s.pwr := rfl
@[simp] theorem modSw_plinth (k : Fin 96) (f : Sw → Sw) (s : State) : (modSw k f s).plinth = s.plinth := rfl
@[simp] theorem modSw_nvs (k : Fin 96) (f : Sw → Sw) (s : State) : (modSw k f s).nvs = s.nvs := rfl
@[simp] theorem modSw_recd (k : Fin 96) (f : Sw → Sw) (s : State) : (modSw k f s).recd = s.recd := rfl
@[simp] theorem modSw_cu (k : Fin 96) (f : Sw → Sw) (s : State) : (modSw k f s).cu = s.cu := rfl
@[simp] theorem modSw_sec (k : Fin 96) (f : Sw → Sw) (s : State) : (modSw k f s).sec = s.sec := rfl
@[simp] theorem modSw_misc (k : Fin 96) (f : Sw → Sw) (s : State) : (modSw k f s).misc = s.misc := rfl
@[simp] theorem modSw_tap (k : Fin 96) (f : Sw → Sw) (s : State) : (modSw k f s).tap = s.tap := rfl
@[simp] theorem modSw_reh (k : Fin 96) (f : Sw → Sw) (s : State) : (modSw k f s).reh = s.reh := rfl
@[simp] theorem modSw_regs (k : Fin 96) (f : Sw → Sw) (s : State) : (modSw k f s).regs = s.regs := rfl

@[simp] theorem modPg_pending (k : Fin 96) (f : PGen → PGen) (s : State) : (modPg k f s).pending = s.pending := rfl
@[simp] theorem modPg_now (k : Fin 96) (f : PGen → PGen) (s : State) : (modPg k f s).now = s.now := rfl
@[simp] theorem modPg_sysOff (k : Fin 96) (f : PGen → PGen) (s : State) : (modPg k f s).sysOff = s.sysOff := rfl
@[simp] theorem modPg_free (k : Fin 96) (f : PGen → PGen) (s : State) : (modPg k f s).free = s.free := rfl
@[simp] theorem modPg_tile (k : Fin 96) (f : PGen → PGen) (s : State) : (modPg k f s).tile = s.tile := rfl
@[simp] theorem modPg_link (k : Fin 96) (f : PGen → PGen) (s : State) : (modPg k f s).link = s.link := rfl
@[simp] theorem modPg_sns (k : Fin 96) (f : PGen → PGen) (s : State) : (modPg k f s).sns = s.sns := rfl
@[simp] theorem modPg_iso (k : Fin 96) (f : PGen → PGen) (s : State) : (modPg k f s).iso = s.iso := rfl
@[simp] theorem modPg_chan (k : Fin 96) (f : PGen → PGen) (s : State) : (modPg k f s).chan = s.chan.upd k fun c => { c with pg := f c.pg } := rfl
@[simp] theorem modPg_eng (k : Fin 96) (f : PGen → PGen) (s : State) : (modPg k f s).eng = s.eng := rfl
@[simp] theorem modPg_ep (k : Fin 96) (f : PGen → PGen) (s : State) : (modPg k f s).ep = s.ep := rfl
@[simp] theorem modPg_host (k : Fin 96) (f : PGen → PGen) (s : State) : (modPg k f s).host = s.host := rfl
@[simp] theorem modPg_net (k : Fin 96) (f : PGen → PGen) (s : State) : (modPg k f s).net = s.net := rfl
@[simp] theorem modPg_pair (k : Fin 96) (f : PGen → PGen) (s : State) : (modPg k f s).pair = s.pair := rfl
@[simp] theorem modPg_img (k : Fin 96) (f : PGen → PGen) (s : State) : (modPg k f s).img = s.img := rfl
@[simp] theorem modPg_flt (k : Fin 96) (f : PGen → PGen) (s : State) : (modPg k f s).flt = s.flt := rfl
@[simp] theorem modPg_pwr (k : Fin 96) (f : PGen → PGen) (s : State) : (modPg k f s).pwr = s.pwr := rfl
@[simp] theorem modPg_plinth (k : Fin 96) (f : PGen → PGen) (s : State) : (modPg k f s).plinth = s.plinth := rfl
@[simp] theorem modPg_nvs (k : Fin 96) (f : PGen → PGen) (s : State) : (modPg k f s).nvs = s.nvs := rfl
@[simp] theorem modPg_recd (k : Fin 96) (f : PGen → PGen) (s : State) : (modPg k f s).recd = s.recd := rfl
@[simp] theorem modPg_cu (k : Fin 96) (f : PGen → PGen) (s : State) : (modPg k f s).cu = s.cu := rfl
@[simp] theorem modPg_sec (k : Fin 96) (f : PGen → PGen) (s : State) : (modPg k f s).sec = s.sec := rfl
@[simp] theorem modPg_misc (k : Fin 96) (f : PGen → PGen) (s : State) : (modPg k f s).misc = s.misc := rfl
@[simp] theorem modPg_tap (k : Fin 96) (f : PGen → PGen) (s : State) : (modPg k f s).tap = s.tap := rfl
@[simp] theorem modPg_reh (k : Fin 96) (f : PGen → PGen) (s : State) : (modPg k f s).reh = s.reh := rfl
@[simp] theorem modPg_regs (k : Fin 96) (f : PGen → PGen) (s : State) : (modPg k f s).regs = s.regs := rfl

@[simp] theorem modAna_pending (k : Fin 96) (f : Ana → Ana) (s : State) : (modAna k f s).pending = s.pending := rfl
@[simp] theorem modAna_now (k : Fin 96) (f : Ana → Ana) (s : State) : (modAna k f s).now = s.now := rfl
@[simp] theorem modAna_sysOff (k : Fin 96) (f : Ana → Ana) (s : State) : (modAna k f s).sysOff = s.sysOff := rfl
@[simp] theorem modAna_free (k : Fin 96) (f : Ana → Ana) (s : State) : (modAna k f s).free = s.free := rfl
@[simp] theorem modAna_tile (k : Fin 96) (f : Ana → Ana) (s : State) : (modAna k f s).tile = s.tile := rfl
@[simp] theorem modAna_link (k : Fin 96) (f : Ana → Ana) (s : State) : (modAna k f s).link = s.link := rfl
@[simp] theorem modAna_sns (k : Fin 96) (f : Ana → Ana) (s : State) : (modAna k f s).sns = s.sns := rfl
@[simp] theorem modAna_iso (k : Fin 96) (f : Ana → Ana) (s : State) : (modAna k f s).iso = s.iso := rfl
@[simp] theorem modAna_chan (k : Fin 96) (f : Ana → Ana) (s : State) : (modAna k f s).chan = s.chan.upd k fun c => { c with ana := f c.ana } := rfl
@[simp] theorem modAna_eng (k : Fin 96) (f : Ana → Ana) (s : State) : (modAna k f s).eng = s.eng := rfl
@[simp] theorem modAna_ep (k : Fin 96) (f : Ana → Ana) (s : State) : (modAna k f s).ep = s.ep := rfl
@[simp] theorem modAna_host (k : Fin 96) (f : Ana → Ana) (s : State) : (modAna k f s).host = s.host := rfl
@[simp] theorem modAna_net (k : Fin 96) (f : Ana → Ana) (s : State) : (modAna k f s).net = s.net := rfl
@[simp] theorem modAna_pair (k : Fin 96) (f : Ana → Ana) (s : State) : (modAna k f s).pair = s.pair := rfl
@[simp] theorem modAna_img (k : Fin 96) (f : Ana → Ana) (s : State) : (modAna k f s).img = s.img := rfl
@[simp] theorem modAna_flt (k : Fin 96) (f : Ana → Ana) (s : State) : (modAna k f s).flt = s.flt := rfl
@[simp] theorem modAna_pwr (k : Fin 96) (f : Ana → Ana) (s : State) : (modAna k f s).pwr = s.pwr := rfl
@[simp] theorem modAna_plinth (k : Fin 96) (f : Ana → Ana) (s : State) : (modAna k f s).plinth = s.plinth := rfl
@[simp] theorem modAna_nvs (k : Fin 96) (f : Ana → Ana) (s : State) : (modAna k f s).nvs = s.nvs := rfl
@[simp] theorem modAna_recd (k : Fin 96) (f : Ana → Ana) (s : State) : (modAna k f s).recd = s.recd := rfl
@[simp] theorem modAna_cu (k : Fin 96) (f : Ana → Ana) (s : State) : (modAna k f s).cu = s.cu := rfl
@[simp] theorem modAna_sec (k : Fin 96) (f : Ana → Ana) (s : State) : (modAna k f s).sec = s.sec := rfl
@[simp] theorem modAna_misc (k : Fin 96) (f : Ana → Ana) (s : State) : (modAna k f s).misc = s.misc := rfl
@[simp] theorem modAna_tap (k : Fin 96) (f : Ana → Ana) (s : State) : (modAna k f s).tap = s.tap := rfl
@[simp] theorem modAna_reh (k : Fin 96) (f : Ana → Ana) (s : State) : (modAna k f s).reh = s.reh := rfl
@[simp] theorem modAna_regs (k : Fin 96) (f : Ana → Ana) (s : State) : (modAna k f s).regs = s.regs := rfl

@[simp] theorem modDig_pending (k : Fin 96) (f : Dig → Dig) (s : State) : (modDig k f s).pending = s.pending := rfl
@[simp] theorem modDig_now (k : Fin 96) (f : Dig → Dig) (s : State) : (modDig k f s).now = s.now := rfl
@[simp] theorem modDig_sysOff (k : Fin 96) (f : Dig → Dig) (s : State) : (modDig k f s).sysOff = s.sysOff := rfl
@[simp] theorem modDig_free (k : Fin 96) (f : Dig → Dig) (s : State) : (modDig k f s).free = s.free := rfl
@[simp] theorem modDig_tile (k : Fin 96) (f : Dig → Dig) (s : State) : (modDig k f s).tile = s.tile := rfl
@[simp] theorem modDig_link (k : Fin 96) (f : Dig → Dig) (s : State) : (modDig k f s).link = s.link := rfl
@[simp] theorem modDig_sns (k : Fin 96) (f : Dig → Dig) (s : State) : (modDig k f s).sns = s.sns := rfl
@[simp] theorem modDig_iso (k : Fin 96) (f : Dig → Dig) (s : State) : (modDig k f s).iso = s.iso := rfl
@[simp] theorem modDig_chan (k : Fin 96) (f : Dig → Dig) (s : State) : (modDig k f s).chan = s.chan.upd k fun c => { c with dig := f c.dig } := rfl
@[simp] theorem modDig_eng (k : Fin 96) (f : Dig → Dig) (s : State) : (modDig k f s).eng = s.eng := rfl
@[simp] theorem modDig_ep (k : Fin 96) (f : Dig → Dig) (s : State) : (modDig k f s).ep = s.ep := rfl
@[simp] theorem modDig_host (k : Fin 96) (f : Dig → Dig) (s : State) : (modDig k f s).host = s.host := rfl
@[simp] theorem modDig_net (k : Fin 96) (f : Dig → Dig) (s : State) : (modDig k f s).net = s.net := rfl
@[simp] theorem modDig_pair (k : Fin 96) (f : Dig → Dig) (s : State) : (modDig k f s).pair = s.pair := rfl
@[simp] theorem modDig_img (k : Fin 96) (f : Dig → Dig) (s : State) : (modDig k f s).img = s.img := rfl
@[simp] theorem modDig_flt (k : Fin 96) (f : Dig → Dig) (s : State) : (modDig k f s).flt = s.flt := rfl
@[simp] theorem modDig_pwr (k : Fin 96) (f : Dig → Dig) (s : State) : (modDig k f s).pwr = s.pwr := rfl
@[simp] theorem modDig_plinth (k : Fin 96) (f : Dig → Dig) (s : State) : (modDig k f s).plinth = s.plinth := rfl
@[simp] theorem modDig_nvs (k : Fin 96) (f : Dig → Dig) (s : State) : (modDig k f s).nvs = s.nvs := rfl
@[simp] theorem modDig_recd (k : Fin 96) (f : Dig → Dig) (s : State) : (modDig k f s).recd = s.recd := rfl
@[simp] theorem modDig_cu (k : Fin 96) (f : Dig → Dig) (s : State) : (modDig k f s).cu = s.cu := rfl
@[simp] theorem modDig_sec (k : Fin 96) (f : Dig → Dig) (s : State) : (modDig k f s).sec = s.sec := rfl
@[simp] theorem modDig_misc (k : Fin 96) (f : Dig → Dig) (s : State) : (modDig k f s).misc = s.misc := rfl
@[simp] theorem modDig_tap (k : Fin 96) (f : Dig → Dig) (s : State) : (modDig k f s).tap = s.tap := rfl
@[simp] theorem modDig_reh (k : Fin 96) (f : Dig → Dig) (s : State) : (modDig k f s).reh = s.reh := rfl
@[simp] theorem modDig_regs (k : Fin 96) (f : Dig → Dig) (s : State) : (modDig k f s).regs = s.regs := rfl

@[simp] theorem modDg_pending (k : Fin 96) (f : Diag → Diag) (s : State) : (modDg k f s).pending = s.pending := rfl
@[simp] theorem modDg_now (k : Fin 96) (f : Diag → Diag) (s : State) : (modDg k f s).now = s.now := rfl
@[simp] theorem modDg_sysOff (k : Fin 96) (f : Diag → Diag) (s : State) : (modDg k f s).sysOff = s.sysOff := rfl
@[simp] theorem modDg_free (k : Fin 96) (f : Diag → Diag) (s : State) : (modDg k f s).free = s.free := rfl
@[simp] theorem modDg_tile (k : Fin 96) (f : Diag → Diag) (s : State) : (modDg k f s).tile = s.tile := rfl
@[simp] theorem modDg_link (k : Fin 96) (f : Diag → Diag) (s : State) : (modDg k f s).link = s.link := rfl
@[simp] theorem modDg_sns (k : Fin 96) (f : Diag → Diag) (s : State) : (modDg k f s).sns = s.sns := rfl
@[simp] theorem modDg_iso (k : Fin 96) (f : Diag → Diag) (s : State) : (modDg k f s).iso = s.iso := rfl
@[simp] theorem modDg_chan (k : Fin 96) (f : Diag → Diag) (s : State) : (modDg k f s).chan = s.chan.upd k fun c => { c with dg := f c.dg } := rfl
@[simp] theorem modDg_eng (k : Fin 96) (f : Diag → Diag) (s : State) : (modDg k f s).eng = s.eng := rfl
@[simp] theorem modDg_ep (k : Fin 96) (f : Diag → Diag) (s : State) : (modDg k f s).ep = s.ep := rfl
@[simp] theorem modDg_host (k : Fin 96) (f : Diag → Diag) (s : State) : (modDg k f s).host = s.host := rfl
@[simp] theorem modDg_net (k : Fin 96) (f : Diag → Diag) (s : State) : (modDg k f s).net = s.net := rfl
@[simp] theorem modDg_pair (k : Fin 96) (f : Diag → Diag) (s : State) : (modDg k f s).pair = s.pair := rfl
@[simp] theorem modDg_img (k : Fin 96) (f : Diag → Diag) (s : State) : (modDg k f s).img = s.img := rfl
@[simp] theorem modDg_flt (k : Fin 96) (f : Diag → Diag) (s : State) : (modDg k f s).flt = s.flt := rfl
@[simp] theorem modDg_pwr (k : Fin 96) (f : Diag → Diag) (s : State) : (modDg k f s).pwr = s.pwr := rfl
@[simp] theorem modDg_plinth (k : Fin 96) (f : Diag → Diag) (s : State) : (modDg k f s).plinth = s.plinth := rfl
@[simp] theorem modDg_nvs (k : Fin 96) (f : Diag → Diag) (s : State) : (modDg k f s).nvs = s.nvs := rfl
@[simp] theorem modDg_recd (k : Fin 96) (f : Diag → Diag) (s : State) : (modDg k f s).recd = s.recd := rfl
@[simp] theorem modDg_cu (k : Fin 96) (f : Diag → Diag) (s : State) : (modDg k f s).cu = s.cu := rfl
@[simp] theorem modDg_sec (k : Fin 96) (f : Diag → Diag) (s : State) : (modDg k f s).sec = s.sec := rfl
@[simp] theorem modDg_misc (k : Fin 96) (f : Diag → Diag) (s : State) : (modDg k f s).misc = s.misc := rfl
@[simp] theorem modDg_tap (k : Fin 96) (f : Diag → Diag) (s : State) : (modDg k f s).tap = s.tap := rfl
@[simp] theorem modDg_reh (k : Fin 96) (f : Diag → Diag) (s : State) : (modDg k f s).reh = s.reh := rfl
@[simp] theorem modDg_regs (k : Fin 96) (f : Diag → Diag) (s : State) : (modDg k f s).regs = s.regs := rfl

@[simp] theorem modHart_pending (k : Fin 96) (f : Hart → Hart) (s : State) : (modHart k f s).pending = s.pending := rfl
@[simp] theorem modHart_now (k : Fin 96) (f : Hart → Hart) (s : State) : (modHart k f s).now = s.now := rfl
@[simp] theorem modHart_sysOff (k : Fin 96) (f : Hart → Hart) (s : State) : (modHart k f s).sysOff = s.sysOff := rfl
@[simp] theorem modHart_free (k : Fin 96) (f : Hart → Hart) (s : State) : (modHart k f s).free = s.free := rfl
@[simp] theorem modHart_tile (k : Fin 96) (f : Hart → Hart) (s : State) : (modHart k f s).tile = s.tile := rfl
@[simp] theorem modHart_link (k : Fin 96) (f : Hart → Hart) (s : State) : (modHart k f s).link = s.link := rfl
@[simp] theorem modHart_sns (k : Fin 96) (f : Hart → Hart) (s : State) : (modHart k f s).sns = s.sns := rfl
@[simp] theorem modHart_iso (k : Fin 96) (f : Hart → Hart) (s : State) : (modHart k f s).iso = s.iso := rfl
@[simp] theorem modHart_chan (k : Fin 96) (f : Hart → Hart) (s : State) : (modHart k f s).chan = s.chan.upd k fun c => { c with hart := f c.hart } := rfl
@[simp] theorem modHart_eng (k : Fin 96) (f : Hart → Hart) (s : State) : (modHart k f s).eng = s.eng := rfl
@[simp] theorem modHart_ep (k : Fin 96) (f : Hart → Hart) (s : State) : (modHart k f s).ep = s.ep := rfl
@[simp] theorem modHart_host (k : Fin 96) (f : Hart → Hart) (s : State) : (modHart k f s).host = s.host := rfl
@[simp] theorem modHart_net (k : Fin 96) (f : Hart → Hart) (s : State) : (modHart k f s).net = s.net := rfl
@[simp] theorem modHart_pair (k : Fin 96) (f : Hart → Hart) (s : State) : (modHart k f s).pair = s.pair := rfl
@[simp] theorem modHart_img (k : Fin 96) (f : Hart → Hart) (s : State) : (modHart k f s).img = s.img := rfl
@[simp] theorem modHart_flt (k : Fin 96) (f : Hart → Hart) (s : State) : (modHart k f s).flt = s.flt := rfl
@[simp] theorem modHart_pwr (k : Fin 96) (f : Hart → Hart) (s : State) : (modHart k f s).pwr = s.pwr := rfl
@[simp] theorem modHart_plinth (k : Fin 96) (f : Hart → Hart) (s : State) : (modHart k f s).plinth = s.plinth := rfl
@[simp] theorem modHart_nvs (k : Fin 96) (f : Hart → Hart) (s : State) : (modHart k f s).nvs = s.nvs := rfl
@[simp] theorem modHart_recd (k : Fin 96) (f : Hart → Hart) (s : State) : (modHart k f s).recd = s.recd := rfl
@[simp] theorem modHart_cu (k : Fin 96) (f : Hart → Hart) (s : State) : (modHart k f s).cu = s.cu := rfl
@[simp] theorem modHart_sec (k : Fin 96) (f : Hart → Hart) (s : State) : (modHart k f s).sec = s.sec := rfl
@[simp] theorem modHart_misc (k : Fin 96) (f : Hart → Hart) (s : State) : (modHart k f s).misc = s.misc := rfl
@[simp] theorem modHart_tap (k : Fin 96) (f : Hart → Hart) (s : State) : (modHart k f s).tap = s.tap := rfl
@[simp] theorem modHart_reh (k : Fin 96) (f : Hart → Hart) (s : State) : (modHart k f s).reh = s.reh := rfl
@[simp] theorem modHart_regs (k : Fin 96) (f : Hart → Hart) (s : State) : (modHart k f s).regs = s.regs := rfl

@[simp] theorem setReg_pending (off v : Nat) (s : State) : (setReg off v s).pending = s.pending := rfl
@[simp] theorem setReg_now (off v : Nat) (s : State) : (setReg off v s).now = s.now := rfl
@[simp] theorem setReg_sysOff (off v : Nat) (s : State) : (setReg off v s).sysOff = s.sysOff := rfl
@[simp] theorem setReg_free (off v : Nat) (s : State) : (setReg off v s).free = s.free := rfl
@[simp] theorem setReg_tile (off v : Nat) (s : State) : (setReg off v s).tile = s.tile := rfl
@[simp] theorem setReg_link (off v : Nat) (s : State) : (setReg off v s).link = s.link := rfl
@[simp] theorem setReg_sns (off v : Nat) (s : State) : (setReg off v s).sns = s.sns := rfl
@[simp] theorem setReg_iso (off v : Nat) (s : State) : (setReg off v s).iso = s.iso := rfl
@[simp] theorem setReg_chan (off v : Nat) (s : State) : (setReg off v s).chan = s.chan := rfl
@[simp] theorem setReg_eng (off v : Nat) (s : State) : (setReg off v s).eng = s.eng := rfl
@[simp] theorem setReg_ep (off v : Nat) (s : State) : (setReg off v s).ep = s.ep := rfl
@[simp] theorem setReg_host (off v : Nat) (s : State) : (setReg off v s).host = s.host := rfl
@[simp] theorem setReg_net (off v : Nat) (s : State) : (setReg off v s).net = s.net := rfl
@[simp] theorem setReg_pair (off v : Nat) (s : State) : (setReg off v s).pair = s.pair := rfl
@[simp] theorem setReg_img (off v : Nat) (s : State) : (setReg off v s).img = s.img := rfl
@[simp] theorem setReg_flt (off v : Nat) (s : State) : (setReg off v s).flt = s.flt := rfl
@[simp] theorem setReg_pwr (off v : Nat) (s : State) : (setReg off v s).pwr = s.pwr := rfl
@[simp] theorem setReg_plinth (off v : Nat) (s : State) : (setReg off v s).plinth = s.plinth := rfl
@[simp] theorem setReg_nvs (off v : Nat) (s : State) : (setReg off v s).nvs = s.nvs := rfl
@[simp] theorem setReg_recd (off v : Nat) (s : State) : (setReg off v s).recd = s.recd := rfl
@[simp] theorem setReg_cu (off v : Nat) (s : State) : (setReg off v s).cu = s.cu := rfl
@[simp] theorem setReg_sec (off v : Nat) (s : State) : (setReg off v s).sec = s.sec := rfl
@[simp] theorem setReg_misc (off v : Nat) (s : State) : (setReg off v s).misc = s.misc := rfl
@[simp] theorem setReg_tap (off v : Nat) (s : State) : (setReg off v s).tap = s.tap := rfl
@[simp] theorem setReg_reh (off v : Nat) (s : State) : (setReg off v s).reh = s.reh := rfl

@[simp] theorem signal_pending (v : Nat) (s : State) : (signal v s).pending = s.pending := rfl
@[simp] theorem signal_now (v : Nat) (s : State) : (signal v s).now = s.now := rfl
@[simp] theorem signal_sysOff (v : Nat) (s : State) : (signal v s).sysOff = s.sysOff := rfl
@[simp] theorem signal_free (v : Nat) (s : State) : (signal v s).free = s.free := rfl
@[simp] theorem signal_tile (v : Nat) (s : State) : (signal v s).tile = s.tile := rfl
@[simp] theorem signal_link (v : Nat) (s : State) : (signal v s).link = s.link := rfl
@[simp] theorem signal_sns (v : Nat) (s : State) : (signal v s).sns = s.sns := rfl
@[simp] theorem signal_iso (v : Nat) (s : State) : (signal v s).iso = s.iso := rfl
@[simp] theorem signal_chan (v : Nat) (s : State) : (signal v s).chan = s.chan := rfl
@[simp] theorem signal_eng (v : Nat) (s : State) : (signal v s).eng = s.eng := rfl
@[simp] theorem signal_ep (v : Nat) (s : State) : (signal v s).ep = s.ep := rfl
@[simp] theorem signal_net (v : Nat) (s : State) : (signal v s).net = s.net := rfl
@[simp] theorem signal_pair (v : Nat) (s : State) : (signal v s).pair = s.pair := rfl
@[simp] theorem signal_img (v : Nat) (s : State) : (signal v s).img = s.img := rfl
@[simp] theorem signal_flt (v : Nat) (s : State) : (signal v s).flt = s.flt := rfl
@[simp] theorem signal_pwr (v : Nat) (s : State) : (signal v s).pwr = s.pwr := rfl
@[simp] theorem signal_plinth (v : Nat) (s : State) : (signal v s).plinth = s.plinth := rfl
@[simp] theorem signal_nvs (v : Nat) (s : State) : (signal v s).nvs = s.nvs := rfl
@[simp] theorem signal_recd (v : Nat) (s : State) : (signal v s).recd = s.recd := rfl
@[simp] theorem signal_cu (v : Nat) (s : State) : (signal v s).cu = s.cu := rfl
@[simp] theorem signal_sec (v : Nat) (s : State) : (signal v s).sec = s.sec := rfl
@[simp] theorem signal_misc (v : Nat) (s : State) : (signal v s).misc = s.misc := rfl
@[simp] theorem signal_tap (v : Nat) (s : State) : (signal v s).tap = s.tap := rfl
@[simp] theorem signal_reh (v : Nat) (s : State) : (signal v s).reh = s.reh := rfl
@[simp] theorem signal_regs (v : Nat) (s : State) : (signal v s).regs = s.regs := rfl

@[simp] theorem hostWrite_pending (addr : Nat) (b : List Byte) (s : State) : (hostWrite addr b s).pending = s.pending := rfl
@[simp] theorem hostWrite_now (addr : Nat) (b : List Byte) (s : State) : (hostWrite addr b s).now = s.now := rfl
@[simp] theorem hostWrite_sysOff (addr : Nat) (b : List Byte) (s : State) : (hostWrite addr b s).sysOff = s.sysOff := rfl
@[simp] theorem hostWrite_free (addr : Nat) (b : List Byte) (s : State) : (hostWrite addr b s).free = s.free := rfl
@[simp] theorem hostWrite_tile (addr : Nat) (b : List Byte) (s : State) : (hostWrite addr b s).tile = s.tile := rfl
@[simp] theorem hostWrite_link (addr : Nat) (b : List Byte) (s : State) : (hostWrite addr b s).link = s.link := rfl
@[simp] theorem hostWrite_sns (addr : Nat) (b : List Byte) (s : State) : (hostWrite addr b s).sns = s.sns := rfl
@[simp] theorem hostWrite_iso (addr : Nat) (b : List Byte) (s : State) : (hostWrite addr b s).iso = s.iso := rfl
@[simp] theorem hostWrite_chan (addr : Nat) (b : List Byte) (s : State) : (hostWrite addr b s).chan = s.chan := rfl
@[simp] theorem hostWrite_eng (addr : Nat) (b : List Byte) (s : State) : (hostWrite addr b s).eng = s.eng := rfl
@[simp] theorem hostWrite_ep (addr : Nat) (b : List Byte) (s : State) : (hostWrite addr b s).ep = s.ep := rfl
@[simp] theorem hostWrite_host (addr : Nat) (b : List Byte) (s : State) : (hostWrite addr b s).host = { s.host with writes := s.host.writes ++ payloads b.length s.host.pcie.mps addr b } := rfl
@[simp] theorem hostWrite_net (addr : Nat) (b : List Byte) (s : State) : (hostWrite addr b s).net = s.net := rfl
@[simp] theorem hostWrite_pair (addr : Nat) (b : List Byte) (s : State) : (hostWrite addr b s).pair = s.pair := rfl
@[simp] theorem hostWrite_img (addr : Nat) (b : List Byte) (s : State) : (hostWrite addr b s).img = s.img := rfl
@[simp] theorem hostWrite_flt (addr : Nat) (b : List Byte) (s : State) : (hostWrite addr b s).flt = s.flt := rfl
@[simp] theorem hostWrite_pwr (addr : Nat) (b : List Byte) (s : State) : (hostWrite addr b s).pwr = s.pwr := rfl
@[simp] theorem hostWrite_plinth (addr : Nat) (b : List Byte) (s : State) : (hostWrite addr b s).plinth = s.plinth := rfl
@[simp] theorem hostWrite_nvs (addr : Nat) (b : List Byte) (s : State) : (hostWrite addr b s).nvs = s.nvs := rfl
@[simp] theorem hostWrite_recd (addr : Nat) (b : List Byte) (s : State) : (hostWrite addr b s).recd = s.recd := rfl
@[simp] theorem hostWrite_cu (addr : Nat) (b : List Byte) (s : State) : (hostWrite addr b s).cu = s.cu := rfl
@[simp] theorem hostWrite_sec (addr : Nat) (b : List Byte) (s : State) : (hostWrite addr b s).sec = s.sec := rfl
@[simp] theorem hostWrite_misc (addr : Nat) (b : List Byte) (s : State) : (hostWrite addr b s).misc = s.misc := rfl
@[simp] theorem hostWrite_tap (addr : Nat) (b : List Byte) (s : State) : (hostWrite addr b s).tap = s.tap := rfl
@[simp] theorem hostWrite_reh (addr : Nat) (b : List Byte) (s : State) : (hostWrite addr b s).reh = s.reh := rfl
@[simp] theorem hostWrite_regs (addr : Nat) (b : List Byte) (s : State) : (hostWrite addr b s).regs = s.regs := rfl

@[simp] theorem tileSend_pending (t : Fin 12) (slot c op handle stamp value : Nat) (s : State) : (tileSend t slot c op handle stamp value s).pending = s.pending := rfl
@[simp] theorem tileSend_now (t : Fin 12) (slot c op handle stamp value : Nat) (s : State) : (tileSend t slot c op handle stamp value s).now = s.now := rfl
@[simp] theorem tileSend_sysOff (t : Fin 12) (slot c op handle stamp value : Nat) (s : State) : (tileSend t slot c op handle stamp value s).sysOff = s.sysOff := rfl
@[simp] theorem tileSend_free (t : Fin 12) (slot c op handle stamp value : Nat) (s : State) : (tileSend t slot c op handle stamp value s).free = s.free := rfl
@[simp] theorem tileSend_tile (t : Fin 12) (slot c op handle stamp value : Nat) (s : State) : (tileSend t slot c op handle stamp value s).tile = s.tile := rfl
@[simp] theorem tileSend_link (t : Fin 12) (slot c op handle stamp value : Nat) (s : State) : (tileSend t slot c op handle stamp value s).link = s.link := rfl
@[simp] theorem tileSend_sns (t : Fin 12) (slot c op handle stamp value : Nat) (s : State) : (tileSend t slot c op handle stamp value s).sns = s.sns := rfl
@[simp] theorem tileSend_iso (t : Fin 12) (slot c op handle stamp value : Nat) (s : State) : (tileSend t slot c op handle stamp value s).iso = s.iso := rfl
@[simp] theorem tileSend_chan (t : Fin 12) (slot c op handle stamp value : Nat) (s : State) : (tileSend t slot c op handle stamp value s).chan = s.chan := rfl
@[simp] theorem tileSend_eng (t : Fin 12) (slot c op handle stamp value : Nat) (s : State) : (tileSend t slot c op handle stamp value s).eng = s.eng := rfl
@[simp] theorem tileSend_ep (t : Fin 12) (slot c op handle stamp value : Nat) (s : State) : (tileSend t slot c op handle stamp value s).ep = s.ep := rfl
@[simp] theorem tileSend_host (t : Fin 12) (slot c op handle stamp value : Nat) (s : State) : (tileSend t slot c op handle stamp value s).host = s.host := rfl
@[simp] theorem tileSend_net (t : Fin 12) (slot c op handle stamp value : Nat) (s : State) : (tileSend t slot c op handle stamp value s).net = s.net := rfl
@[simp] theorem tileSend_pair (t : Fin 12) (slot c op handle stamp value : Nat) (s : State) : (tileSend t slot c op handle stamp value s).pair = s.pair := rfl
@[simp] theorem tileSend_img (t : Fin 12) (slot c op handle stamp value : Nat) (s : State) : (tileSend t slot c op handle stamp value s).img = s.img := rfl
@[simp] theorem tileSend_flt (t : Fin 12) (slot c op handle stamp value : Nat) (s : State) : (tileSend t slot c op handle stamp value s).flt = s.flt := rfl
@[simp] theorem tileSend_pwr (t : Fin 12) (slot c op handle stamp value : Nat) (s : State) : (tileSend t slot c op handle stamp value s).pwr = s.pwr := rfl
@[simp] theorem tileSend_plinth (t : Fin 12) (slot c op handle stamp value : Nat) (s : State) : (tileSend t slot c op handle stamp value s).plinth = s.plinth := rfl
@[simp] theorem tileSend_nvs (t : Fin 12) (slot c op handle stamp value : Nat) (s : State) : (tileSend t slot c op handle stamp value s).nvs = s.nvs := rfl
@[simp] theorem tileSend_recd (t : Fin 12) (slot c op handle stamp value : Nat) (s : State) : (tileSend t slot c op handle stamp value s).recd = s.recd := rfl
@[simp] theorem tileSend_cu (t : Fin 12) (slot c op handle stamp value : Nat) (s : State) : (tileSend t slot c op handle stamp value s).cu = s.cu := rfl
@[simp] theorem tileSend_sec (t : Fin 12) (slot c op handle stamp value : Nat) (s : State) : (tileSend t slot c op handle stamp value s).sec = s.sec := rfl
@[simp] theorem tileSend_tap (t : Fin 12) (slot c op handle stamp value : Nat) (s : State) : (tileSend t slot c op handle stamp value s).tap = s.tap := rfl
@[simp] theorem tileSend_reh (t : Fin 12) (slot c op handle stamp value : Nat) (s : State) : (tileSend t slot c op handle stamp value s).reh = s.reh := rfl
@[simp] theorem tileSend_regs (t : Fin 12) (slot c op handle stamp value : Nat) (s : State) : (tileSend t slot c op handle stamp value s).regs = s.regs := rfl

@[simp] theorem modCq_pending (q : Fin 64) (f : CQ → CQ) (s : State) : (modCq q f s).pending = s.pending := rfl
@[simp] theorem modCq_now (q : Fin 64) (f : CQ → CQ) (s : State) : (modCq q f s).now = s.now := rfl
@[simp] theorem modCq_sysOff (q : Fin 64) (f : CQ → CQ) (s : State) : (modCq q f s).sysOff = s.sysOff := rfl
@[simp] theorem modCq_free (q : Fin 64) (f : CQ → CQ) (s : State) : (modCq q f s).free = s.free := rfl
@[simp] theorem modCq_tile (q : Fin 64) (f : CQ → CQ) (s : State) : (modCq q f s).tile = s.tile := rfl
@[simp] theorem modCq_link (q : Fin 64) (f : CQ → CQ) (s : State) : (modCq q f s).link = s.link := rfl
@[simp] theorem modCq_sns (q : Fin 64) (f : CQ → CQ) (s : State) : (modCq q f s).sns = s.sns := rfl
@[simp] theorem modCq_iso (q : Fin 64) (f : CQ → CQ) (s : State) : (modCq q f s).iso = s.iso := rfl
@[simp] theorem modCq_chan (q : Fin 64) (f : CQ → CQ) (s : State) : (modCq q f s).chan = s.chan := rfl
@[simp] theorem modCq_eng (q : Fin 64) (f : CQ → CQ) (s : State) : (modCq q f s).eng = s.eng := rfl
@[simp] theorem modCq_ep (q : Fin 64) (f : CQ → CQ) (s : State) : (modCq q f s).ep = s.ep := rfl
@[simp] theorem modCq_host (q : Fin 64) (f : CQ → CQ) (s : State) : (modCq q f s).host = { s.host with cq := s.host.cq.upd q f } := rfl
@[simp] theorem modCq_net (q : Fin 64) (f : CQ → CQ) (s : State) : (modCq q f s).net = s.net := rfl
@[simp] theorem modCq_pair (q : Fin 64) (f : CQ → CQ) (s : State) : (modCq q f s).pair = s.pair := rfl
@[simp] theorem modCq_img (q : Fin 64) (f : CQ → CQ) (s : State) : (modCq q f s).img = s.img := rfl
@[simp] theorem modCq_flt (q : Fin 64) (f : CQ → CQ) (s : State) : (modCq q f s).flt = s.flt := rfl
@[simp] theorem modCq_pwr (q : Fin 64) (f : CQ → CQ) (s : State) : (modCq q f s).pwr = s.pwr := rfl
@[simp] theorem modCq_plinth (q : Fin 64) (f : CQ → CQ) (s : State) : (modCq q f s).plinth = s.plinth := rfl
@[simp] theorem modCq_nvs (q : Fin 64) (f : CQ → CQ) (s : State) : (modCq q f s).nvs = s.nvs := rfl
@[simp] theorem modCq_recd (q : Fin 64) (f : CQ → CQ) (s : State) : (modCq q f s).recd = s.recd := rfl
@[simp] theorem modCq_cu (q : Fin 64) (f : CQ → CQ) (s : State) : (modCq q f s).cu = s.cu := rfl
@[simp] theorem modCq_sec (q : Fin 64) (f : CQ → CQ) (s : State) : (modCq q f s).sec = s.sec := rfl
@[simp] theorem modCq_misc (q : Fin 64) (f : CQ → CQ) (s : State) : (modCq q f s).misc = s.misc := rfl
@[simp] theorem modCq_tap (q : Fin 64) (f : CQ → CQ) (s : State) : (modCq q f s).tap = s.tap := rfl
@[simp] theorem modCq_reh (q : Fin 64) (f : CQ → CQ) (s : State) : (modCq q f s).reh = s.reh := rfl
@[simp] theorem modCq_regs (q : Fin 64) (f : CQ → CQ) (s : State) : (modCq q f s).regs = s.regs := rfl

@[simp] theorem modCr_pending (n : Fin 64) (f : CR → CR) (s : State) : (modCr n f s).pending = s.pending := rfl
@[simp] theorem modCr_now (n : Fin 64) (f : CR → CR) (s : State) : (modCr n f s).now = s.now := rfl
@[simp] theorem modCr_sysOff (n : Fin 64) (f : CR → CR) (s : State) : (modCr n f s).sysOff = s.sysOff := rfl
@[simp] theorem modCr_free (n : Fin 64) (f : CR → CR) (s : State) : (modCr n f s).free = s.free := rfl
@[simp] theorem modCr_tile (n : Fin 64) (f : CR → CR) (s : State) : (modCr n f s).tile = s.tile := rfl
@[simp] theorem modCr_link (n : Fin 64) (f : CR → CR) (s : State) : (modCr n f s).link = s.link := rfl
@[simp] theorem modCr_sns (n : Fin 64) (f : CR → CR) (s : State) : (modCr n f s).sns = s.sns := rfl
@[simp] theorem modCr_iso (n : Fin 64) (f : CR → CR) (s : State) : (modCr n f s).iso = s.iso := rfl
@[simp] theorem modCr_chan (n : Fin 64) (f : CR → CR) (s : State) : (modCr n f s).chan = s.chan := rfl
@[simp] theorem modCr_eng (n : Fin 64) (f : CR → CR) (s : State) : (modCr n f s).eng = s.eng := rfl
@[simp] theorem modCr_ep (n : Fin 64) (f : CR → CR) (s : State) : (modCr n f s).ep = s.ep := rfl
@[simp] theorem modCr_host (n : Fin 64) (f : CR → CR) (s : State) : (modCr n f s).host = { s.host with cr := s.host.cr.upd n f } := rfl
@[simp] theorem modCr_net (n : Fin 64) (f : CR → CR) (s : State) : (modCr n f s).net = s.net := rfl
@[simp] theorem modCr_pair (n : Fin 64) (f : CR → CR) (s : State) : (modCr n f s).pair = s.pair := rfl
@[simp] theorem modCr_img (n : Fin 64) (f : CR → CR) (s : State) : (modCr n f s).img = s.img := rfl
@[simp] theorem modCr_flt (n : Fin 64) (f : CR → CR) (s : State) : (modCr n f s).flt = s.flt := rfl
@[simp] theorem modCr_pwr (n : Fin 64) (f : CR → CR) (s : State) : (modCr n f s).pwr = s.pwr := rfl
@[simp] theorem modCr_plinth (n : Fin 64) (f : CR → CR) (s : State) : (modCr n f s).plinth = s.plinth := rfl
@[simp] theorem modCr_nvs (n : Fin 64) (f : CR → CR) (s : State) : (modCr n f s).nvs = s.nvs := rfl
@[simp] theorem modCr_recd (n : Fin 64) (f : CR → CR) (s : State) : (modCr n f s).recd = s.recd := rfl
@[simp] theorem modCr_cu (n : Fin 64) (f : CR → CR) (s : State) : (modCr n f s).cu = s.cu := rfl
@[simp] theorem modCr_sec (n : Fin 64) (f : CR → CR) (s : State) : (modCr n f s).sec = s.sec := rfl
@[simp] theorem modCr_misc (n : Fin 64) (f : CR → CR) (s : State) : (modCr n f s).misc = s.misc := rfl
@[simp] theorem modCr_tap (n : Fin 64) (f : CR → CR) (s : State) : (modCr n f s).tap = s.tap := rfl
@[simp] theorem modCr_reh (n : Fin 64) (f : CR → CR) (s : State) : (modCr n f s).reh = s.reh := rfl
@[simp] theorem modCr_regs (n : Fin 64) (f : CR → CR) (s : State) : (modCr n f s).regs = s.regs := rfl

@[simp] theorem modWork_pending (r : WorkRef) (f : Work → Work) (s : State) : (modWork r f s).pending = s.pending := rfl
@[simp] theorem modWork_now (r : WorkRef) (f : Work → Work) (s : State) : (modWork r f s).now = s.now := rfl
@[simp] theorem modWork_sysOff (r : WorkRef) (f : Work → Work) (s : State) : (modWork r f s).sysOff = s.sysOff := rfl
@[simp] theorem modWork_free (r : WorkRef) (f : Work → Work) (s : State) : (modWork r f s).free = s.free := rfl
@[simp] theorem modWork_tile (r : WorkRef) (f : Work → Work) (s : State) : (modWork r f s).tile = s.tile := rfl
@[simp] theorem modWork_link (r : WorkRef) (f : Work → Work) (s : State) : (modWork r f s).link = s.link := rfl
@[simp] theorem modWork_sns (r : WorkRef) (f : Work → Work) (s : State) : (modWork r f s).sns = s.sns := rfl
@[simp] theorem modWork_iso (r : WorkRef) (f : Work → Work) (s : State) : (modWork r f s).iso = s.iso := rfl
@[simp] theorem modWork_chan (r : WorkRef) (f : Work → Work) (s : State) : (modWork r f s).chan = s.chan := rfl
@[simp] theorem modWork_eng (r : WorkRef) (f : Work → Work) (s : State) : (modWork r f s).eng = s.eng := rfl
@[simp] theorem modWork_ep (r : WorkRef) (f : Work → Work) (s : State) : (modWork r f s).ep = s.ep := rfl
@[simp] theorem modWork_net (r : WorkRef) (f : Work → Work) (s : State) : (modWork r f s).net = s.net := rfl
@[simp] theorem modWork_pair (r : WorkRef) (f : Work → Work) (s : State) : (modWork r f s).pair = s.pair := rfl
@[simp] theorem modWork_img (r : WorkRef) (f : Work → Work) (s : State) : (modWork r f s).img = s.img := rfl
@[simp] theorem modWork_flt (r : WorkRef) (f : Work → Work) (s : State) : (modWork r f s).flt = s.flt := rfl
@[simp] theorem modWork_pwr (r : WorkRef) (f : Work → Work) (s : State) : (modWork r f s).pwr = s.pwr := rfl
@[simp] theorem modWork_plinth (r : WorkRef) (f : Work → Work) (s : State) : (modWork r f s).plinth = s.plinth := rfl
@[simp] theorem modWork_nvs (r : WorkRef) (f : Work → Work) (s : State) : (modWork r f s).nvs = s.nvs := rfl
@[simp] theorem modWork_recd (r : WorkRef) (f : Work → Work) (s : State) : (modWork r f s).recd = s.recd := rfl
@[simp] theorem modWork_cu (r : WorkRef) (f : Work → Work) (s : State) : (modWork r f s).cu = s.cu := rfl
@[simp] theorem modWork_sec (r : WorkRef) (f : Work → Work) (s : State) : (modWork r f s).sec = s.sec := rfl
@[simp] theorem modWork_misc (r : WorkRef) (f : Work → Work) (s : State) : (modWork r f s).misc = s.misc := rfl
@[simp] theorem modWork_tap (r : WorkRef) (f : Work → Work) (s : State) : (modWork r f s).tap = s.tap := rfl
@[simp] theorem modWork_reh (r : WorkRef) (f : Work → Work) (s : State) : (modWork r f s).reh = s.reh := rfl
@[simp] theorem modWork_regs (r : WorkRef) (f : Work → Work) (s : State) : (modWork r f s).regs = s.regs := rfl

@[simp] theorem modGroup_pending (g : Nat) (f : Group → Group) (s : State) : (modGroup g f s).pending = s.pending := rfl
@[simp] theorem modGroup_now (g : Nat) (f : Group → Group) (s : State) : (modGroup g f s).now = s.now := rfl
@[simp] theorem modGroup_sysOff (g : Nat) (f : Group → Group) (s : State) : (modGroup g f s).sysOff = s.sysOff := rfl
@[simp] theorem modGroup_free (g : Nat) (f : Group → Group) (s : State) : (modGroup g f s).free = s.free := rfl
@[simp] theorem modGroup_tile (g : Nat) (f : Group → Group) (s : State) : (modGroup g f s).tile = s.tile := rfl
@[simp] theorem modGroup_link (g : Nat) (f : Group → Group) (s : State) : (modGroup g f s).link = s.link := rfl
@[simp] theorem modGroup_sns (g : Nat) (f : Group → Group) (s : State) : (modGroup g f s).sns = s.sns := rfl
@[simp] theorem modGroup_iso (g : Nat) (f : Group → Group) (s : State) : (modGroup g f s).iso = s.iso := rfl
@[simp] theorem modGroup_chan (g : Nat) (f : Group → Group) (s : State) : (modGroup g f s).chan = s.chan := rfl
@[simp] theorem modGroup_eng (g : Nat) (f : Group → Group) (s : State) : (modGroup g f s).eng = s.eng := rfl
@[simp] theorem modGroup_host (g : Nat) (f : Group → Group) (s : State) : (modGroup g f s).host = s.host := rfl
@[simp] theorem modGroup_net (g : Nat) (f : Group → Group) (s : State) : (modGroup g f s).net = s.net := rfl
@[simp] theorem modGroup_pair (g : Nat) (f : Group → Group) (s : State) : (modGroup g f s).pair = s.pair := rfl
@[simp] theorem modGroup_img (g : Nat) (f : Group → Group) (s : State) : (modGroup g f s).img = s.img := rfl
@[simp] theorem modGroup_flt (g : Nat) (f : Group → Group) (s : State) : (modGroup g f s).flt = s.flt := rfl
@[simp] theorem modGroup_pwr (g : Nat) (f : Group → Group) (s : State) : (modGroup g f s).pwr = s.pwr := rfl
@[simp] theorem modGroup_plinth (g : Nat) (f : Group → Group) (s : State) : (modGroup g f s).plinth = s.plinth := rfl
@[simp] theorem modGroup_nvs (g : Nat) (f : Group → Group) (s : State) : (modGroup g f s).nvs = s.nvs := rfl
@[simp] theorem modGroup_recd (g : Nat) (f : Group → Group) (s : State) : (modGroup g f s).recd = s.recd := rfl
@[simp] theorem modGroup_cu (g : Nat) (f : Group → Group) (s : State) : (modGroup g f s).cu = s.cu := rfl
@[simp] theorem modGroup_sec (g : Nat) (f : Group → Group) (s : State) : (modGroup g f s).sec = s.sec := rfl
@[simp] theorem modGroup_misc (g : Nat) (f : Group → Group) (s : State) : (modGroup g f s).misc = s.misc := rfl
@[simp] theorem modGroup_tap (g : Nat) (f : Group → Group) (s : State) : (modGroup g f s).tap = s.tap := rfl
@[simp] theorem modGroup_reh (g : Nat) (f : Group → Group) (s : State) : (modGroup g f s).reh = s.reh := rfl
@[simp] theorem modGroup_regs (g : Nat) (f : Group → Group) (s : State) : (modGroup g f s).regs = s.regs := rfl

@[simp] theorem modLane_pending (n : Fin 96) (f : Lane → Lane) (s : State) : (modLane n f s).pending = s.pending := rfl
@[simp] theorem modLane_now (n : Fin 96) (f : Lane → Lane) (s : State) : (modLane n f s).now = s.now := rfl
@[simp] theorem modLane_sysOff (n : Fin 96) (f : Lane → Lane) (s : State) : (modLane n f s).sysOff = s.sysOff := rfl
@[simp] theorem modLane_free (n : Fin 96) (f : Lane → Lane) (s : State) : (modLane n f s).free = s.free := rfl
@[simp] theorem modLane_tile (n : Fin 96) (f : Lane → Lane) (s : State) : (modLane n f s).tile = s.tile := rfl
@[simp] theorem modLane_link (n : Fin 96) (f : Lane → Lane) (s : State) : (modLane n f s).link = s.link := rfl
@[simp] theorem modLane_sns (n : Fin 96) (f : Lane → Lane) (s : State) : (modLane n f s).sns = s.sns := rfl
@[simp] theorem modLane_iso (n : Fin 96) (f : Lane → Lane) (s : State) : (modLane n f s).iso = s.iso := rfl
@[simp] theorem modLane_chan (n : Fin 96) (f : Lane → Lane) (s : State) : (modLane n f s).chan = s.chan := rfl
@[simp] theorem modLane_eng (n : Fin 96) (f : Lane → Lane) (s : State) : (modLane n f s).eng = { s.eng with lane := s.eng.lane.upd n f } := rfl
@[simp] theorem modLane_ep (n : Fin 96) (f : Lane → Lane) (s : State) : (modLane n f s).ep = s.ep := rfl
@[simp] theorem modLane_host (n : Fin 96) (f : Lane → Lane) (s : State) : (modLane n f s).host = s.host := rfl
@[simp] theorem modLane_net (n : Fin 96) (f : Lane → Lane) (s : State) : (modLane n f s).net = s.net := rfl
@[simp] theorem modLane_pair (n : Fin 96) (f : Lane → Lane) (s : State) : (modLane n f s).pair = s.pair := rfl
@[simp] theorem modLane_img (n : Fin 96) (f : Lane → Lane) (s : State) : (modLane n f s).img = s.img := rfl
@[simp] theorem modLane_flt (n : Fin 96) (f : Lane → Lane) (s : State) : (modLane n f s).flt = s.flt := rfl
@[simp] theorem modLane_pwr (n : Fin 96) (f : Lane → Lane) (s : State) : (modLane n f s).pwr = s.pwr := rfl
@[simp] theorem modLane_plinth (n : Fin 96) (f : Lane → Lane) (s : State) : (modLane n f s).plinth = s.plinth := rfl
@[simp] theorem modLane_nvs (n : Fin 96) (f : Lane → Lane) (s : State) : (modLane n f s).nvs = s.nvs := rfl
@[simp] theorem modLane_recd (n : Fin 96) (f : Lane → Lane) (s : State) : (modLane n f s).recd = s.recd := rfl
@[simp] theorem modLane_cu (n : Fin 96) (f : Lane → Lane) (s : State) : (modLane n f s).cu = s.cu := rfl
@[simp] theorem modLane_sec (n : Fin 96) (f : Lane → Lane) (s : State) : (modLane n f s).sec = s.sec := rfl
@[simp] theorem modLane_misc (n : Fin 96) (f : Lane → Lane) (s : State) : (modLane n f s).misc = s.misc := rfl
@[simp] theorem modLane_tap (n : Fin 96) (f : Lane → Lane) (s : State) : (modLane n f s).tap = s.tap := rfl
@[simp] theorem modLane_reh (n : Fin 96) (f : Lane → Lane) (s : State) : (modLane n f s).reh = s.reh := rfl
@[simp] theorem modLane_regs (n : Fin 96) (f : Lane → Lane) (s : State) : (modLane n f s).regs = s.regs := rfl

@[simp] theorem modAxis_pending (x : Fin 8) (f : Axis → Axis) (s : State) : (modAxis x f s).pending = s.pending := rfl
@[simp] theorem modAxis_now (x : Fin 8) (f : Axis → Axis) (s : State) : (modAxis x f s).now = s.now := rfl
@[simp] theorem modAxis_sysOff (x : Fin 8) (f : Axis → Axis) (s : State) : (modAxis x f s).sysOff = s.sysOff := rfl
@[simp] theorem modAxis_free (x : Fin 8) (f : Axis → Axis) (s : State) : (modAxis x f s).free = s.free := rfl
@[simp] theorem modAxis_tile (x : Fin 8) (f : Axis → Axis) (s : State) : (modAxis x f s).tile = s.tile := rfl
@[simp] theorem modAxis_link (x : Fin 8) (f : Axis → Axis) (s : State) : (modAxis x f s).link = s.link := rfl
@[simp] theorem modAxis_sns (x : Fin 8) (f : Axis → Axis) (s : State) : (modAxis x f s).sns = s.sns := rfl
@[simp] theorem modAxis_iso (x : Fin 8) (f : Axis → Axis) (s : State) : (modAxis x f s).iso = s.iso := rfl
@[simp] theorem modAxis_chan (x : Fin 8) (f : Axis → Axis) (s : State) : (modAxis x f s).chan = s.chan := rfl
@[simp] theorem modAxis_eng (x : Fin 8) (f : Axis → Axis) (s : State) : (modAxis x f s).eng = { s.eng with axis := s.eng.axis.upd x f } := rfl
@[simp] theorem modAxis_ep (x : Fin 8) (f : Axis → Axis) (s : State) : (modAxis x f s).ep = s.ep := rfl
@[simp] theorem modAxis_host (x : Fin 8) (f : Axis → Axis) (s : State) : (modAxis x f s).host = s.host := rfl
@[simp] theorem modAxis_net (x : Fin 8) (f : Axis → Axis) (s : State) : (modAxis x f s).net = s.net := rfl
@[simp] theorem modAxis_pair (x : Fin 8) (f : Axis → Axis) (s : State) : (modAxis x f s).pair = s.pair := rfl
@[simp] theorem modAxis_img (x : Fin 8) (f : Axis → Axis) (s : State) : (modAxis x f s).img = s.img := rfl
@[simp] theorem modAxis_flt (x : Fin 8) (f : Axis → Axis) (s : State) : (modAxis x f s).flt = s.flt := rfl
@[simp] theorem modAxis_pwr (x : Fin 8) (f : Axis → Axis) (s : State) : (modAxis x f s).pwr = s.pwr := rfl
@[simp] theorem modAxis_plinth (x : Fin 8) (f : Axis → Axis) (s : State) : (modAxis x f s).plinth = s.plinth := rfl
@[simp] theorem modAxis_nvs (x : Fin 8) (f : Axis → Axis) (s : State) : (modAxis x f s).nvs = s.nvs := rfl
@[simp] theorem modAxis_recd (x : Fin 8) (f : Axis → Axis) (s : State) : (modAxis x f s).recd = s.recd := rfl
@[simp] theorem modAxis_cu (x : Fin 8) (f : Axis → Axis) (s : State) : (modAxis x f s).cu = s.cu := rfl
@[simp] theorem modAxis_sec (x : Fin 8) (f : Axis → Axis) (s : State) : (modAxis x f s).sec = s.sec := rfl
@[simp] theorem modAxis_misc (x : Fin 8) (f : Axis → Axis) (s : State) : (modAxis x f s).misc = s.misc := rfl
@[simp] theorem modAxis_tap (x : Fin 8) (f : Axis → Axis) (s : State) : (modAxis x f s).tap = s.tap := rfl
@[simp] theorem modAxis_reh (x : Fin 8) (f : Axis → Axis) (s : State) : (modAxis x f s).reh = s.reh := rfl
@[simp] theorem modAxis_regs (x : Fin 8) (f : Axis → Axis) (s : State) : (modAxis x f s).regs = s.regs := rfl

@[simp] theorem modLoop_pending (b : Fin 48) (f : Loop → Loop) (s : State) : (modLoop b f s).pending = s.pending := rfl
@[simp] theorem modLoop_now (b : Fin 48) (f : Loop → Loop) (s : State) : (modLoop b f s).now = s.now := rfl
@[simp] theorem modLoop_sysOff (b : Fin 48) (f : Loop → Loop) (s : State) : (modLoop b f s).sysOff = s.sysOff := rfl
@[simp] theorem modLoop_free (b : Fin 48) (f : Loop → Loop) (s : State) : (modLoop b f s).free = s.free := rfl
@[simp] theorem modLoop_tile (b : Fin 48) (f : Loop → Loop) (s : State) : (modLoop b f s).tile = s.tile := rfl
@[simp] theorem modLoop_link (b : Fin 48) (f : Loop → Loop) (s : State) : (modLoop b f s).link = s.link := rfl
@[simp] theorem modLoop_sns (b : Fin 48) (f : Loop → Loop) (s : State) : (modLoop b f s).sns = s.sns := rfl
@[simp] theorem modLoop_iso (b : Fin 48) (f : Loop → Loop) (s : State) : (modLoop b f s).iso = s.iso := rfl
@[simp] theorem modLoop_chan (b : Fin 48) (f : Loop → Loop) (s : State) : (modLoop b f s).chan = s.chan := rfl
@[simp] theorem modLoop_eng (b : Fin 48) (f : Loop → Loop) (s : State) : (modLoop b f s).eng = { s.eng with loop := s.eng.loop.upd b f } := rfl
@[simp] theorem modLoop_ep (b : Fin 48) (f : Loop → Loop) (s : State) : (modLoop b f s).ep = s.ep := rfl
@[simp] theorem modLoop_host (b : Fin 48) (f : Loop → Loop) (s : State) : (modLoop b f s).host = s.host := rfl
@[simp] theorem modLoop_net (b : Fin 48) (f : Loop → Loop) (s : State) : (modLoop b f s).net = s.net := rfl
@[simp] theorem modLoop_pair (b : Fin 48) (f : Loop → Loop) (s : State) : (modLoop b f s).pair = s.pair := rfl
@[simp] theorem modLoop_img (b : Fin 48) (f : Loop → Loop) (s : State) : (modLoop b f s).img = s.img := rfl
@[simp] theorem modLoop_flt (b : Fin 48) (f : Loop → Loop) (s : State) : (modLoop b f s).flt = s.flt := rfl
@[simp] theorem modLoop_pwr (b : Fin 48) (f : Loop → Loop) (s : State) : (modLoop b f s).pwr = s.pwr := rfl
@[simp] theorem modLoop_plinth (b : Fin 48) (f : Loop → Loop) (s : State) : (modLoop b f s).plinth = s.plinth := rfl
@[simp] theorem modLoop_nvs (b : Fin 48) (f : Loop → Loop) (s : State) : (modLoop b f s).nvs = s.nvs := rfl
@[simp] theorem modLoop_recd (b : Fin 48) (f : Loop → Loop) (s : State) : (modLoop b f s).recd = s.recd := rfl
@[simp] theorem modLoop_cu (b : Fin 48) (f : Loop → Loop) (s : State) : (modLoop b f s).cu = s.cu := rfl
@[simp] theorem modLoop_sec (b : Fin 48) (f : Loop → Loop) (s : State) : (modLoop b f s).sec = s.sec := rfl
@[simp] theorem modLoop_misc (b : Fin 48) (f : Loop → Loop) (s : State) : (modLoop b f s).misc = s.misc := rfl
@[simp] theorem modLoop_tap (b : Fin 48) (f : Loop → Loop) (s : State) : (modLoop b f s).tap = s.tap := rfl
@[simp] theorem modLoop_reh (b : Fin 48) (f : Loop → Loop) (s : State) : (modLoop b f s).reh = s.reh := rfl
@[simp] theorem modLoop_regs (b : Fin 48) (f : Loop → Loop) (s : State) : (modLoop b f s).regs = s.regs := rfl

@[simp] theorem modTot_pending (n : Fin 96) (f : Tot → Tot) (s : State) : (modTot n f s).pending = s.pending := rfl
@[simp] theorem modTot_now (n : Fin 96) (f : Tot → Tot) (s : State) : (modTot n f s).now = s.now := rfl
@[simp] theorem modTot_sysOff (n : Fin 96) (f : Tot → Tot) (s : State) : (modTot n f s).sysOff = s.sysOff := rfl
@[simp] theorem modTot_free (n : Fin 96) (f : Tot → Tot) (s : State) : (modTot n f s).free = s.free := rfl
@[simp] theorem modTot_tile (n : Fin 96) (f : Tot → Tot) (s : State) : (modTot n f s).tile = s.tile := rfl
@[simp] theorem modTot_link (n : Fin 96) (f : Tot → Tot) (s : State) : (modTot n f s).link = s.link := rfl
@[simp] theorem modTot_sns (n : Fin 96) (f : Tot → Tot) (s : State) : (modTot n f s).sns = s.sns := rfl
@[simp] theorem modTot_iso (n : Fin 96) (f : Tot → Tot) (s : State) : (modTot n f s).iso = s.iso := rfl
@[simp] theorem modTot_chan (n : Fin 96) (f : Tot → Tot) (s : State) : (modTot n f s).chan = s.chan := rfl
@[simp] theorem modTot_eng (n : Fin 96) (f : Tot → Tot) (s : State) : (modTot n f s).eng = { s.eng with tot := s.eng.tot.upd n f } := rfl
@[simp] theorem modTot_ep (n : Fin 96) (f : Tot → Tot) (s : State) : (modTot n f s).ep = s.ep := rfl
@[simp] theorem modTot_host (n : Fin 96) (f : Tot → Tot) (s : State) : (modTot n f s).host = s.host := rfl
@[simp] theorem modTot_net (n : Fin 96) (f : Tot → Tot) (s : State) : (modTot n f s).net = s.net := rfl
@[simp] theorem modTot_pair (n : Fin 96) (f : Tot → Tot) (s : State) : (modTot n f s).pair = s.pair := rfl
@[simp] theorem modTot_img (n : Fin 96) (f : Tot → Tot) (s : State) : (modTot n f s).img = s.img := rfl
@[simp] theorem modTot_flt (n : Fin 96) (f : Tot → Tot) (s : State) : (modTot n f s).flt = s.flt := rfl
@[simp] theorem modTot_pwr (n : Fin 96) (f : Tot → Tot) (s : State) : (modTot n f s).pwr = s.pwr := rfl
@[simp] theorem modTot_plinth (n : Fin 96) (f : Tot → Tot) (s : State) : (modTot n f s).plinth = s.plinth := rfl
@[simp] theorem modTot_nvs (n : Fin 96) (f : Tot → Tot) (s : State) : (modTot n f s).nvs = s.nvs := rfl
@[simp] theorem modTot_recd (n : Fin 96) (f : Tot → Tot) (s : State) : (modTot n f s).recd = s.recd := rfl
@[simp] theorem modTot_cu (n : Fin 96) (f : Tot → Tot) (s : State) : (modTot n f s).cu = s.cu := rfl
@[simp] theorem modTot_sec (n : Fin 96) (f : Tot → Tot) (s : State) : (modTot n f s).sec = s.sec := rfl
@[simp] theorem modTot_misc (n : Fin 96) (f : Tot → Tot) (s : State) : (modTot n f s).misc = s.misc := rfl
@[simp] theorem modTot_tap (n : Fin 96) (f : Tot → Tot) (s : State) : (modTot n f s).tap = s.tap := rfl
@[simp] theorem modTot_reh (n : Fin 96) (f : Tot → Tot) (s : State) : (modTot n f s).reh = s.reh := rfl
@[simp] theorem modTot_regs (n : Fin 96) (f : Tot → Tot) (s : State) : (modTot n f s).regs = s.regs := rfl

@[simp] theorem modIq_pending (n : Fin 16) (f : IQ → IQ) (s : State) : (modIq n f s).pending = s.pending := rfl
@[simp] theorem modIq_now (n : Fin 16) (f : IQ → IQ) (s : State) : (modIq n f s).now = s.now := rfl
@[simp] theorem modIq_sysOff (n : Fin 16) (f : IQ → IQ) (s : State) : (modIq n f s).sysOff = s.sysOff := rfl
@[simp] theorem modIq_free (n : Fin 16) (f : IQ → IQ) (s : State) : (modIq n f s).free = s.free := rfl
@[simp] theorem modIq_tile (n : Fin 16) (f : IQ → IQ) (s : State) : (modIq n f s).tile = s.tile := rfl
@[simp] theorem modIq_link (n : Fin 16) (f : IQ → IQ) (s : State) : (modIq n f s).link = s.link := rfl
@[simp] theorem modIq_sns (n : Fin 16) (f : IQ → IQ) (s : State) : (modIq n f s).sns = s.sns := rfl
@[simp] theorem modIq_iso (n : Fin 16) (f : IQ → IQ) (s : State) : (modIq n f s).iso = s.iso := rfl
@[simp] theorem modIq_chan (n : Fin 16) (f : IQ → IQ) (s : State) : (modIq n f s).chan = s.chan := rfl
@[simp] theorem modIq_eng (n : Fin 16) (f : IQ → IQ) (s : State) : (modIq n f s).eng = s.eng := rfl
@[simp] theorem modIq_ep (n : Fin 16) (f : IQ → IQ) (s : State) : (modIq n f s).ep = { s.ep with iq := s.ep.iq.upd n f } := rfl
@[simp] theorem modIq_host (n : Fin 16) (f : IQ → IQ) (s : State) : (modIq n f s).host = s.host := rfl
@[simp] theorem modIq_net (n : Fin 16) (f : IQ → IQ) (s : State) : (modIq n f s).net = s.net := rfl
@[simp] theorem modIq_pair (n : Fin 16) (f : IQ → IQ) (s : State) : (modIq n f s).pair = s.pair := rfl
@[simp] theorem modIq_img (n : Fin 16) (f : IQ → IQ) (s : State) : (modIq n f s).img = s.img := rfl
@[simp] theorem modIq_flt (n : Fin 16) (f : IQ → IQ) (s : State) : (modIq n f s).flt = s.flt := rfl
@[simp] theorem modIq_pwr (n : Fin 16) (f : IQ → IQ) (s : State) : (modIq n f s).pwr = s.pwr := rfl
@[simp] theorem modIq_plinth (n : Fin 16) (f : IQ → IQ) (s : State) : (modIq n f s).plinth = s.plinth := rfl
@[simp] theorem modIq_nvs (n : Fin 16) (f : IQ → IQ) (s : State) : (modIq n f s).nvs = s.nvs := rfl
@[simp] theorem modIq_recd (n : Fin 16) (f : IQ → IQ) (s : State) : (modIq n f s).recd = s.recd := rfl
@[simp] theorem modIq_cu (n : Fin 16) (f : IQ → IQ) (s : State) : (modIq n f s).cu = s.cu := rfl
@[simp] theorem modIq_sec (n : Fin 16) (f : IQ → IQ) (s : State) : (modIq n f s).sec = s.sec := rfl
@[simp] theorem modIq_misc (n : Fin 16) (f : IQ → IQ) (s : State) : (modIq n f s).misc = s.misc := rfl
@[simp] theorem modIq_tap (n : Fin 16) (f : IQ → IQ) (s : State) : (modIq n f s).tap = s.tap := rfl
@[simp] theorem modIq_reh (n : Fin 16) (f : IQ → IQ) (s : State) : (modIq n f s).reh = s.reh := rfl
@[simp] theorem modIq_regs (n : Fin 16) (f : IQ → IQ) (s : State) : (modIq n f s).regs = s.regs := rfl

@[simp] theorem modPort_pending (p : Fin 5) (f : Port → Port) (s : State) : (modPort p f s).pending = s.pending := rfl
@[simp] theorem modPort_now (p : Fin 5) (f : Port → Port) (s : State) : (modPort p f s).now = s.now := rfl
@[simp] theorem modPort_sysOff (p : Fin 5) (f : Port → Port) (s : State) : (modPort p f s).sysOff = s.sysOff := rfl
@[simp] theorem modPort_free (p : Fin 5) (f : Port → Port) (s : State) : (modPort p f s).free = s.free := rfl
@[simp] theorem modPort_tile (p : Fin 5) (f : Port → Port) (s : State) : (modPort p f s).tile = s.tile := rfl
@[simp] theorem modPort_link (p : Fin 5) (f : Port → Port) (s : State) : (modPort p f s).link = s.link := rfl
@[simp] theorem modPort_sns (p : Fin 5) (f : Port → Port) (s : State) : (modPort p f s).sns = s.sns := rfl
@[simp] theorem modPort_iso (p : Fin 5) (f : Port → Port) (s : State) : (modPort p f s).iso = s.iso := rfl
@[simp] theorem modPort_chan (p : Fin 5) (f : Port → Port) (s : State) : (modPort p f s).chan = s.chan := rfl
@[simp] theorem modPort_eng (p : Fin 5) (f : Port → Port) (s : State) : (modPort p f s).eng = s.eng := rfl
@[simp] theorem modPort_ep (p : Fin 5) (f : Port → Port) (s : State) : (modPort p f s).ep = s.ep := rfl
@[simp] theorem modPort_host (p : Fin 5) (f : Port → Port) (s : State) : (modPort p f s).host = s.host := rfl
@[simp] theorem modPort_net (p : Fin 5) (f : Port → Port) (s : State) : (modPort p f s).net = { s.net with port := s.net.port.upd p f } := rfl
@[simp] theorem modPort_pair (p : Fin 5) (f : Port → Port) (s : State) : (modPort p f s).pair = s.pair := rfl
@[simp] theorem modPort_img (p : Fin 5) (f : Port → Port) (s : State) : (modPort p f s).img = s.img := rfl
@[simp] theorem modPort_flt (p : Fin 5) (f : Port → Port) (s : State) : (modPort p f s).flt = s.flt := rfl
@[simp] theorem modPort_pwr (p : Fin 5) (f : Port → Port) (s : State) : (modPort p f s).pwr = s.pwr := rfl
@[simp] theorem modPort_plinth (p : Fin 5) (f : Port → Port) (s : State) : (modPort p f s).plinth = s.plinth := rfl
@[simp] theorem modPort_nvs (p : Fin 5) (f : Port → Port) (s : State) : (modPort p f s).nvs = s.nvs := rfl
@[simp] theorem modPort_recd (p : Fin 5) (f : Port → Port) (s : State) : (modPort p f s).recd = s.recd := rfl
@[simp] theorem modPort_cu (p : Fin 5) (f : Port → Port) (s : State) : (modPort p f s).cu = s.cu := rfl
@[simp] theorem modPort_sec (p : Fin 5) (f : Port → Port) (s : State) : (modPort p f s).sec = s.sec := rfl
@[simp] theorem modPort_misc (p : Fin 5) (f : Port → Port) (s : State) : (modPort p f s).misc = s.misc := rfl
@[simp] theorem modPort_tap (p : Fin 5) (f : Port → Port) (s : State) : (modPort p f s).tap = s.tap := rfl
@[simp] theorem modPort_reh (p : Fin 5) (f : Port → Port) (s : State) : (modPort p f s).reh = s.reh := rfl
@[simp] theorem modPort_regs (p : Fin 5) (f : Port → Port) (s : State) : (modPort p f s).regs = s.regs := rfl

@[simp] theorem modCu_pending (n : Fin 4) (f : CU → CU) (s : State) : (modCu n f s).pending = s.pending := rfl
@[simp] theorem modCu_now (n : Fin 4) (f : CU → CU) (s : State) : (modCu n f s).now = s.now := rfl
@[simp] theorem modCu_sysOff (n : Fin 4) (f : CU → CU) (s : State) : (modCu n f s).sysOff = s.sysOff := rfl
@[simp] theorem modCu_free (n : Fin 4) (f : CU → CU) (s : State) : (modCu n f s).free = s.free := rfl
@[simp] theorem modCu_tile (n : Fin 4) (f : CU → CU) (s : State) : (modCu n f s).tile = s.tile := rfl
@[simp] theorem modCu_link (n : Fin 4) (f : CU → CU) (s : State) : (modCu n f s).link = s.link := rfl
@[simp] theorem modCu_sns (n : Fin 4) (f : CU → CU) (s : State) : (modCu n f s).sns = s.sns := rfl
@[simp] theorem modCu_iso (n : Fin 4) (f : CU → CU) (s : State) : (modCu n f s).iso = s.iso := rfl
@[simp] theorem modCu_chan (n : Fin 4) (f : CU → CU) (s : State) : (modCu n f s).chan = s.chan := rfl
@[simp] theorem modCu_eng (n : Fin 4) (f : CU → CU) (s : State) : (modCu n f s).eng = s.eng := rfl
@[simp] theorem modCu_ep (n : Fin 4) (f : CU → CU) (s : State) : (modCu n f s).ep = s.ep := rfl
@[simp] theorem modCu_host (n : Fin 4) (f : CU → CU) (s : State) : (modCu n f s).host = s.host := rfl
@[simp] theorem modCu_net (n : Fin 4) (f : CU → CU) (s : State) : (modCu n f s).net = s.net := rfl
@[simp] theorem modCu_pair (n : Fin 4) (f : CU → CU) (s : State) : (modCu n f s).pair = s.pair := rfl
@[simp] theorem modCu_img (n : Fin 4) (f : CU → CU) (s : State) : (modCu n f s).img = s.img := rfl
@[simp] theorem modCu_flt (n : Fin 4) (f : CU → CU) (s : State) : (modCu n f s).flt = s.flt := rfl
@[simp] theorem modCu_pwr (n : Fin 4) (f : CU → CU) (s : State) : (modCu n f s).pwr = s.pwr := rfl
@[simp] theorem modCu_plinth (n : Fin 4) (f : CU → CU) (s : State) : (modCu n f s).plinth = s.plinth := rfl
@[simp] theorem modCu_nvs (n : Fin 4) (f : CU → CU) (s : State) : (modCu n f s).nvs = s.nvs := rfl
@[simp] theorem modCu_recd (n : Fin 4) (f : CU → CU) (s : State) : (modCu n f s).recd = s.recd := rfl
@[simp] theorem modCu_cu (n : Fin 4) (f : CU → CU) (s : State) : (modCu n f s).cu = s.cu.upd n f := rfl
@[simp] theorem modCu_sec (n : Fin 4) (f : CU → CU) (s : State) : (modCu n f s).sec = s.sec := rfl
@[simp] theorem modCu_misc (n : Fin 4) (f : CU → CU) (s : State) : (modCu n f s).misc = s.misc := rfl
@[simp] theorem modCu_tap (n : Fin 4) (f : CU → CU) (s : State) : (modCu n f s).tap = s.tap := rfl
@[simp] theorem modCu_reh (n : Fin 4) (f : CU → CU) (s : State) : (modCu n f s).reh = s.reh := rfl
@[simp] theorem modCu_regs (n : Fin 4) (f : CU → CU) (s : State) : (modCu n f s).regs = s.regs := rfl

@[simp] theorem modIso_pending (t : Fin 12) (f : TIso → TIso) (s : State) : (modIso t f s).pending = s.pending := rfl
@[simp] theorem modIso_now (t : Fin 12) (f : TIso → TIso) (s : State) : (modIso t f s).now = s.now := rfl
@[simp] theorem modIso_sysOff (t : Fin 12) (f : TIso → TIso) (s : State) : (modIso t f s).sysOff = s.sysOff := rfl
@[simp] theorem modIso_free (t : Fin 12) (f : TIso → TIso) (s : State) : (modIso t f s).free = s.free := rfl
@[simp] theorem modIso_tile (t : Fin 12) (f : TIso → TIso) (s : State) : (modIso t f s).tile = s.tile := rfl
@[simp] theorem modIso_link (t : Fin 12) (f : TIso → TIso) (s : State) : (modIso t f s).link = s.link := rfl
@[simp] theorem modIso_sns (t : Fin 12) (f : TIso → TIso) (s : State) : (modIso t f s).sns = s.sns := rfl
@[simp] theorem modIso_iso (t : Fin 12) (f : TIso → TIso) (s : State) : (modIso t f s).iso = s.iso.upd t f := rfl
@[simp] theorem modIso_chan (t : Fin 12) (f : TIso → TIso) (s : State) : (modIso t f s).chan = s.chan := rfl
@[simp] theorem modIso_eng (t : Fin 12) (f : TIso → TIso) (s : State) : (modIso t f s).eng = s.eng := rfl
@[simp] theorem modIso_ep (t : Fin 12) (f : TIso → TIso) (s : State) : (modIso t f s).ep = s.ep := rfl
@[simp] theorem modIso_host (t : Fin 12) (f : TIso → TIso) (s : State) : (modIso t f s).host = s.host := rfl
@[simp] theorem modIso_net (t : Fin 12) (f : TIso → TIso) (s : State) : (modIso t f s).net = s.net := rfl
@[simp] theorem modIso_pair (t : Fin 12) (f : TIso → TIso) (s : State) : (modIso t f s).pair = s.pair := rfl
@[simp] theorem modIso_img (t : Fin 12) (f : TIso → TIso) (s : State) : (modIso t f s).img = s.img := rfl
@[simp] theorem modIso_flt (t : Fin 12) (f : TIso → TIso) (s : State) : (modIso t f s).flt = s.flt := rfl
@[simp] theorem modIso_pwr (t : Fin 12) (f : TIso → TIso) (s : State) : (modIso t f s).pwr = s.pwr := rfl
@[simp] theorem modIso_plinth (t : Fin 12) (f : TIso → TIso) (s : State) : (modIso t f s).plinth = s.plinth := rfl
@[simp] theorem modIso_nvs (t : Fin 12) (f : TIso → TIso) (s : State) : (modIso t f s).nvs = s.nvs := rfl
@[simp] theorem modIso_recd (t : Fin 12) (f : TIso → TIso) (s : State) : (modIso t f s).recd = s.recd := rfl
@[simp] theorem modIso_cu (t : Fin 12) (f : TIso → TIso) (s : State) : (modIso t f s).cu = s.cu := rfl
@[simp] theorem modIso_sec (t : Fin 12) (f : TIso → TIso) (s : State) : (modIso t f s).sec = s.sec := rfl
@[simp] theorem modIso_misc (t : Fin 12) (f : TIso → TIso) (s : State) : (modIso t f s).misc = s.misc := rfl
@[simp] theorem modIso_tap (t : Fin 12) (f : TIso → TIso) (s : State) : (modIso t f s).tap = s.tap := rfl
@[simp] theorem modIso_reh (t : Fin 12) (f : TIso → TIso) (s : State) : (modIso t f s).reh = s.reh := rfl
@[simp] theorem modIso_regs (t : Fin 12) (f : TIso → TIso) (s : State) : (modIso t f s).regs = s.regs := rfl

@[simp] theorem modImg_pending (f : Images → Images) (s : State) : (modImg f s).pending = s.pending := rfl
@[simp] theorem modImg_now (f : Images → Images) (s : State) : (modImg f s).now = s.now := rfl
@[simp] theorem modImg_sysOff (f : Images → Images) (s : State) : (modImg f s).sysOff = s.sysOff := rfl
@[simp] theorem modImg_free (f : Images → Images) (s : State) : (modImg f s).free = s.free := rfl
@[simp] theorem modImg_tile (f : Images → Images) (s : State) : (modImg f s).tile = s.tile := rfl
@[simp] theorem modImg_link (f : Images → Images) (s : State) : (modImg f s).link = s.link := rfl
@[simp] theorem modImg_sns (f : Images → Images) (s : State) : (modImg f s).sns = s.sns := rfl
@[simp] theorem modImg_iso (f : Images → Images) (s : State) : (modImg f s).iso = s.iso := rfl
@[simp] theorem modImg_chan (f : Images → Images) (s : State) : (modImg f s).chan = s.chan := rfl
@[simp] theorem modImg_eng (f : Images → Images) (s : State) : (modImg f s).eng = s.eng := rfl
@[simp] theorem modImg_ep (f : Images → Images) (s : State) : (modImg f s).ep = s.ep := rfl
@[simp] theorem modImg_host (f : Images → Images) (s : State) : (modImg f s).host = s.host := rfl
@[simp] theorem modImg_net (f : Images → Images) (s : State) : (modImg f s).net = s.net := rfl
@[simp] theorem modImg_pair (f : Images → Images) (s : State) : (modImg f s).pair = s.pair := rfl
@[simp] theorem modImg_img (f : Images → Images) (s : State) : (modImg f s).img = f s.img := rfl
@[simp] theorem modImg_flt (f : Images → Images) (s : State) : (modImg f s).flt = s.flt := rfl
@[simp] theorem modImg_pwr (f : Images → Images) (s : State) : (modImg f s).pwr = s.pwr := rfl
@[simp] theorem modImg_plinth (f : Images → Images) (s : State) : (modImg f s).plinth = s.plinth := rfl
@[simp] theorem modImg_nvs (f : Images → Images) (s : State) : (modImg f s).nvs = s.nvs := rfl
@[simp] theorem modImg_recd (f : Images → Images) (s : State) : (modImg f s).recd = s.recd := rfl
@[simp] theorem modImg_cu (f : Images → Images) (s : State) : (modImg f s).cu = s.cu := rfl
@[simp] theorem modImg_sec (f : Images → Images) (s : State) : (modImg f s).sec = s.sec := rfl
@[simp] theorem modImg_misc (f : Images → Images) (s : State) : (modImg f s).misc = s.misc := rfl
@[simp] theorem modImg_tap (f : Images → Images) (s : State) : (modImg f s).tap = s.tap := rfl
@[simp] theorem modImg_reh (f : Images → Images) (s : State) : (modImg f s).reh = s.reh := rfl
@[simp] theorem modImg_regs (f : Images → Images) (s : State) : (modImg f s).regs = s.regs := rfl

@[simp] theorem modPwr_pending (f : Pwr → Pwr) (s : State) : (modPwr f s).pending = s.pending := rfl
@[simp] theorem modPwr_now (f : Pwr → Pwr) (s : State) : (modPwr f s).now = s.now := rfl
@[simp] theorem modPwr_sysOff (f : Pwr → Pwr) (s : State) : (modPwr f s).sysOff = s.sysOff := rfl
@[simp] theorem modPwr_free (f : Pwr → Pwr) (s : State) : (modPwr f s).free = s.free := rfl
@[simp] theorem modPwr_tile (f : Pwr → Pwr) (s : State) : (modPwr f s).tile = s.tile := rfl
@[simp] theorem modPwr_link (f : Pwr → Pwr) (s : State) : (modPwr f s).link = s.link := rfl
@[simp] theorem modPwr_sns (f : Pwr → Pwr) (s : State) : (modPwr f s).sns = s.sns := rfl
@[simp] theorem modPwr_iso (f : Pwr → Pwr) (s : State) : (modPwr f s).iso = s.iso := rfl
@[simp] theorem modPwr_chan (f : Pwr → Pwr) (s : State) : (modPwr f s).chan = s.chan := rfl
@[simp] theorem modPwr_eng (f : Pwr → Pwr) (s : State) : (modPwr f s).eng = s.eng := rfl
@[simp] theorem modPwr_ep (f : Pwr → Pwr) (s : State) : (modPwr f s).ep = s.ep := rfl
@[simp] theorem modPwr_host (f : Pwr → Pwr) (s : State) : (modPwr f s).host = s.host := rfl
@[simp] theorem modPwr_net (f : Pwr → Pwr) (s : State) : (modPwr f s).net = s.net := rfl
@[simp] theorem modPwr_pair (f : Pwr → Pwr) (s : State) : (modPwr f s).pair = s.pair := rfl
@[simp] theorem modPwr_img (f : Pwr → Pwr) (s : State) : (modPwr f s).img = s.img := rfl
@[simp] theorem modPwr_flt (f : Pwr → Pwr) (s : State) : (modPwr f s).flt = s.flt := rfl
@[simp] theorem modPwr_pwr (f : Pwr → Pwr) (s : State) : (modPwr f s).pwr = f s.pwr := rfl
@[simp] theorem modPwr_plinth (f : Pwr → Pwr) (s : State) : (modPwr f s).plinth = s.plinth := rfl
@[simp] theorem modPwr_nvs (f : Pwr → Pwr) (s : State) : (modPwr f s).nvs = s.nvs := rfl
@[simp] theorem modPwr_recd (f : Pwr → Pwr) (s : State) : (modPwr f s).recd = s.recd := rfl
@[simp] theorem modPwr_cu (f : Pwr → Pwr) (s : State) : (modPwr f s).cu = s.cu := rfl
@[simp] theorem modPwr_sec (f : Pwr → Pwr) (s : State) : (modPwr f s).sec = s.sec := rfl
@[simp] theorem modPwr_misc (f : Pwr → Pwr) (s : State) : (modPwr f s).misc = s.misc := rfl
@[simp] theorem modPwr_tap (f : Pwr → Pwr) (s : State) : (modPwr f s).tap = s.tap := rfl
@[simp] theorem modPwr_reh (f : Pwr → Pwr) (s : State) : (modPwr f s).reh = s.reh := rfl
@[simp] theorem modPwr_regs (f : Pwr → Pwr) (s : State) : (modPwr f s).regs = s.regs := rfl

@[simp] theorem modPlinth_pending (f : Plinth → Plinth) (s : State) : (modPlinth f s).pending = s.pending := rfl
@[simp] theorem modPlinth_now (f : Plinth → Plinth) (s : State) : (modPlinth f s).now = s.now := rfl
@[simp] theorem modPlinth_sysOff (f : Plinth → Plinth) (s : State) : (modPlinth f s).sysOff = s.sysOff := rfl
@[simp] theorem modPlinth_free (f : Plinth → Plinth) (s : State) : (modPlinth f s).free = s.free := rfl
@[simp] theorem modPlinth_tile (f : Plinth → Plinth) (s : State) : (modPlinth f s).tile = s.tile := rfl
@[simp] theorem modPlinth_link (f : Plinth → Plinth) (s : State) : (modPlinth f s).link = s.link := rfl
@[simp] theorem modPlinth_sns (f : Plinth → Plinth) (s : State) : (modPlinth f s).sns = s.sns := rfl
@[simp] theorem modPlinth_iso (f : Plinth → Plinth) (s : State) : (modPlinth f s).iso = s.iso := rfl
@[simp] theorem modPlinth_chan (f : Plinth → Plinth) (s : State) : (modPlinth f s).chan = s.chan := rfl
@[simp] theorem modPlinth_eng (f : Plinth → Plinth) (s : State) : (modPlinth f s).eng = s.eng := rfl
@[simp] theorem modPlinth_ep (f : Plinth → Plinth) (s : State) : (modPlinth f s).ep = s.ep := rfl
@[simp] theorem modPlinth_host (f : Plinth → Plinth) (s : State) : (modPlinth f s).host = s.host := rfl
@[simp] theorem modPlinth_net (f : Plinth → Plinth) (s : State) : (modPlinth f s).net = s.net := rfl
@[simp] theorem modPlinth_pair (f : Plinth → Plinth) (s : State) : (modPlinth f s).pair = s.pair := rfl
@[simp] theorem modPlinth_img (f : Plinth → Plinth) (s : State) : (modPlinth f s).img = s.img := rfl
@[simp] theorem modPlinth_flt (f : Plinth → Plinth) (s : State) : (modPlinth f s).flt = s.flt := rfl
@[simp] theorem modPlinth_pwr (f : Plinth → Plinth) (s : State) : (modPlinth f s).pwr = s.pwr := rfl
@[simp] theorem modPlinth_plinth (f : Plinth → Plinth) (s : State) : (modPlinth f s).plinth = f s.plinth := rfl
@[simp] theorem modPlinth_nvs (f : Plinth → Plinth) (s : State) : (modPlinth f s).nvs = s.nvs := rfl
@[simp] theorem modPlinth_recd (f : Plinth → Plinth) (s : State) : (modPlinth f s).recd = s.recd := rfl
@[simp] theorem modPlinth_cu (f : Plinth → Plinth) (s : State) : (modPlinth f s).cu = s.cu := rfl
@[simp] theorem modPlinth_sec (f : Plinth → Plinth) (s : State) : (modPlinth f s).sec = s.sec := rfl
@[simp] theorem modPlinth_misc (f : Plinth → Plinth) (s : State) : (modPlinth f s).misc = s.misc := rfl
@[simp] theorem modPlinth_tap (f : Plinth → Plinth) (s : State) : (modPlinth f s).tap = s.tap := rfl
@[simp] theorem modPlinth_reh (f : Plinth → Plinth) (s : State) : (modPlinth f s).reh = s.reh := rfl
@[simp] theorem modPlinth_regs (f : Plinth → Plinth) (s : State) : (modPlinth f s).regs = s.regs := rfl

@[simp] theorem modRec_pending (f : Recorder → Recorder) (s : State) : (modRec f s).pending = s.pending := rfl
@[simp] theorem modRec_now (f : Recorder → Recorder) (s : State) : (modRec f s).now = s.now := rfl
@[simp] theorem modRec_sysOff (f : Recorder → Recorder) (s : State) : (modRec f s).sysOff = s.sysOff := rfl
@[simp] theorem modRec_free (f : Recorder → Recorder) (s : State) : (modRec f s).free = s.free := rfl
@[simp] theorem modRec_tile (f : Recorder → Recorder) (s : State) : (modRec f s).tile = s.tile := rfl
@[simp] theorem modRec_link (f : Recorder → Recorder) (s : State) : (modRec f s).link = s.link := rfl
@[simp] theorem modRec_sns (f : Recorder → Recorder) (s : State) : (modRec f s).sns = s.sns := rfl
@[simp] theorem modRec_iso (f : Recorder → Recorder) (s : State) : (modRec f s).iso = s.iso := rfl
@[simp] theorem modRec_chan (f : Recorder → Recorder) (s : State) : (modRec f s).chan = s.chan := rfl
@[simp] theorem modRec_eng (f : Recorder → Recorder) (s : State) : (modRec f s).eng = s.eng := rfl
@[simp] theorem modRec_ep (f : Recorder → Recorder) (s : State) : (modRec f s).ep = s.ep := rfl
@[simp] theorem modRec_host (f : Recorder → Recorder) (s : State) : (modRec f s).host = s.host := rfl
@[simp] theorem modRec_net (f : Recorder → Recorder) (s : State) : (modRec f s).net = s.net := rfl
@[simp] theorem modRec_pair (f : Recorder → Recorder) (s : State) : (modRec f s).pair = s.pair := rfl
@[simp] theorem modRec_img (f : Recorder → Recorder) (s : State) : (modRec f s).img = s.img := rfl
@[simp] theorem modRec_flt (f : Recorder → Recorder) (s : State) : (modRec f s).flt = s.flt := rfl
@[simp] theorem modRec_pwr (f : Recorder → Recorder) (s : State) : (modRec f s).pwr = s.pwr := rfl
@[simp] theorem modRec_plinth (f : Recorder → Recorder) (s : State) : (modRec f s).plinth = s.plinth := rfl
@[simp] theorem modRec_nvs (f : Recorder → Recorder) (s : State) : (modRec f s).nvs = s.nvs := rfl
@[simp] theorem modRec_recd (f : Recorder → Recorder) (s : State) : (modRec f s).recd = f s.recd := rfl
@[simp] theorem modRec_cu (f : Recorder → Recorder) (s : State) : (modRec f s).cu = s.cu := rfl
@[simp] theorem modRec_sec (f : Recorder → Recorder) (s : State) : (modRec f s).sec = s.sec := rfl
@[simp] theorem modRec_misc (f : Recorder → Recorder) (s : State) : (modRec f s).misc = s.misc := rfl
@[simp] theorem modRec_tap (f : Recorder → Recorder) (s : State) : (modRec f s).tap = s.tap := rfl
@[simp] theorem modRec_reh (f : Recorder → Recorder) (s : State) : (modRec f s).reh = s.reh := rfl
@[simp] theorem modRec_regs (f : Recorder → Recorder) (s : State) : (modRec f s).regs = s.regs := rfl

@[simp] theorem modStore_pending (f : Store → Store) (s : State) : (modStore f s).pending = s.pending := rfl
@[simp] theorem modStore_now (f : Store → Store) (s : State) : (modStore f s).now = s.now := rfl
@[simp] theorem modStore_sysOff (f : Store → Store) (s : State) : (modStore f s).sysOff = s.sysOff := rfl
@[simp] theorem modStore_free (f : Store → Store) (s : State) : (modStore f s).free = s.free := rfl
@[simp] theorem modStore_tile (f : Store → Store) (s : State) : (modStore f s).tile = s.tile := rfl
@[simp] theorem modStore_link (f : Store → Store) (s : State) : (modStore f s).link = s.link := rfl
@[simp] theorem modStore_sns (f : Store → Store) (s : State) : (modStore f s).sns = s.sns := rfl
@[simp] theorem modStore_iso (f : Store → Store) (s : State) : (modStore f s).iso = s.iso := rfl
@[simp] theorem modStore_chan (f : Store → Store) (s : State) : (modStore f s).chan = s.chan := rfl
@[simp] theorem modStore_eng (f : Store → Store) (s : State) : (modStore f s).eng = s.eng := rfl
@[simp] theorem modStore_ep (f : Store → Store) (s : State) : (modStore f s).ep = s.ep := rfl
@[simp] theorem modStore_host (f : Store → Store) (s : State) : (modStore f s).host = s.host := rfl
@[simp] theorem modStore_net (f : Store → Store) (s : State) : (modStore f s).net = s.net := rfl
@[simp] theorem modStore_pair (f : Store → Store) (s : State) : (modStore f s).pair = s.pair := rfl
@[simp] theorem modStore_img (f : Store → Store) (s : State) : (modStore f s).img = s.img := rfl
@[simp] theorem modStore_flt (f : Store → Store) (s : State) : (modStore f s).flt = s.flt := rfl
@[simp] theorem modStore_pwr (f : Store → Store) (s : State) : (modStore f s).pwr = s.pwr := rfl
@[simp] theorem modStore_plinth (f : Store → Store) (s : State) : (modStore f s).plinth = s.plinth := rfl
@[simp] theorem modStore_nvs (f : Store → Store) (s : State) : (modStore f s).nvs = { s.nvs with store := f s.nvs.store } := rfl
@[simp] theorem modStore_recd (f : Store → Store) (s : State) : (modStore f s).recd = s.recd := rfl
@[simp] theorem modStore_cu (f : Store → Store) (s : State) : (modStore f s).cu = s.cu := rfl
@[simp] theorem modStore_sec (f : Store → Store) (s : State) : (modStore f s).sec = s.sec := rfl
@[simp] theorem modStore_misc (f : Store → Store) (s : State) : (modStore f s).misc = s.misc := rfl
@[simp] theorem modStore_tap (f : Store → Store) (s : State) : (modStore f s).tap = s.tap := rfl
@[simp] theorem modStore_reh (f : Store → Store) (s : State) : (modStore f s).reh = s.reh := rfl
@[simp] theorem modStore_regs (f : Store → Store) (s : State) : (modStore f s).regs = s.regs := rfl

@[simp] theorem modLoad_pending (f : FwLoad → FwLoad) (s : State) : (modLoad f s).pending = s.pending := rfl
@[simp] theorem modLoad_now (f : FwLoad → FwLoad) (s : State) : (modLoad f s).now = s.now := rfl
@[simp] theorem modLoad_sysOff (f : FwLoad → FwLoad) (s : State) : (modLoad f s).sysOff = s.sysOff := rfl
@[simp] theorem modLoad_free (f : FwLoad → FwLoad) (s : State) : (modLoad f s).free = s.free := rfl
@[simp] theorem modLoad_tile (f : FwLoad → FwLoad) (s : State) : (modLoad f s).tile = s.tile := rfl
@[simp] theorem modLoad_link (f : FwLoad → FwLoad) (s : State) : (modLoad f s).link = s.link := rfl
@[simp] theorem modLoad_sns (f : FwLoad → FwLoad) (s : State) : (modLoad f s).sns = s.sns := rfl
@[simp] theorem modLoad_iso (f : FwLoad → FwLoad) (s : State) : (modLoad f s).iso = s.iso := rfl
@[simp] theorem modLoad_chan (f : FwLoad → FwLoad) (s : State) : (modLoad f s).chan = s.chan := rfl
@[simp] theorem modLoad_eng (f : FwLoad → FwLoad) (s : State) : (modLoad f s).eng = s.eng := rfl
@[simp] theorem modLoad_ep (f : FwLoad → FwLoad) (s : State) : (modLoad f s).ep = s.ep := rfl
@[simp] theorem modLoad_host (f : FwLoad → FwLoad) (s : State) : (modLoad f s).host = s.host := rfl
@[simp] theorem modLoad_net (f : FwLoad → FwLoad) (s : State) : (modLoad f s).net = s.net := rfl
@[simp] theorem modLoad_pair (f : FwLoad → FwLoad) (s : State) : (modLoad f s).pair = s.pair := rfl
@[simp] theorem modLoad_img (f : FwLoad → FwLoad) (s : State) : (modLoad f s).img = s.img := rfl
@[simp] theorem modLoad_flt (f : FwLoad → FwLoad) (s : State) : (modLoad f s).flt = s.flt := rfl
@[simp] theorem modLoad_pwr (f : FwLoad → FwLoad) (s : State) : (modLoad f s).pwr = s.pwr := rfl
@[simp] theorem modLoad_plinth (f : FwLoad → FwLoad) (s : State) : (modLoad f s).plinth = s.plinth := rfl
@[simp] theorem modLoad_nvs (f : FwLoad → FwLoad) (s : State) : (modLoad f s).nvs = { s.nvs with load := f s.nvs.load } := rfl
@[simp] theorem modLoad_recd (f : FwLoad → FwLoad) (s : State) : (modLoad f s).recd = s.recd := rfl
@[simp] theorem modLoad_cu (f : FwLoad → FwLoad) (s : State) : (modLoad f s).cu = s.cu := rfl
@[simp] theorem modLoad_sec (f : FwLoad → FwLoad) (s : State) : (modLoad f s).sec = s.sec := rfl
@[simp] theorem modLoad_misc (f : FwLoad → FwLoad) (s : State) : (modLoad f s).misc = s.misc := rfl
@[simp] theorem modLoad_tap (f : FwLoad → FwLoad) (s : State) : (modLoad f s).tap = s.tap := rfl
@[simp] theorem modLoad_reh (f : FwLoad → FwLoad) (s : State) : (modLoad f s).reh = s.reh := rfl
@[simp] theorem modLoad_regs (f : FwLoad → FwLoad) (s : State) : (modLoad f s).regs = s.regs := rfl

@[simp] theorem modWda_pending (f : Wdg → Wdg) (s : State) : (modWda f s).pending = s.pending := rfl
@[simp] theorem modWda_now (f : Wdg → Wdg) (s : State) : (modWda f s).now = s.now := rfl
@[simp] theorem modWda_sysOff (f : Wdg → Wdg) (s : State) : (modWda f s).sysOff = s.sysOff := rfl
@[simp] theorem modWda_free (f : Wdg → Wdg) (s : State) : (modWda f s).free = s.free := rfl
@[simp] theorem modWda_tile (f : Wdg → Wdg) (s : State) : (modWda f s).tile = s.tile := rfl
@[simp] theorem modWda_link (f : Wdg → Wdg) (s : State) : (modWda f s).link = s.link := rfl
@[simp] theorem modWda_sns (f : Wdg → Wdg) (s : State) : (modWda f s).sns = s.sns := rfl
@[simp] theorem modWda_iso (f : Wdg → Wdg) (s : State) : (modWda f s).iso = s.iso := rfl
@[simp] theorem modWda_chan (f : Wdg → Wdg) (s : State) : (modWda f s).chan = s.chan := rfl
@[simp] theorem modWda_eng (f : Wdg → Wdg) (s : State) : (modWda f s).eng = s.eng := rfl
@[simp] theorem modWda_ep (f : Wdg → Wdg) (s : State) : (modWda f s).ep = s.ep := rfl
@[simp] theorem modWda_host (f : Wdg → Wdg) (s : State) : (modWda f s).host = s.host := rfl
@[simp] theorem modWda_net (f : Wdg → Wdg) (s : State) : (modWda f s).net = s.net := rfl
@[simp] theorem modWda_pair (f : Wdg → Wdg) (s : State) : (modWda f s).pair = s.pair := rfl
@[simp] theorem modWda_img (f : Wdg → Wdg) (s : State) : (modWda f s).img = s.img := rfl
@[simp] theorem modWda_flt (f : Wdg → Wdg) (s : State) : (modWda f s).flt = s.flt := rfl
@[simp] theorem modWda_pwr (f : Wdg → Wdg) (s : State) : (modWda f s).pwr = { s.pwr with wda := f s.pwr.wda } := rfl
@[simp] theorem modWda_plinth (f : Wdg → Wdg) (s : State) : (modWda f s).plinth = s.plinth := rfl
@[simp] theorem modWda_nvs (f : Wdg → Wdg) (s : State) : (modWda f s).nvs = s.nvs := rfl
@[simp] theorem modWda_recd (f : Wdg → Wdg) (s : State) : (modWda f s).recd = s.recd := rfl
@[simp] theorem modWda_cu (f : Wdg → Wdg) (s : State) : (modWda f s).cu = s.cu := rfl
@[simp] theorem modWda_sec (f : Wdg → Wdg) (s : State) : (modWda f s).sec = s.sec := rfl
@[simp] theorem modWda_misc (f : Wdg → Wdg) (s : State) : (modWda f s).misc = s.misc := rfl
@[simp] theorem modWda_tap (f : Wdg → Wdg) (s : State) : (modWda f s).tap = s.tap := rfl
@[simp] theorem modWda_reh (f : Wdg → Wdg) (s : State) : (modWda f s).reh = s.reh := rfl
@[simp] theorem modWda_regs (f : Wdg → Wdg) (s : State) : (modWda f s).regs = s.regs := rfl

@[simp] theorem modTap_pending (f : Tap → Tap) (s : State) : (modTap f s).pending = s.pending := rfl
@[simp] theorem modTap_now (f : Tap → Tap) (s : State) : (modTap f s).now = s.now := rfl
@[simp] theorem modTap_sysOff (f : Tap → Tap) (s : State) : (modTap f s).sysOff = s.sysOff := rfl
@[simp] theorem modTap_free (f : Tap → Tap) (s : State) : (modTap f s).free = s.free := rfl
@[simp] theorem modTap_tile (f : Tap → Tap) (s : State) : (modTap f s).tile = s.tile := rfl
@[simp] theorem modTap_link (f : Tap → Tap) (s : State) : (modTap f s).link = s.link := rfl
@[simp] theorem modTap_sns (f : Tap → Tap) (s : State) : (modTap f s).sns = s.sns := rfl
@[simp] theorem modTap_iso (f : Tap → Tap) (s : State) : (modTap f s).iso = s.iso := rfl
@[simp] theorem modTap_chan (f : Tap → Tap) (s : State) : (modTap f s).chan = s.chan := rfl
@[simp] theorem modTap_eng (f : Tap → Tap) (s : State) : (modTap f s).eng = s.eng := rfl
@[simp] theorem modTap_ep (f : Tap → Tap) (s : State) : (modTap f s).ep = s.ep := rfl
@[simp] theorem modTap_host (f : Tap → Tap) (s : State) : (modTap f s).host = s.host := rfl
@[simp] theorem modTap_net (f : Tap → Tap) (s : State) : (modTap f s).net = s.net := rfl
@[simp] theorem modTap_pair (f : Tap → Tap) (s : State) : (modTap f s).pair = s.pair := rfl
@[simp] theorem modTap_img (f : Tap → Tap) (s : State) : (modTap f s).img = s.img := rfl
@[simp] theorem modTap_flt (f : Tap → Tap) (s : State) : (modTap f s).flt = s.flt := rfl
@[simp] theorem modTap_pwr (f : Tap → Tap) (s : State) : (modTap f s).pwr = s.pwr := rfl
@[simp] theorem modTap_plinth (f : Tap → Tap) (s : State) : (modTap f s).plinth = s.plinth := rfl
@[simp] theorem modTap_nvs (f : Tap → Tap) (s : State) : (modTap f s).nvs = s.nvs := rfl
@[simp] theorem modTap_recd (f : Tap → Tap) (s : State) : (modTap f s).recd = s.recd := rfl
@[simp] theorem modTap_cu (f : Tap → Tap) (s : State) : (modTap f s).cu = s.cu := rfl
@[simp] theorem modTap_sec (f : Tap → Tap) (s : State) : (modTap f s).sec = s.sec := rfl
@[simp] theorem modTap_misc (f : Tap → Tap) (s : State) : (modTap f s).misc = s.misc := rfl
@[simp] theorem modTap_tap (f : Tap → Tap) (s : State) : (modTap f s).tap = f s.tap := rfl
@[simp] theorem modTap_reh (f : Tap → Tap) (s : State) : (modTap f s).reh = s.reh := rfl
@[simp] theorem modTap_regs (f : Tap → Tap) (s : State) : (modTap f s).regs = s.regs := rfl

@[simp] theorem modPat_pending (k : Fin 96) (f : Patina → Patina) (s : State) : (modPat k f s).pending = s.pending := rfl
@[simp] theorem modPat_now (k : Fin 96) (f : Patina → Patina) (s : State) : (modPat k f s).now = s.now := rfl
@[simp] theorem modPat_sysOff (k : Fin 96) (f : Patina → Patina) (s : State) : (modPat k f s).sysOff = s.sysOff := rfl
@[simp] theorem modPat_free (k : Fin 96) (f : Patina → Patina) (s : State) : (modPat k f s).free = s.free := rfl
@[simp] theorem modPat_tile (k : Fin 96) (f : Patina → Patina) (s : State) : (modPat k f s).tile = s.tile := rfl
@[simp] theorem modPat_link (k : Fin 96) (f : Patina → Patina) (s : State) : (modPat k f s).link = s.link := rfl
@[simp] theorem modPat_sns (k : Fin 96) (f : Patina → Patina) (s : State) : (modPat k f s).sns = s.sns := rfl
@[simp] theorem modPat_iso (k : Fin 96) (f : Patina → Patina) (s : State) : (modPat k f s).iso = s.iso := rfl
@[simp] theorem modPat_chan (k : Fin 96) (f : Patina → Patina) (s : State) : (modPat k f s).chan = s.chan := rfl
@[simp] theorem modPat_eng (k : Fin 96) (f : Patina → Patina) (s : State) : (modPat k f s).eng = s.eng := rfl
@[simp] theorem modPat_ep (k : Fin 96) (f : Patina → Patina) (s : State) : (modPat k f s).ep = s.ep := rfl
@[simp] theorem modPat_host (k : Fin 96) (f : Patina → Patina) (s : State) : (modPat k f s).host = s.host := rfl
@[simp] theorem modPat_net (k : Fin 96) (f : Patina → Patina) (s : State) : (modPat k f s).net = s.net := rfl
@[simp] theorem modPat_pair (k : Fin 96) (f : Patina → Patina) (s : State) : (modPat k f s).pair = s.pair := rfl
@[simp] theorem modPat_img (k : Fin 96) (f : Patina → Patina) (s : State) : (modPat k f s).img = s.img := rfl
@[simp] theorem modPat_flt (k : Fin 96) (f : Patina → Patina) (s : State) : (modPat k f s).flt = s.flt := rfl
@[simp] theorem modPat_pwr (k : Fin 96) (f : Patina → Patina) (s : State) : (modPat k f s).pwr = s.pwr := rfl
@[simp] theorem modPat_plinth (k : Fin 96) (f : Patina → Patina) (s : State) : (modPat k f s).plinth = s.plinth := rfl
@[simp] theorem modPat_nvs (k : Fin 96) (f : Patina → Patina) (s : State) : (modPat k f s).nvs = { s.nvs with pat := s.nvs.pat.upd k f } := rfl
@[simp] theorem modPat_recd (k : Fin 96) (f : Patina → Patina) (s : State) : (modPat k f s).recd = s.recd := rfl
@[simp] theorem modPat_cu (k : Fin 96) (f : Patina → Patina) (s : State) : (modPat k f s).cu = s.cu := rfl
@[simp] theorem modPat_sec (k : Fin 96) (f : Patina → Patina) (s : State) : (modPat k f s).sec = s.sec := rfl
@[simp] theorem modPat_misc (k : Fin 96) (f : Patina → Patina) (s : State) : (modPat k f s).misc = s.misc := rfl
@[simp] theorem modPat_tap (k : Fin 96) (f : Patina → Patina) (s : State) : (modPat k f s).tap = s.tap := rfl
@[simp] theorem modPat_reh (k : Fin 96) (f : Patina → Patina) (s : State) : (modPat k f s).reh = s.reh := rfl
@[simp] theorem modPat_regs (k : Fin 96) (f : Patina → Patina) (s : State) : (modPat k f s).regs = s.regs := rfl

@[simp] theorem upFlash_pending (t : Fin 12) (kind d0 : Nat) (s : State) : (upFlash t kind d0 s).pending = s.pending := rfl
@[simp] theorem upFlash_now (t : Fin 12) (kind d0 : Nat) (s : State) : (upFlash t kind d0 s).now = s.now := rfl
@[simp] theorem upFlash_sysOff (t : Fin 12) (kind d0 : Nat) (s : State) : (upFlash t kind d0 s).sysOff = s.sysOff := rfl
@[simp] theorem upFlash_free (t : Fin 12) (kind d0 : Nat) (s : State) : (upFlash t kind d0 s).free = s.free := rfl
@[simp] theorem upFlash_tile (t : Fin 12) (kind d0 : Nat) (s : State) : (upFlash t kind d0 s).tile = s.tile := rfl
@[simp] theorem upFlash_link (t : Fin 12) (kind d0 : Nat) (s : State) : (upFlash t kind d0 s).link = s.link := rfl
@[simp] theorem upFlash_sns (t : Fin 12) (kind d0 : Nat) (s : State) : (upFlash t kind d0 s).sns = s.sns := rfl
@[simp] theorem upFlash_iso (t : Fin 12) (kind d0 : Nat) (s : State) : (upFlash t kind d0 s).iso = s.iso := rfl
@[simp] theorem upFlash_chan (t : Fin 12) (kind d0 : Nat) (s : State) : (upFlash t kind d0 s).chan = s.chan := rfl
@[simp] theorem upFlash_eng (t : Fin 12) (kind d0 : Nat) (s : State) : (upFlash t kind d0 s).eng = s.eng := rfl
@[simp] theorem upFlash_ep (t : Fin 12) (kind d0 : Nat) (s : State) : (upFlash t kind d0 s).ep = s.ep := rfl
@[simp] theorem upFlash_host (t : Fin 12) (kind d0 : Nat) (s : State) : (upFlash t kind d0 s).host = s.host := rfl
@[simp] theorem upFlash_net (t : Fin 12) (kind d0 : Nat) (s : State) : (upFlash t kind d0 s).net = s.net := rfl
@[simp] theorem upFlash_pair (t : Fin 12) (kind d0 : Nat) (s : State) : (upFlash t kind d0 s).pair = s.pair := rfl
@[simp] theorem upFlash_img (t : Fin 12) (kind d0 : Nat) (s : State) : (upFlash t kind d0 s).img = s.img := rfl
@[simp] theorem upFlash_flt (t : Fin 12) (kind d0 : Nat) (s : State) : (upFlash t kind d0 s).flt = s.flt := rfl
@[simp] theorem upFlash_pwr (t : Fin 12) (kind d0 : Nat) (s : State) : (upFlash t kind d0 s).pwr = s.pwr := rfl
@[simp] theorem upFlash_plinth (t : Fin 12) (kind d0 : Nat) (s : State) : (upFlash t kind d0 s).plinth = s.plinth := rfl
@[simp] theorem upFlash_nvs (t : Fin 12) (kind d0 : Nat) (s : State) : (upFlash t kind d0 s).nvs = s.nvs := rfl
@[simp] theorem upFlash_recd (t : Fin 12) (kind d0 : Nat) (s : State) : (upFlash t kind d0 s).recd = s.recd := rfl
@[simp] theorem upFlash_cu (t : Fin 12) (kind d0 : Nat) (s : State) : (upFlash t kind d0 s).cu = s.cu := rfl
@[simp] theorem upFlash_sec (t : Fin 12) (kind d0 : Nat) (s : State) : (upFlash t kind d0 s).sec = s.sec := rfl
@[simp] theorem upFlash_tap (t : Fin 12) (kind d0 : Nat) (s : State) : (upFlash t kind d0 s).tap = s.tap := rfl
@[simp] theorem upFlash_reh (t : Fin 12) (kind d0 : Nat) (s : State) : (upFlash t kind d0 s).reh = s.reh := rfl
@[simp] theorem upFlash_regs (t : Fin 12) (kind d0 : Nat) (s : State) : (upFlash t kind d0 s).regs = s.regs := rfl

/-! ## What does not depend on the instant -/

@[simp] theorem tilePowered_at_ (s : State) (t : Time) (x : Fin 12) : tilePowered (s.at_ t) x = tilePowered s x := rfl
@[simp] theorem tileHears_at_ (s : State) (t : Time) (x : Fin 12) : tileHears (s.at_ t) x = tileHears s x := rfl
@[simp] theorem hubUp_at_ (s : State) (t : Time) : hubUp (s.at_ t) = hubUp s := rfl
@[simp] theorem hubAlive_at_ (s : State) (t : Time) : hubAlive (s.at_ t) = hubAlive s := rfl
@[simp] theorem linkUp_at_ (s : State) (t : Time) (x : Fin 12) : linkUp (s.at_ t) x = linkUp s x := rfl
@[simp] theorem upReceiver_at_ (s : State) (t : Time) (x : Fin 12) : upReceiver (s.at_ t) x = upReceiver s x := rfl
@[simp] theorem castRec_at_ (s : State) (t : Time) (k : Nat) : castRec (s.at_ t) k = castRec s k := rfl
@[simp] theorem tileRec_at_ (s : State) (t : Time) (k : Fin 96) : tileRec (s.at_ t) k = tileRec s k := rfl
@[simp] theorem safeRec_at_ (s : State) (t : Time) (k : Fin 96) : safeRec (s.at_ t) k = safeRec s k := rfl
@[simp] theorem reg_at_ (s : State) (t : Time) (off : Nat) : reg (s.at_ t) off = reg s off := rfl
@[simp] theorem paired_at_ (s : State) (t : Time) : paired (s.at_ t) = paired s := rfl
@[simp] theorem mirrors_at_ (s : State) (t : Time) : mirrors (s.at_ t) = mirrors s := rfl
@[simp] theorem mute_at_ (s : State) (t : Time) : mute (s.at_ t) = mute s := rfl

end Sys2Proof.Machine
end

