-- ==== Sys2Proof/Tests/Slice0.lean ====
section
/-! SUPPORT. Small tests of the model, an ill-formed command for each check, and a witness for the premises of each statement. -/

namespace Sys2Proof.Machine

open Sys2Proof

set_option Elab.async false
set_option linter.unusedVariables false

/-- A hub that runs, with Studio up from slot 0 and the collector ready. -/
def wRun : State := { State.reset with
  pwr := { State.reset.pwr with phase := .run }
  flt := { State.reset.flt with studioUp := true, loaded := true }
  nvs := { State.reset.nvs with studio := { State.reset.nvs.studio with running := some 0 } } }

/-- A record of `n` bytes with the given bytes at their offsets. -/
def wRec (n : Nat) (l : List (Nat × Nat)) : Rec := (List.range n).map fun i => BitVec.ofNat 8 (lookupD l i 0)

/-- The same with tile 0 powered, its configuration bank empty of records, in a state, its link good. -/
def wTile (x : TileState) : State :=
  { wRun with
    tile := wRun.tile.set 0 { state := x, bank := some {}, lpt := 24000 }
    link := wRun.link.set 0 { downSilent := false, upSilent := false, hubSilent := false, tileSays := false, fclk := true } }

/-- The same with a record for channel 0, in the tile and in the cast, and the device joined to epochs under a number. -/
def wChan (x : TileState) (r : Rec) : State :=
  let s := wTile x
  { s with
    tile := s.tile.set 0 { state := x, bank := some { chan := (Bank.fill 8 []).set 0 r }, lpt := 24000 }
    img := { s.img with cast := some { chan := [r] } }
    ep := { s.ep with joined := true, counting := true, everJoined := true, p := 1000 }
    net := { s.net with num := 5, numValid := true, locked := true, state := 3 } }

/-- A DO record with a PGMODE. -/
def wDo (pgmode : Nat) : Rec := wRec 64 [(2, 10), (16, pgmode)]

/-- A pending SET, and a tile that holds it. -/
def wEntry : TEntry := { kind := .buf 3 1, c := 0, duty := false, stamp := 5, value := 0 }
def wPend : State :=
  let s := wChan .live (wDo 0)
  { s with tile := s.tile.upd 0 fun x => { x with pend := [wEntry] } }

/-- A descriptor of ring 0 as a work of this device, and a state that holds it accepted. -/
def wRef : WorkRef := { origin := 5, ring := 0, seq := 1 }
def wJob (op : Nat) (bytes : List Byte) : Work :=
  { ref := wRef, opcode := op, bytes := bytes, payload := [], check := 0, classJ := true, accepted := true, stored := true }
def wHold (w : Work) (s : State) : State := { s with host := { s.host with work := [w] } }

/-- A state with another cast. -/
def wCast (i : Image) (s : State) : State := { s with img := { s.img with cast := some i } }

/-- Device 5 in one group, group 0, counting epochs. -/
def wGrp (x : Group) : State :=
  wCast { grp := [wRec 320 [(64, 32)]] } { wRun with
    net := { wRun.net with num := 5, numValid := true, locked := true, state := 3 }
    ep := { wRun.ep with counting := true, p := 1000, groups := [x] } }

/-- The first member of a pair, seated and cast, in a pair state. -/
def wPair (x : PairState) : State :=
  let s := wCast { pair := wRec 64 [(0, 9)] } wRun
  { s with pwr := { s.pwr with straps := { s.pwr.straps with pairId := 0 } }, pair := { s.pair with state := x } }

/-- The work of `wJob`, its result 0 to 1,023. -/
def wOp (op : Nat) (bytes : List Byte) : State := wHold (wJob op bytes) (wChan .live (wDo 0))

/-- Check unit 0 set to a CRC of 8 bits. -/
def wCu : State := { wRun with regs := [(0x4400, 8)] }

/-- A mapped tag of channel 0 that was last updated at 0. -/
def wStale : State :=
  { wChan .live [] with
    img := { wRun.img with cast := some { plan := [wRec 32 [(14, 1)]] } }
    misc := { wRun.misc with hartTags := [{ item := 0, value := 0, at_ := 0, valid := true }] } }

/-- A descriptor of device 6 that names a channel the cast does not claim. -/
def wFarBody : List Byte := [4, 4, 0, 0, 1, 0, 0, 0] ++ List.replicate 8 0 ++ [255, 255, 255, 255] ++ List.replicate 40 0
def wFar : Fetched := { ref := { origin := 6, ring := 0, seq := 1 }, bytes := wFarBody ++ leBytes 4 (descCheck 0 1 wFarBody), payload := [], payloadOk := true, gen := 0 }

/-! ## Worked examples of the spec -/

/-- WDA with CLOSE 146 and OPEN 1,465, the expected key 0xA3, its last service at 0 (Table 16-3). -/
def wWda : State :=
  { wRun with pwr := { wRun.pwr with wda := { en := true, close := 146, open_ := 1465, key := 0xA3 } } }

/-- What WDA judges of a key at an instant: 1 good, or the source raised: 2 EARLY, 3 SEQUENCE. -/
def wWdaJudged (t : Time) (key : Byte) : Option Nat :=
  match exec (.wdaKey t key false) wWda with
  | .next z => some (if (srcEntry z 2).pend then 2 else if (srcEntry z 3).pend then 3 else z.pwr.wda.last)
  | _ => none

/-- Table 16-3, row 1: the cycle in which t goes from 145 to 146 is judged at 145. -/
theorem test_wda_early : wWdaJudged 1993386 0xA3 = some 2 := by decide +kernel

/-- Table 16-3, row 2: the first cycle with t = 146. -/
theorem test_wda_opens : wWdaJudged 1993387 0xA3 = some 1 := by decide +kernel

/-- Table 16-3, row 4: a repeated key. -/
theorem test_wda_sequence : wWdaJudged 12288000 0x5C = some 3 := by decide +kernel

/-- Table 16-3, row 5: the last cycle of the window. -/
theorem test_wda_last_cycle : wWdaJudged 21995519 0xA3 = some 1 := by decide +kernel

/-- "Worked example — folds as bytes" (chapter 18): ring 3, SEQ 502. -/
theorem test_fold_bytes : leBytes 8 (3 + 2 ^ 32 * 502) = [0x03, 0, 0, 0, 0xF6, 0x01, 0, 0] := by decide

/-- R433: the identifier of the override slot of channel 29. -/
theorem test_override_slot_id : resId 0x11 29 = 0x1100001D := by decide

/-- "Worked example — a diagnostic slot that collides" (chapter 13): the two windows meet. -/
theorem test_diag_windows_meet : windowsMeet (700, 500000, 140000) (10000, 1000000, 640500) = true := by decide

/-- Table 14-23: the channel record's FUNC and ILIM are read at their bytes. -/
def wValve : Rec := wRec 64 [(0, 12), (2, 10), (5, 8), (10, 1), (17, 4), (19, 3), (20, 100), (22, 30), (24, 0xE8), (25, 3), (34, 30)]
theorem test_valve_record : chFunc wValve = .dout ∧ u16 wValve 20 = 100 ∧ u16 wValve 24 = 1000 := by decide

/-- No row of the table gives bits, so no word spells a command. -/
theorem test_no_table_word : Sys2Proof.decodeTableWord 32 0xFFFFFFFF = none := by decide

/-- A step takes the command in front of the queue: the time passes and the queue is empty. -/
theorem test_step_takes_front : (match step { State.reset with pending := [.hbtSend 5] } with | .next z => z.now == 5 && z.pending.isEmpty | _ => false) = true := by
  decide +kernel

/-! ## An ill-formed command for each check -/

theorem test_illFormed_tileDownstreamFrame_length : (Instr.tileDownstreamFrame 0 0 true 0 [] .none).wf = false := by decide
theorem test_illFormed_tileDownstreamFrame_chan : (Instr.tileDownstreamFrame 0 0 true 0 (List.replicate 20 0) (.chan 0 [])).wf = false := by decide
theorem test_illFormed_tileDownstreamFrame_tile : (Instr.tileDownstreamFrame 0 0 true 0 (List.replicate 20 0) (.tile [])).wf = false := by decide
theorem test_illFormed_tileDownstreamFrame_safe : (Instr.tileDownstreamFrame 0 0 true 0 (List.replicate 20 0) (.safe 0 [])).wf = false := by decide
theorem test_illFormed_tileDownstreamFrame_prof : (Instr.tileDownstreamFrame 0 0 true 0 (List.replicate 20 0) (.prof [])).wf = false := by decide
theorem test_illFormed_tileDownstreamFrame_tref : (Instr.tileDownstreamFrame 0 0 true 0 (List.replicate 20 0) (.tref [])).wf = false := by decide
theorem test_illFormed_tileDownstreamFrame_hact : (Instr.tileDownstreamFrame 0 0 true 0 (List.replicate 20 0) (.hact 0 [])).wf = false := by decide
theorem test_illFormed_hubUpstreamFrame : (Instr.hubUpstreamFrame 0 0 true 0 [] .none).wf = false := by decide
theorem test_illFormed_tcmdNop : (Instr.tcmdNop 0 0 0 0 0 0 0).wf = false := by decide
theorem test_illFormed_tcmdSet : (Instr.tcmdSet 0 0 9 0 0 0 0).wf = false := by decide
theorem test_illFormed_tcmdDuty : (Instr.tcmdDuty 0 0 9 0 0 0 0).wf = false := by decide
theorem test_illFormed_tcmdReplace : (Instr.tcmdReplace 0 0 14 0 0 0 0).wf = false := by decide
theorem test_illFormed_tcmdCancel : (Instr.tcmdCancel 0 0 16 0 0 0 0).wf = false := by decide
theorem test_illFormed_tcmdRelease : (Instr.tcmdRelease 0 0 0 0 0 0 0).wf = false := by decide
theorem test_illFormed_tcmdReservedOp_slot : (Instr.tcmdReservedOp 0 0 0 0 7 0 0 0).wf = false := by decide
theorem test_illFormed_tcmdReservedOp_op : (Instr.tcmdReservedOp 0 0 3 0 5 0 0 0).wf = false := by decide
theorem test_illFormed_mgtPartitionReset : (Instr.mgtPartitionReset 0 0 2).wf = false ∧ (Instr.mgtPartitionReset 0 0 9).wf = false := by decide
theorem test_illFormed_tackReport : (Instr.tackReport 0 0 0 0 16 0 3).wf = false := by decide
theorem test_illFormed_axsFrameReceived : (Instr.axsFrameReceived 0 1024 []).wf = false := by decide
theorem test_illFormed_tokVerdict : (Instr.tokVerdict 0 1024 []).wf = false := by decide
theorem test_illFormed_imgFrameReceived : (Instr.imgFrameReceived 0 1024 []).wf = false := by decide
theorem test_illFormed_hbtReceived : (Instr.hbtReceived 0 1024 []).wf = false := by decide
theorem test_illFormed_timReceived : (Instr.timReceived 0 0 1024 []).wf = false := by decide
theorem test_illFormed_reqReceived : (Instr.reqReceived 0 1024 []).wf = false := by decide
theorem test_illFormed_rspReceived : (Instr.rspReceived 0 1024 []).wf = false := by decide
theorem test_illFormed_tileTrip : (Instr.tileTrip 0 0 [] 0).wf = false := by decide
theorem test_illFormed_faultEvent_empty : (Instr.faultEvent 0 [] false).wf = false := by decide
theorem test_illFormed_faultEvent_source : (Instr.faultEvent 0 [512] false).wf = false := by decide
theorem test_illFormed_wireFault : (Instr.wireFault 0 512 false).wf = false := by decide
theorem test_illFormed_injWrite : (Instr.injWrite 0 512 0).wf = false := by decide
theorem test_illFormed_pendClear : (Instr.pendClear 0 512).wf = false := by decide
theorem test_illFormed_fltConfigRequest : (Instr.fltConfigRequest 0 512 0 0).wf = false := by decide
theorem test_illFormed_storeAccept : (Instr.storeAccept 0 ⟨1024, 0, 0⟩).wf = false := by decide
theorem test_illFormed_fenceRelease : (Instr.fenceRelease 0 ⟨0, 64, 0⟩).wf = false := by decide
theorem test_illFormed_gateJournal : (Instr.gateJournal 0 ⟨1024, 0, 0⟩).wf = false := by decide
theorem test_illFormed_gateStarted : (Instr.gateStarted 0 ⟨0, 64, 0⟩).wf = false := by decide

/-! ## The premises of each statement are met -/

/-- StepTakesTheFront: the premises are met. -/
theorem met_StepTakesTheFront : ∃ (s : State) (c : Instr) (rest : List Instr), s.pending = c :: rest :=
  ⟨{ pending := [.hbtSend 0] }, .hbtSend 0, [], by decide⟩

/-- ResetValues: the premises are met. -/
theorem met_ResetValues : ∃ s : State, s.pending = [] ∧ s.tap.edges = [] := ⟨State.reset, by decide⟩

/-- WellFormedKept: the premises are met. -/
theorem met_WellFormedKept : ∃ s z : State, s.wf = true ∧ step s = .next z := ⟨{ pending := [.hbtSend 0] }, _, by decide, rfl⟩

/-- FusesHeld: the premises are met. -/
theorem met_FusesHeld : ∃ s z : State, step s = .next z := ⟨{ pending := [.hbtSend 0] }, _, rfl⟩

/-- QueueAndTimeKept: the premises are met. -/
theorem met_QueueAndTimeKept : ∃ (s z : State) (c : Instr) (rest : List Instr), s.pending = c :: rest ∧ step s = .next z :=
  ⟨{ pending := [.hbtSend 0] }, _, .hbtSend 0, [], rfl, rfl⟩

/-- OnlyImageRowsChangeImages: the premises are met. -/
theorem met_OnlyImageRowsChangeImages : ∃ (c : Instr) (s z : State), exec c s = .next z ∧
    (match c with
    | .imgload .. | .imgdiscard .. | .jnlImage .. | .epochBoundary .. | .epochJoin .. | .hubResetRelease .. | .porRelease .. | .secCmdDone .. => False
    | _ => True) :=
  ⟨.hbtSend 0, {}, _, rfl, trivial⟩

/-- CellsReadBack: the premises are met. -/
theorem met_CellsReadBack_1 : ∃ m : List Host.Cell, Memory.wf m = true := ⟨[(3, 7)], by decide⟩
theorem met_CellsReadBack_2 : ∃ m n : List Host.Cell, Memory.wf m = true ∧ Memory.wf n = true ∧ (∀ x, cellRead m x = cellRead n x) := ⟨[(3, 7)], [(3, 7)], by decide, by decide, fun _ => rfl⟩

/-- BytesLittleEndian: the premises are met. -/
theorem met_BytesLittleEndian : ∃ k n i : Nat, i < k := ⟨2, 258, 1, by decide⟩

/-- ImageLoadsChangeOnlyTheirSpan: the premises are met. -/
theorem met_ImageLoadsChangeOnlyTheirSpan_1 : ∃ (s z : State) (t : Time) (w : WorkRef) (x : Work), exec (.imgload t w) s = .next z ∧ workOf (s.at_ t) w = some x :=
  ⟨wHold (wJob 0x0300 []) wRun, _, 0, wRef, wJob 0x0300 [], rfl, by decide +kernel⟩
theorem met_ImageLoadsChangeOnlyTheirSpan_2 : ∃ (s z : State) (t : Time) (off : Word) (bytes : List Byte) (last : Bool),
    exec (.jnlImage t off bytes last) s = .next z ∧ last = false := ⟨{}, _, 0, 0, [7], false, rfl, rfl⟩

/-- CheckUnitRowsChangeOneUnit: the premises are met. -/
theorem met_CheckUnitRowsChangeOneUnit : ∃ (s z : State) (t : Time) (n : Fin 4), exec (.cuStart t n) s = .next z := ⟨{}, _, 0, 0, rfl⟩

/-- FixedChecks: the premises are met. -/
theorem met_FixedChecks_1 : ∃ tile : Nat, tile < 16 := ⟨15, by decide⟩
theorem met_FixedChecks_2 : ∃ dst fseq : Nat, dst < 1024 ∧ fseq < 2 ^ 22 := ⟨1023, 2 ^ 22 - 1, by decide, by decide⟩
theorem met_FixedChecks_3 : ∃ ring seq : Nat, ring < 65536 ∧ seq < 2 ^ 32 := ⟨65535, 2 ^ 32 - 1, by decide, by decide⟩

/-- ForgetAndLastSeq: the premises are met. -/
theorem met_ForgetAndLastSeq_2 : ∃ (s a : State) (t : Time) (n : Fin 64), a = s.at_ t ∧ hubAlive a = true ∧ (a.host.cr.get n).state = 0 ∧
    ringOwes a n.val = false := ⟨wRun, wRun.at_ 0, 0, 0, rfl, by decide +kernel⟩
theorem met_ForgetAndLastSeq_3 : ∃ (s a : State) (t : Time) (n : Fin 64), a = s.at_ t ∧ hubAlive a = true ∧
    ringOwes a n.val = true :=
  ⟨wOp 0 [], (wOp 0 []).at_ 0, 0, 0, rfl, by decide +kernel⟩

/-- HartStalenessNeedsNoStudio: the premises are met. -/
theorem met_HartStalenessNeedsNoStudio_1 : ∃ (s a : State) (t : Time) (item : Nat) (k : Fin 96) (x : HartTag), a = s.at_ t ∧ hubUp a = true ∧
    chanOfItem a item = some k ∧ tagOfItem a item = some x ∧ staleOf a k.val (u8 ((castAll a (·.item)).getD item []) 1) < a.now - x.at_ :=
  ⟨wStale, wStale.at_ (sec 1), sec 1, 0, 0, { item := 0, value := 0, at_ := 0, valid := true }, rfl, by decide +kernel⟩
theorem met_HartStalenessNeedsNoStudio_2 : ∃ (s a y z : State) (t : Time) (item : Nat) (up : Bool), a = { s with flt := { s.flt with studioUp := up } } ∧
    exec (.hartStale t item) s = .next y ∧ exec (.hartStale t item) a = .next z :=
  ⟨{}, _, _, _, 0, 0, false, rfl, rfl, rfl⟩

/-- OpcodesNeedARunningHubAndTheirWork: the premises are met. -/
theorem met_OpcodesNeedARunningHubAndTheirWork : ∃ (s a : State) (t : Time) (w : WorkRef), a = s.at_ t ∧ (hubUp a = false ∨ workOf a w = none) :=
  ⟨wRun, wRun.at_ 0, 0, wRef, rfl, Or.inr (by decide +kernel)⟩

/-- ChannelRowsChangeOneChannel: the premises are met. -/
theorem met_ChannelRowsChangeOneChannel_1 : ∃ (t : Time) (k : Fin 96) (bytes : List Byte) (s z : State), exec (.hartModemStart t k bytes) s = .next z := ⟨0, 0, [], {}, _, rfl⟩
theorem met_ChannelRowsChangeOneChannel_2 : ∃ (t : Time) (k : Fin 96) (bytes : List Byte) (s z : State), exec (.hartModemEnd t k bytes) s = .next z := ⟨0, 0, [], {}, _, rfl⟩
theorem met_ChannelRowsChangeOneChannel_3 : ∃ (t : Time) (k : Fin 96) (s z : State), exec (.hartModemAbort t k) s = .next z := ⟨0, 0, {}, _, rfl⟩
theorem met_ChannelRowsChangeOneChannel_4 : ∃ (t : Time) (k : Fin 96) (s z : State), exec (.hartTxdone t k) s = .next z := ⟨0, 0, {}, _, rfl⟩
theorem met_ChannelRowsChangeOneChannel_5 : ∃ (t : Time) (k : Fin 96) (byte : Byte) (perr eom : Bool) (s z : State), exec (.hartRxByte t k byte perr eom) s = .next z := ⟨0, 0, 0, false, false, {}, _, rfl⟩
theorem met_ChannelRowsChangeOneChannel_6 : ∃ (t : Time) (k : Fin 96) (headroom : Int) (held : Time) (s z : State), exec (.complClear t k headroom held) s = .next z := ⟨0, 0, 0, 0, {}, _, rfl⟩
theorem met_ChannelRowsChangeOneChannel_7 : ∃ (t : Time) (k : Fin 96) (counted : Time) (maxCurrent : Nat) (s z : State), exec (.openLoadOn t k counted maxCurrent) s = .next z := ⟨0, 0, 0, 0, {}, _, rfl⟩
theorem met_ChannelRowsChangeOneChannel_8 : ∃ (t : Time) (k : Fin 96) (s z : State), exec (.verdictRecord t k) s = .next z := ⟨0, 0, {}, _, rfl⟩
theorem met_ChannelRowsChangeOneChannel_9 : ∃ (t : Time) (k : Fin 96) (burden : Nat) (held : Time) (s z : State), exec (.sinkOpen t k burden held) s = .next z := ⟨0, 0, 0, 0, {}, _, rfl⟩
theorem met_ChannelRowsChangeOneChannel_10 : ∃ (t : Time) (k : Fin 96) (s z : State), exec (.sinkRetry t k) s = .next z := ⟨0, 0, {}, _, rfl⟩
theorem met_ChannelRowsChangeOneChannel_11 : ∃ (t : Time) (k : Fin 96) (headroom : Int) (held : Time) (s z : State), exec (.complSet t k headroom held) s = .next z := ⟨0, 0, 0, 0, {}, _, rfl⟩
theorem met_ChannelRowsChangeOneChannel_12 : ∃ (t : Time) (k : Fin 96) (s z : State), exec (.hartLoopSilence t k) s = .next z := ⟨0, 0, {}, _, rfl⟩
theorem met_ChannelRowsChangeOneChannel_13 : ∃ (t : Time) (k : Fin 96) (x : CompIn) (s z : State), exec (.inputRawChange t k x) s = .next z := ⟨0, 0, ⟨false, 0⟩, {}, _, rfl⟩
theorem met_ChannelRowsChangeOneChannel_14 : ∃ (t : Time) (k : Fin 96) (current : Nat) (held : Time) (s z : State), exec (.namLineFault t k current held) s = .next z := ⟨0, 0, 0, 0, {}, _, rfl⟩
theorem met_ChannelRowsChangeOneChannel_15 : ∃ (t : Time) (j : Fin 96) (current : Nat) (s z : State), exec (.currentLimit t j current) s = .next z := ⟨0, 0, 0, {}, _, rfl⟩
theorem met_ChannelRowsChangeOneChannel_16 : ∃ (t : Time) (k : Fin 96) (limiting : Bool) (s z : State), exec (.analogCurrentLimit t k limiting) s = .next z := ⟨0, 0, false, {}, _, rfl⟩
theorem met_ChannelRowsChangeOneChannel_17 : ∃ (t : Time) (j : Fin 96) (s z : State), exec (.currentBelowCeiling t j) s = .next z := ⟨0, 0, {}, _, rfl⟩

/-- TileRowsChangeOneUnit: the premises are met. -/
theorem met_TileRowsChangeOneUnit_1 : ∃ (t : Time) (tile : Fin 12) (code : SenseIn) (s z : State), exec (.fastSenseConversion t tile code) s = .next z := ⟨0, 0, ⟨0, 0, 0⟩, {}, _, rfl⟩
theorem met_TileRowsChangeOneUnit_2 : ∃ (t : Time) (tile : Fin 12) (code : Fin 8) (held : Time) (s z : State), exec (.sselCodeTaken t tile code held) s = .next z := ⟨0, 0, 0, 0, {}, _, rfl⟩
theorem met_TileRowsChangeOneUnit_3 : ∃ (t : Time) (tile : Fin 12) (lpt : Nat) (held : Time) (s z : State), exec (.tileSupplyGood t tile lpt held) s = .next z := ⟨0, 0, 0, 0, {}, _, rfl⟩
theorem met_TileRowsChangeOneUnit_4 : ∃ (t : Time) (tile : Fin 12) (s z : State), exec (.hubLinkResume t tile) s = .next z := ⟨0, 0, {}, _, rfl⟩
theorem met_TileRowsChangeOneUnit_5 : ∃ (t : Time) (tile : Fin 12) (s z : State), exec (.fclkLock t tile) s = .next z := ⟨0, 0, {}, _, rfl⟩
theorem met_TileRowsChangeOneUnit_6 : ∃ (t : Time) (tile : Fin 12) (up : Bool) (s z : State), exec (.linkGood t tile up) s = .next z ∧ up = false := ⟨0, 0, false, {}, _, rfl, by decide +kernel⟩

/-- RegisterRowsChangeTheirGroup: the premises are met. -/
theorem met_RegisterRowsChangeTheirGroup_1 : ∃ (t : Time) (seq : Word) (s z : State), exec (.recRdseqWrite t seq) s = .next z := ⟨0, 0, {}, _, rfl⟩
theorem met_RegisterRowsChangeTheirGroup_2 : ∃ (t : Time) (s z : State), exec (.recRdwinLoaded t) s = .next z := ⟨0, {}, _, rfl⟩
theorem met_RegisterRowsChangeTheirGroup_3 : ∃ (t : Time) (value : Word) (s z : State), exec (.nvsRdselWrite t value) s = .next z := ⟨0, 0, {}, _, rfl⟩
theorem met_RegisterRowsChangeTheirGroup_4 : ∃ (t : Time) (s z : State), exec (.nvsRdwinLoaded t) s = .next z := ⟨0, {}, _, rfl⟩
theorem met_RegisterRowsChangeTheirGroup_5 : ∃ (t : Time) (word : Word) (s z : State), exec (.fwChunk t word) s = .next z := ⟨0, 0, {}, _, rfl⟩
theorem met_RegisterRowsChangeTheirGroup_6 : ∃ (t : Time) (s z : State), exec (.fwOpen t) s = .next z := ⟨0, {}, _, rfl⟩
theorem met_RegisterRowsChangeTheirGroup_7 : ∃ (t : Time) (s z : State), exec (.patinaWrite t) s = .next z := ⟨0, {}, _, rfl⟩
theorem met_RegisterRowsChangeTheirGroup_8 : ∃ (t : Time) (s z : State), exec (.trimTimeout t) s = .next z := ⟨0, {}, _, rfl⟩
theorem met_RegisterRowsChangeTheirGroup_9 : ∃ (t : Time) (s z : State), exec (.cclkPllLock t) s = .next z := ⟨0, {}, _, rfl⟩
theorem met_RegisterRowsChangeTheirGroup_10 : ∃ (t : Time) (vhold : Nat) (held : Time) (s z : State), exec (.vlogGood t vhold held) s = .next z := ⟨0, 0, 0, {}, _, rfl⟩
theorem met_RegisterRowsChangeTheirGroup_11 : ∃ (t : Time) (vhold : Nat) (s z : State), exec (.holdupTest t vhold) s = .next z := ⟨0, 0, {}, _, rfl⟩
theorem met_RegisterRowsChangeTheirGroup_12 : ∃ (t : Time) (s z : State), exec (.tsetUpdate t) s = .next z := ⟨0, {}, _, rfl⟩
theorem met_RegisterRowsChangeTheirGroup_13 : ∃ (t : Time) (s z : State), exec (.intrusion t) s = .next z := ⟨0, {}, _, rfl⟩
theorem met_RegisterRowsChangeTheirGroup_14 : ∃ (t : Time) (vkeep : Nat) (s z : State), exec (.plinthLoss t vkeep) s = .next z := ⟨0, 0, {}, _, rfl⟩
theorem met_RegisterRowsChangeTheirGroup_15 : ∃ (t : Time) (slot : Fin 4) (confirm : BitVec 16) (s z : State), exec (.secProgram t slot confirm) s = .next z := ⟨0, 0, 0, {}, _, rfl⟩
theorem met_RegisterRowsChangeTheirGroup_16 : ∃ (t : Time) (slot : Fin 4) (confirm : BitVec 16) (s z : State), exec (.secRevoke t slot confirm) s = .next z := ⟨0, 0, 0, {}, _, rfl⟩
theorem met_RegisterRowsChangeTheirGroup_17 : ∃ (t : Time) (confirm : BitVec 16) (s z : State), exec (.secToken t confirm) s = .next z := ⟨0, 0, {}, _, rfl⟩
theorem met_RegisterRowsChangeTheirGroup_18 : ∃ (t : Time) (confirm : BitVec 16) (s z : State), exec (.secClrintr t confirm) s = .next z := ⟨0, 0, {}, _, rfl⟩
theorem met_RegisterRowsChangeTheirGroup_19 : ∃ (t : Time) (begins : Bool) (cls : Nat) (s z : State), exec (.gateStage t begins cls) s = .next z := ⟨0, false, 0, {}, _, rfl⟩
theorem met_RegisterRowsChangeTheirGroup_20 : ∃ (t : Time) (src : Nat) (s z : State), exec (.trapHandlerEnd t src) s = .next z :=
  ⟨0, 0, {}, (keeps_execTrapHandlerEnd 0 0 {}).choose, (keeps_execTrapHandlerEnd 0 0 {}).choose_spec.1⟩
theorem met_RegisterRowsChangeTheirGroup_21 : ∃ (t : Time) (src : Nat) (s z : State), exec (.c4PendAutoClear t src) s = .next z :=
  ⟨0, 0, {}, (keeps_execC4PendAutoClear 0 0 {}).choose, (keeps_execC4PendAutoClear 0 0 {}).choose_spec.1⟩
theorem met_RegisterRowsChangeTheirGroup_22 : ∃ (t : Time) (src : Nat) (value : Fin 4) (s z : State), exec (.injWrite t src value) s = .next z := ⟨0, 0, 0, {}, _, rfl⟩

/-- HostEngineAndNetworkRowsFrames: the premises are met. -/
theorem met_HostEngineAndNetworkRowsFrames_1 : ∃ (t : Time) (n : Fin 64) (s z : State), exec (.crDisable t n) s = .next z := ⟨0, 0, {}, _, rfl⟩
theorem met_HostEngineAndNetworkRowsFrames_2 : ∃ (t : Time) (src ring : Nat) (seq : Word) (s z : State), exec (.reqHoldExpiry t src ring seq) s = .next z := ⟨0, 0, 0, 0, {}, _, rfl⟩
theorem met_HostEngineAndNetworkRowsFrames_3 : ∃ (t : Time) (cq : Fin 64) (s z : State), exec (.cqModerationTimer t cq) s = .next z := ⟨0, 0, {}, _, rfl⟩
theorem met_HostEngineAndNetworkRowsFrames_4 : ∃ (t : Time) (n off size : Nat) (value : Word) (s z : State), exec (.crTailDoorbell t n off size value) s = .next z := ⟨0, 0, 0, 0, 0, {}, _, rfl⟩
theorem met_HostEngineAndNetworkRowsFrames_5 : ∃ (t : Time) (n off size : Nat) (value : Word) (s z : State), exec (.cqHeadUpdate t n off size value) s = .next z := ⟨0, 0, 0, 0, 0, {}, _, rfl⟩
theorem met_HostEngineAndNetworkRowsFrames_6 : ∃ (t : Time) (n off size : Nat) (value : Word) (s z : State), exec (.eq0HeadUpdate t n off size value) s = .next z := ⟨0, 0, 0, 0, 0, {}, _, rfl⟩
theorem met_HostEngineAndNetworkRowsFrames_7 : ∃ (t : Time) (l : ZLine) (s z : State), exec (.zEdge t l) s = .next z := ⟨0, ⟨0, 0⟩, {}, _, rfl⟩
theorem met_HostEngineAndNetworkRowsFrames_8 : ∃ (t : Time) (x : Fin 4) (a b : Bool) (held : Time) (s z : State), exec (.lostClear t x a b held) s = .next z := ⟨0, 0, false, false, 0, {}, _, rfl⟩
theorem met_HostEngineAndNetworkRowsFrames_9 : ∃ (t : Time) (x : Fin 4) (a b : EncLine) (s z : State), exec (.encoderEdge t x a b) s = .next z := ⟨0, 0, ⟨false, 0, none⟩, ⟨false, 0, none⟩, {}, _, rfl⟩
theorem met_HostEngineAndNetworkRowsFrames_10 : ∃ (t : Time) (x : Fin 4) (line : Fin 3) (held : Time) (s z : State), exec (.encoderLineFault t x line held) s = .next z := ⟨0, 0, 0, 0, {}, _, rfl⟩
theorem met_HostEngineAndNetworkRowsFrames_11 : ∃ (t : Time) (x : Fin 8) (s z : State), exec (.axsSilence t x) s = .next z := ⟨0, 0, {}, _, rfl⟩
theorem met_HostEngineAndNetworkRowsFrames_12 : ∃ (t : Time) (src : Nat) (s z : State), exec (.sourceForgotten t src) s = .next z := ⟨0, 0, {}, _, rfl⟩
theorem met_HostEngineAndNetworkRowsFrames_13 : ∃ (t : Time) (s z : State), exec (.hbtSend t) s = .next z := ⟨0, {}, _, rfl⟩
theorem met_HostEngineAndNetworkRowsFrames_14 : ∃ (t : Time) (port : Fin 4) (s z : State), exec (.candidateForgotten t port) s = .next z := ⟨0, 0, {}, _, rfl⟩
theorem met_HostEngineAndNetworkRowsFrames_15 : ∃ (t : Time) (src : Nat) (bytes : List Byte) (s z : State), exec (.tokVerdict t src bytes) s = .next z ∧ bitOf (tkFlags bytes) 0 = true := ⟨0, 0, [0, 0, 0, 0, 0, 0, 0, 0, 0, 1], {}, _, rfl, by decide +kernel⟩
theorem met_HostEngineAndNetworkRowsFrames_16 : ∃ (t : Time) (src : Nat) (bytes : List Byte) (s z : State), exec (.hbtReceived t src bytes) s = .next z ∧ (src ≠ s.net.num ∨ u64 bytes 0 = s.nvs.store.serial.toNat) := ⟨0, 1, [], {}, _, rfl, by decide +kernel⟩

/-- TileSupplyEvents: the premises are met. -/
theorem met_TileSupplyEvents_1 : ∃ (s a : State) (t : Time) (tile : Fin 12) (lpt : Nat), a = s.at_ t ∧ (tilePowered a tile = true) ∧ (lpt < 19350) ∧ ((a.tile.get tile).supplyLow = false) := ⟨wTile .live, (wTile .live).at_ (0), 0, 0, 19000, rfl, by decide +kernel⟩
theorem met_TileSupplyEvents_2 : ∃ (s a : State) (t : Time) (tile : Fin 12) (lpt : Nat) (held : Time), a = s.at_ t ∧ (tilePowered a tile = true) ∧ (19450 ≤ lpt) ∧ (ms 10 ≤ held) := ⟨wTile .live, (wTile .live).at_ (0), 0, 0, 24000, ms 10, rfl, by decide +kernel⟩
theorem met_TileSupplyEvents_3 : ∃ (s a : State) (t : Time) (tile : Fin 12) (lpt : Nat), a = s.at_ t ∧ (tilePowered a tile = true) ∧ (lpt < 6600) := ⟨wTile .live, (wTile .live).at_ (0), 0, 0, 6000, rfl, by decide +kernel⟩
theorem met_TileSupplyEvents_4 : ∃ (s a : State) (t : Time) (tile : Fin 12) (lpt : Nat), a = s.at_ t ∧ (tilePowered a tile = true) ∧ (lpt < 6000) := ⟨wTile .live, (wTile .live).at_ (0), 0, 0, 5999, rfl, by decide +kernel⟩
theorem met_TileSupplyEvents_5 : ∃ (s a : State) (t : Time) (tile : Fin 12) (lpt : Nat), a = s.at_ t ∧ (tilePowered a tile = true) ∧ (lpt ≤ 5500) := ⟨wTile .live, (wTile .live).at_ (0), 0, 0, 5000, rfl, by decide +kernel⟩
theorem met_TileSupplyEvents_6 : ∃ (s a : State) (t : Time) (tile : Fin 12) (lpt : Nat) (held : Time), a = s.at_ t ∧ (tilePowered a tile = false) ∧ (7800 ≤ lpt) ∧ (ms 10 ≤ held) := ⟨wRun, (wRun).at_ (0), 0, 0, 24000, ms 10, rfl, by decide +kernel⟩
theorem met_TileSupplyEvents_7 : ∃ (s a : State) (t : Time) (tile : Fin 12) (lpt : Nat) (held : Time), a = s.at_ t ∧ (tilePowered a tile = true) ∧ (7800 ≤ lpt) ∧ (ms 10 ≤ held) := ⟨wTile .quiet, (wTile .quiet).at_ (0), 0, 0, 8000, ms 10, rfl, by decide +kernel⟩
theorem met_TileSupplyEvents_8 : ∃ (s a : State) (t : Time) (tile : Fin 12) (temp : Int), a = s.at_ t ∧ (tilePowered a tile = true) ∧ (1500 ≤ temp) := ⟨wTile .live, (wTile .live).at_ (0), 0, 0, 1500, rfl, by decide +kernel⟩

/-- TileLinkFrameEvents: the premises are met. -/
theorem met_TileLinkFrameEvents_1 : ∃ (s a : State) (t : Time) (tile : Fin 12) (ok : Bool) (dev : Nat) (bytes : List Byte) (item : CfgItem), a = s.at_ t ∧ (tilePowered a tile = true) ∧ (frameGood tile false ok (slotDue a tile (a.link.get tile).downSilent (bits (u8 bytes 1) 0 4)) dev bytes = true) := ⟨{ wTile .live with link := wRun.link }, ({ wTile .live with link := wRun.link }).at_ (0), 0, 0, true, 0, [0, 0, 0, 0, 0, 0, 0, 0, 0, 0, 0, 0, 0, 0, 0, 0, 0, 0] ++ leBytes 2 (tileCheck 0 false ([0, 0, 0, 0, 0, 0, 0, 0, 0, 0, 0, 0, 0, 0, 0, 0, 0, 0] ++ [0, 0])), .none, rfl, by decide +kernel⟩
theorem met_TileLinkFrameEvents_2 : ∃ (s a : State) (t : Time) (tile : Fin 12) (ok : Bool) (dev : Nat) (bytes : List Byte) (item : CfgItem), a = s.at_ t ∧ (tilePowered a tile = true) ∧ (frameGood tile false ok (slotDue a tile (a.link.get tile).downSilent (bits (u8 bytes 1) 0 4)) dev bytes = false) := ⟨wTile .live, (wTile .live).at_ (0), 0, 0, false, 0, [], .none, rfl, by decide +kernel⟩
theorem met_TileLinkFrameEvents_3 : ∃ (s a : State) (t : Time) (tile : Fin 12) (ok : Bool) (dev : Nat) (bytes : List Byte) (rep : UpReport), a = s.at_ t ∧ (upReceiver a tile = true) ∧ (frameGood tile true ok (slotDue a tile (a.link.get tile).upSilent (bits (u8 bytes 1) 0 4)) dev bytes = true) ∧ ((a.link.get tile).upSilent = false) := ⟨wTile .live, (wTile .live).at_ (0), 0, 0, true, 0, [0, 23, 0, 0, 0, 0, 0, 0, 0, 0, 0, 0, 0, 0, 0, 0, 0, 0] ++ leBytes 2 (tileCheck 0 true ([0, 23, 0, 0, 0, 0, 0, 0, 0, 0, 0, 0, 0, 0, 0, 0, 0, 0] ++ [0, 0])), .none, rfl, by decide +kernel⟩
theorem met_TileLinkFrameEvents_4 : ∃ (s a : State) (t : Time) (tile : Fin 12) (ok : Bool) (dev : Nat) (bytes : List Byte) (rep : UpReport), a = s.at_ t ∧ (upReceiver a tile = true) ∧ (frameGood tile true ok (slotDue a tile (a.link.get tile).upSilent (bits (u8 bytes 1) 0 4)) dev bytes = false) := ⟨wTile .live, (wTile .live).at_ (0), 0, 0, false, 0, [], .none, rfl, by decide +kernel⟩
theorem met_TileLinkFrameEvents_5 : ∃ (s a : State) (t : Time) (tile : Fin 12) (d0 d1 : Byte), a = s.at_ t ∧ (upReceiver a tile = true) ∧ ((a.link.get tile).upSilent = false) ∧ (d1 = ~~~d0) ∧ (bits d0.toNat 5 3 = 0) ∧ (rehOf a = none) ∧ (a.eng.comp.list.getD (16 * tile.val + 2 * bits d0.toNat 0 3 + bits d0.toNat 3 1) false ≠ bitOf d0.toNat 4) := ⟨wTile .live, (wTile .live).at_ (0), 0, 0, 16, 239, rfl, by decide +kernel⟩
theorem met_TileLinkFrameEvents_6 : ∃ (s a : State) (t : Time) (tile : Fin 12) (d0 d1 : Byte), a = s.at_ t ∧ (upReceiver a tile = true) ∧ ((a.link.get tile).upSilent = false) ∧ (d1 = ~~~d0) ∧ (bits d0.toNat 5 3 = 0) := ⟨wTile .live, (wTile .live).at_ (0), 0, 0, 16, 239, rfl, by decide +kernel⟩
theorem met_TileLinkFrameEvents_7 : ∃ (s a : State) (t : Time) (tile : Fin 12) (d0 d1 : Byte), a = s.at_ t ∧ (tileHears a tile = true) ∧ (d1 = ~~~d0) ∧ (bits d0.toNat 4 4 = 0) ∧ (bitOf d0.toNat 3 = true) := ⟨wTile .live, (wTile .live).at_ (0), 0, 0, 8, 247, rfl, by decide +kernel⟩
theorem met_TileLinkFrameEvents_8 : ∃ (s a : State) (t : Time) (tile : Fin 12) (d0 d1 : Byte), a = s.at_ t ∧ (upReceiver a tile = true) ∧ ((a.link.get tile).upSilent = false) ∧ (d0 = 1) ∧ (d1 = ~~~d0) := ⟨wTile .live, (wTile .live).at_ (0), 0, 0, 1, 254, rfl, by decide +kernel⟩
theorem met_TileLinkFrameEvents_9 : ∃ (s a : State) (t : Time) (tile : Fin 12) (d0 d1 : Byte), a = s.at_ t ∧ (upReceiver a tile = true) ∧ ((a.link.get tile).upSilent = false) ∧ (d0 = 2) ∧ (d1 = ~~~d0) := ⟨wTile .live, (wTile .live).at_ (0), 0, 0, 2, 253, rfl, by decide +kernel⟩
theorem met_TileLinkFrameEvents_10 : ∃ (s a : State) (t : Time) (tile : Fin 12) (d0 d1 : Byte), a = s.at_ t ∧ (upReceiver a tile = true) ∧ ((a.link.get tile).upSilent = false) ∧ (d1 ≠ ~~~d0) := ⟨wTile .live, (wTile .live).at_ (0), 0, 0, 0, 0, rfl, by decide +kernel⟩

/-- TileLinkStateEvents: the premises are met. -/
theorem met_TileLinkStateEvents_1 : ∃ (s a : State) (t : Time) (tile : Fin 12), a = s.at_ t ∧ (tilePowered a tile = true) ∧ ((a.link.get tile).downSilent = false) ∧ (silentDue (a.link.get tile).downBad (a.link.get tile).downSeen a.now = true) ∧ ((a.tile.get tile).lockLatch = false) ∧ ((a.tile.get tile).state = .live) := ⟨wTile .live, (wTile .live).at_ (0), 0, 0, rfl, by decide +kernel⟩
theorem met_TileLinkStateEvents_2 : ∃ (s a : State) (t : Time) (tile : Fin 12), a = s.at_ t ∧ (hubUp a = true) ∧ ((a.link.get tile).hubSilent = false) ∧ ((a.link.get tile).upSilent = true ∨ silentDue (a.link.get tile).upBad (a.link.get tile).upSeen a.now = true ∨ (a.link.get tile).tileSays = true) := ⟨wTile .live, (wTile .live).at_ (0), 0, 0, rfl, by decide +kernel⟩
theorem met_TileLinkStateEvents_3 : ∃ (s a : State) (t : Time) (tile : Fin 12) (b : Time), a = s.at_ t ∧ (hubUp a = true) ∧ ((a.link.get tile).hubSilent = true) ∧ ((a.link.get tile).stoppedAt = some b) ∧ (b + us 100 ≤ a.now) := ⟨{ wRun with link := wRun.link.set 0 { stoppedAt := some 0 } }, ({ wRun with link := wRun.link.set 0 { stoppedAt := some 0 } }).at_ (us 100), us 100, 0, 0, rfl, by decide +kernel⟩
theorem met_TileLinkStateEvents_4 : ∃ (s a : State) (t : Time) (tile : Fin 12) (up : Bool), a = s.at_ t ∧ (up = true) ∧ (upReceiver a tile = true) ∧ ((a.link.get tile).upSilent = true) ∧ (linkGoodDue (a.link.get tile).upGood (a.link.get tile).upSeen a.now = true) := ⟨{ wRun with link := wRun.link.set 0 { upGood := 64, upSeen := some 0 } }, ({ wRun with link := wRun.link.set 0 { upGood := 64, upSeen := some 0 } }).at_ (0), 0, 0, true, rfl, by decide +kernel⟩
theorem met_TileLinkStateEvents_5 : ∃ (s a : State) (t : Time) (tile : Fin 12) (up : Bool), a = s.at_ t ∧ (up = false) ∧ (tilePowered a tile = true) ∧ ((a.link.get tile).downSilent = true) ∧ (linkGoodDue (a.link.get tile).downGood (a.link.get tile).downSeen a.now = true) := ⟨{ wTile .quiet with link := wRun.link.set 0 { downGood := 64, downSeen := some 0 } }, ({ wTile .quiet with link := wRun.link.set 0 { downGood := 64, downSeen := some 0 } }).at_ (0), 0, 0, false, rfl, by decide +kernel⟩
theorem met_TileLinkStateEvents_6 : ∃ (s a : State) (t : Time) (tile : Fin 12), a = s.at_ t ∧ (tilePowered a tile = true) ∧ ((a.link.get tile).downSilent = false) ∧ ((a.link.get tile).fclk = false) := ⟨{ wTile .quiet with link := wRun.link.set 0 { downSilent := false } }, ({ wTile .quiet with link := wRun.link.set 0 { downSilent := false } }).at_ (0), 0, 0, rfl, by decide +kernel⟩
theorem met_TileLinkStateEvents_7 : ∃ (s a : State) (t : Time) (k : Fin 96) (w : Nat) (e : Time), a = s.at_ t ∧ ((a.tile.get (tileOf k)).state = .hold) ∧ ((a.chan.get k).lev.holding = true) ∧ ((a.chan.get k).lev.holdEnd = some e) ∧ (holdwin (safeRec a k) = some w) ∧ (e ≤ a.now + ms w / 200) := ⟨{ wTile .hold with chan := wRun.chan.set 0 { lev := { holding := true, holdEnd := some 0 } } }, ({ wTile .hold with chan := wRun.chan.set 0 { lev := { holding := true, holdEnd := some 0 } } }).at_ (0), 0, 0, 2000, 0, rfl, by decide +kernel⟩
theorem met_TileLinkStateEvents_8 : ∃ (s a : State) (t : Time) (tile : Fin 12), a = s.at_ t ∧ (restorable a tile = true) ∧ (atBoundary a = true) ∧ (leadPassed a tile = true) ∧ ((a.tile.get tile).state = .hold ∨ (a.tile.get tile).state = .fallback) := ⟨{ wChan .hold (wDo 0) with ep := { (wChan .hold (wDo 0)).ep with e := 2 } }, ({ wChan .hold (wDo 0) with ep := { (wChan .hold (wDo 0)).ep with e := 2 } }).at_ (4000000), 4000000, 0, rfl, by decide +kernel⟩

/-- TimedCommandsReceived: the premises are met. -/
theorem met_TimedCommandsReceived_1 : ∃ (s a : State) (t : Time) (tile : Fin 12) (slot : Nat) (c : Fin 8) (handle : Byte) (stamp : Word) (value : BitVec 16), a = s.at_ t ∧ (tileHears a tile = true) ∧ (slot ≠ 15) ∧ (inPart a tile slot handle.toNat = true) ∧ (pendingAt a tile handle.toNat = none) ∧ (setLegal (tileRec a (chanAt tile c)) false value = true) := ⟨wChan .live (wDo 0), (wChan .live (wDo 0)).at_ (0), 0, 0, 1, 0, 3, 5, 0, rfl, by decide +kernel⟩
theorem met_TimedCommandsReceived_2 : ∃ (s a : State) (t : Time) (tile : Fin 12) (slot : Nat) (c : Fin 8) (handle : Byte) (stamp : Word) (value : BitVec 16), a = s.at_ t ∧ (tileHears a tile = true) ∧ (slot = 15) ∧ (handle = 0) ∧ (setLegal (tileRec a (chanAt tile c)) false value = true) ∧ ((a.tile.get tile).pend.any (fun x => x.kind == .l5 && x.c == c) = false) := ⟨wChan .live (wDo 0), (wChan .live (wDo 0)).at_ (0), 0, 0, 15, 0, 0, 5, 0, rfl, by decide +kernel⟩
theorem met_TimedCommandsReceived_3 : ∃ (s a : State) (t : Time) (tile : Fin 12) (slot : Nat) (c : Fin 8) (handle : Byte) (stamp : Word) (value : BitVec 16), a = s.at_ t ∧ (tileHears a tile = true) ∧ (slot ≠ 15) ∧ (inPart a tile slot handle.toNat = false ∨ (pendingAt a tile handle.toNat).isSome = true) := ⟨wChan .live (wDo 0), (wChan .live (wDo 0)).at_ (0), 0, 0, 1, 0, 30, 5, 0, rfl, by decide +kernel⟩
theorem met_TimedCommandsReceived_4 : ∃ (s a : State) (t : Time) (tile : Fin 12) (slot : Nat) (c : Fin 8) (handle : Byte) (stamp : Word) (value : BitVec 16), a = s.at_ t ∧ (tileHears a tile = true) ∧ (slot ≠ 15) ∧ (inPart a tile slot handle.toNat = true) ∧ (pendingAt a tile handle.toNat = none) ∧ (setLegal (tileRec a (chanAt tile c)) false value = false) := ⟨wChan .live [], (wChan .live []).at_ (0), 0, 0, 1, 0, 3, 5, 0, rfl, by decide +kernel⟩
theorem met_TimedCommandsReceived_5 : ∃ (s a : State) (t : Time) (tile : Fin 12) (slot : Nat) (c : Fin 8) (handle : Byte) (stamp : Word) (value : BitVec 16), a = s.at_ t ∧ (tileHears a tile = true) ∧ (slot ≠ 15) ∧ (inPart a tile slot handle.toNat = true) ∧ (pendingAt a tile handle.toNat = none) ∧ (setLegal (tileRec a (chanAt tile c)) true value = true) := ⟨wChan .live (wDo 1), (wChan .live (wDo 1)).at_ (0), 0, 0, 1, 0, 3, 5, 0, rfl, by decide +kernel⟩
theorem met_TimedCommandsReceived_6 : ∃ (s a : State) (t : Time) (tile : Fin 12) (slot : Nat) (c : Fin 8) (handle : Byte) (stamp : Word) (value : BitVec 16), a = s.at_ t ∧ (tileHears a tile = true) ∧ (slot = 15) ∧ (handle = 0) ∧ (setLegal (tileRec a (chanAt tile c)) true value = true) ∧ ((a.tile.get tile).pend.any (fun x => x.kind == .l5 && x.c == c) = false) := ⟨wChan .live (wDo 1), (wChan .live (wDo 1)).at_ (0), 0, 0, 15, 0, 0, 5, 0, rfl, by decide +kernel⟩
theorem met_TimedCommandsReceived_7 : ∃ (s a : State) (t : Time) (tile : Fin 12) (slot : Nat) (c : Fin 8) (handle : Byte) (stamp : Word) (value : BitVec 16), a = s.at_ t ∧ (tileHears a tile = true) ∧ (slot ≠ 15) ∧ (inPart a tile slot handle.toNat = false ∨ (pendingAt a tile handle.toNat).isSome = true) := ⟨wChan .live (wDo 1), (wChan .live (wDo 1)).at_ (0), 0, 0, 1, 0, 30, 5, 0, rfl, by decide +kernel⟩
theorem met_TimedCommandsReceived_8 : ∃ (s a : State) (t : Time) (tile : Fin 12) (slot : Nat) (c : Fin 8) (handle : Byte) (stamp : Word) (value : BitVec 16), a = s.at_ t ∧ (tileHears a tile = true) ∧ (slot ≠ 15) ∧ (inPart a tile slot handle.toNat = true) ∧ (pendingAt a tile handle.toNat = none) ∧ (setLegal (tileRec a (chanAt tile c)) true value = false) := ⟨wChan .live [], (wChan .live []).at_ (0), 0, 0, 1, 0, 3, 5, 0, rfl, by decide +kernel⟩
theorem met_TimedCommandsReceived_9 : ∃ (s a : State) (t : Time) (tile : Fin 12) (slot : Nat) (c : Fin 8) (handle : Byte) (stamp : Word) (value : BitVec 16) (e : TEntry), a = s.at_ t ∧ (tileHears a tile = true) ∧ (inPart a tile slot handle.toNat = true) ∧ (pendingAt a tile handle.toNat = some e) ∧ (stampReached a tile e.stamp = false) ∧ (setLegal (tileRec a (chanAt tile e.c)) e.duty value = true) := ⟨wPend, (wPend).at_ (0), 0, 0, 1, 0, 3, 9, 0, wEntry, rfl, by decide +kernel⟩
theorem met_TimedCommandsReceived_10 : ∃ (s a : State) (t : Time) (tile : Fin 12) (slot : Nat) (c : Fin 8) (handle : Byte) (stamp : Word) (value : BitVec 16) (e : TEntry), a = s.at_ t ∧ (tileHears a tile = true) ∧ (inPart a tile slot handle.toNat = true) ∧ (pendingAt a tile handle.toNat = some e) ∧ (stampReached a tile e.stamp = true) := ⟨wPend, (wPend).at_ (100), 100, 0, 1, 0, 3, 9, 0, wEntry, rfl, by decide +kernel⟩
theorem met_TimedCommandsReceived_11 : ∃ (s a : State) (t : Time) (tile : Fin 12) (slot : Nat) (c : Fin 8) (handle : Byte) (stamp : Word) (value : BitVec 16) (e : TEntry), a = s.at_ t ∧ (tileHears a tile = true) ∧ (inPart a tile slot handle.toNat = true) ∧ (pendingAt a tile handle.toNat = some e) ∧ (stampReached a tile e.stamp = false) := ⟨wPend, (wPend).at_ (0), 0, 0, 1, 0, 3, 9, 0, wEntry, rfl, by decide +kernel⟩
theorem met_TimedCommandsReceived_12 : ∃ (s a : State) (t : Time) (tile : Fin 12) (slot : Nat) (c : Fin 8) (handle : Byte) (stamp : Word) (value : BitVec 16) (e : TEntry), a = s.at_ t ∧ (tileHears a tile = true) ∧ (inPart a tile slot handle.toNat = true) ∧ (pendingAt a tile handle.toNat = some e) ∧ (stampReached a tile e.stamp = true) := ⟨wPend, (wPend).at_ (100), 100, 0, 1, 0, 3, 9, 0, wEntry, rfl, by decide +kernel⟩
theorem met_TimedCommandsReceived_13 : ∃ (s a : State) (t : Time) (tile : Fin 12) (slot : Nat) (c : Fin 8) (handle : Byte) (stamp : Word) (value : BitVec 16), a = s.at_ t ∧ (tileHears a tile = true) ∧ (inPart a tile slot handle.toNat = true) ∧ (pendingAt a tile handle.toNat = none) := ⟨wChan .live (wDo 0), (wChan .live (wDo 0)).at_ (0), 0, 0, 1, 0, 3, 9, 0, rfl, by decide +kernel⟩
theorem met_TimedCommandsReceived_14 : ∃ (s a : State) (t : Time) (tile : Fin 12) (slot : Nat) (c : Fin 8) (handle : Byte) (stamp : Word) (value : BitVec 16), a = s.at_ t ∧ (tileHears a tile = true) ∧ (slot = 15) ∧ (handle = 0) := ⟨wTile .live, (wTile .live).at_ (0), 0, 0, 15, 0, 0, 9, 0, rfl, by decide +kernel⟩
theorem met_TimedCommandsReceived_15 : ∃ (s a : State) (t : Time) (tile : Fin 12) (slot : Nat) (c : Fin 8) (handle : Byte) (stamp : Word) (value : BitVec 16) (sl : Nat), a = s.at_ t ∧ (tileHears a tile = true) ∧ (slot = 15) ∧ (handle ≠ 0) ∧ (slotOf a tile handle.toNat = some sl) := ⟨{ wTile .live with tile := wRun.tile.set 0 { state := .live, bank := some { tile := wRec 16 [(4, 16), (5, 8)] } } }, ({ wTile .live with tile := wRun.tile.set 0 { state := .live, bank := some { tile := wRec 16 [(4, 16), (5, 8)] } } }).at_ (0), 0, 0, 15, 0, 16, 9, 0, 3, rfl, by decide +kernel⟩
theorem met_TimedCommandsReceived_16 : ∃ (s a : State) (t : Time) (tile : Fin 12) (slot : Nat) (c : Fin 8) (handle : Byte) (stamp : Word) (value : BitVec 16) (op : BitVec 5), a = s.at_ t ∧ (tileHears a tile = true) := ⟨wTile .live, (wTile .live).at_ (0), 0, 0, 15, 0, 16, 9, 0, 9, rfl, by decide +kernel⟩

/-- TimedCommandsTakingEffect: the premises are met. -/
theorem met_TimedCommandsTakingEffect_1 : ∃ (s a : State) (t : Time) (tile : Fin 12) (stamp : Word), a = s.at_ t ∧ (tilePowered a tile = true) ∧ ((a.tile.get tile).lockLatch = false) ∧ (tileTick a tile = stamp.toNat) := ⟨wTile .live, (wTile .live).at_ (0), 0, 0, 0, rfl, by decide +kernel⟩
theorem met_TimedCommandsTakingEffect_2 : ∃ (s a : State) (t : Time) (tile : Fin 12) (c : Fin 8) (handle : Byte) (code : Nat) (ticks : Word) (slot : Nat) (n : Fin 96) (cmd : LaneCmd), a = s.at_ t ∧ (upReceiver a tile = true) ∧ ((a.link.get tile).upSilent = false) ∧ ((a.link.get tile).downSilent = false) ∧ (laneOfReport (modTile tile (fun x => { x with tacks := x.tacks.filter (fun k => !(k.handle == handle && k.code == code && k.ticks == ticks)) }) a) tile slot handle.toNat code = some (n, cmd)) := ⟨{ wTile .live with img := { wRun.img with cast := some { tlane := [wRec 64 [(4, 3)]] } }, eng := { wRun.eng with lane := wRun.eng.lane.set 0 { cmds := [{ entry := 0, handle := 2, stamp := 7 }] } } }, ({ wTile .live with img := { wRun.img with cast := some { tlane := [wRec 64 [(4, 3)]] } }, eng := { wRun.eng with lane := wRun.eng.lane.set 0 { cmds := [{ entry := 0, handle := 2, stamp := 7 }] } } }).at_ (0), 0, 0, 0, 2, 0, 7, 3, 0, { entry := 0, handle := 2, stamp := 7 }, rfl, by decide +kernel⟩
theorem met_TimedCommandsTakingEffect_3 : ∃ (s a : State) (t : Time) (tile : Fin 12) (c : Fin 8), a = s.at_ t ∧ (tileHears a tile = true) ∧ ((a.chan.get (chanAt tile c)).lev.ackWait = true) ∧ ((a.tile.get tile).state = .live) := ⟨{ wTile .live with chan := wRun.chan.set 0 { lev := { ackWait := true } } }, ({ wTile .live with chan := wRun.chan.set 0 { lev := { ackWait := true } } }).at_ (0), 0, 0, 0, rfl, by decide +kernel⟩
theorem met_TimedCommandsTakingEffect_4 : ∃ (s a : State) (t : Time) (tile : Fin 12) (c : Fin 8), a = s.at_ t ∧ (tileHears a tile = true) ∧ ((a.chan.get (chanAt tile c)).lev.ackWait = true) ∧ ((a.tile.get tile).state ≠ .live) := ⟨{ wTile .hold with chan := wRun.chan.set 0 { lev := { ackWait := true } } }, ({ wTile .hold with chan := wRun.chan.set 0 { lev := { ackWait := true } } }).at_ (0), 0, 0, 0, rfl, by decide +kernel⟩
theorem met_TimedCommandsTakingEffect_5 : ∃ (s a : State) (t : Time) (tile : Fin 12) (slot : Nat), a = s.at_ t ∧ (tileHears a tile = true) := ⟨wTile .live, (wTile .live).at_ (0), 0, 0, 3, rfl, by decide +kernel⟩
theorem met_TimedCommandsTakingEffect_6 : ∃ (s a : State) (t : Time) (tile : Fin 12), a = s.at_ t ∧ (tileHears a tile = true) ∧ ((a.tile.get tile).state = .live) := ⟨wTile .live, (wTile .live).at_ (0), 0, 0, rfl, by decide +kernel⟩
theorem met_TimedCommandsTakingEffect_7 : ∃ (s a : State) (t : Time) (tile : Fin 12), a = s.at_ t ∧ (tileHears a tile = true) ∧ ((a.tile.get tile).state ≠ .live) := ⟨wTile .quiet, (wTile .quiet).at_ (0), 0, 0, rfl, by decide +kernel⟩
theorem met_TimedCommandsTakingEffect_8 : ∃ (s a : State) (t : Time) (tile : Fin 12) (standby partnered : Bool) (stamp : Word), a = s.at_ t ∧ (tileHears a tile = true) ∧ (stampLate a tile stamp = false) := ⟨wTile .live, (wTile .live).at_ (0), 0, 0, true, true, 5, rfl, by decide +kernel⟩
theorem met_TimedCommandsTakingEffect_9 : ∃ (s a : State) (t : Time) (tile : Fin 12) (standby partnered : Bool) (stamp : Word), a = s.at_ t ∧ (tileHears a tile = true) ∧ (stampLate a tile stamp = true) := ⟨wTile .live, (wTile .live).at_ (100), 100, 0, true, true, 5, rfl, by decide +kernel⟩
theorem met_TimedCommandsTakingEffect_10 : ∃ (s a : State) (t : Time) (stamp : Word), a = s.at_ t ∧ (a.pair.yielding = false) := ⟨wTile .live, (wTile .live).at_ (0), 0, 5, rfl, by decide +kernel⟩
theorem met_TimedCommandsTakingEffect_11 : ∃ (s a : State) (t : Time) (tile : Fin 12), a = s.at_ t ∧ (tileHears a tile = true) ∧ ((a.tile.get tile).partnered = false) ∧ (outputsAct (a.tile.get tile) = true) := ⟨wTile .live, (wTile .live).at_ (0), 0, 0, rfl, by decide +kernel⟩
theorem met_TimedCommandsTakingEffect_12 : ∃ (s a : State) (t : Time) (tile : Fin 12), a = s.at_ t ∧ (tileHears a tile = true) ∧ ((a.tile.get tile).partnered = true) := ⟨{ wTile .live with tile := wRun.tile.set 0 { state := .live, bank := some {}, partnered := true } }, ({ wTile .live with tile := wRun.tile.set 0 { state := .live, bank := some {}, partnered := true } }).at_ (0), 0, 0, rfl, by decide +kernel⟩

/-- TileComparatorEvents: the premises are met. -/
theorem met_TileComparatorEvents_1 : ∃ (s a : State) (t : Time) (k : Fin 96) (cmpB : Bool) (value : Word), a = s.at_ t ∧ (tilePowered a (tileOf k) = true) ∧ ((a.tile.get (tileOf k)).bank.isSome = true) ∧ (chCmpSrc (tileRec a k) cmpB ≠ 0) ∧ (f32 value ≠ .nan) ∧ (ltF value (w32 (tileRec a k) (if cmpB then 56 else 48)) = false) := ⟨wChan .live (wRec 64 [(7, 20)]), (wChan .live (wRec 64 [(7, 20)])).at_ (0), 0, 0, true, 0, rfl, by decide +kernel⟩
theorem met_TileComparatorEvents_2 : ∃ (s a : State) (t : Time) (k : Fin 96) (cmpB : Bool) (value : Word), a = s.at_ t ∧ (tilePowered a (tileOf k) = true) ∧ ((a.tile.get (tileOf k)).bank.isSome = true) ∧ (chCmpSrc (tileRec a k) cmpB ≠ 0) ∧ (f32 value ≠ .nan) ∧ (ltF value (w32 (tileRec a k) (if cmpB then 56 else 48)) = true) ∧ (ltF (w32 (tileRec a k) (if cmpB then 60 else 52)) value = false) := ⟨wChan .live (wRec 64 [(7, 20), (58, 128), (59, 63)]), (wChan .live (wRec 64 [(7, 20), (58, 128), (59, 63)])).at_ (0), 0, 0, true, 0, rfl, by decide +kernel⟩
theorem met_TileComparatorEvents_3 : ∃ (s a : State) (t : Time) (k : Fin 96) (cmpB : Bool) (value : Word), a = s.at_ t ∧ (tilePowered a (tileOf k) = true) ∧ ((a.tile.get (tileOf k)).bank.isSome = true) ∧ (chCmpSrc (tileRec a k) cmpB ≠ 0) ∧ (f32 value = .nan ∨ ltF value (w32 (tileRec a k) (if cmpB then 56 else 48)) = true ∧ ltF (w32 (tileRec a k) (if cmpB then 60 else 52)) value = true) := ⟨wChan .live (wRec 64 [(7, 20)]), (wChan .live (wRec 64 [(7, 20)])).at_ (0), 0, 0, true, 0x7FC00000, rfl, by decide +kernel⟩
theorem met_TileComparatorEvents_4 : ∃ (s a : State) (t : Time) (tile : Fin 12) (entry : Nat) (r : Rec) (b : Time), a = s.at_ t ∧ ((trefRecs a tile).find? (fun r => trEntry r == entry) = some r) ∧ (reflexActs (a.tile.get tile) = true) ∧ ((trefSt (a.tile.get tile) entry).fired = false) ∧ ((trefSt (a.tile.get tile) entry).since = some b) ∧ (tileSpan a tile b (5 * trQual r) = true) ∧ (trHolds r 16 (cmpBits a tile) = true) := ⟨{ wRun with tile := wRun.tile.set 0 { state := .live, bank := some { tref := [wRec 48 [(16, 1)]] }, lpt := 24000, tref := [{ entry := 0, fired := false, since := some 0 }] } }, ({ wRun with tile := wRun.tile.set 0 { state := .live, bank := some { tref := [wRec 48 [(16, 1)]] }, lpt := 24000, tref := [{ entry := 0, fired := false, since := some 0 }] } }).at_ (0), 0, 0, 0, wRec 48 [(16, 1)], 0, rfl, by decide +kernel⟩
theorem met_TileComparatorEvents_5 : ∃ (s a : State) (t : Time) (tile : Fin 12) (code : SenseIn), a = s.at_ t ∧ (tilePowered a tile = true) ∧ ((a.sns.get tile).claimed = none) := ⟨wTile .live, (wTile .live).at_ (0), 0, 0, ⟨100, 7, 9⟩, rfl, by decide +kernel⟩
theorem met_TileComparatorEvents_6 : ∃ (s a : State) (t : Time) (tile : Fin 12) (code : SenseIn) (c : Fin 8) (stop : Time), a = s.at_ t ∧ (tilePowered a tile = true) ∧ ((a.sns.get tile).claimed = some (c, stop)) ∧ (a.now < stop) := ⟨{ wTile .live with sns := wRun.sns.set 0 { claimed := some (3, 9) } }, ({ wTile .live with sns := wRun.sns.set 0 { claimed := some (3, 9) } }).at_ (0), 0, 0, ⟨100, 7, 9⟩, 3, 9, rfl, by decide +kernel⟩

/-- ProtectedSwitchEvents: the premises are met. -/
theorem met_ProtectedSwitchEvents_1 : ∃ (s a : State) (t : Time) (j k : Fin 96) (term : Int) (lpt : Nat) (held : Time), a = s.at_ t ∧ (mainChan a j = k) ∧ (hasSwitch a k = true) ∧ ((a.chan.get k).sw.on = true) ∧ ((a.chan.get k).sw.limiting = true) ∧ ((a.chan.get k).sw.cut = none) ∧ (term < (lpt : Int) - 3000) ∧ (us 20 ≤ held) := ⟨{ wChan .live (wDo 0) with chan := wRun.chan.set 0 { sw := { on := true, limiting := true } } }, ({ wChan .live (wDo 0) with chan := wRun.chan.set 0 { sw := { on := true, limiting := true } } }).at_ (0), 0, 0, 0, 0, 24000, us 20, rfl, by decide +kernel⟩
theorem met_ProtectedSwitchEvents_2 : ∃ (s a : State) (t : Time) (j k : Fin 96) (term : Int) (lpt : Nat) (held : Time), a = s.at_ t ∧ (mainChan a j = k) ∧ (hasSwitch a k = true) ∧ ((a.chan.get k).sw.on = true) ∧ ((a.chan.get k).sw.limiting = true) ∧ ((a.chan.get k).sw.cut = none) ∧ ((lpt : Int) - 3000 ≤ term) ∧ (ms 100 ≤ held) := ⟨{ wChan .live (wDo 0) with chan := wRun.chan.set 0 { sw := { on := true, limiting := true } } }, ({ wChan .live (wDo 0) with chan := wRun.chan.set 0 { sw := { on := true, limiting := true } } }).at_ (0), 0, 0, 0, 23000, 24000, ms 100, rfl, by decide +kernel⟩
theorem met_ProtectedSwitchEvents_3 : ∃ (s a : State) (t : Time) (k : Fin 96) (u : Cut), a = s.at_ t ∧ (hasSwitch a k = true) ∧ ((a.chan.get k).sw.cut = some u) ∧ (u.latched = false) ∧ (tileSpan a (tileOf k) (u.ends - ms (chRetryt (tileRec a k))) (ms (chRetryt (tileRec a k))) = true) := ⟨{ wChan .live (wDo 0) with chan := wRun.chan.set 0 { sw := { cut := some { kind := .short, latched := false, ends := 0 } } } }, ({ wChan .live (wDo 0) with chan := wRun.chan.set 0 { sw := { cut := some { kind := .short, latched := false, ends := 0 } } } }).at_ (0), 0, 0, { kind := .short, latched := false, ends := 0 }, rfl, by decide +kernel⟩
theorem met_ProtectedSwitchEvents_4 : ∃ (s a : State) (t : Time) (j k : Fin 96) (temp : Int), a = s.at_ t ∧ (mainChan a j = k) ∧ (hasSwitch a k = true) ∧ (sensorStands (k != j) (a.chan.get k).sw = false) ∧ (1700 ≤ temp) ∧ ((lastMinute a.now (a.chan.get k).sw.thermTimes).length < 15) := ⟨{ wChan .live (wDo 0) with chan := wRun.chan.set 0 { sw := { on := true } } }, ({ wChan .live (wDo 0) with chan := wRun.chan.set 0 { sw := { on := true } } }).at_ (0), 0, 0, 0, 1700, rfl, by decide +kernel⟩
theorem met_ProtectedSwitchEvents_5 : ∃ (s a : State) (t : Time) (j k : Fin 96) (temp : Int), a = s.at_ t ∧ (mainChan a j = k) ∧ (hasSwitch a k = true) ∧ (sensorStands (k != j) (a.chan.get k).sw = false) ∧ (1700 ≤ temp) ∧ (15 ≤ (lastMinute a.now (a.chan.get k).sw.thermTimes).length) := ⟨{ wChan .live (wDo 0) with chan := wRun.chan.set 0 { sw := { on := true, thermTimes := List.replicate 15 0 } } }, ({ wChan .live (wDo 0) with chan := wRun.chan.set 0 { sw := { on := true, thermTimes := List.replicate 15 0 } } }).at_ (0), 0, 0, 0, 1700, rfl, by decide +kernel⟩
theorem met_ProtectedSwitchEvents_6 : ∃ (s a : State) (t : Time) (j k : Fin 96) (temp : Int), a = s.at_ t ∧ (mainChan a j = k) ∧ (hasSwitch a k = true) ∧ (sensorStands (k != j) (a.chan.get k).sw = true) ∧ (temp < 1550) := ⟨{ wChan .live (wDo 0) with chan := wRun.chan.set 0 { sw := { thermal := true } } }, ({ wChan .live (wDo 0) with chan := wRun.chan.set 0 { sw := { thermal := true } } }).at_ (0), 0, 0, 0, 1500, rfl, by decide +kernel⟩
theorem met_ProtectedSwitchEvents_7 : ∃ (s a : State) (t : Time) (j k : Fin 96) (current : Nat), a = s.at_ t ∧ (mainChan a j = k) ∧ (hasSwitch a k = true) ∧ ((a.chan.get k).sw.on = true) ∧ (ceilingOf a k - (if 30 < ceilingOf a k * 7 / 100 then ceilingOf a k * 7 / 100 else 30) ≤ (current : Rat)) := ⟨{ wChan .live (wDo 0) with chan := wRun.chan.set 0 { sw := { on := true } } }, ({ wChan .live (wDo 0) with chan := wRun.chan.set 0 { sw := { on := true } } }).at_ (0), 0, 0, 0, 13000, rfl, by decide +kernel⟩
theorem met_ProtectedSwitchEvents_8 : ∃ (s a : State) (t : Time) (j k : Fin 96), a = s.at_ t ∧ (mainChan a j = k) ∧ (hasSwitch a k = true) ∧ ((a.chan.get k).sw.limiting = true) := ⟨{ wChan .live (wDo 0) with chan := wRun.chan.set 0 { sw := { limiting := true } } }, ({ wChan .live (wDo 0) with chan := wRun.chan.set 0 { sw := { limiting := true } } }).at_ (0), 0, 0, 0, rfl, by decide +kernel⟩

/-- SwitchWaveformAndClampEvents: the premises are met. -/
theorem met_SwitchWaveformAndClampEvents_1 : ∃ (s a : State) (t : Time) (k : Fin 96) (e : Time), a = s.at_ t ∧ (hasSwitch a k = true) ∧ ((a.chan.get k).sw.peakEnd = some e) ∧ (e ≤ a.now) := ⟨{ wChan .live (wDo 0) with chan := wRun.chan.set 0 { sw := { peakEnd := some 0 } } }, ({ wChan .live (wDo 0) with chan := wRun.chan.set 0 { sw := { peakEnd := some 0 } } }).at_ (0), 0, 0, 0, rfl, by decide +kernel⟩
theorem met_SwitchWaveformAndClampEvents_2 : ∃ (s a : State) (t : Time) (k : Fin 96) (term : Int) (lpt : Nat), a = s.at_ t ∧ (hasSwitch a k = true) ∧ ((a.chan.get k).sw.ramping = true) ∧ ((lpt : Int) ≤ term + 500) := ⟨{ wChan .live (wDo 0) with chan := wRun.chan.set 0 { sw := { ramping := true } } }, ({ wChan .live (wDo 0) with chan := wRun.chan.set 0 { sw := { ramping := true } } }).at_ (0), 0, 0, 24000, 24000, rfl, by decide +kernel⟩
theorem met_SwitchWaveformAndClampEvents_4 : ∃ (s a : State) (t : Time) (j k : Fin 96) (energy : Nat), a = s.at_ t ∧ (mainChan a j = k) ∧ ((a.chan.get k).sw.clampOff = false) ∧ (eventLimit (tileRec a k) < energy) := ⟨wTile .live, (wTile .live).at_ (0), 0, 0, 0, 1000001, rfl, by decide +kernel⟩
theorem met_SwitchWaveformAndClampEvents_5 : ∃ (s a : State) (t : Time) (j k : Fin 96) (term : Int) (held : Time), a = s.at_ t ∧ (mainChan a j = k) ∧ ((a.chan.get k).sw.clampOff = true) ∧ (-1000 ≤ term) ∧ (ms 100 ≤ held) := ⟨{ wChan .live (wDo 0) with chan := wRun.chan.set 0 { sw := { clampOff := true } } }, ({ wChan .live (wDo 0) with chan := wRun.chan.set 0 { sw := { clampOff := true } } }).at_ (0), 0, 0, 0, 0, ms 100, rfl, by decide +kernel⟩
theorem met_SwitchWaveformAndClampEvents_6 : ∃ (s a : State) (t : Time) (tile : Fin 12), a = s.at_ t ∧ (tilePowered a tile = true) := ⟨wTile .live, (wTile .live).at_ (0), 0, 0, rfl, by decide +kernel⟩
theorem met_SwitchWaveformAndClampEvents_7 : ∃ (s a : State) (t : Time) (tile : Fin 12) (currents : List Nat) (held : Time) (amps : Fin 96 → Nat) (on above : List (Fin 96)), a = s.at_ t ∧ (tilePowered a tile = true) ∧ (amps = (fun k => if switching (tileRec a k) then currents.getD (chanIn k).val 0 + (if chPairw (tileRec a k) then currents.getD ((chanIn k).val + 1) 0 else 0) else 0)) ∧ (19000 < ((tileChans tile).map amps).foldl (· + ·) 0) ∧ (ms 9 ≤ held) ∧ (on = (tileChans tile).filter (fun k => switching (tileRec a k) && (a.chan.get k).sw.on)) ∧ (above = on.filter (fun k => decide ((chInom (tileRec a k) : Rat) * multiplier a k < (amps k : Rat)))) :=
  ⟨wChan .live (wDo 0), _, 0, 0, [20000], ms 9, _, _, _, rfl, by decide +kernel, rfl, by decide +kernel, by decide +kernel, rfl, rfl⟩
theorem met_SwitchWaveformAndClampEvents_8 : ∃ (s a : State) (t : Time) (tile : Fin 12) (code : Fin 8) (held : Time), a = s.at_ t ∧ (tilePowered a tile = true) ∧ (us 1 ≤ held) := ⟨wTile .live, (wTile .live).at_ (0), 0, 0, 3, us 1, rfl, by decide +kernel⟩
theorem met_SwitchWaveformAndClampEvents_9 : ∃ (s a : State) (t : Time) (tile : Fin 12) (mirror sense : Nat), a = s.at_ t ∧ (tilePowered a tile = true) ∧ (10 * (mirror - sense) ≤ sense + 500) ∧ (10 * (sense - mirror) ≤ sense + 500) := ⟨wTile .live, (wTile .live).at_ (0), 0, 0, 1000, 1000, rfl, by decide +kernel⟩
theorem met_PulseGeneratorEvents_1 : ∃ (s a : State) (t : Time) (k : Fin 96), a = s.at_ t ∧ (tilePowered a (tileOf k) = true) ∧ (chFunc (tileRec a k) = .dout) ∧ (chPgmode (tileRec a k) = 1) ∧ (outputsAct (a.tile.get (tileOf k)) = true) ∧ (pwmPos a k (tileRec a k) < 5) := ⟨wChan .live (wDo 1), (wChan .live (wDo 1)).at_ (0), 0, 0, rfl, by decide +kernel⟩
theorem met_PulseGeneratorEvents_2 : ∃ (s a : State) (t : Time) (k : Fin 96), a = s.at_ t ∧ (tilePowered a (tileOf k) = true) ∧ (chFunc (tileRec a k) = .dout) ∧ (chPgmode (tileRec a k) = 1) ∧ (outputsAct (a.tile.get (tileOf k)) = true) ∧ (5 ≤ pwmPos a k (tileRec a k)) ∧ (pwmPeriod (tileRec a k) ≤ pwmPos a k (tileRec a k) + tileDrift a (tileOf k)) := ⟨{ wChan .live (wRec 64 [(2, 10), (16, 1), (28, 100)]) with link := wRun.link.set 0 { downLast := some 0 } }, ({ wChan .live (wRec 64 [(2, 10), (16, 1), (28, 100)]) with link := wRun.link.set 0 { downLast := some 0 } }).at_ (199500), 199500, 0, rfl, by decide +kernel⟩
theorem met_PulseGeneratorEvents_3 : ∃ (s a : State) (t : Time) (k : Fin 96) (e : Time), a = s.at_ t ∧ (tilePowered a (tileOf k) = true) ∧ (chPgmode (tileRec a k) ≠ 0) ∧ ((a.chan.get k).pg.offAt = some e) ∧ (tileSpan a (tileOf k) (e - dutyTime (tileRec a k) (a.chan.get k).pg.duty) (dutyTime (tileRec a k) (a.chan.get k).pg.duty) = true) := ⟨{ wChan .live (wDo 1) with chan := wRun.chan.set 0 { pg := { out := true, offAt := some 0 } } }, ({ wChan .live (wDo 1) with chan := wRun.chan.set 0 { pg := { out := true, offAt := some 0 } } }).at_ (0), 0, 0, 0, rfl, by decide +kernel⟩
theorem met_PulseGeneratorEvents_4 : ∃ (s a : State) (t : Time) (k : Fin 96) (e : Time), a = s.at_ t ∧ (tilePowered a (tileOf k) = true) ∧ (chFunc (tileRec a k) = .dout) ∧ (chPgmode (tileRec a k) = 2) ∧ ((a.chan.get k).pg.nextAt = some e) ∧ (tileSpan a (tileOf k) (e - pwmPeriod (tileRec a k)) (pwmPeriod (tileRec a k)) = true) := ⟨{ wChan .live (wDo 2) with chan := wRun.chan.set 0 { pg := { left := 1, nextAt := some 0 } } }, ({ wChan .live (wDo 2) with chan := wRun.chan.set 0 { pg := { left := 1, nextAt := some 0 } } }).at_ (0), 0, 0, 0, rfl, by decide +kernel⟩

/-- AnalogChannelEvents: the premises are met. -/
theorem met_AnalogChannelEvents_1 : ∃ (s a : State) (t : Time) (k : Fin 96) (x aux : Word) (n : Nat), a = s.at_ t ∧ (n = convNow a k (chRate (tileRec a k))) ∧ ((a.tile.get (tileOf k)).state ≠ .off) ∧ (isAnalogF (chFunc (tileRec a k)) = true) ∧ (isOutF (chFunc (tileRec a k)) = true ∨ inputOn (chFunc (tileRec a k)) (a.tile.get (tileOf k)).standby (a.chan.get k).lev.share = true) ∧ ((a.chan.get k).ana.restart = true ∨ (a.chan.get k).ana.n ≠ n) ∧ ((a.chan.get k).ana.startAt < 2 * convInstant n (chRate (tileRec a k))) ∧ (isLead (tileRec a k) n = false) ∧ (isTcTest (tileRec a k) n = false) := ⟨wChan .live (wRec 64 [(2, 1)]), (wChan .live (wRec 64 [(2, 1)])).at_ (us 1000000), us 1000000, 0, 0, 0, 10, rfl, by decide +kernel⟩
theorem met_AnalogChannelEvents_2 : ∃ (s a : State) (t : Time) (k : Fin 96) (x aux : Word) (n : Nat), a = s.at_ t ∧ (n = convNow a k (chRate (tileRec a k))) ∧ ((a.tile.get (tileOf k)).state ≠ .off) ∧ (isLead (tileRec a k) n = true) ∧ (inputOn (chFunc (tileRec a k)) (a.tile.get (tileOf k)).standby (a.chan.get k).lev.share = true) ∧ ((a.chan.get k).ana.restart = true ∨ (a.chan.get k).ana.n ≠ n) ∧ ((a.chan.get k).ana.startAt < 2 * convInstant n (chRate (tileRec a k))) := ⟨wChan .live (wRec 64 [(2, 3), (16, 3)]), (wChan .live (wRec 64 [(2, 3), (16, 3)])).at_ (sec 3 / 2), sec 3 / 2, 0, 0, 0, 15, rfl, by decide +kernel⟩
theorem met_AnalogChannelEvents_3 : ∃ (s a : State) (t : Time) (k : Fin 96) (headroom : Int) (held : Time), a = s.at_ t ∧ (chFunc (tileRec a k) = .aoi ∨ chFunc (tileRec a k) = .aov) ∧ (outputsAct (a.tile.get (tileOf k)) = true) ∧ (headroom < 400) ∧ (ms 2 < held) ∧ (openVerdict a k = false) := ⟨wChan .live (wRec 64 [(2, 5)]), (wChan .live (wRec 64 [(2, 5)])).at_ (0), 0, 0, 100, ms 3, rfl, by decide +kernel⟩
theorem met_AnalogChannelEvents_4 : ∃ (s a : State) (t : Time) (k : Fin 96) (headroom : Int) (held : Time), a = s.at_ t ∧ ((a.chan.get k).ana.compl = true) ∧ ((a.chan.get k).ana.complLow = false) ∧ (600 ≤ headroom) ∧ (ms 2 ≤ held) := ⟨{ wChan .live (wRec 64 [(2, 5)]) with chan := wRun.chan.set 0 { ana := { compl := true } } }, ({ wChan .live (wRec 64 [(2, 5)]) with chan := wRun.chan.set 0 { ana := { compl := true } } }).at_ (0), 0, 0, 700, ms 2, rfl, by decide +kernel⟩
theorem met_AnalogChannelEvents_5 : ∃ (s a : State) (t : Time) (k : Fin 96) (predicted : Int) (held : Time), a = s.at_ t ∧ ((a.chan.get k).ana.complLow = true) ∧ (600 ≤ predicted) ∧ (sec 1 ≤ held) := ⟨{ wChan .live (wRec 64 [(2, 5)]) with chan := wRun.chan.set 0 { ana := { compl := true, complLow := true } } }, ({ wChan .live (wRec 64 [(2, 5)]) with chan := wRun.chan.set 0 { ana := { compl := true, complLow := true } } }).at_ (0), 0, 0, 700, sec 1, rfl, by decide +kernel⟩
theorem met_AnalogChannelEvents_6 : ∃ (s a : State) (t : Time) (k : Fin 96) (burden : Nat) (held : Time), a = s.at_ t ∧ (chFunc (tileRec a k) = .aii) ∧ ((a.chan.get k).sw.limiting = true) ∧ ((a.chan.get k).ana.sinkOpen = none) ∧ (2500 < burden) ∧ (ms 1 ≤ held) := ⟨{ wChan .live (wRec 64 [(2, 2)]) with chan := wRun.chan.set 0 { sw := { limiting := true } } }, ({ wChan .live (wRec 64 [(2, 2)]) with chan := wRun.chan.set 0 { sw := { limiting := true } } }).at_ (0), 0, 0, 3000, ms 1, rfl, by decide +kernel⟩
theorem met_AnalogChannelEvents_7 : ∃ (s a : State) (t : Time) (k : Fin 96) (e : Time), a = s.at_ t ∧ ((a.chan.get k).ana.sinkOpen = some e) ∧ (tileSpan a (tileOf k) (e - sec 1) (sec 1) = true) := ⟨{ wChan .live (wRec 64 [(2, 2)]) with chan := wRun.chan.set 0 { ana := { sinkOpen := some 0 } } }, ({ wChan .live (wRec 64 [(2, 2)]) with chan := wRun.chan.set 0 { ana := { sinkOpen := some 0 } } }).at_ (sec 1), sec 1, 0, 0, rfl, by decide +kernel⟩
theorem met_AnalogChannelEvents_8 : ∃ (s a : State) (t : Time) (k : Fin 96) (x aux : Word) (n : Nat), a = s.at_ t ∧ (n = convNow a k (chRate (tileRec a k))) ∧ ((a.tile.get (tileOf k)).state ≠ .off) ∧ (isTcTest (tileRec a k) n = true) ∧ (inputOn (chFunc (tileRec a k)) (a.tile.get (tileOf k)).standby (a.chan.get k).lev.share = true) ∧ ((a.chan.get k).ana.restart = true ∨ (a.chan.get k).ana.n ≠ n) ∧ ((a.chan.get k).ana.startAt < 2 * convInstant n (chRate (tileRec a k))) := ⟨wChan .live (wRec 64 [(2, 4), (10, 1)]), (wChan .live (wRec 64 [(2, 4), (10, 1)])).at_ (sec 63 / 10), sec 63 / 10, 0, 0, 0, 63, rfl, by decide +kernel⟩
theorem met_AnalogChannelEvents_9 : ∃ (s a : State) (t : Time) (k : Fin 96) (limiting : Bool), a = s.at_ t ∧ (tilePowered a (tileOf k) = true) ∧ (chFunc (tileRec a k) = .aov ∨ chFunc (tileRec a k) = .aii ∧ (limiting = false ∨ chRange (tileRec a k) = 0)) ∧ (limiting = true ∨ (a.chan.get k).ana.sinkOpen = none) := ⟨wChan .live (wRec 64 [(2, 6)]), (wChan .live (wRec 64 [(2, 6)])).at_ (0), 0, 0, false, rfl, by decide +kernel⟩
theorem met_AnalogChannelEvents_10 : ∃ (s a : State) (t : Time) (k : Fin 96) (limiting : Bool), a = s.at_ t ∧ (tilePowered a (tileOf k) = true) ∧ (chFunc (tileRec a k) = .aii) ∧ (chRange (tileRec a k) ≠ 0) ∧ (limiting = true) := ⟨wChan .live (wRec 64 [(2, 2), (3, 1)]), (wChan .live (wRec 64 [(2, 2), (3, 1)])).at_ (0), 0, 0, true, rfl, by decide +kernel⟩
theorem met_TrimPresses_1 : ∃ (s a : State) (t : Time) (span both trdHigh : Bool) (held rested : Time), a = s.at_ t ∧ (hubUp a = true) ∧ (ms 20 ≤ held) ∧ (trimReleased ⟨held, rested⟩ a = true) ∧ (both = true) := ⟨wRun, (wRun).at_ (ms 40), ms 40, true, true, true, ms 20, ms 20, rfl, by decide +kernel⟩
theorem met_TrimPresses_2 : ∃ (s a : State) (t : Time) (span both trdHigh : Bool) (held rested : Time), a = s.at_ t ∧ (hubUp a = true) ∧ (ms 20 ≤ held) ∧ (trimReleased ⟨held, rested⟩ a = true) ∧ (both = false) := ⟨wRun, (wRun).at_ (ms 40), ms 40, true, false, true, ms 20, ms 20, rfl, by decide +kernel⟩
theorem met_TrimPresses_3 : ∃ (s a : State) (t : Time) (held : Time) (span up : Bool) (next : Time) (x : Armed), a = s.at_ t ∧ (a.nvs.press = some (span, up, next)) ∧ (a.nvs.armed = some x) ∧ (hubUp a = true) ∧ (sec 1 ≤ held) ∧ (next ≤ a.now) ∧ (isOutF (chFunc (castRec a x.k.val)) = true) := ⟨{ wChan .live (wRec 64 [(2, 5)]) with nvs := { wRun.nvs with press := some (true, true, 0), armed := some { k := 0, zref := 0, sref := 0, step := 0, ends := 0 } } }, ({ wChan .live (wRec 64 [(2, 5)]) with nvs := { wRun.nvs with press := some (true, true, 0), armed := some { k := 0, zref := 0, sref := 0, step := 0, ends := 0 } } }).at_ (0), 0, sec 1, true, true, 0, { k := 0, zref := 0, sref := 0, step := 0, ends := 0 }, rfl, by decide +kernel⟩
theorem met_TrimPresses_4 : ∃ (s a : State) (t : Time) (x : Armed), a = s.at_ t ∧ (hubUp a = true) ∧ (a.nvs.armed = some x) ∧ (x.ends ≤ a.now) := ⟨{ wChan .live (wRec 64 [(2, 5)]) with nvs := { wRun.nvs with armed := some { k := 0, zref := 0, sref := 0, step := 0, ends := 0 } } }, ({ wChan .live (wRec 64 [(2, 5)]) with nvs := { wRun.nvs with armed := some { k := 0, zref := 0, sref := 0, step := 0, ends := 0 } } }).at_ (0), 0, { k := 0, zref := 0, sref := 0, step := 0, ends := 0 }, rfl, by decide +kernel⟩

/-- DigitalInputEvents: the premises are met. -/
theorem met_DigitalInputEvents_1 : ∃ (s a : State) (t : Time) (k : Fin 96) (level : Bool) (input : Int), a = s.at_ t ∧ (tilePowered a (tileOf k) = true) ∧ (isDigIn (tileRec a k) = true) ∧ (comparatorTakes (tileRec a k) level input = true) := ⟨wChan .live (wRec 64 [(2, 7)]), (wChan .live (wRec 64 [(2, 7)])).at_ (0), 0, 0, true, 24000, rfl, by decide +kernel⟩
theorem met_DigitalInputEvents_2 : ∃ (s a : State) (t : Time) (k : Fin 96), a = s.at_ t ∧ (tilePowered a (tileOf k) = true) ∧ (isDigIn (tileRec a k) = true) ∧ (chFunc (tileRec a k) = .cnt) ∧ ((a.chan.get k).dig.raw = true) ∧ ((a.chan.get k).dig.filt = false) ∧ ((a.chan.get k).dig.line = none) ∧ (tileSpan a (tileOf k) (a.chan.get k).dig.runStart (us (chFilt (tileRec a k))) = true) := ⟨{ wChan .live (wRec 64 [(2, 9)]) with chan := wRun.chan.set 0 { dig := { raw := true } } }, ({ wChan .live (wRec 64 [(2, 9)]) with chan := wRun.chan.set 0 { dig := { raw := true } } }).at_ (0), 0, 0, rfl, by decide +kernel⟩
theorem met_DigitalInputEvents_3 : ∃ (s a : State) (t : Time) (tile : Fin 12) (lpt : Nat), a = s.at_ t ∧ (tilePowered a tile = true) := ⟨wTile .live, (wTile .live).at_ (0), 0, 0, 9000, rfl, by decide +kernel⟩
theorem met_DigitalInputEvents_4 : ∃ (s a : State) (t : Time) (tile : Fin 12) (lpt : Nat) (held : Time), a = s.at_ t ∧ (tilePowered a tile = true) ∧ (ms 10 ≤ held) := ⟨wTile .live, (wTile .live).at_ (0), 0, 0, 9000, ms 10, rfl, by decide +kernel⟩
theorem met_DigitalInputEvents_5 : ∃ (s a : State) (t : Time) (tile : Fin 12) (lpt : Nat), a = s.at_ t ∧ (tilePowered a tile = true) := ⟨wTile .live, (wTile .live).at_ (0), 0, 0, 9000, rfl, by decide +kernel⟩
theorem met_DigitalInputEvents_6 : ∃ (s a : State) (t : Time) (k : Fin 96) (current : Nat) (held : Time), a = s.at_ t ∧ (tilePowered a (tileOf k) = true) ∧ ((a.tile.get (tileOf k)).standby = false) ∧ (chFunc (tileRec a k) = .nam) ∧ (ms 5 ≤ held) ∧ (current < 250 ∨ 5450 < current) := ⟨wChan .live (wRec 64 [(2, 8)]), (wChan .live (wRec 64 [(2, 8)])).at_ (0), 0, 0, 100, ms 5, rfl, by decide +kernel⟩
theorem met_DigitalInputEvents_7 : ∃ (s a : State) (t : Time) (k : Fin 96) (current : Nat) (held : Time), a = s.at_ t ∧ (tilePowered a (tileOf k) = true) ∧ ((a.tile.get (tileOf k)).standby = false) ∧ (chFunc (tileRec a k) = .nam) ∧ ((a.chan.get k).dig.line.isSome = true) ∧ (ms 5 ≤ held) ∧ (150 ≤ current) ∧ (current ≤ 5550) := ⟨{ wChan .live (wRec 64 [(2, 8)]) with chan := wRun.chan.set 0 { dig := { line := some true } } }, ({ wChan .live (wRec 64 [(2, 8)]) with chan := wRun.chan.set 0 { dig := { line := some true } } }).at_ (0), 0, 0, 1000, ms 5, rfl, by decide +kernel⟩

/-- HartModemEvents: the premises are met. -/
theorem met_HartModemEvents_1 : ∃ (s a : State) (t : Time) (k : Fin 96) (bytes : List Byte), a = s.at_ t ∧ (modemOn a k = true) ∧ ((a.link.get (tileOf k)).downSilent = false) := ⟨wChan .live (wRec 64 [(2, 2), (6, 1)]), (wChan .live (wRec 64 [(2, 2), (6, 1)])).at_ (0), 0, 0, [1], rfl, by decide +kernel⟩
theorem met_HartModemEvents_2 : ∃ (s a : State) (t : Time) (k : Fin 96) (bytes : List Byte), a = s.at_ t ∧ (modemOn a k = true) ∧ ((a.link.get (tileOf k)).downSilent = false) ∧ ((a.tile.get (tileOf k)).state = .live) ∧ ((a.tile.get (tileOf k)).standby = false) ∧ (chHartm (tileRec a k) = 1 ∨ chHartm (tileRec a k) = 2) ∧ ((a.chan.get k).hart.couchHold = false) := ⟨wChan .live (wRec 64 [(2, 2), (6, 1)]), (wChan .live (wRec 64 [(2, 2), (6, 1)])).at_ (0), 0, 0, [1], rfl, by decide +kernel⟩
theorem met_HartModemEvents_3 : ∃ (s a : State) (t : Time) (k : Fin 96), a = s.at_ t ∧ (modemOn a k = true) ∧ ((a.link.get (tileOf k)).downSilent = false) := ⟨wChan .live (wRec 64 [(2, 2), (6, 1)]), (wChan .live (wRec 64 [(2, 2), (6, 1)])).at_ (0), 0, 0, rfl, by decide +kernel⟩
theorem met_HartModemEvents_4 : ∃ (s a : State) (t : Time) (k : Fin 96), a = s.at_ t ∧ (modemOn a k = true) ∧ ((a.chan.get k).hart.tx = true) := ⟨{ wChan .live (wRec 64 [(2, 2), (6, 1)]) with chan := wRun.chan.set 0 { hart := { tx := true } } }, ({ wChan .live (wRec 64 [(2, 2), (6, 1)]) with chan := wRun.chan.set 0 { hart := { tx := true } } }).at_ (0), 0, 0, rfl, by decide +kernel⟩
theorem met_HartModemEvents_5 : ∃ (s a : State) (t : Time) (k : Fin 96) (byte : Byte) (perr eom : Bool), a = s.at_ t ∧ (modemOn a k = true) ∧ ((a.tile.get (tileOf k)).standby = false) ∧ ((a.chan.get k).hart.rxOn = true) := ⟨{ wChan .live (wRec 64 [(2, 2), (6, 1)]) with chan := wRun.chan.set 0 { hart := { rxOn := true } } }, ({ wChan .live (wRec 64 [(2, 2), (6, 1)]) with chan := wRun.chan.set 0 { hart := { rxOn := true } } }).at_ (0), 0, 0, 5, false, false, rfl, by decide +kernel⟩
theorem met_HartModemEvents_6 : ∃ (s a : State) (t : Time) (k : Fin 96) (byte : Byte) (perr eom : Bool), a = s.at_ t ∧ (modemOn a k = true) ∧ ((a.tile.get (tileOf k)).standby = false) ∧ ((a.chan.get k).hart.rxOn = false) ∧ (2 ≤ (a.chan.get k).hart.pre) ∧ (byte ≠ 0xFF) := ⟨{ wChan .live (wRec 64 [(2, 2), (6, 1)]) with chan := wRun.chan.set 0 { hart := { pre := 2 } } }, ({ wChan .live (wRec 64 [(2, 2), (6, 1)]) with chan := wRun.chan.set 0 { hart := { pre := 2 } } }).at_ (0), 0, 0, 5, false, false, rfl, by decide +kernel⟩
theorem met_HartModemEvents_7 : ∃ (s a : State) (t : Time) (k : Fin 96) (byte : Byte) (perr eom : Bool), a = s.at_ t ∧ (modemOn a k = true) ∧ ((a.tile.get (tileOf k)).standby = false) ∧ ((a.chan.get k).hart.rxOn = false) ∧ (byte = 0xFF) ∧ (perr = false) ∧ (eom = false) := ⟨wChan .live (wRec 64 [(2, 2), (6, 1)]), (wChan .live (wRec 64 [(2, 2), (6, 1)])).at_ (0), 0, 0, 255, false, false, rfl, by decide +kernel⟩
theorem met_HartModemEvents_8 : ∃ (s a : State) (t : Time) (k : Fin 96) (bytes : List Byte) (perr : Bool) (addr cmd : Nat) (ident : Bool) (m : HartMsg) (z : State), a = s.at_ t ∧ (hartHears a k = true) ∧ (z = messageEnd k (sysHalf a) a) ∧ ((z.chan.get k).hart.request = some (addr, cmd)) ∧ (z.now ≤ (z.chan.get k).hart.turnEnd) ∧ (perr = false) ∧ (hartParse bytes = some m) ∧ (identifies (z.chan.get k).hart addr = ident) ∧ (answers z k addr cmd ident m = true) ∧ (bitOf (u8 m.data 0) 7 = false) ∧ (ident = false ∨ cmd ≠ 0) ∧ ((z.chan.get k).hart.turn ≠ some 255) :=
  ⟨{ wChan .live (wRec 64 [(2, 2), (6, 1)]) with chan := wRun.chan.set 0 { hart := { request := some (0, 3), drops := [{ addr := 0, state := 1, longAddr := [0, 0, 0, 0, 1] }] } } }, _, 0, 0, ([0x86, 0x80, 0, 0, 0, 1, 3, 2, 0, 0] ++ [hartXor [0x86, 0x80, 0, 0, 0, 1, 3, 2, 0, 0]]), false, 0, 3, false, { burst := false, long := true, addr := [0x80, 0, 0, 0, 1], cmd := 3, data := [0, 0] }, _, rfl, by decide +kernel, rfl, by decide +kernel⟩
theorem met_HartModemEvents_9 : ∃ (s a : State) (t : Time) (k : Fin 96) (bytes : List Byte) (perr : Bool) (addr cmd : Nat) (ident : Bool) (m : HartMsg) (z : State) (w : WorkRef) (x : Work), a = s.at_ t ∧ (hartHears a k = true) ∧ (z = messageEnd k (sysHalf a) a) ∧ ((z.chan.get k).hart.request = some (addr, cmd)) ∧ (z.now ≤ (z.chan.get k).hart.turnEnd) ∧ (perr = false) ∧ (hartParse bytes = some m) ∧ (identifies (z.chan.get k).hart addr = ident) ∧ (answers z k addr cmd ident m = true) ∧ (bitOf (u8 m.data 0) 7 = false) ∧ (ident = false ∨ cmd ≠ 0) ∧ ((z.chan.get k).hart.turn = some 255) ∧ ((z.chan.get k).hart.host = some w) ∧ (workOf z w = some x) :=
  ⟨wHold (wJob 0x0200 []) ({ wChan .live (wRec 64 [(2, 2), (6, 1)]) with chan := wRun.chan.set 0 { hart := { turn := some 255, host := some wRef, request := some (0, 3), drops := [{ addr := 0, state := 1, longAddr := [0, 0, 0, 0, 1] }] } } }), _, 0, 0, ([0x86, 0x80, 0, 0, 0, 1, 3, 2, 0, 0] ++ [hartXor [0x86, 0x80, 0, 0, 0, 1, 3, 2, 0, 0]]), false, 0, 3, false, { burst := false, long := true, addr := [0x80, 0, 0, 0, 1], cmd := 3, data := [0, 0] }, _, wRef, wJob 0x0200 [], rfl, by decide +kernel, rfl, by decide +kernel⟩
theorem met_HartModemEvents_10 : ∃ (s a : State) (t : Time) (k : Fin 96) (bytes : List Byte) (perr : Bool) (addr : Nat) (m : HartMsg) (z : State), a = s.at_ t ∧ (hartHears a k = true) ∧ (z = messageEnd k (sysHalf a) a) ∧ ((z.chan.get k).hart.request = some (addr, 0)) ∧ (z.now ≤ (z.chan.get k).hart.turnEnd) ∧ (perr = false) ∧ (hartParse bytes = some m) ∧ (identifies (z.chan.get k).hart addr = true) ∧ (answers z k addr 0 true m = true) ∧ (bitOf (u8 m.data 0) 7 = false) ∧ (14 ≤ m.data.length) :=
  ⟨{ wChan .live (wRec 64 [(2, 2), (6, 1)]) with chan := wRun.chan.set 0 { hart := { request := some (0, 0), drops := [{ addr := 0 }] } } }, _, 0, 0, ([0x06, 0x80, 0, 14, 0, 0, 0, 0, 0, 0, 0, 0, 0, 0, 0, 0, 0, 0] ++ [hartXor [0x06, 0x80, 0, 14, 0, 0, 0, 0, 0, 0, 0, 0, 0, 0, 0, 0, 0, 0]]), false, 0, { burst := false, long := false, addr := [0x80], cmd := 0, data := [0, 0, 0, 0, 0, 0, 0, 0, 0, 0, 0, 0, 0, 0] }, _, rfl, by decide +kernel, rfl, by decide +kernel⟩
theorem met_HartModemEvents_11 : ∃ (s a : State) (t : Time) (k : Fin 96) (bytes : List Byte) (perr : Bool) (z : State), a = s.at_ t ∧ (hartHears a k = true) ∧ (z = messageEnd k (sysHalf a) a) ∧ ((z.chan.get k).hart.request = none) :=
  ⟨wChan .live (wRec 64 [(2, 2), (6, 1)]), _, 0, 0, [1], false, _, rfl, by decide +kernel, rfl, by decide +kernel⟩
theorem met_HartModemEvents_12 : ∃ (s a : State) (t : Time) (k : Fin 96) (bytes : List Byte) (perr : Bool) (z : State), a = s.at_ t ∧ (hartHears a k = true) ∧ (z = messageEnd k (sysHalf a) a) ∧ ((z.chan.get k).hart.request.isSome = true) ∧ (z.now ≤ (z.chan.get k).hart.turnEnd) ∧ (perr = true ∨ hartParse bytes = none ∧ bits (u8 bytes 0) 0 3 ≠ 2) :=
  ⟨{ wChan .live (wRec 64 [(2, 2), (6, 1)]) with chan := wRun.chan.set 0 { hart := { request := some (0, 0) } } }, _, 0, 0, [], true, _, rfl, by decide +kernel, rfl, by decide +kernel⟩
theorem met_HartModemEvents_13 : ∃ (s a : State) (t : Time) (k : Fin 96) (bytes : List Byte) (perr : Bool) (z : State), a = s.at_ t ∧ (hartHears a k = true) ∧ (z = messageEnd k (sysHalf a) a) ∧ ((z.chan.get k).hart.request.isSome = true) ∧ ((z.chan.get k).hart.turnEnd < z.now) :=
  ⟨{ wChan .live (wRec 64 [(2, 2), (6, 1)]) with chan := wRun.chan.set 0 { hart := { request := some (0, 0) } } }, _, 1, 0, [], true, _, rfl, by decide +kernel, rfl, by decide +kernel⟩
theorem met_HartModemEvents_14 : ∃ (s a : State) (t : Time) (k : Fin 96) (bytes : List Byte) (perr : Bool) (z : State), a = s.at_ t ∧ (hartHears a k = true) ∧ (z = messageEnd k (sysHalf a) a) ∧ ((z.chan.get k).hart.request.isSome = true) ∧ (perr = false) ∧ (hartParse bytes = none) ∧ (bits (u8 bytes 0) 0 3 = 2) :=
  ⟨{ wChan .live (wRec 64 [(2, 2), (6, 1)]) with chan := wRun.chan.set 0 { hart := { request := some (0, 0) } } }, _, 0, 0, [2], false, _, rfl, by decide +kernel, rfl, by decide +kernel⟩
theorem met_HartModemEvents_15 : ∃ (s a : State) (t : Time) (k : Fin 96) (bytes : List Byte) (perr : Bool) (m : HartMsg) (d : Drop) (z : State), a = s.at_ t ∧ (hartHears a k = true) ∧ (z = messageEnd k (sysHalf a) a) ∧ ((z.chan.get k).hart.couchHold = false) ∧ (perr = false) ∧ (hartParse bytes = some m) ∧ (m.burst = true) ∧ (hartDropOf (planItems z k.val) (z.chan.get k).hart m = some d) ∧ (burstPlan z k.val = false) :=
  ⟨{ wChan .live (wRec 64 [(2, 2), (6, 1)]) with chan := wRun.chan.set 0 { hart := { drops := [{ addr := 0, state := 1, longAddr := [0, 0, 0, 0, 1] }] } } }, _, 0, 0, ([0x81, 0x80, 0, 0, 0, 1, 3, 2, 0, 0] ++ [hartXor [0x81, 0x80, 0, 0, 0, 1, 3, 2, 0, 0]]), false, { burst := true, long := true, addr := [0x80, 0, 0, 0, 1], cmd := 3, data := [0, 0] }, { addr := 0, state := 1, longAddr := [0, 0, 0, 0, 1] }, _, rfl, by decide +kernel, rfl, by decide +kernel⟩
theorem met_HartModemEvents_16 : ∃ (s a : State) (t : Time) (k : Fin 96) (bytes : List Byte) (perr : Bool) (m : HartMsg) (d : Drop) (z y : State), a = s.at_ t ∧ (hartHears a k = true) ∧ (z = messageEnd k (sysHalf a) a) ∧ ((z.chan.get k).hart.couchHold = false) ∧ (perr = false) ∧ (hartParse bytes = some m) ∧ (m.burst = true) ∧ (hartDropOf (planItems z k.val) (z.chan.get k).hart m = some d) ∧ (burstPlan z k.val = true) ∧ (y = modHart k (fun h => { h with burstBy := some (z.now + 2 * hartTau) }) (takeMessage k d.addr m (hartWait k 8 z))) :=
  ⟨{ { wChan .live (wRec 64 [(2, 2), (6, 1)]) with chan := wRun.chan.set 0 { hart := { drops := [{ addr := 0, state := 1, longAddr := [0, 0, 0, 0, 1] }] } } } with img := { wRun.img with cast := some { chan := [wRec 64 [(2, 2), (6, 1), (40, 1)]], plan := [wRec 32 [(14, 1)]], item := [wRec 16 [(4, 1)]] } } }, _, 0, 0, ([0x81, 0x80, 0, 0, 0, 1, 3, 2, 0, 0] ++ [hartXor [0x81, 0x80, 0, 0, 0, 1, 3, 2, 0, 0]]), false, { burst := true, long := true, addr := [0x80, 0, 0, 0, 1], cmd := 3, data := [0, 0] }, { addr := 0, state := 1, longAddr := [0, 0, 0, 0, 1] }, _, _, rfl, by decide +kernel, rfl, by decide +kernel, by decide +kernel, by decide +kernel, by decide +kernel, by decide +kernel, by decide +kernel, rfl⟩
theorem met_HartModemEvents_17 : ∃ (s a : State) (t : Time) (k : Fin 96) (bytes : List Byte) (perr : Bool) (z : State), a = s.at_ t ∧ (hartHears a k = true) ∧ (z = messageEnd k (sysHalf a) a) ∧ ((z.chan.get k).hart.couchHold = true) :=
  ⟨{ wChan .live (wRec 64 [(2, 2), (6, 1)]) with chan := wRun.chan.set 0 { hart := { couchHold := true } } }, _, 0, 0, [1], false, _, rfl, by decide +kernel, rfl, by decide +kernel⟩
theorem met_HartModemEvents_18 : ∃ (s a : State) (t : Time) (k : Fin 96) (bytes : List Byte) (perr : Bool) (z : State), a = s.at_ t ∧ (hartHears a k = true) ∧ (z = messageEnd k (sysHalf a) a) ∧ ((z.chan.get k).hart.couchHold = false) ∧ (perr = true ∨ hartParse bytes = none) :=
  ⟨wChan .live (wRec 64 [(2, 2), (6, 1)]), _, 0, 0, [1], true, _, rfl, by decide +kernel, rfl, by decide +kernel⟩

/-- HartSchedulerEvents: the premises are met. -/
theorem met_HartSchedulerEvents_1 : ∃ (s a : State) (t : Time) (k : Fin 96) (e : Time), a = s.at_ t ∧ (hubUp a = true) ∧ ((a.chan.get k).hart.request.isSome = true) ∧ ((a.chan.get k).hart.replyBy = some e) ∧ (e ≤ a.now) ∧ (replyBegun (a.chan.get k).hart = false) := ⟨{ wChan .live (wRec 64 [(2, 2), (6, 1)]) with chan := wRun.chan.set 0 { hart := { request := some (0, 0), replyBy := some 0 } } }, ({ wChan .live (wRec 64 [(2, 2), (6, 1)]) with chan := wRun.chan.set 0 { hart := { request := some (0, 0), replyBy := some 0 } } }).at_ (0), 0, 0, 0, rfl, by decide +kernel⟩
theorem met_HartSchedulerEvents_2 : ∃ (s a : State) (t : Time) (k : Fin 96) (n : Nat), a = s.at_ t ∧ (hubUp a = true) ∧ ((a.chan.get k).hart.turn = some n) ∧ (n ≠ 255) ∧ ((a.chan.get k).hart.request = none) ∧ ((a.chan.get k).hart.turnEnd ≤ a.now ∨ couldAttempt k a = false) := ⟨{ wChan .live (wRec 64 [(2, 2), (6, 1)]) with chan := wRun.chan.set 0 { hart := { turn := some 0 } } }, ({ wChan .live (wRec 64 [(2, 2), (6, 1)]) with chan := wRun.chan.set 0 { hart := { turn := some 0 } } }).at_ (0), 0, 0, 0, rfl, by decide +kernel⟩
theorem met_HartSchedulerEvents_3 : ∃ (s a : State) (t : Time) (k : Fin 96) (n : Nat), a = s.at_ t ∧ (hubUp a = true) ∧ ((a.chan.get k).hart.turn = some n) ∧ (n ≠ 255) ∧ ((a.chan.get k).hart.request.isSome = true) ∧ ((a.chan.get k).hart.turnEnd ≤ a.now) := ⟨{ wChan .live (wRec 64 [(2, 2), (6, 1)]) with chan := wRun.chan.set 0 { hart := { turn := some 0, request := some (0, 0) } } }, ({ wChan .live (wRec 64 [(2, 2), (6, 1)]) with chan := wRun.chan.set 0 { hart := { turn := some 0, request := some (0, 0) } } }).at_ (0), 0, 0, 0, rfl, by decide +kernel⟩
theorem met_HartSchedulerEvents_4 : ∃ (s a : State) (t : Time) (k : Fin 96), a = s.at_ t ∧ (hubUp a = true) ∧ ((a.chan.get k).hart.request = none) ∧ ((a.chan.get k).hart.quietUntil ≤ a.now) := ⟨wChan .live (wRec 64 [(2, 2), (6, 1)]), (wChan .live (wRec 64 [(2, 2), (6, 1)])).at_ (0), 0, 0, rfl, by decide +kernel⟩
theorem met_HartSchedulerEvents_5 : ∃ (s a : State) (t : Time) (item : Nat) (k : Fin 96) (x : HartTag), a = s.at_ t ∧ (hubUp a = true) ∧ (chanOfItem a item = some k) ∧ (tagOfItem a item = some x) ∧ (staleOf a k.val (u8 ((castAll a (·.item)).getD item []) 1) < a.now - x.at_) := ⟨{ wChan .live [] with img := { wRun.img with cast := some { plan := [wRec 32 [(14, 1)]] } }, misc := { wRun.misc with hartTags := [{ item := 0, value := 0, at_ := 0, valid := true }] } }, ({ wChan .live [] with img := { wRun.img with cast := some { plan := [wRec 32 [(14, 1)]] } }, misc := { wRun.misc with hartTags := [{ item := 0, value := 0, at_ := 0, valid := true }] } }).at_ (sec 1), sec 1, 0, 0, { item := 0, value := 0, at_ := 0, valid := true }, rfl, by decide +kernel⟩
theorem met_HartSchedulerEvents_6 : ∃ (s a : State) (t : Time) (w : WorkRef) (x : Work) (k : Fin 96), a = s.at_ t ∧ (hubUp a = true) ∧ (workOf a w = some x) ∧ (harttxChan x = some k) ∧ (x.opcode = 0x0200) ∧ (x.accepted = true) ∧ (x.final = none) ∧ (x.begun = false) ∧ (x.acceptedAt + sec (planQtime (planOf a k.val)) ≤ a.now) := ⟨wHold (wJob 0x0200 []) (wChan .live []), (wHold (wJob 0x0200 []) (wChan .live [])).at_ (sec 100), sec 100, wRef, wJob 0x0200 [], 0, rfl, by decide +kernel⟩
theorem met_HartSchedulerEvents_7 : ∃ (s a : State) (t : Time) (w : WorkRef) (x : Work) (k : Fin 96), a = s.at_ t ∧ (hubUp a = true) ∧ (workOf a w = some x) ∧ (harttxChan x = some k) ∧ (x.opcode = 0x0200) ∧ (x.marked = true) ∧ (x.started = false) ∧ (x.final = none) ∧ (mayAccept a x = true) := ⟨wHold { wJob 0x0200 [] with begun := true, marked := true } (wChan .live []), (wHold { wJob 0x0200 [] with begun := true, marked := true } (wChan .live [])).at_ (0), 0, wRef, { wJob 0x0200 [] with begun := true, marked := true }, 0, rfl, by decide +kernel⟩

/-- DiagnosticEvents: the premises are met. -/
theorem met_DiagnosticEvents_1 : ∃ (s a : State) (t : Time) (k : Fin 96) (pin : Fin 3) (code : Nat) (set : Bool) (held : Time) (q : Time), a = s.at_ t ∧ ((a.tile.get (tileOf k)).state ≠ .off) ∧ ((a.tile.get (tileOf k)).standby = false ∨ code = 0x23) ∧ (qualTime a k code set = some q) ∧ (q ≤ held) ∧ (code ≠ 0x23 ∨ set = false ∨ reverseJudged a k pin q = true) := ⟨wChan .live (wRec 64 [(2, 2), (10, 1)]), (wChan .live (wRec 64 [(2, 2), (10, 1)])).at_ (0), 0, 0, 0, 0x10, true, ms 100, ms 100, rfl, by decide +kernel⟩
theorem met_DiagnosticEvents_2 : ∃ (s a : State) (t : Time) (k : Fin 96) (counted : Time) (maxCurrent : Nat), a = s.at_ t ∧ (hasSwitch a k = true) ∧ (chFunc (tileRec a k) = .dout) ∧ (chOpendet (tileRec a k) = true) ∧ ((a.tile.get (tileOf k)).standby = false) ∧ ((standing a k).contains 0x22 = false) ∧ (limitOf (a.chan.get k) = false) ∧ (ms 100 ≤ counted) ∧ (maxCurrent ≤ chOpeni (tileRec a k) + 5) := ⟨wChan .live (wRec 64 [(2, 10), (10, 1)]), (wChan .live (wRec 64 [(2, 10), (10, 1)])).at_ (0), 0, 0, ms 100, 0, rfl, by decide +kernel⟩
theorem met_DiagnosticEvents_3 : ∃ (s a : State) (t : Time) (k : Fin 96), a = s.at_ t ∧ (hubUp a = true) ∧ (linkUp a (tileOf k) = true) ∧ (verdictOf a k ≠ (a.chan.get k).dg.recorded) ∧ (us 16 ≤ a.now - (a.chan.get k).dg.changed) := ⟨{ wChan .live (wDo 0) with chan := wRun.chan.set 0 { dg := { judged := true } } }, ({ wChan .live (wDo 0) with chan := wRun.chan.set 0 { dg := { judged := true } } }).at_ (us 16), us 16, 0, rfl, by decide +kernel⟩
theorem met_DiagnosticEvents_4 : ∃ (s a : State) (t : Time) (slot : Nat), a = s.at_ t ∧ (hubUp a = true) ∧ ((diagRec a slot).isEmpty = false) ∧ (slotMay a (diagRec a slot) = true) ∧ (runOf a slot = none) ∧ (slotTime a (diagRec a slot) = true) ∧ (dgKind (diagRec a slot) ≠ 0) := ⟨{ wTile .live with img := { wRun.img with cast := some { chan := [wRec 64 [(2, 10)]], diag := [wRec 32 [(0, 1), (2, 1)]] } } }, ({ wTile .live with img := { wRun.img with cast := some { chan := [wRec 64 [(2, 10)]], diag := [wRec 32 [(0, 1), (2, 1)]] } } }).at_ (0), 0, 0, rfl, by decide +kernel⟩
theorem met_DiagnosticEvents_5 : ∃ (s a : State) (t : Time) (slot : Nat) (k : Fin 96), a = s.at_ t ∧ (hubUp a = true) ∧ ((diagRec a slot).isEmpty = false) ∧ (slotMay a (diagRec a slot) = true) ∧ (runOf a slot = none) ∧ (slotTime a (diagRec a slot) = true) ∧ (dgKind (diagRec a slot) = 0) ∧ (offChan a (diagRec a slot) = some k) := ⟨{ wTile .live with img := { wRun.img with cast := some { chan := [wRec 64 [(2, 10)]], diag := [wRec 32 [(0, 0), (2, 1)]] } } }, ({ wTile .live with img := { wRun.img with cast := some { chan := [wRec 64 [(2, 10)]], diag := [wRec 32 [(0, 0), (2, 1)]] } } }).at_ (0), 0, 0, 0, rfl, by decide +kernel⟩
theorem met_DiagnosticEvents_6 : ∃ (s a : State) (t : Time) (slot : Nat) (v1 v2 : Int) (run : DiagRun), a = s.at_ t ∧ (runOf a slot = some run) ∧ (run.stop ≤ a.now) ∧ (dgKind (diagRec a slot) ≠ 0) := ⟨{ wTile .live with img := { wRun.img with cast := some { chan := [wRec 64 [(2, 10)]], diag := [wRec 32 [(0, 1), (2, 1)]] } }, misc := { wRun.misc with diag := [{ slot := 0, start := 0, stop := 0, eligible := true }] } }, ({ wTile .live with img := { wRun.img with cast := some { chan := [wRec 64 [(2, 10)]], diag := [wRec 32 [(0, 1), (2, 1)]] } }, misc := { wRun.misc with diag := [{ slot := 0, start := 0, stop := 0, eligible := true }] } }).at_ (0), 0, 0, 0, 0, { slot := 0, start := 0, stop := 0, eligible := true }, rfl, by decide +kernel⟩
theorem met_DiagnosticEvents_7 : ∃ (s a : State) (t : Time) (slot : Nat) (v1 v2 : Int) (run : DiagRun) (k : Fin 96), a = s.at_ t ∧ (runOf a slot = some run) ∧ (run.stop ≤ a.now) ∧ (dgKind (diagRec a slot) = 0) ∧ (run.eligible = true) ∧ (run.skipped = false) ∧ (offChan a (diagRec a slot) = some k) := ⟨{ wTile .live with img := { wRun.img with cast := some { chan := [wRec 64 [(2, 10)]], diag := [wRec 32 [(0, 0), (2, 1)]] } }, misc := { wRun.misc with diag := [{ slot := 0, start := 0, stop := 0, eligible := true }] } }, ({ wTile .live with img := { wRun.img with cast := some { chan := [wRec 64 [(2, 10)]], diag := [wRec 32 [(0, 0), (2, 1)]] } }, misc := { wRun.misc with diag := [{ slot := 0, start := 0, stop := 0, eligible := true }] } }).at_ (0), 0, 0, 0, 0, { slot := 0, start := 0, stop := 0, eligible := true }, 0, rfl, by decide +kernel⟩
theorem met_DiagnosticEvents_8 : ∃ (s a : State) (t : Time) (slot : Nat) (run : DiagRun), a = s.at_ t ∧ (runOf a slot = some run) ∧ (slotMay a (diagRec a slot) = false) ∧ (dgKind (diagRec a slot) ≠ 0) ∧ (dgKind (diagRec a slot) ≠ 2) := ⟨{ wRun with img := { wRun.img with cast := some { chan := [wRec 64 [(2, 10)]], diag := [wRec 32 [(0, 1), (2, 1)]] } }, misc := { wRun.misc with diag := [{ slot := 0, start := 0, stop := 0, eligible := true }] } }, ({ wRun with img := { wRun.img with cast := some { chan := [wRec 64 [(2, 10)]], diag := [wRec 32 [(0, 1), (2, 1)]] } }, misc := { wRun.misc with diag := [{ slot := 0, start := 0, stop := 0, eligible := true }] } }).at_ (0), 0, 0, { slot := 0, start := 0, stop := 0, eligible := true }, rfl, by decide +kernel⟩
theorem met_DiagnosticEvents_9 : ∃ (s a : State) (t : Time) (slot : Nat) (x : Fin 96) (followers : List Nat), a = s.at_ t ∧ ((runOf a slot).isSome = true) ∧ (dgKind (diagRec a slot) = 1) ∧ (diagCovers (diagRec a slot) x = true) := ⟨{ wTile .live with img := { wRun.img with cast := some { chan := [wRec 64 [(2, 10)]], diag := [wRec 32 [(0, 1), (2, 1)]] } }, misc := { wRun.misc with diag := [{ slot := 0, start := 0, stop := 0, eligible := true }] } }, ({ wTile .live with img := { wRun.img with cast := some { chan := [wRec 64 [(2, 10)]], diag := [wRec 32 [(0, 1), (2, 1)]] } }, misc := { wRun.misc with diag := [{ slot := 0, start := 0, stop := 0, eligible := true }] } }).at_ (0), 0, 0, 0, [], rfl, by decide +kernel⟩
theorem met_DiagnosticEvents_10 : ∃ (s a : State) (t : Time) (slot : Nat) (meas : IsoMeas) (x : Fin 12), a = s.at_ t ∧ (asFin 12 (dgTile (diagRec a slot)) = some x) ∧ ((runOf a slot).isSome = true) ∧ (dgKind (diagRec a slot) = 2) ∧ (meas.variation ≤ 200) ∧ (2000 ≤ meas.charge) := ⟨{ wTile .live with img := { wRun.img with cast := some { chan := [wRec 64 [(2, 10)]], diag := [wRec 32 [(0, 2), (2, 1)]] } }, misc := { wRun.misc with diag := [{ slot := 0, start := 0, stop := 0, eligible := true }] } }, ({ wTile .live with img := { wRun.img with cast := some { chan := [wRec 64 [(2, 10)]], diag := [wRec 32 [(0, 2), (2, 1)]] } }, misc := { wRun.misc with diag := [{ slot := 0, start := 0, stop := 0, eligible := true }] } }).at_ (0), 0, 0, { uPlus := 0, uMinus := 0, ipePlus := 0, ipeMinus := 0, chans := [], charge := 2000, variation := 0 }, 0, rfl, by decide +kernel⟩
theorem met_DiagnosticEvents_11 : ∃ (s a : State) (t : Time) (slot : Nat) (meas : IsoMeas) (x : Fin 12), a = s.at_ t ∧ (asFin 12 (dgTile (diagRec a slot)) = some x) ∧ ((runOf a slot).isSome = true) ∧ (dgKind (diagRec a slot) = 2) ∧ (meas.variation ≤ 200) ∧ (meas.charge < 2000) := ⟨{ wTile .live with img := { wRun.img with cast := some { chan := [wRec 64 [(2, 10)]], diag := [wRec 32 [(0, 2), (2, 1)]] } }, misc := { wRun.misc with diag := [{ slot := 0, start := 0, stop := 0, eligible := true }] } }, ({ wTile .live with img := { wRun.img with cast := some { chan := [wRec 64 [(2, 10)]], diag := [wRec 32 [(0, 2), (2, 1)]] } }, misc := { wRun.misc with diag := [{ slot := 0, start := 0, stop := 0, eligible := true }] } }).at_ (0), 0, 0, { uPlus := 0, uMinus := 0, ipePlus := 0, ipeMinus := 0, chans := [], charge := 1999, variation := 200 }, 0, rfl, by decide +kernel⟩
theorem met_DiagnosticEvents_12 : ∃ (s a : State) (t : Time) (slot : Nat) (meas : IsoMeas) (x : Fin 12), a = s.at_ t ∧ (asFin 12 (dgTile (diagRec a slot)) = some x) ∧ ((runOf a slot).isSome = true) ∧ (dgKind (diagRec a slot) = 2) ∧ (200 < meas.variation) ∧ ((a.iso.get x).disturbedRun + 1 ≠ 3) := ⟨{ wTile .live with img := { wRun.img with cast := some { chan := [wRec 64 [(2, 10)]], diag := [wRec 32 [(0, 2), (2, 1)]] } }, misc := { wRun.misc with diag := [{ slot := 0, start := 0, stop := 0, eligible := true }] } }, ({ wTile .live with img := { wRun.img with cast := some { chan := [wRec 64 [(2, 10)]], diag := [wRec 32 [(0, 2), (2, 1)]] } }, misc := { wRun.misc with diag := [{ slot := 0, start := 0, stop := 0, eligible := true }] } }).at_ (0), 0, 0, { uPlus := 0, uMinus := 0, ipePlus := 0, ipeMinus := 0, chans := [], charge := 2000, variation := 201 }, 0, rfl, by decide +kernel⟩
theorem met_DiagnosticEvents_14 : ∃ (s a : State) (t : Time) (k : Fin 96) (on : Bool) (ticks : Nat) (level1 : Bool) (run : DiagRun), a = s.at_ t ∧ (a.misc.diag.find? (fun d => dgKind (diagRec a d.slot) == 3 && diagCovers (diagRec a d.slot) k) = some run) ∧ (chEdgecal (castRec a k.val) = true) ∧ ((a.misc.diag.any fun d => decide (dgKind (diagRec a d.slot) ≤ 1) && diagCovers (diagRec a d.slot) k) = false) ∧ (level1 = false) ∧ (80 ≤ ticks) ∧ (ticks ≤ 200000) ∧ (on = true) := ⟨{ wTile .live with img := { wRun.img with cast := some { chan := [wRec 64 [(2, 10), (10, 8)]], diag := [wRec 32 [(0, 3), (2, 1)]] } }, misc := { wRun.misc with diag := [{ slot := 0, start := 0, stop := 0, eligible := true }] } }, ({ wTile .live with img := { wRun.img with cast := some { chan := [wRec 64 [(2, 10), (10, 8)]], diag := [wRec 32 [(0, 3), (2, 1)]] } }, misc := { wRun.misc with diag := [{ slot := 0, start := 0, stop := 0, eligible := true }] } }).at_ (0), 0, 0, true, 80, false, { slot := 0, start := 0, stop := 0, eligible := true }, rfl, by decide +kernel⟩
theorem met_DiagnosticEvents_15 : ∃ (s a : State) (t : Time) (k : Fin 96), a = s.at_ t ∧ (hubUp a = true) ∧ (chFunc (castRec a k.val) = .dout) ∧ (chOfftest (castRec a k.val) = true) ∧ ((a.chan.get k).dg.everOff = false) ∧ ((a.chan.get k).sw.on = true) := ⟨{ wChan .live (wRec 64 [(2, 10), (10, 2)]) with chan := wRun.chan.set 0 { sw := { on := true } } }, ({ wChan .live (wRec 64 [(2, 10), (10, 2)]) with chan := wRun.chan.set 0 { sw := { on := true } } }).at_ (0), 0, 0, rfl, by decide +kernel⟩

/-- AxisInputEvents: the premises are met. -/
theorem met_AxisInputEvents_1 : ∃ (s a : State) (t : Time) (x : Fin 4) (la lb : EncLine) (r : Rec) (c : Axis) (u v : Bool) (d : Int), a = s.at_ t ∧ (rehOf a = none) ∧ (axisOf a x.val = some r) ∧ (hubUp a = true) ∧ (c = linesBack la lb (a.eng.axis.get (ctx x))) ∧ (u = accepted r la c.a) ∧ (v = accepted r lb c.b) ∧ (c.a = u ∨ c.b = v) ∧ (c.flags.lost = false) ∧ (countOf (axDecode r) c.a c.b u v = some d) :=
  ⟨wCast { axis := [wRec 48 [(1, 0), (3, 6)]] } (wRun), _, 0, 0, ⟨true, 9, none⟩, ⟨false, 0, none⟩, wRec 48 [(1, 0), (3, 6)], _, _, _, 1, rfl, by decide +kernel, by decide +kernel, by decide +kernel, rfl, rfl, rfl, by decide +kernel, by decide +kernel, by decide +kernel⟩
theorem met_AxisInputEvents_2 : ∃ (s a : State) (t : Time) (x : Fin 4) (la lb : EncLine) (r : Rec) (c : Axis) (u v : Bool), a = s.at_ t ∧ (rehOf a = none) ∧ (axisOf a x.val = some r) ∧ (hubUp a = true) ∧ (c = linesBack la lb (a.eng.axis.get (ctx x))) ∧ (u = accepted r la c.a) ∧ (v = accepted r lb c.b) ∧ (c.a ≠ u) ∧ (c.b ≠ v) ∧ (axDecode r < 3) ∧ (c.line.val % 4 = 0) :=
  ⟨wCast { axis := [wRec 48 [(1, 0), (3, 6)]] } (wRun), _, 0, 0, ⟨true, 9, none⟩, ⟨true, 9, none⟩, wRec 48 [(1, 0), (3, 6)], _, _, _, rfl, by decide +kernel, by decide +kernel, by decide +kernel, rfl, rfl, rfl, by decide +kernel, by decide +kernel, by decide +kernel, by decide +kernel⟩
theorem met_AxisInputEvents_3 : ∃ (s a : State) (t : Time) (l : ZLine) (r : Rec), a = s.at_ t ∧ (rehOf a = none) ∧ (axisOf a l.enc.val = some r) ∧ (hubUp a = true) ∧ (axEfilt r < l.samples) ∧ (axZlatch r = true) := ⟨wCast { axis := [wRec 48 [(1, 0), (3, 6)]] } (wRun), (wCast { axis := [wRec 48 [(1, 0), (3, 6)]] } (wRun)).at_ (0), 0, ⟨0, 9⟩, wRec 48 [(1, 0), (3, 6)], rfl, by decide +kernel⟩
theorem met_AxisInputEvents_4 : ∃ (s a : State) (t : Time) (x : Fin 4) (line : Fin 3) (held : Time), a = s.at_ t ∧ (rehOf a = none) ∧ (hubUp a = true) ∧ ((axisOf a x.val).isSome = true) ∧ (us 1 ≤ held) ∧ (line.val ≠ 2) := ⟨wCast { axis := [wRec 48 [(1, 0), (3, 6)]] } (wRun), (wCast { axis := [wRec 48 [(1, 0), (3, 6)]] } (wRun)).at_ (0), 0, 0, 1, us 1, rfl, by decide +kernel⟩
theorem met_AxisInputEvents_5 : ∃ (s a : State) (t : Time) (x : Fin 4) (line : Fin 3) (held : Time), a = s.at_ t ∧ (rehOf a = none) ∧ (hubUp a = true) ∧ ((axisOf a x.val).isSome = true) ∧ (us 1 ≤ held) ∧ (line.val = 2) ∧ ((a.eng.axis.get (ctx x)).flags.zfault = false) := ⟨wCast { axis := [wRec 48 [(1, 0), (3, 6)]] } (wRun), (wCast { axis := [wRec 48 [(1, 0), (3, 6)]] } (wRun)).at_ (0), 0, 0, 2, us 1, rfl, by decide +kernel⟩
theorem met_AxisInputEvents_6 : ∃ (s a : State) (t : Time) (x : Fin 4) (u v : Bool) (held : Time), a = s.at_ t ∧ (rehOf a = none) ∧ (hubUp a = true) ∧ ((axisOf a x.val).isSome = true) ∧ ((a.eng.axis.get (ctx x)).flags.lost = true) ∧ (ms 100 ≤ held) ∧ (qerrPast (a.eng.axis.get (ctx x)) a.now = true) := ⟨{ wCast { axis := [wRec 48 [(1, 0), (3, 6)]] } (wRun) with eng := { wRun.eng with axis := wRun.eng.axis.set 0 { flags := { lost := true } } } }, ({ wCast { axis := [wRec 48 [(1, 0), (3, 6)]] } (wRun) with eng := { wRun.eng with axis := wRun.eng.axis.set 0 { flags := { lost := true } } } }).at_ (0), 0, 0, true, true, ms 100, rfl, by decide +kernel⟩
theorem met_AxisInputEvents_7 : ∃ (s a : State) (t : Time) (src : Nat) (bytes : List Byte), a = s.at_ t ∧ (rehOf a = none) ∧ (hubUp a = true) ∧ (bytes.length = 40) ∧ (((contexts a).filter fun e => decide (4 ≤ e.1.val) && axSrcdev e.2 == src && axSrcctx e.2 == u8 bytes 0 % 4) = []) := ⟨wRun, (wRun).at_ (0), 0, 0, List.replicate 40 0, rfl, by decide +kernel⟩
theorem met_AxisInputEvents_8 : ∃ (s a : State) (t : Time) (src : Nat) (bytes : List Byte) (x : Fin 8) (r : Rec), a = s.at_ t ∧ (rehOf a = none) ∧ (hubUp a = true) ∧ (bytes.length = 40) ∧ (((contexts a).filter fun e => decide (4 ≤ e.1.val) && axSrcdev e.2 == src && axSrcctx e.2 == u8 bytes 0 % 4) = [(x, r)]) ∧ (bitOf (u8 bytes 1) 0 = false) ∧ (bitOf (u8 bytes 1) 2 = false) ∧ (a.ep.counting = false) := ⟨wCast { axis := [wRec 48 [(0, 4)]] } wRun, (wCast { axis := [wRec 48 [(0, 4)]] } wRun).at_ (0), 0, 0, List.replicate 40 0, 4, wRec 48 [(0, 4)], rfl, by decide +kernel⟩
theorem met_AxisInputEvents_9 : ∃ (s a : State) (t : Time) (x : Fin 8), a = s.at_ t ∧ (rehOf a = none) ∧ (hubUp a = true) ∧ (4 ≤ x.val) ∧ ((axisOf a x.val).isSome = true) ∧ ((a.eng.axis.get x).lastAxs.all (fun b => decide (b + us 50 ≤ a.now)) = true) := ⟨wCast { axis := [wRec 48 [(0, 4)]] } wRun, (wCast { axis := [wRec 48 [(0, 4)]] } wRun).at_ (0), 0, 4, rfl, by decide +kernel⟩
theorem met_AxisInputEvents_10 : ∃ (s a : State) (t : Time) (x : Fin 4) (la lb : EncLine), a = s.at_ t ∧ (hubUp a = true) := ⟨wRun, (wRun).at_ (0), 0, 0, ⟨true, 9, none⟩, ⟨true, 9, none⟩, rfl, by decide +kernel⟩
theorem met_AxisInputEvents_11 : ∃ (s a : State) (t : Time) (l : ZLine) (r : Rec), a = s.at_ t ∧ (hubUp a = true) ∧ (axisOf a l.enc.val = some r) ∧ (axEfilt r < l.samples) := ⟨wCast { axis := [wRec 48 [(1, 0), (3, 6)]] } (wRun), (wCast { axis := [wRec 48 [(1, 0), (3, 6)]] } (wRun)).at_ (0), 0, ⟨0, 9⟩, wRec 48 [(1, 0), (3, 6)], rfl, by decide +kernel⟩
theorem met_AxisInputEvents_12 : ∃ (s a : State) (t : Time) (x : Fin 4) (line : Fin 3) (held : Time), a = s.at_ t ∧ (hubUp a = true) ∧ (us 1 ≤ held) := ⟨wRun, (wRun).at_ (0), 0, 0, 0, us 1, rfl, by decide +kernel⟩
theorem met_AxisInputEvents_13 : ∃ (s a : State) (t : Time) (x : Fin 4) (u v : Bool) (held : Time), a = s.at_ t ∧ (hubUp a = true) ∧ (ms 100 ≤ held) := ⟨wRun, (wRun).at_ (0), 0, 0, true, true, ms 100, rfl, by decide +kernel⟩
theorem met_AxisInputEvents_14 : ∃ (s a : State) (t : Time) (src : Nat) (bytes : List Byte), a = s.at_ t ∧ (hubUp a = true) ∧ (bytes.length = 40) := ⟨wRun, (wRun).at_ (0), 0, 0, List.replicate 40 0, rfl, by decide +kernel⟩
theorem met_AxisInputEvents_15 : ∃ (s a : State) (t : Time) (x : Fin 8), a = s.at_ t ∧ (hubUp a = true) := ⟨wRun, (wRun).at_ (0), 0, 4, rfl, by decide +kernel⟩

/-- AxisEngineEvents: the premises are met. -/
theorem met_AxisEngineEvents_1 : ∃ (s a : State) (t : Time), a = s.at_ t ∧ (rehOf a = none) ∧ (hubUp a = true) ∧ (sysNs a % 10000 = 0) := ⟨wRun, (wRun).at_ (0), 0, rfl, by decide +kernel⟩
theorem met_AxisEngineEvents_2 : ∃ (s a : State) (t : Time) (lane : Fin 96) (r : Rec) (k : Fin 96) (tick : Int) (v before : Word), a = s.at_ t ∧ (rehOf a = none) ∧ (hubUp a = true) ∧ (laneOf a lane.val = some r) ∧ (asFin 96 (laneTarget r) = some k) ∧ (timeEntry a lane r (a.eng.lane.get lane).nextEntry = some (tick, v, before)) ∧ (laneCam r = false) ∧ ((a.eng.lane.get lane).state = 1) ∧ (nearLater ((tick : Rat) - leadOf a k r before v * 2 / 5) ≤ (sysTick a + laneIssue r * 400 : Nat)) ∧ (laneLive a k = true) ∧ (laneOneshot r = true) := ⟨{ wCast { tlane := [wRec 60 [(2, 1), (5, 1), (10, 1)]], tent := [wRec 16 []], chan := [] } (wTile .live) with eng := { wRun.eng with lane := wRun.eng.lane.set 0 { state := 1 } } }, ({ wCast { tlane := [wRec 60 [(2, 1), (5, 1), (10, 1)]], tent := [wRec 16 []], chan := [] } (wTile .live) with eng := { wRun.eng with lane := wRun.eng.lane.set 0 { state := 1 } } }).at_ (0), 0, 0, wRec 60 [(2, 1), (5, 1), (10, 1)], 1, 0, 0, 0, rfl, by decide +kernel⟩
theorem met_AxisEngineEvents_3 : ∃ (s a : State) (t : Time) (x : Fin 8) (r : Rec), a = s.at_ t ∧ (rehOf a = none) ∧ (hubUp a = true) ∧ (axisOf a x.val = some r) ∧ ((a.eng.axis.get x).flags.rundown = true) ∧ ((a.eng.axis.get x).stopAt + ms (axTrdmax r) ≤ a.now) := ⟨{ wCast { axis := [wRec 48 [(1, 0), (3, 6)]] } (wRun) with eng := { wRun.eng with axis := wRun.eng.axis.set 0 { flags := { rundown := true } } } }, ({ wCast { axis := [wRec 48 [(1, 0), (3, 6)]] } (wRun) with eng := { wRun.eng with axis := wRun.eng.axis.set 0 { flags := { rundown := true } } } }).at_ (0), 0, 0, wRec 48 [(1, 0), (3, 6)], rfl, by decide +kernel⟩
theorem met_AxisEngineEvents_4 : ∃ (s a : State) (t : Time) (entry : Nat) (r : Rec) (b : Time), a = s.at_ t ∧ (rehOf a = none) ∧ (hubUp a = true) ∧ ((castAll a (·.href)).find? (fun r => hrEntry r == entry) = some r) ∧ ((hrefSt a entry).fired = false) ∧ (hrefKept a r = false) ∧ ((hrefSt a entry).since = some b) ∧ (b + us (hrQual r) ≤ a.now) ∧ ((hrCond r).any (termHolds a) = true) := ⟨{ wCast { href := [wRec 64 [(11, 1), (17, 192)]] } wRun with eng := { wRun.eng with href := [{ entry := 0, since := some 0 }] } }, ({ wCast { href := [wRec 64 [(11, 1), (17, 192)]] } wRun with eng := { wRun.eng with href := [{ entry := 0, since := some 0 }] } }).at_ (0), 0, 0, wRec 64 [(11, 1), (17, 192)], 0, rfl, by decide +kernel⟩
theorem met_AxisEngineEvents_5 : ∃ (s a : State) (t : Time) (block : Fin 48) (r : Rec), a = s.at_ t ∧ (rehOf a = none) ∧ (hubUp a = true) ∧ (loopRec a block.val = some r) ∧ (us (lpPhase r) ≤ sysHalf a) ∧ (0 < lpTs r) ∧ ((sysHalf a - us (lpPhase r)) % us (lpTs r) = 0) := ⟨wCast { loop := [wRec 120 [(20, 1)]] } wRun, (wCast { loop := [wRec 120 [(20, 1)]] } wRun).at_ (0), 0, 0, wRec 120 [(20, 1)], rfl, by decide +kernel⟩
theorem met_AxisEngineEvents_6 : ∃ (s a : State) (t : Time) (n : Fin 96) (r : Rec) (k : Fin 96) (c : Word), a = s.at_ t ∧ (rehOf a = none) ∧ (hubUp a = true) ∧ (totRec a n.val = some r) ∧ (a.ep.counting = true) ∧ ((a.eng.tot.get n).lastEpoch ≠ some a.ep.e) ∧ (ttCount r = true) ∧ (asFin 96 (ttSource r) = some k) ∧ ((a.eng.tot.get n).lastCount = some c) ∧ ((a.eng.tot.get n).preset = none) := ⟨{ wCast { loop := [wRec 120 [(0, 1), (2, 1)]] } wRun with ep := { wRun.ep with counting := true }, eng := { wRun.eng with tot := wRun.eng.tot.set 0 { lastCount := some 0 } } }, ({ wCast { loop := [wRec 120 [(0, 1), (2, 1)]] } wRun with ep := { wRun.ep with counting := true }, eng := { wRun.eng with tot := wRun.eng.tot.set 0 { lastCount := some 0 } } }).at_ (0), 0, 0, wRec 120 [(0, 1), (2, 1)], 0, 0, rfl, by decide +kernel⟩
theorem met_AxisEngineEvents_7 : ∃ (s a : State) (t : Time), a = s.at_ t ∧ (hubUp a = true) ∧ (sysNs a % 10000 = 0) := ⟨wRun, (wRun).at_ (0), 0, rfl, by decide +kernel⟩
theorem met_AxisEngineEvents_8 : ∃ (s a : State) (t : Time) (lane : Fin 96), a = s.at_ t ∧ (hubUp a = true) := ⟨wRun, (wRun).at_ (0), 0, 0, rfl, by decide +kernel⟩
theorem met_AxisEngineEvents_9 : ∃ (s a : State) (t : Time) (x : Fin 8), a = s.at_ t ∧ (hubUp a = true) := ⟨wRun, (wRun).at_ (0), 0, 0, rfl, by decide +kernel⟩
theorem met_AxisEngineEvents_10 : ∃ (s a : State) (t : Time) (entry : Nat), a = s.at_ t ∧ (hubUp a = true) := ⟨wRun, (wRun).at_ (0), 0, 0, rfl, by decide +kernel⟩
theorem met_AxisEngineEvents_11 : ∃ (s a : State) (t : Time) (block : Fin 48), a = s.at_ t ∧ (hubUp a = true) := ⟨wRun, (wRun).at_ (0), 0, 0, rfl, by decide +kernel⟩
theorem met_AxisEngineEvents_12 : ∃ (s a : State) (t : Time) (n : Fin 96), a = s.at_ t ∧ (hubUp a = true) ∧ (a.ep.counting = true) := ⟨wGrp { num := 0 }, (wGrp { num := 0 }).at_ (0), 0, 0, rfl, by decide +kernel⟩

/-- TokenEvents: the premises are met. -/
theorem met_TokenEvents_1 : ∃ (s a : State) (t : Time) (bytes : List Byte) (x : Group), a = s.at_ t ∧ (hubUp a = true) ∧ (a.ep.counting = true) ∧ (tkPhase bytes = 0) ∧ (grpHas (grpRec a (tkGroup bytes)) (grpSelf a) = true) ∧ (tkEpoch bytes = a.ep.e + 1) ∧ (groupOf a (tkGroup bytes) = some x) ∧ (x.launched ≠ some (tkEpoch bytes)) := ⟨wGrp { num := 0, state := 2 }, (wGrp { num := 0, state := 2 }).at_ (0), 0, wRec 28 [(2, 1)], { num := 0, state := 2 }, rfl, by decide +kernel⟩
theorem met_TokenEvents_2 : ∃ (s a : State) (t : Time) (bytes : List Byte) (x : Group) (y : State), a = s.at_ t ∧ (hubUp a = true) ∧ (a.ep.counting = true) ∧ (tkPhase bytes = 0) ∧ (grpHas (grpRec a (tkGroup bytes)) (grpSelf a) = true) ∧ (tkEpoch bytes = a.ep.e + 1) ∧ (groupOf a (tkGroup bytes) = some x) ∧ (x.launched ≠ some (tkEpoch bytes)) ∧ (x.leaving = [grpSelf a]) ∧ (x.state ≠ 3) ∧ (y = modGroup (tkGroup bytes) (fun z => { z with leaving := [] }) (modGroup (tkGroup bytes) (fun z => { z with state := 0, readyRun := 0, rejoin := false }) a)) :=
  ⟨wGrp { num := 0, state := 2, leaving := [5] }, _, 0, wRec 28 [(2, 1)], { num := 0, state := 2, leaving := [5] }, _, rfl, by decide +kernel, by decide +kernel, by decide +kernel, by decide +kernel, by decide +kernel, by decide +kernel, by decide +kernel, by decide +kernel, by decide +kernel, rfl⟩
theorem met_TokenEvents_3 : ∃ (s a : State) (t : Time) (bytes : List Byte) (x : Group) (m : Nat) (y : State), a = s.at_ t ∧ (hubUp a = true) ∧ (a.ep.counting = true) ∧ (tkPhase bytes = 0) ∧ (grpHas (grpRec a (tkGroup bytes)) (grpSelf a) = true) ∧ (tkEpoch bytes = a.ep.e + 1) ∧ (groupOf a (tkGroup bytes) = some x) ∧ (x.launched ≠ some (tkEpoch bytes)) ∧ (x.leaving = [m]) ∧ (m ≠ grpSelf a) ∧ (isLeader a x = false) ∧ (ctlDev a (tkGroup bytes) = some m) ∧ (y = modGroup (tkGroup bytes) (fun z => { z with leaving := [] }) (modGroup (tkGroup bytes) (fun z => { z with silence := true, served := false }) a)) :=
  ⟨wCast { grp := [wRec 320 [(64, 96), (6, 6)]] } (wGrp { num := 0, state := 2, leaving := [6], leader := some (1, 0) }), _, 0, wRec 28 [(2, 1)], { num := 0, state := 2, leaving := [6], leader := some (1, 0) }, 6, _, rfl, by decide +kernel, by decide +kernel, by decide +kernel, by decide +kernel, by decide +kernel, by decide +kernel, by decide +kernel, by decide +kernel, by decide +kernel, by decide +kernel, by decide +kernel, rfl⟩
theorem met_TokenEvents_4 : ∃ (s a : State) (t : Time) (bytes : List Byte) (x : Group), a = s.at_ t ∧ (hubUp a = true) ∧ (a.ep.counting = true) ∧ (tkPhase bytes = 0) ∧ (grpHas (grpRec a (tkGroup bytes)) (grpSelf a) = true) ∧ (tkEpoch bytes = a.ep.e + 1) ∧ (groupOf a (tkGroup bytes) = some x) ∧ (x.launched = some (tkEpoch bytes)) := ⟨wGrp { num := 0, state := 2, launched := some 1 }, (wGrp { num := 0, state := 2, launched := some 1 }).at_ (0), 0, wRec 28 [(2, 1)], { num := 0, state := 2, launched := some 1 }, rfl, by decide +kernel⟩
theorem met_TokenEvents_5 : ∃ (s a : State) (t : Time) (src : Nat) (bytes : List Byte) (x : Group), a = s.at_ t ∧ (hubUp a = true) ∧ (a.ep.counting = true) ∧ (tkPhase bytes = 1) ∧ (grpHas (grpRec a (tkGroup bytes)) (grpSelf a) = true) ∧ (tkEpoch bytes = a.ep.e + 1) ∧ (groupOf a (tkGroup bytes) = some x) ∧ (x.verdict.all (fun v => v.epoch != tkEpoch bytes) = true) ∧ (x.noVerdict ≠ some (tkEpoch bytes)) ∧ (lookupO x.visits (grpSelf a) = some (tkEpoch bytes) ∨ tkHash bytes = ghash (grpRec a (tkGroup bytes))) := ⟨wGrp { num := 0, state := 2, visits := [(5, 1)] }, (wGrp { num := 0, state := 2, visits := [(5, 1)] }).at_ (0), 0, 7, wRec 28 [(2, 1), (8, 1), (9, 1)], { num := 0, state := 2, visits := [(5, 1)] }, rfl, by decide +kernel⟩
theorem met_TokenEvents_6 : ∃ (s a : State) (t : Time) (src : Nat) (bytes : List Byte), a = s.at_ t ∧ (tkEpoch bytes ≠ a.ep.e + 1) := ⟨wRun, (wRun).at_ (0), 0, 7, [], rfl, by decide +kernel⟩
theorem met_TokenEvents_7 : ∃ (s a : State) (t : Time), a = s.at_ t ∧ (hubUp a = true) ∧ (a.ep.counting = true) ∧ (epochHalf a (a.ep.e + 1) ≤ (sysHalf a + us 100 : Nat)) := ⟨wGrp { num := 0, state := 2 }, (wGrp { num := 0, state := 2 }).at_ (us 900), us 900, rfl, by decide +kernel⟩
theorem met_TokenEvents_8 : ∃ (s a : State) (t : Time) (group member : Nat) (x : Group), a = s.at_ t ∧ (hubUp a = true) ∧ (a.ep.counting = true) ∧ (groupOf a group = some x) ∧ (group ≠ ownGroup) ∧ (grpHas (grpRec a group) member = true) ∧ ((lookupO x.visits member).all (fun e => decide (e + 3 ≤ a.ep.e)) = true) ∧ (member = grpSelf a) ∧ (a.net.ownBack = none) := ⟨wGrp { num := 0, state := 2 }, (wGrp { num := 0, state := 2 }).at_ (0), 0, 0, 5, { num := 0, state := 2 }, rfl, by decide +kernel⟩
theorem met_TokenEvents_9 : ∃ (s a : State) (t : Time) (group member : Nat) (x : Group) (back : Time), a = s.at_ t ∧ (hubUp a = true) ∧ (a.ep.counting = true) ∧ (groupOf a group = some x) ∧ (group ≠ ownGroup) ∧ (grpHas (grpRec a group) member = true) ∧ ((lookupO x.visits member).all (fun e => decide (e + 3 ≤ a.ep.e)) = true) ∧ (member = grpSelf a) ∧ (a.net.ownBack = some back) ∧ (back + ms 5 ≤ a.now) := ⟨let s := wGrp { num := 0, state := 2 }; { s with net := { s.net with ownBack := some 0 } }, (let s := wGrp { num := 0, state := 2 }; { s with net := { s.net with ownBack := some 0 } }).at_ (ms 5), ms 5, 0, 5, { num := 0, state := 2 }, 0, rfl, by decide +kernel⟩
theorem met_TokenEvents_10 : ∃ (s a : State) (t : Time) (group member : Nat) (x : Group), a = s.at_ t ∧ (hubUp a = true) ∧ (a.ep.counting = true) ∧ (groupOf a group = some x) ∧ (group ≠ ownGroup) ∧ (grpHas (grpRec a group) member = true) ∧ ((lookupO x.visits member).all (fun e => decide (e + 3 ≤ a.ep.e)) = true) ∧ (member ≠ grpSelf a) ∧ (a.net.pmaps = []) ∧ (a.net.srcs.all (fun q => q.num != member || decide (q.last + ms 5 ≤ a.now)) = true) := ⟨wCast { grp := [wRec 320 [(64, 96), (6, 6)]] } (wGrp { num := 0, state := 2, leader := some (1, 0) }), (wCast { grp := [wRec 320 [(64, 96), (6, 6)]] } (wGrp { num := 0, state := 2, leader := some (1, 0) })).at_ (0), 0, 0, 6, { num := 0, state := 2, leader := some (1, 0) }, rfl, by decide +kernel⟩

/-- EpochInstants: the premises are met. -/
theorem met_EpochInstants_1 : ∃ (s a : State) (t : Time), a = s.at_ t ∧ (hubUp a = true) ∧ (a.ep.counting = true) ∧ (a.ep.e < epochNow (changePeriod a)) := ⟨wGrp { num := 0, state := 2 }, (wGrp { num := 0, state := 2 }).at_ (ms 1), ms 1, rfl, by decide +kernel⟩
theorem met_EpochInstants_2 : ∃ (s a : State) (t : Time), a = s.at_ t ∧ (hubUp a = true) ∧ (a.ep.counting = true) ∧ (epochHalf a (a.ep.e + 1) - (guardHalf a : Int) ≤ (sysHalf a : Int)) := ⟨wGrp { num := 0, state := 2 }, (wGrp { num := 0, state := 2 }).at_ (ms 1), ms 1, rfl, by decide +kernel⟩
theorem met_EpochInstants_3 : ∃ (s a : State) (t : Time) (items : List SetItem), a = s.at_ t ∧ (hubUp a = true) ∧ (a.ep.counting = true) ∧ (a.ep.loaded ≠ a.ep.e + 1) ∧ (epochHalf a (a.ep.e + 1) ≤ (sysHalf a + us 84 : Nat)) ∧ (items = ((committing (a.ep.e + 1) (forEach ((a.ep.groups.filter fun g => g.state == 1 && fixedReady g (a.ep.e + 1)).map (·.num)) (modGroup · fun g => { g with state := 2 }) a)).flatMap fun g => (splitSets (dueSets a g (a.ep.e + 1))).1).flatMap (·.items)) ∧ ((items.any fun i => isSwitch i.act) = false) := ⟨wGrp { num := 0, state := 2 }, (wGrp { num := 0, state := 2 }).at_ (ms 1), ms 1, [], rfl, by decide +kernel⟩
theorem met_EpochInstants_4 : ∃ (s a : State) (t : Time), a = s.at_ t ∧ (hubUp a = true) ∧ (a.ep.counting = false) := ⟨wRun, (wRun).at_ (0), 0, rfl, by decide +kernel⟩
theorem met_EpochInstants_5 : ∃ (s a : State) (t : Time), a = s.at_ t ∧ (a.ep.counting = false) := ⟨wRun, (wRun).at_ (0), 0, rfl, by decide +kernel⟩
theorem met_EpochInstants_6 : ∃ (s a : State) (t : Time), a = s.at_ t ∧ (a.ep.counting = false) := ⟨wRun, (wRun).at_ (0), 0, rfl, by decide +kernel⟩

/-- ImageFrameAndCutEvents: the premises are met. -/
theorem met_ImageFrameAndCutEvents_1 : ∃ (s a : State) (t : Time), a = s.at_ t ∧ (hubUp a = true) ∧ (a.ep.counting = true) ∧ (a.ep.ownDone ≠ a.ep.e) ∧ (epochHalf a a.ep.e + (us 25 : Nat) ≤ (sysHalf a : Int)) ∧ ((sysHalf a : Int) < epochHalf a (a.ep.e + 1)) ∧ (mute a = true) := ⟨let s := wCast { pair := wRec 64 [(0, 9)] } (wGrp { num := 0, state := 2 }); { s with ep := { s.ep with e := 1 } }, (let s := wCast { pair := wRec 64 [(0, 9)] } (wGrp { num := 0, state := 2 }); { s with ep := { s.ep with e := 1 } }).at_ (ms 1 + us 25), ms 1 + us 25, rfl, by decide +kernel⟩
theorem met_ImageFrameAndCutEvents_2 : ∃ (s a : State) (t : Time), a = s.at_ t ∧ (hubUp a = true) ∧ (a.ep.counting = true) ∧ (a.ep.ownDone ≠ a.ep.e) ∧ (epochHalf a a.ep.e + (us 25 : Nat) ≤ (sysHalf a : Int)) ∧ ((sysHalf a : Int) < epochHalf a (a.ep.e + 1)) ∧ (mute a = false) ∧ (netUp a = true) ∧ (a.ep.published = []) := ⟨let s := wGrp { num := 0, state := 2 }; { s with ep := { s.ep with e := 1 } }, (let s := wGrp { num := 0, state := 2 }; { s with ep := { s.ep with e := 1 } }).at_ (ms 1 + us 25), ms 1 + us 25, rfl, by decide +kernel⟩
theorem met_ImageFrameAndCutEvents_3 : ∃ (s a : State) (t : Time) (src : Nat) (bytes : List Byte), a = s.at_ t ∧ (isSelf a src = true) := ⟨wGrp { num := 0, state := 2 }, (wGrp { num := 0, state := 2 }).at_ (0), 0, 5, [], rfl, by decide +kernel⟩
theorem met_ImageFrameAndCutEvents_4 : ∃ (s a : State) (t : Time) (src : Nat) (bytes : List Byte) (i : RImage), a = s.at_ t ∧ (hubUp a = true) ∧ (isSelf a src = false) ∧ (bitOf (u8 bytes 6) 0 = true) ∧ (i = (imageOf a src (uN bytes 0 6)).getD { dev := src, epoch := uN bytes 0 6, parts := [], last := none, unlocked := false, recs := [] }) := ⟨wGrp { num := 0, state := 2 }, (wGrp { num := 0, state := 2 }).at_ (0), 0, 6, wRec 16 [(6, 1)], { dev := 6, epoch := 0, parts := [], last := none, unlocked := false, recs := [] }, rfl, by decide +kernel⟩
theorem met_ImageFrameAndCutEvents_5 : ∃ (s a : State) (t : Time) (src : Nat) (bytes : List Byte) (i : RImage) (fresh : List (Word × TagRec)), a = s.at_ t ∧ (hubUp a = true) ∧ (isSelf a src = false) ∧ (bitOf (u8 bytes 6) 0 = false) ∧ (i = (imageOf a src (uN bytes 0 6)).getD { dev := src, epoch := uN bytes 0 6, parts := [], last := none, unlocked := false, recs := [] }) ∧ (fresh = ((imgRuns (u16 bytes 8) (bytes.drop 12)).filter fun r => r.2.2 &&& cswAbsent == 0).map fun r => ((BitVec.ofNat 32 (src * 32768 + r.1), { value := r.2.1, csw := r.2.2, epoch := uN bytes 0 6 }) : Word × TagRec)) := ⟨wGrp { num := 0, state := 2 }, (wGrp { num := 0, state := 2 }).at_ (0), 0, 6, wRec 8 [], { dev := 6, epoch := 0, parts := [], last := none, unlocked := false, recs := [] }, [], rfl, by decide +kernel⟩
theorem met_ImageFrameAndCutEvents_6 : ∃ (s a : State) (t : Time) (iq : Fin 16), a = s.at_ t ∧ (cutDue iq a = true) := ⟨let s := wGrp { num := 0, state := 2 }; { s with ep := { s.ep with e := 1, iq := s.ep.iq.set 0 { en := true } } }, (let s := wGrp { num := 0, state := 2 }; { s with ep := { s.ep with e := 1, iq := s.ep.iq.set 0 { en := true } } }).at_ (ms 2), ms 2, 0, rfl, by decide +kernel⟩
theorem met_ImageFrameAndCutEvents_7 : ∃ (s a : State) (t : Time) (iq : Fin 16), a = s.at_ t ∧ (cutDue iq a = false) := ⟨wRun, (wRun).at_ (0), 0, 0, rfl, by decide +kernel⟩

/-- PortEvents: the premises are met. -/
theorem met_PortEvents_1 : ∃ (s a : State) (t : Time) (port : Fin 5) (held : Time), a = s.at_ t ∧ (hubAlive a = true) ∧ ((a.net.port.get port).state = 0) ∧ (ms 1 ≤ held) ∧ ((a.flt.blocks.any fun b => b.1 == portSource port) = false) ∧ (port.val = 4) := ⟨wRun, (wRun).at_ (0), 0, 4, ms 1, rfl, by decide +kernel⟩
theorem met_PortEvents_2 : ∃ (s a : State) (t : Time) (port : Fin 5) (held : Time), a = s.at_ t ∧ (hubAlive a = true) ∧ ((a.net.port.get port).state = 0) ∧ (ms 1 ≤ held) ∧ ((a.flt.blocks.any fun b => b.1 == portSource port) = false) ∧ (port.val ≠ 4) ∧ ((ringIn a).contains port = true) := ⟨wRun, (wRun).at_ (0), 0, 0, ms 1, rfl, by decide +kernel⟩
theorem met_PortEvents_3 : ∃ (s a : State) (t : Time) (port : Fin 5), a = s.at_ t ∧ (hubAlive a = true) ∧ (portOn a port = true) ∧ (port.val ≠ 4) ∧ (ringsDown (raise (portSource port) (recordPort port 2 (a.net.port.get port).bad (modPort port (fun p => { p with state := 0, downAt := a.now, cand := none, echo := none }) a))) = false) := ⟨{ wRun with net := { wRun.net with port := (wRun.net.port.set 0 { state := 1 }).set 1 { state := 1 } } }, ({ wRun with net := { wRun.net with port := (wRun.net.port.set 0 { state := 1 }).set 1 { state := 1 } } }).at_ (0), 0, 0, rfl, by decide +kernel⟩
theorem met_PortEvents_4 : ∃ (s a : State) (t : Time) (port : Fin 5), a = s.at_ t ∧ (hubAlive a = true) ∧ (portOn a port = true) ∧ (port.val = 4) := ⟨{ wRun with net := { wRun.net with port := wRun.net.port.set 4 { state := 1 } } }, ({ wRun with net := { wRun.net with port := wRun.net.port.set 4 { state := 1 } } }).at_ (0), 0, 4, rfl, by decide +kernel⟩
theorem met_PortEvents_5 : ∃ (s a : State) (t : Time) (port : Fin 5) (q : Fin 4) (bytes : List Byte) (fin : FrameEnd) (z : State), a = s.at_ t ∧ (hubAlive a = true) ∧ (portOn a port = true) ∧ (port.val = q.val) ∧ (bytes ≠ []) ∧ (z = portErrors port fin.codes (raiseDrops a)) :=
  ⟨{ wRun with net := { wRun.net with port := wRun.net.port.set 0 { state := 1 } } }, _, 0, 0, 0, [1], ⟨true, 0⟩, _, rfl, by decide +kernel, by decide +kernel, by decide +kernel, by decide +kernel, rfl⟩
theorem met_PortEvents_6 : ∃ (s a : State) (t : Time) (port : Fin 5) (bytes : List Byte) (fin : FrameEnd) (z : State), a = s.at_ t ∧ (hubAlive a = true) ∧ (portOn a port = true) ∧ (port.val = 4) ∧ (bytes ≠ []) ∧ (z = portErrors port fin.codes (raiseDrops a)) :=
  ⟨{ wRun with net := { wRun.net with port := wRun.net.port.set 4 { state := 1 } } }, _, 0, 4, [1], ⟨true, 0⟩, _, rfl, by decide +kernel, by decide +kernel, by decide +kernel, by decide +kernel, rfl⟩
theorem met_PortEvents_7 : ∃ (s a : State) (t : Time) (port : Fin 5) (bytes : List Byte) (fin : FrameEnd), a = s.at_ t ∧ (hubAlive a = true) ∧ (portOn a port = true) ∧ (bytes = []) := ⟨{ wRun with net := { wRun.net with port := wRun.net.port.set 0 { state := 1 } } }, ({ wRun with net := { wRun.net with port := wRun.net.port.set 0 { state := 1 } } }).at_ (0), 0, 0, [], ⟨true, 0⟩, rfl, by decide +kernel⟩
theorem met_PortEvents_8 : ∃ (s a : State) (t : Time) (port : Fin 5) (bytes : List Byte) (fin : FrameEnd), a = s.at_ t ∧ (portOn a port = false) := ⟨wRun, (wRun).at_ (0), 0, 0, [], ⟨true, 0⟩, rfl, by decide +kernel⟩
theorem met_PortEvents_9 : ∃ (s a : State) (t : Time) (src : Nat), a = s.at_ t ∧ (hubAlive a = true) := ⟨wRun, (wRun).at_ (0), 0, 5, rfl, by decide +kernel⟩
theorem met_PortEvents_10 : ∃ (s a : State) (t : Time), a = s.at_ t ∧ (hubUp a = true) ∧ (a.net.state = 3) ∧ (((ringIn a).all fun p => !portOn a p && decide ((a.net.port.get p).downAt + ms 10 ≤ a.now)) = true) := ⟨wChan .live [], (wChan .live []).at_ (ms 10), ms 10, rfl, by decide +kernel⟩
theorem met_PortEvents_11 : ∃ (s a : State) (t : Time), a = s.at_ t ∧ (hubUp a = true) ∧ (a.net.state = 2) ∧ (a.net.listenAt + ms 10 ≤ a.now) ∧ (a.net.locked = false) := ⟨{ wRun with net := { wRun.net with state := 2 } }, ({ wRun with net := { wRun.net with state := 2 } }).at_ (ms 10), ms 10, rfl, by decide +kernel⟩
theorem met_PortEvents_12 : ∃ (s a : State) (t : Time), a = s.at_ t ∧ (hubUp a = true) ∧ (a.net.state = 2) ∧ (a.net.listenAt + ms 10 ≤ a.now) ∧ (a.net.locked = true) := ⟨{ wRun with net := { wRun.net with state := 2, locked := true } }, ({ wRun with net := { wRun.net with state := 2, locked := true } }).at_ (ms 10), ms 10, rfl, by decide +kernel⟩

/-- NetworkTimeEvents: the premises are met. -/
theorem met_NetworkTimeEvents_1 : ∃ (s a : State) (t : Time) (z : State), a = s.at_ t ∧ (netUp a = true) ∧ (z = raiseDrops a) ∧ (isMaster z = false) :=
  ⟨{ wChan .live [] with net := { wRun.net with num := 5, numValid := true, state := 3, upPort := some 0 } }, _, 0, _, rfl, by decide +kernel, rfl, by decide +kernel⟩
theorem met_NetworkTimeEvents_2 : ∃ (s a : State) (t : Time) (z : State), a = s.at_ t ∧ (netUp a = true) ∧ (z = raiseDrops a) ∧ (isMaster z = true) :=
  ⟨{ wRun with net := { wRun.net with state := 3, num := 5, numValid := true, prioHeld := false } }, _, 0, _, rfl, by decide +kernel, rfl, by decide +kernel⟩
theorem met_NetworkTimeEvents_3 : ∃ (s a : State) (t : Time) (port : Fin 4) (src : Nat) (bytes : List Byte) (z : State), a = s.at_ t ∧ (hubUp a = true) ∧ (portOn a ⟨port.val, by omega⟩ = true) ∧ (60 ≤ bytes.length) ∧ (((a.net.port.get ⟨port.val, by omega⟩).txs.any fun e => e.1 == fieldTime bytes 9 && decide (a.now ≤ e.2 + ms 1)) = false) ∧ (z = chooseUpstream (modPort ⟨port.val, by omega⟩ (fun x => { x with
          cand := takeCand a.now bytes x.cand
          echo := some (fieldTime bytes 0, sys256 a)
          lastTim := some a.now }) a)) :=
  let s := { wRun with net := { wRun.net with port := wRun.net.port.set 0 { state := 1 } } }
  ⟨s, s.at_ 0, 0, 0, 7, wRec 60 [], _, rfl, by decide +kernel, by decide +kernel, by decide +kernel, by decide +kernel, rfl⟩
theorem met_NetworkTimeEvents_4 : ∃ (s a : State) (t : Time) (port : Fin 4) (src : Nat) (bytes : List Byte) (z : State), a = s.at_ t ∧ (hubUp a = true) ∧ (portOn a ⟨port.val, by omega⟩ = true) ∧ (60 ≤ bytes.length) ∧ (((a.net.port.get ⟨port.val, by omega⟩).txs.any fun e => e.1 == fieldTime bytes 9 && decide (a.now ≤ e.2 + ms 1)) = true) ∧ (z = chooseUpstream (modPort ⟨port.val, by omega⟩ (fun x => { x with
          cand := takeCand a.now bytes x.cand
          echo := some (fieldTime bytes 0, sys256 a)
          lastTim := some a.now
          lastValid := some a.now
          delay := (((sys256 a : Int) - fieldTime bytes 9) - ((fieldTime bytes 0 : Int) - fieldTime bytes 18)) / 2
          offset := (((fieldTime bytes 18 : Int) - fieldTime bytes 9) + ((fieldTime bytes 0 : Int) - (sys256 a : Int))) / 2 }) a)) ∧ (z.net.upPort ≠ some port) :=
  let s := { wRun with net := { wRun.net with port := wRun.net.port.set 0 { state := 1, txs := [(0, 0)] } } }
  ⟨s, s.at_ 0, 0, 0, 7, wRec 60 [], _, rfl, by decide +kernel, by decide +kernel, by decide +kernel, by decide +kernel, rfl, by decide +kernel⟩
theorem met_NetworkTimeEvents_5 : ∃ (s a : State) (t : Time) (port : Fin 4) (src : Nat) (bytes : List Byte) (z y : State), a = s.at_ t ∧ (hubUp a = true) ∧ (portOn a ⟨port.val, by omega⟩ = true) ∧ (60 ≤ bytes.length) ∧ (((a.net.port.get ⟨port.val, by omega⟩).txs.any fun e => e.1 == fieldTime bytes 9 && decide (a.now ≤ e.2 + ms 1)) = true) ∧ (z = chooseUpstream (modPort ⟨port.val, by omega⟩ (fun x => { x with
          cand := takeCand a.now bytes x.cand
          echo := some (fieldTime bytes 0, sys256 a)
          lastTim := some a.now
          lastValid := some a.now
          delay := (((sys256 a : Int) - fieldTime bytes 9) - ((fieldTime bytes 0 : Int) - fieldTime bytes 18)) / 2
          offset := (((fieldTime bytes 18 : Int) - fieldTime bytes 9) + ((fieldTime bytes 0 : Int) - (sys256 a : Int))) / 2 }) a)) ∧ (z.net.upPort = some port) ∧ (y = takeGrid bytes z) :=
  let s := { wRun with net := { wRun.net with state := 3, port := wRun.net.port.set 0 { state := 1, txs := [(0, 0)], cand := some { prio := 1, num := 6, dist := 0, locked := true, mseq := 0, adv := none, seen := 0 } } } }
  ⟨s, s.at_ 0, 0, 0, 6, wRec 64 [(27, 6), (29, 1), (32, 1)], _, _, rfl, by decide +kernel, by decide +kernel, by decide +kernel, by decide +kernel, rfl, by decide +kernel, rfl⟩
theorem met_NetworkTimeEvents_6 : ∃ (s a : State) (t : Time) (p : Fin 4) (b : Time) (z : State), a = s.at_ t ∧ (hubUp a = true) ∧ (a.net.upPort = some p) ∧ ((a.net.port.get ⟨p.val, by omega⟩).lastValid = some b) ∧ (b + us 250 ≤ a.now) ∧ (z = chooseUpstream (modPort ⟨p.val, by omega⟩ (fun x => { x with cand := none }) a)) :=
  let s := { wRun with net := { wRun.net with upPort := some 0, port := wRun.net.port.set 0 { lastValid := some 0 } } }
  ⟨s, s.at_ (us 250), us 250, 0, 0, _, rfl, by decide +kernel, by decide +kernel, by decide +kernel, by decide +kernel, rfl⟩
theorem met_NetworkTimeEvents_7 : ∃ (s a : State) (t : Time) (b : Time), a = s.at_ t ∧ (hubUp a = true) ∧ (a.net.locked = true) ∧ (a.net.upPort.isNone = true) ∧ (isMaster a = false) ∧ (a.net.upLostAt = some b) ∧ (b + ms 10 ≤ a.now) := ⟨{ wRun with net := { wRun.net with locked := true, upLostAt := some 0 } }, ({ wRun with net := { wRun.net with locked := true, upLostAt := some 0 } }).at_ (ms 10), ms 10, 0, rfl, by decide +kernel⟩
theorem met_NetworkTimeEvents_8 : ∃ (s a : State) (t : Time) (port : Fin 4) (c : Cand), a = s.at_ t ∧ (hubUp a = true) ∧ ((a.net.port.get ⟨port.val, by omega⟩).cand = some c) ∧ (candLive a c = false) := ⟨{ wRun with net := { wRun.net with port := wRun.net.port.set 0 { cand := some { prio := 1, num := 6, dist := 0, locked := true, mseq := 0, adv := some 0, seen := 0 } } } }, ({ wRun with net := { wRun.net with port := wRun.net.port.set 0 { cand := some { prio := 1, num := 6, dist := 0, locked := true, mseq := 0, adv := some 0, seen := 0 } } } }).at_ (ms 1), ms 1, 0, { prio := 1, num := 6, dist := 0, locked := true, mseq := 0, adv := some 0, seen := 0 }, rfl, by decide +kernel⟩
theorem met_NetworkTimeEvents_9 : ∃ (s a : State) (t : Time), a = s.at_ t ∧ (hubUp a = true) ∧ (a.net.prioHeld = true) ∧ (a.net.locked = true) ∧ (a.net.lockedAt + sec 1 ≤ a.now) := ⟨{ wRun with net := { wRun.net with locked := true, prioHeld := true } }, ({ wRun with net := { wRun.net with locked := true, prioHeld := true } }).at_ (sec 1), sec 1, rfl, by decide +kernel⟩

/-- HeartbeatEvents: the premises are met. -/
theorem met_HeartbeatEvents_1 : ∃ (s a : State) (t : Time), a = s.at_ t ∧ (hubUp a = true) ∧ (a.pwr.failing = false) ∧ (a.net.state = 1) := ⟨{ wRun with net := { wRun.net with state := 1 } }, ({ wRun with net := { wRun.net with state := 1 } }).at_ (0), 0, rfl, by decide +kernel⟩
theorem met_HeartbeatEvents_2 : ∃ (s a : State) (t : Time), a = s.at_ t ∧ (hubUp a = true) ∧ (a.pwr.failing = false) ∧ (a.net.state = 3 ∨ a.net.state = 4) := ⟨wChan .live [], (wChan .live []).at_ (0), 0, rfl, by decide +kernel⟩
theorem met_HeartbeatEvents_3 : ∃ (s a : State) (t : Time) (src : Nat) (bytes : List Byte), a = s.at_ t ∧ (hubUp a = true) ∧ (bitOf (u8 bytes 9) 5 = false) ∧ (bitOf (u8 bytes 9) 4 = true) ∧ (src ≠ a.net.num) := ⟨wChan .live [], (wChan .live []).at_ (0), 0, 33, wRec 20 [(9, 16)], rfl, by decide +kernel⟩
theorem met_HeartbeatEvents_4 : ∃ (s a : State) (t : Time) (src : Nat) (bytes : List Byte), a = s.at_ t ∧ (hubUp a = true) ∧ (bitOf (u8 bytes 9) 5 = false) ∧ (bitOf (u8 bytes 9) 4 = false) ∧ (src ≠ a.net.num) := ⟨wChan .live [], (wChan .live []).at_ (0), 0, 33, wRec 20 [], rfl, by decide +kernel⟩
theorem met_HeartbeatEvents_5 : ∃ (s a : State) (t : Time) (src : Nat) (bytes : List Byte) (z : State), a = s.at_ t ∧ (hubUp a = true) ∧ (bitOf (u8 bytes 9) 5 = false) ∧ (bitOf (u8 bytes 9) 4 = false) ∧ (a.net.numValid = true) ∧ (src = a.net.num) ∧ (u64 bytes 0 ≠ a.nvs.store.serial.toNat) ∧ (a.net.state = 3) ∧ (z = { a with net := { a.net with hbts := (src, BitVec.ofNat 8 (u8 bytes 9), a.now) :: a.net.hbts.filter fun p => p.1 != src } }) :=
  ⟨wChan .live [], _, 0, 5, wRec 20 [(0, 9)], _, rfl, by decide +kernel, by decide +kernel, by decide +kernel, by decide +kernel, by decide +kernel, by decide +kernel, by decide +kernel, rfl⟩
theorem met_HeartbeatEvents_6 : ∃ (s a : State) (t : Time) (src : Nat) (bytes : List Byte), a = s.at_ t ∧ (bitOf (u8 bytes 9) 5 = true) := ⟨wRun, (wRun).at_ (0), 0, 5, wRec 20 [(9, 32)], rfl, by decide +kernel⟩

/-- PairMemberEvents: the premises are met. -/
theorem met_PairMemberEvents_1 : ∃ (s a : State) (t : Time), a = s.at_ t ∧ (hubUp a = true) ∧ (seated a = true) := ⟨wPair .active, (wPair .active).at_ (0), 0, rfl, by decide +kernel⟩
theorem met_PairMemberEvents_2 : ∃ (s a : State) (t : Time) (bytes : List Byte), a = s.at_ t ∧ (hubUp a = true) ∧ (mirrors a = true) := ⟨wPair .standby, (wPair .standby).at_ (0), 0, [], rfl, by decide +kernel⟩
theorem met_PairMemberEvents_3 : ∃ (s a : State) (t : Time) (b : Time), a = s.at_ t ∧ (hubUp a = true) ∧ (a.pair.state = .standby) ∧ (a.pair.armed = true) ∧ (a.pair.linkLostAt = some b) ∧ (b + ms 1 ≤ a.now) := ⟨{ wPair .standby with pair := { (wPair .standby).pair with armed := true, linkLostAt := some 0 } }, ({ wPair .standby with pair := { (wPair .standby).pair with armed := true, linkLostAt := some 0 } }).at_ (ms 1), ms 1, 0, rfl, by decide +kernel⟩
theorem met_PairMemberEvents_4 : ∃ (s a : State) (t : Time) (b : Time), a = s.at_ t ∧ (hubUp a = true) ∧ (a.pair.state = .active) ∧ (a.pair.partnered = true) ∧ (a.pair.linkLostAt = some b) ∧ (b + ms 2 ≤ a.now) := ⟨{ wPair .active with pair := { (wPair .active).pair with partnered := true, linkLostAt := some 0 } }, ({ wPair .active with pair := { (wPair .active).pair with partnered := true, linkLostAt := some 0 } }).at_ (ms 2), ms 2, 0, rfl, by decide +kernel⟩
theorem met_PairMemberEvents_5 : ∃ (s a : State) (t : Time) (b : Time) (i : Image), a = s.at_ t ∧ (hubUp a = true) ∧ (seated a = true) ∧ (a.pair.state = .orphan) ∧ (paired a = true) ∧ (a.pair.wit.2.1 = true) ∧ (a.pair.orphanSince = some b) ∧ (a.img.cast = some i) ∧ (b + ms (prOrphwait i.pair) ≤ a.now) := ⟨{ wPair .orphan with pair := { (wPair .orphan).pair with wit := (false, true, false), orphanSince := some 0 } }, ({ wPair .orphan with pair := { (wPair .orphan).pair with wit := (false, true, false), orphanSince := some 0 } }).at_ (0), 0, 0, { pair := wRec 64 [(0, 9)] }, rfl, by decide +kernel⟩
theorem met_PairMemberEvents_6 : ∃ (s a : State) (t : Time) (equal still : Time) (field : List (Fin 96 × Int × Time)) (w1 w2 w3 : Bool) (z : State), a = s.at_ t ∧ (hubUp a = true) ∧ (seated a = true) ∧ (w1 = linkWitness a) ∧ (w2 = (decide (us 5 ≤ equal) || decide (us 500 ≤ still))) ∧ (w3 = fieldWitness field a) ∧ (2 ≤ count3 w1 w2 w3) ∧ (z = (fun s1 : State => if w2 then raiseLevel 0x097 s1 else calm 0x097 s1) { a with pair := { a.pair with
          wit := (w1, w2, w3)
          linkLostAt := if w1 then (match a.pair.linkLostAt with | some b => some b | none => some a.now) else none
          orphanSince := if w1 && w2 && !foreignDrive field a then (match a.pair.orphanSince with | some b => some b | none => some a.now) else none } }) ∧ (mayTake z = true) ∧ (z.pair.armed = true) :=
  let s := { wPair .standby with pair := { (wPair .standby).pair with armed := true } }
  ⟨s, s.at_ 0, 0, us 5, 0, [], true, true, false, _, rfl, by decide +kernel, by decide +kernel, by decide +kernel, by decide +kernel, by decide +kernel, by decide +kernel, rfl, by decide +kernel, by decide +kernel⟩
theorem met_PairMemberEvents_7 : ∃ (s a : State) (t : Time) (epoch stamp reason : Nat), a = s.at_ t ∧ (hubUp a = true) ∧ (mayTake a = true) := ⟨wPair .standby, (wPair .standby).at_ (0), 0, 0, 0, 1, rfl, by decide +kernel⟩
theorem met_PairMemberEvents_8 : ∃ (s a : State) (t : Time) (epoch stamp : Nat), a = s.at_ t ∧ (hubUp a = true) ∧ (seated a = true) ∧ (a.pair.state = .orphan) := ⟨wPair .orphan, (wPair .orphan).at_ (0), 0, 0, 0, rfl, by decide +kernel⟩
theorem met_PairMemberEvents_9 : ∃ (s a : State) (t : Time) (epoch stamp : Nat), a = s.at_ t ∧ (hubUp a = true) ∧ (seated a = true) ∧ (drivesLogical a = true) ∧ (a.pair.state ≠ .orphan) ∧ (a.pair.yielding = false) := ⟨wPair .active, (wPair .active).at_ (0), 0, 0, 0, rfl, by decide +kernel⟩
theorem met_PairMemberEvents_10 : ∃ (s a : State) (t : Time) (stop : Time) (cause src : Nat), a = s.at_ t ∧ (hubAlive a = true) ∧ (a.pair.holdOff = some (stop, cause, src)) ∧ (stop ≤ a.now) ∧ (cause ≠ 15) ∧ (a.pwr.failing = false) := ⟨{ wPair .active with pair := { (wPair .active).pair with holdOff := some (0, 3, 5) } }, ({ wPair .active with pair := { (wPair .active).pair with holdOff := some (0, 3, 5) } }).at_ (0), 0, 0, 3, 5, rfl, by decide +kernel⟩
theorem met_PairMemberEvents_11 : ∃ (s a : State) (t : Time) (stop : Time) (src : Nat), a = s.at_ t ∧ (hubAlive a = true) ∧ (a.pair.holdOff = some (stop, 15, src)) ∧ (stop ≤ a.now) := ⟨{ wPair .active with pair := { (wPair .active).pair with holdOff := some (0, 15, 5) } }, ({ wPair .active with pair := { (wPair .active).pair with holdOff := some (0, 15, 5) } }).at_ (0), 0, 0, 5, rfl, by decide +kernel⟩
theorem met_PairMemberEvents_12 : ∃ (s a : State) (t : Time) (off : Word) (bytes : List Byte) (last : Bool), a = s.at_ t ∧ (hubUp a = true) ∧ (mirrors a = true) ∧ (a.img.maqState ≠ .armed) ∧ (last = false) := ⟨wPair .standby, (wPair .standby).at_ (0), 0, 0, [1], false, rfl, by decide +kernel⟩
theorem met_PairMemberEvents_13 : ∃ (s a : State) (t : Time) (off : Word) (bytes : List Byte) (last : Bool), a = s.at_ t ∧ (hubUp a = true) ∧ (mirrors a = true) ∧ (a.img.maqState ≠ .armed) ∧ (last = true) := ⟨wPair .standby, (wPair .standby).at_ (0), 0, 0, [1], true, rfl, by decide +kernel⟩
theorem met_PairMemberEvents_14 : ∃ (s a : State) (t : Time) (joff : Word) (bytes : List Byte) (p : Shd), a = s.at_ t ∧ (hubUp a = true) ∧ (mirrors a = true) ∧ (a.pair.partner = some p) ∧ ((a.host.jnl.acked + a.host.jnl.mirror.length) % 131072 = joff.toNat % 131072) := ⟨{ wPair .standby with pair := { (wPair .standby).pair with partner := some {} } }, ({ wPair .standby with pair := { (wPair .standby).pair with partner := some {} } }).at_ (0), 0, 0, [], {}, rfl, by decide +kernel⟩
theorem met_PairMemberEvents_15 : ∃ (s a : State) (t : Time) (bytes : List Byte) (d : Nat), a = s.at_ t ∧ (hubUp a = true) ∧ (partnerNum a = some d) ∧ (drivesLogical a = true) := ⟨wPair .active, (wPair .active).at_ (0), 0, [], prPhysB (wRec 64 [(0, 9)]), rfl, by decide +kernel⟩
theorem met_PairMemberEvents_16 : ∃ (s a : State) (t : Time) (bytes : List Byte) (d : Nat), a = s.at_ t ∧ (hubUp a = true) ∧ (partnerNum a = some d) ∧ (36 ≤ bytes.length) := ⟨wPair .standby, (wPair .standby).at_ (0), 0, List.replicate 36 0, prPhysB (wRec 64 [(0, 9)]), rfl, by decide +kernel⟩

/-- CouchEvents: the premises are met. -/
theorem met_CouchEvents_1 : ∃ (s a : State) (t : Time) (epoch seat : Nat), a = s.at_ t ∧ (hubUp a = true) ∧ (a.pair.state = .standby) ∧ (seat = ownSeat a) ∧ (a.pair.couch.isNone = true) ∧ (a.pair.armed = true) ∧ (allLive a = true) := ⟨{ { wPair .standby with pair := { (wPair .standby).pair with armed := true } } with tile := wRun.tile.all fun x => { x with state := .live } }, ({ { wPair .standby with pair := { (wPair .standby).pair with armed := true } } with tile := wRun.tile.all fun x => { x with state := .live } }).at_ (0), 0, 3, 0, rfl, by decide +kernel⟩
theorem met_CouchEvents_2 : ∃ (s a : State) (t : Time) (epoch seat : Nat), a = s.at_ t ∧ (hubUp a = true) ∧ (a.pair.state = .standby) ∧ (seat = ownSeat a) ∧ (a.pair.couch.isNone = true) ∧ (a.pair.armed = false) := ⟨wPair .standby, (wPair .standby).at_ (0), 0, 3, 0, rfl, by decide +kernel⟩
theorem met_CouchEvents_3 : ∃ (s a : State) (t : Time) (epoch stamp : Nat) (c : Couch), a = s.at_ t ∧ (hubUp a = true) ∧ (a.pair.couch = some c) ∧ (c.incoming = true) ∧ (c.step = 0) := ⟨{ wPair .couch with pair := { (wPair .couch).pair with couch := some { e0 := 3, incoming := true, step := 0 } } }, ({ wPair .couch with pair := { (wPair .couch).pair with couch := some { e0 := 3, incoming := true, step := 0 } } }).at_ (0), 0, 3, 9, { e0 := 3, incoming := true }, rfl, by decide +kernel⟩
theorem met_CouchEvents_4 : ∃ (s a : State) (t : Time) (c : Couch) (b : Time), a = s.at_ t ∧ (hubUp a = true) ∧ (a.pair.couch = some c) ∧ (c.step < 8) ∧ (c.tc = some b) ∧ (b + (c.step + 1) * us 25 ≤ sysHalf a) := ⟨{ wPair .couch with pair := { (wPair .couch).pair with couch := some { e0 := 3, incoming := true, step := 0, tc := some 0 } } }, ({ wPair .couch with pair := { (wPair .couch).pair with couch := some { e0 := 3, incoming := true, step := 0, tc := some 0 } } }).at_ (us 25), us 25, { e0 := 3, incoming := true, tc := some 0 }, 0, rfl, by decide +kernel⟩
theorem met_CouchEvents_5 : ∃ (s a : State) (t : Time) (epoch : Nat) (c : Couch), a = s.at_ t ∧ (hubUp a = true) ∧ (a.pair.couch = some c) ∧ (c.incoming = true) ∧ (0 < epoch) := ⟨{ wPair .couch with pair := { (wPair .couch).pair with couch := some { e0 := 3, incoming := true, step := 8 } } }, ({ wPair .couch with pair := { (wPair .couch).pair with couch := some { e0 := 3, incoming := true, step := 8 } } }).at_ (0), 0, 3, { e0 := 3, incoming := true, step := 8 }, rfl, by decide +kernel⟩
theorem met_CouchEvents_6 : ∃ (s a : State) (t : Time) (epoch : Nat) (c : Couch), a = s.at_ t ∧ (hubUp a = true) ∧ (a.pair.couch = some c) ∧ (c.step = 0) ∧ (c.e0 = epoch) := ⟨{ wPair .couch with pair := { (wPair .couch).pair with couch := some { e0 := 3, incoming := true, step := 0 } } }, ({ wPair .couch with pair := { (wPair .couch).pair with couch := some { e0 := 3, incoming := true, step := 0 } } }).at_ (0), 0, 3, { e0 := 3, incoming := true }, rfl, by decide +kernel⟩
theorem met_CouchEvents_7 : ∃ (s a : State) (t : Time) (b : Time), a = s.at_ t ∧ (hubUp a = true) ∧ (a.pair.hartWindow = some b) ∧ (b ≤ a.now) := ⟨{ wPair .active with pair := { (wPair .active).pair with hartWindow := some 0 } }, ({ wPair .active with pair := { (wPair .active).pair with hartWindow := some 0 } }).at_ (0), 0, 0, rfl, by decide +kernel⟩
theorem met_CouchEvents_8 : ∃ (s a : State) (t : Time) (bytes : List Byte) (z : State), a = s.at_ t ∧ (hubUp a = true) ∧ (seated a = true) ∧ (46 ≤ bytes.length) ∧ (z = partnerAccepts (arming a.pair.partner (shdOf bytes a.now) (dualActive a.pair.partner (shdOf bytes a.now) (negotiate (shdOf bytes a.now)
          { a with pair := { a.pair with
            partner := some (shdOf bytes a.now)
            linkLostAt := none
            orphanSince := none
            wit := (false, a.pair.wit.2.1, a.pair.wit.2.2) } })))) ∧ (z.pair.state ≠ .active) :=
  ⟨wPair .standby, (wPair .standby).at_ 0, 0, wRec 46 [], _, rfl, by decide +kernel, by decide +kernel, by decide +kernel, rfl, by decide +kernel⟩

/-- RingDoorbells: the premises are met. -/
theorem met_RingDoorbells_1 : ∃ (s a : State) (t : Time) (n : Nat) (off size : Nat) (value : Word) (r : Fin 64), a = s.at_ t ∧ (hubAlive a = true) ∧ (size = 4) ∧ (off = 0) ∧ (n < 64) ∧ (asFin 64 n = some r) ∧ (bits value.toNat 0 16 < crSize a n) ∧ (bits value.toNat 16 16 = (a.host.cr.get r).gen) := ⟨wRun, (wRun).at_ (0), 0, 3, 0, 4, 5, 3, rfl, by decide +kernel⟩
theorem met_RingDoorbells_2 : ∃ (s a : State) (t : Time) (n : Nat) (off size : Nat) (value : Word) (r : Fin 64), a = s.at_ t ∧ (hubAlive a = true) ∧ (size = 4) ∧ (off = 0) ∧ (n < 64) ∧ (asFin 64 n = some r) ∧ (crSize a n ≤ bits value.toNat 0 16) := ⟨wRun, (wRun).at_ (0), 0, 3, 0, 4, 64, 3, rfl, by decide +kernel⟩
theorem met_RingDoorbells_3 : ∃ (s a : State) (t : Time) (n : Nat) (off size : Nat) (value : Word) (r : Fin 64), a = s.at_ t ∧ (hubAlive a = true) ∧ (size = 4) ∧ (off = 0) ∧ (n < 64) ∧ (asFin 64 n = some r) ∧ (bits value.toNat 0 16 < crSize a n) ∧ (bits value.toNat 16 16 ≠ (a.host.cr.get r).gen) := ⟨wRun, (wRun).at_ (0), 0, 3, 0, 4, 65536, 3, rfl, by decide +kernel⟩
theorem met_RingDoorbells_4 : ∃ (s a : State) (t : Time) (n : Nat) (off size : Nat) (value : Word) (q : Fin 64), a = s.at_ t ∧ (hubAlive a = true) ∧ (size = 4) ∧ (off = 4) ∧ (n < 64) ∧ (asFin 64 n = some q) ∧ (bits value.toNat 0 16 < cqSize a n) ∧ (bits value.toNat 16 16 = (a.host.cq.get q).gen) := ⟨wRun, (wRun).at_ (0), 0, 3, 4, 4, 5, 3, rfl, by decide +kernel⟩
theorem met_RingDoorbells_5 : ∃ (s a : State) (t : Time) (n : Nat) (off size : Nat) (value : Word) (q : Fin 16), a = s.at_ t ∧ (hubAlive a = true) ∧ (size = 4) ∧ (off = 8) ∧ (n < 64) ∧ (asFin 16 n = some q) ∧ (n < 16) ∧ (value.toNat < iqSize a n) := ⟨wRun, (wRun).at_ (0), 0, 3, 8, 4, 1, 3, rfl, by decide +kernel⟩
theorem met_RingDoorbells_6 : ∃ (s a : State) (t : Time) (n : Nat) (off size : Nat) (value : Word), a = s.at_ t ∧ (hubAlive a = true) ∧ (size = 4) ∧ (off = 12) ∧ (n < 64) ∧ (n = 0) ∧ (value.toNat % 4 = 0) ∧ (value.toNat < eq0Size a) := ⟨wRun, (wRun).at_ (0), 0, 0, 12, 4, 8, rfl, by decide +kernel⟩
theorem met_RingDoorbells_7 : ∃ (s a : State) (t : Time) (n : Nat) (off size : Nat) (value : Word), a = s.at_ t ∧ (hubAlive a = true) ∧ (size = 4) ∧ (off = 12) ∧ (n < 64) ∧ (n = 0) ∧ (value.toNat % 4 ≠ 0) := ⟨wRun, (wRun).at_ (0), 0, 0, 12, 4, 9, rfl, by decide +kernel⟩
theorem met_RingDoorbells_8 : ∃ (s a : State) (t : Time) (n : Nat) (off size : Nat) (value : Word), a = s.at_ t ∧ (hubUp a = true) ∧ (size = 4) ∧ (off = 0x800) ∧ (n = 0) := ⟨wRun, (wRun).at_ (0), 0, 0, 0x800, 4, 8, rfl, by decide +kernel⟩
theorem met_RingDoorbells_9 : ∃ (s a : State) (t : Time) (n : Nat) (off size : Nat) (value : Word), a = s.at_ t ∧ (hubUp a = true) ∧ (size ≠ 4 ∨ off ≠ 0x800 ∨ n ≠ 0) := ⟨wRun, (wRun).at_ (0), 0, 1, 0x800, 4, 8, rfl, by decide +kernel⟩

/-- RingStateEvents: the premises are met. -/
theorem met_RingStateEvents_1 : ∃ (s a : State) (t : Time) (n : Fin 64), a = s.at_ t ∧ (hubUp a = true) ∧ ((a.host.cr.get n).state = 1 ∨ (a.host.cr.get n).state = 3) := ⟨{ wRun with host := { wRun.host with cr := wRun.host.cr.set 0 { state := 1 } } }, ({ wRun with host := { wRun.host with cr := wRun.host.cr.set 0 { state := 1 } } }).at_ (0), 0, 0, rfl, by decide +kernel⟩
theorem met_RingStateEvents_2 : ∃ (s a : State) (t : Time) (n : Fin 64), a = s.at_ t ∧ (hubUp a = true) ∧ ((a.host.cr.get n).state = 2) := ⟨{ wRun with host := { wRun.host with cr := wRun.host.cr.set 0 { state := 2 } } }, ({ wRun with host := { wRun.host with cr := wRun.host.cr.set 0 { state := 2 } } }).at_ (0), 0, 0, rfl, by decide +kernel⟩
theorem met_RingStateEvents_3 : ∃ (s a : State) (t : Time) (n : Fin 64) (q : Fin 64) (z : State), a = s.at_ t ∧ (hubUp a = true) ∧ ((a.host.cr.get n).state = 0) ∧ (a.pwr.ready = true) ∧ (asFin 64 (crCq a n.val) = some q) ∧ ((a.host.cq.get q).en = true) ∧ (sizeOk (bits (reg a (crReg n.val + 0x10)) 0 5) = true) ∧ (baseOk a (crReg n.val) = true) ∧ (z = modCr n (fun c => { c with state := 1, gen := ((a.host.cr.get n).gen + 1) % 65536, fetch := 0, tail := 0, reposted := false, enRef := false, prev := [] }) a) :=
  let s := { wRun with pwr := { wRun.pwr with ready := true }, host := { wRun.host with cq := wRun.host.cq.set 0 { en := true } }, regs := [(0x1008, 4096)] }
  ⟨s, s.at_ 0, 0, 0, 0, _, rfl, by decide +kernel, by decide +kernel, by decide +kernel, by decide +kernel, by decide +kernel, by decide +kernel, by decide +kernel, rfl⟩
theorem met_RingStateEvents_4 : ∃ (s a : State) (t : Time) (n : Fin 64), a = s.at_ t ∧ (hubAlive a = true) := ⟨wRun, (wRun).at_ (0), 0, 0, rfl, by decide +kernel⟩
theorem met_RingStateEvents_5 : ∃ (s a : State) (t : Time) (n : Fin 64), a = s.at_ t ∧ (hubAlive a = true) ∧ ((a.host.cr.get n).state = 2) ∧ (ringDrained a n.val = true) := ⟨{ wRun with host := { wRun.host with cr := wRun.host.cr.set 0 { state := 2 } } }, ({ wRun with host := { wRun.host with cr := wRun.host.cr.set 0 { state := 2 } } }).at_ (0), 0, 0, rfl, by decide +kernel⟩
theorem met_RingStateEvents_6 : ∃ (s a : State) (t : Time) (n : Fin 64) (kind : Fin 4), a = s.at_ t ∧ (hubUp a = true) ∧ ((a.host.cr.get n).state = 1) := ⟨{ wRun with host := { wRun.host with cr := wRun.host.cr.set 0 { state := 1 } } }, ({ wRun with host := { wRun.host with cr := wRun.host.cr.set 0 { state := 1 } } }).at_ (0), 0, 0, 2, rfl, by decide +kernel⟩
theorem met_RingStateEvents_7 : ∃ (s a : State) (t : Time) (n : Fin 64), a = s.at_ t ∧ (hubAlive a = true) ∧ ((a.host.cr.get n).state = 0) ∧ (ringOwes a n.val = false) := ⟨wRun, (wRun).at_ (0), 0, 0, rfl, by decide +kernel⟩
theorem met_RingStateEvents_8 : ∃ (s a : State) (t : Time) (n : Fin 64), a = s.at_ t ∧ (hubAlive a = true) ∧ ((a.host.cr.get n).state ≠ 0) := ⟨{ wRun with host := { wRun.host with cr := wRun.host.cr.set 0 { state := 1 } } }, ({ wRun with host := { wRun.host with cr := wRun.host.cr.set 0 { state := 1 } } }).at_ (0), 0, 0, rfl, by decide +kernel⟩
theorem met_RingStateEvents_9 : ∃ (s a : State) (t : Time) (n : Fin 64) (on : Bool), a = s.at_ t ∧ (hubAlive a = true) ∧ (on = true) ∧ ((a.host.cq.get n).en = false) ∧ (a.pwr.ready = true) ∧ (sizeOk (bits (reg a (cqReg n.val + 0xC)) 4 5) = true) ∧ (baseOk a (cqReg n.val) = true) := ⟨{ wRun with pwr := { wRun.pwr with ready := true } }, ({ wRun with pwr := { wRun.pwr with ready := true } }).at_ (0), 0, 0, true, rfl, by decide +kernel⟩
theorem met_RingStateEvents_10 : ∃ (s a : State) (t : Time) (n : Fin 64) (on : Bool), a = s.at_ t ∧ (hubAlive a = true) ∧ (on = false) ∧ (((List.finRange 64).any fun r => crCq a r.val == n.val && (a.host.cr.get r).state != 0) = false) := ⟨wRun, (wRun).at_ (0), 0, 0, false, rfl, by decide +kernel⟩
theorem met_RingStateEvents_11 : ∃ (s a : State) (t : Time) (n : Fin 16) (readOk : Bool) (tags : List Word) (r : Fin 64), a = s.at_ t ∧ (hubAlive a = true) ∧ (tags.length = iqNtags a n.val) ∧ ((a.ep.iq.get n).en = false) ∧ (a.pwr.ready = true) ∧ (1 ≤ bits (reg a (iqReg n.val + 0x10)) 0 4) ∧ (bits (reg a (iqReg n.val + 0x10)) 0 4 ≤ 12) ∧ (baseOk a (iqReg n.val) = true) ∧ (asFin 64 (iqCr a n.val) = some r) ∧ ((a.host.cr.get r).state ≠ 0) ∧ (readOk = true) ∧ ((tags.any fun x => (tagParts x).isNone) = false) := ⟨{ wRun with pwr := { wRun.pwr with ready := true }, host := { wRun.host with cr := wRun.host.cr.set 0 { state := 1 } } }, ({ wRun with pwr := { wRun.pwr with ready := true }, host := { wRun.host with cr := wRun.host.cr.set 0 { state := 1 } } }).at_ (0), 0, 0, true, [0], 0, rfl, by decide +kernel⟩
theorem met_RingStateEvents_12 : ∃ (s a : State) (t : Time) (cq : Fin 64) (c : Cpl) (irq : Bool) (rest : List (Cpl × Bool)), a = s.at_ t ∧ (hubUp a = true) ∧ ((a.host.cq.get cq).held = (c, irq) :: rest) ∧ ((a.host.cq.get cq).en = true) ∧ (cqFull a cq = false) := ⟨{ wRun with host := { wRun.host with cq := wRun.host.cq.set 0 { en := true, held := [({ seq := 1, ring := 0, stage := 2, status := 0, epoch := 0, opcode := 0, result := 0, gen := 1, detail := 0, rlen := 0, srcdev := 0, cflags := 0 }, false)] } } }, ({ wRun with host := { wRun.host with cq := wRun.host.cq.set 0 { en := true, held := [({ seq := 1, ring := 0, stage := 2, status := 0, epoch := 0, opcode := 0, result := 0, gen := 1, detail := 0, rlen := 0, srcdev := 0, cflags := 0 }, false)] } } }).at_ (0), 0, 0, { seq := 1, ring := 0, stage := 2, status := 0, epoch := 0, opcode := 0, result := 0, gen := 1, detail := 0, rlen := 0, srcdev := 0, cflags := 0 }, false, [], rfl, by decide +kernel⟩
theorem met_RingStateEvents_13 : ∃ (s a : State) (t : Time) (cq : Fin 64) (b : Time), a = s.at_ t ∧ (hubAlive a = true) ∧ ((a.host.cq.get cq).firstAt = some b) ∧ (b + us (bits (reg a (cqReg cq.val + 8)) 16 16) ≤ a.now) := ⟨{ wRun with host := { wRun.host with cq := wRun.host.cq.set 0 { firstAt := some 0 } } }, ({ wRun with host := { wRun.host with cq := wRun.host.cq.set 0 { firstAt := some 0 } } }).at_ (0), 0, 0, 0, rfl, by decide +kernel⟩
theorem met_RingStateEvents_14 : ∃ (s a : State) (t : Time), a = s.at_ t ∧ (hubUp a = true) ∧ (a.pwr.wdh.en = true) ∧ (a.pwr.wdh.close + a.pwr.wdh.open_ ≤ a.pwr.wdh.t) := ⟨{ wRun with pwr := { wRun.pwr with wdh := { wRun.pwr.wdh with en := true, t := 1000000000000 } } }, ({ wRun with pwr := { wRun.pwr with wdh := { wRun.pwr.wdh with en := true, t := 1000000000000 } } }).at_ (0), 0, rfl, by decide +kernel⟩

/-- DescriptorsInFlight: the premises are met. -/
theorem met_DescriptorsInFlight_1 : ∃ (s a : State) (t : Time) (ring : Fin 64) (bytes payload : List Byte) (rd : HostRead), a = s.at_ t ∧ (hubUp a = true) ∧ ((a.host.cr.get ring).state = 1) ∧ ((a.host.cr.get ring).fetch ≠ (a.host.cr.get ring).tail) ∧ (fetchRoom a ring = true) ∧ (rd = .good) ∧ (bytes.length = 64) ∧ (payload.length = if dInd bytes then dLen bytes else 0) := ⟨{ wRun with host := { wRun.host with cr := wRun.host.cr.set 0 { state := 1, tail := 1 } } }, ({ wRun with host := { wRun.host with cr := wRun.host.cr.set 0 { state := 1, tail := 1 } } }).at_ (0), 0, 0, wRec 64 [], [], .good, rfl, by decide +kernel⟩
theorem met_DescriptorsInFlight_2 : ∃ (s a : State) (t : Time) (ring : Fin 64) (bytes payload : List Byte) (rd : HostRead) (k : Fin 4), a = s.at_ t ∧ (hubUp a = true) ∧ ((a.host.cr.get ring).state = 1) ∧ ((a.host.cr.get ring).fetch ≠ (a.host.cr.get ring).tail) ∧ (fetchRoom a ring = true) ∧ (rd = .ringFail k) := ⟨{ wRun with host := { wRun.host with cr := wRun.host.cr.set 0 { state := 1, tail := 1 } } }, ({ wRun with host := { wRun.host with cr := wRun.host.cr.set 0 { state := 1, tail := 1 } } }).at_ (0), 0, 0, [], [], .ringFail 2, 2, rfl, by decide +kernel⟩
theorem met_DescriptorsInFlight_3 : ∃ (s a : State) (t : Time) (w : WorkRef), a = s.at_ t ∧ (hubAlive a = true) ∧ (blockHeld a 0x0A8 = false) ∧ (a.nvs.store.jobs.contains (.journal (some w)) = true) := ⟨{ wRun with nvs := { wRun.nvs with store := { wRun.nvs.store with jobs := [.journal (some wRef)] } } }, ({ wRun with nvs := { wRun.nvs with store := { wRun.nvs.store with jobs := [.journal (some wRef)] } } }).at_ (0), 0, wRef, rfl, by decide +kernel⟩
theorem met_DescriptorsInFlight_4 : ∃ (s a : State) (t : Time) (w : WorkRef) (x : Work), a = s.at_ t ∧ (hubUp a = true) ∧ (workOf a w = some x) ∧ (x.fenced = true) ∧ (waitsOpen a x.waits = false) := ⟨wHold { wJob 0 [] with fenced := true } wRun, (wHold { wJob 0 [] with fenced := true } wRun).at_ (0), 0, wRef, { wJob 0 [] with fenced := true }, rfl, by decide +kernel⟩
theorem met_DescriptorsInFlight_5 : ∃ (s a : State) (t : Time) (w : WorkRef), a = s.at_ t ∧ (hubUp a = true) ∧ (workOf a w = none) ∧ ((a.host.buf.any fun f => f.ref == w) = true) := ⟨{ wRun with host := { wRun.host with buf := [{ ref := wRef, bytes := [], payload := [], payloadOk := true, gen := 0 }] } }, ({ wRun with host := { wRun.host with buf := [{ ref := wRef, bytes := [], payload := [], payloadOk := true, gen := 0 }] } }).at_ (0), 0, wRef, rfl, by decide +kernel⟩
theorem met_DescriptorsInFlight_6 : ∃ (s a : State) (t : Time) (w : WorkRef), a = s.at_ t ∧ (hubUp a = true) ∧ (a.flt.studioUp = true) ∧ ((a.host.buf.any fun f => f.ref == w) = true) := ⟨{ wRun with host := { wRun.host with buf := [{ ref := wRef, bytes := [], payload := [], payloadOk := true, gen := 0 }] } }, ({ wRun with host := { wRun.host with buf := [{ ref := wRef, bytes := [], payload := [], payloadOk := true, gen := 0 }] } }).at_ (0), 0, wRef, rfl, by decide +kernel⟩
theorem met_DescriptorsInFlight_7 : ∃ (s a : State) (t : Time) (w : WorkRef) (f : Fetched) (z : State) (res : Nat), a = s.at_ t ∧ (hubUp a = true) ∧ (a.flt.studioUp = true) ∧ (a.host.buf = [f]) ∧ (f.ref = w) ∧ (z = { a with host := { a.host with buf := [] } }) ∧ (f.ref.origin ≠ a.net.num) ∧ (blocked z f none = false) ∧ (u32 f.bytes 60 = descCheck f.ref.ring f.ref.seq.toNat (f.bytes.take 60)) ∧ (formatBad z true f.bytes f.payload f.payloadOk = none) ∧ (dInd f.bytes = false) ∧ (seqVerdict z (asWork z f) = .fresh) ∧ (claimMissing z f.bytes = some res) :=
  ⟨{ wChan .live (wDo 0) with host := { wRun.host with buf := [wFar] } }, _, 0, ⟨6, 0, 1⟩, wFar, _, 0x11000000, rfl, by decide +kernel, by decide +kernel, by decide +kernel, by decide +kernel, rfl, by decide +kernel, by decide +kernel, by decide +kernel, by decide +kernel, by decide +kernel, by decide +kernel, by decide +kernel⟩
theorem met_DescriptorsInFlight_8 : ∃ (s a : State) (t : Time) (src : Nat) (bytes : List Byte), a = s.at_ t ∧ (netUp a = true) ∧ (mute a = false) ∧ (src < 1024) := ⟨wChan .live [], (wChan .live []).at_ (0), 0, 6, [], rfl, by decide +kernel⟩
theorem met_DescriptorsInFlight_9 : ∃ (s a : State) (t : Time) (src ring : Nat) (seq : Word), a = s.at_ t ∧ (hubUp a = true) := ⟨wRun, (wRun).at_ (0), 0, 6, 0, 1, rfl, by decide +kernel⟩
theorem met_DescriptorsInFlight_10 : ∃ (s a : State) (t : Time) (src : Nat) (bytes : List Byte), a = s.at_ t ∧ (hubUp a = true) ∧ (36 ≤ bytes.length) := ⟨wRun, (wRun).at_ (0), 0, 6, List.replicate 36 0, rfl, by decide +kernel⟩
theorem met_DescriptorsInFlight_11 : ∃ (s a : State) (t : Time) (ring : Fin 64) (seq : Word) (q : ReqOut), a = s.at_ t ∧ (hubUp a = true) ∧ (a.host.reqs.find? (fun q => q.ring == ring.val && q.seq == seq) = some q) ∧ (q.answered = false) ∧ (q.fwd = false) ∧ (q.sent + ms 2 ≤ a.now) ∧ (3 ≤ q.resends) := ⟨{ wRun with host := { wRun.host with reqs := [{ ring := 0, seq := 1, target := 6, frame := [], sent := 0, resends := 3, gen := 1, masked := false, opcode := 0, answered := false }] } }, ({ wRun with host := { wRun.host with reqs := [{ ring := 0, seq := 1, target := 6, frame := [], sent := 0, resends := 3, gen := 1, masked := false, opcode := 0, answered := false }] } }).at_ (ms 2), ms 2, 0, 1, { ring := 0, seq := 1, target := 6, frame := [], sent := 0, resends := 3, gen := 1, masked := false, opcode := 0, answered := false }, rfl, by decide +kernel⟩
theorem met_DescriptorsInFlight_12 : ∃ (s a : State) (t : Time) (ring : Fin 64) (seq : Word) (q : ReqOut), a = s.at_ t ∧ (hubUp a = true) ∧ (a.host.reqs.find? (fun q => q.ring == ring.val && q.seq == seq) = some q) ∧ (q.answered = false) ∧ (q.fwd = false) ∧ (q.sent + ms 2 ≤ a.now) ∧ (q.resends < 3) := ⟨{ wRun with host := { wRun.host with reqs := [{ ring := 0, seq := 1, target := 6, frame := [], sent := 0, resends := 0, gen := 1, masked := false, opcode := 0, answered := false }] } }, ({ wRun with host := { wRun.host with reqs := [{ ring := 0, seq := 1, target := 6, frame := [], sent := 0, resends := 0, gen := 1, masked := false, opcode := 0, answered := false }] } }).at_ (ms 2), ms 2, 0, 1, { ring := 0, seq := 1, target := 6, frame := [], sent := 0, resends := 0, gen := 1, masked := false, opcode := 0, answered := false }, rfl, by decide +kernel⟩
theorem met_DescriptorsInFlight_13 : ∃ (s a : State) (t : Time) (b : Nat), a = s.at_ t ∧ (hubUp a = true) ∧ (a.net.locked = true) ∧ (a.net.state = 3) ∧ (a.ep.joined = false) ∧ (a.ep.joinAt = some b) ∧ ((b : Int) ≤ epochHalf a (epochNow a)) ∧ (a.ep.everJoined = true) ∧ (epochNow a ≤ a.ep.e) := ⟨let s := wChan .live []; { s with ep := { s.ep with joined := false, joinAt := some 0 } }, (let s := wChan .live []; { s with ep := { s.ep with joined := false, joinAt := some 0 } }).at_ (0), 0, 0, rfl, by decide +kernel⟩

/-- CommitSetOpcodes: the premises are met. -/
theorem met_CommitSetOpcodes_1 : ∃ (s a : State) (t : Time) (w : WorkRef) (x : Work) (g e : Nat) (z : State), a = s.at_ t ∧ (readyWork a w 0x0100 = some x) ∧ (hubUp a = true) ∧ (x.set = some (g, e)) ∧ (eMin (takeUp w a) ≤ e) ∧ (z = joinSet g e [] (takeUp w a)) :=
  ⟨wHold { wJob 0x0100 [] with set := some (0xFFFF, 2) } (wChan .live []), (wHold { wJob 0x0100 [] with set := some (0xFFFF, 2) } (wChan .live [])).at_ 0, 0, wRef, { wJob 0x0100 [] with set := some (0xFFFF, 2) }, 0xFFFF, 2, _, rfl, by decide +kernel, by decide +kernel, rfl, by decide +kernel, rfl⟩
theorem met_CommitSetOpcodes_2 : ∃ (s a : State) (t : Time) (w : WorkRef) (x : Work) (g e : Nat) (z : State), a = s.at_ t ∧ (readyWork a w 0x0101 = some x) ∧ (hubUp a = true) ∧ (x.set = some (g, e)) ∧ (eMin (takeUp w a) ≤ e) ∧ (z = joinSet g e [] (takeUp w a)) :=
  ⟨wHold { wJob 0x0101 [] with set := some (0xFFFF, 2) } (wChan .live []), (wHold { wJob 0x0101 [] with set := some (0xFFFF, 2) } (wChan .live [])).at_ 0, 0, wRef, { wJob 0x0101 [] with set := some (0xFFFF, 2) }, 0xFFFF, 2, _, rfl, by decide +kernel, by decide +kernel, rfl, by decide +kernel, rfl⟩
theorem met_CommitSetOpcodes_3 : ∃ (s a : State) (t : Time) (w : WorkRef) (x : Work) (g e : Nat) (z : State), a = s.at_ t ∧ (readyWork a w 0x0103 = some x) ∧ (hubUp a = true) ∧ (x.set = some (g, e)) ∧ (eMin (takeUp w a) ≤ e) ∧ (z = joinSet g e [] (takeUp w a)) :=
  ⟨wHold { wJob 0x0103 [] with set := some (0xFFFF, 2) } (wChan .live []), (wHold { wJob 0x0103 [] with set := some (0xFFFF, 2) } (wChan .live [])).at_ 0, 0, wRef, { wJob 0x0103 [] with set := some (0xFFFF, 2) }, 0xFFFF, 2, _, rfl, by decide +kernel, by decide +kernel, rfl, by decide +kernel, rfl⟩
theorem met_CommitSetOpcodes_4 : ∃ (s a : State) (t : Time) (w : WorkRef) (x : Work) (g e : Nat) (z : State), a = s.at_ t ∧ (readyWork a w 0x0403 = some x) ∧ (hubUp a = true) ∧ (x.set = some (g, e)) ∧ (eMin (takeUp w a) ≤ e) ∧ (z = joinSet g e [] (takeUp w a)) :=
  ⟨wHold { wJob 0x0403 [] with set := some (0xFFFF, 2) } (wChan .live []), (wHold { wJob 0x0403 [] with set := some (0xFFFF, 2) } (wChan .live [])).at_ 0, 0, wRef, { wJob 0x0403 [] with set := some (0xFFFF, 2) }, 0xFFFF, 2, _, rfl, by decide +kernel, by decide +kernel, rfl, by decide +kernel, rfl⟩
theorem met_CommitSetOpcodes_5 : ∃ (s a : State) (t : Time) (w : WorkRef) (x : Work) (g e : Nat) (z : State), a = s.at_ t ∧ (readyWork a w 0x0404 = some x) ∧ (hubUp a = true) ∧ (x.set = some (g, e)) ∧ (eMin (takeUp w a) ≤ e) ∧ (z = joinSet g e [] (takeUp w a)) :=
  ⟨wHold { wJob 0x0404 [] with set := some (0xFFFF, 2) } (wChan .live []), (wHold { wJob 0x0404 [] with set := some (0xFFFF, 2) } (wChan .live [])).at_ 0, 0, wRef, { wJob 0x0404 [] with set := some (0xFFFF, 2) }, 0xFFFF, 2, _, rfl, by decide +kernel, by decide +kernel, rfl, by decide +kernel, rfl⟩
theorem met_CommitSetOpcodes_6 : ∃ (s a : State) (t : Time) (w : WorkRef) (x : Work) (g e : Nat) (z : State), a = s.at_ t ∧ (readyWork a w 0x0700 = some x) ∧ (hubUp a = true) ∧ (x.set = some (g, e)) ∧ (eMin (takeUp w a) ≤ e) ∧ (z = joinSet g e [] (takeUp w a)) :=
  ⟨wHold { wJob 0x0700 [] with set := some (0xFFFF, 2) } (wChan .live []), (wHold { wJob 0x0700 [] with set := some (0xFFFF, 2) } (wChan .live [])).at_ 0, 0, wRef, { wJob 0x0700 [] with set := some (0xFFFF, 2) }, 0xFFFF, 2, _, rfl, by decide +kernel, by decide +kernel, rfl, by decide +kernel, rfl⟩

/-- WorkOpcodes: the premises are met. -/
theorem met_WorkOpcodes_1 : ∃ (s a : State) (t : Time) (w : WorkRef) (x : Work), a = s.at_ t ∧ (readyWork a w 0x0000 = some x) ∧ (hubUp a = true) := ⟨wOp 0x0000 ([]), (wOp 0x0000 ([])).at_ (0), 0, wRef, wJob 0x0000 ([]), rfl, by decide +kernel⟩
theorem met_WorkOpcodes_2 : ∃ (s a : State) (t : Time) (w : WorkRef) (x : Work), a = s.at_ t ∧ (readyWork a w 0x0001 = some x) ∧ (hubUp a = true) ∧ (workOf a w = some x) ∧ (waitsOpen a x.waits = false) := ⟨wOp 0x0001 ([]), (wOp 0x0001 ([])).at_ (0), 0, wRef, wJob 0x0001 ([]), rfl, by decide +kernel⟩
theorem met_WorkOpcodes_3 : ∃ (s a : State) (t : Time) (w : WorkRef) (x : Work), a = s.at_ t ∧ (workOf a w = some x) ∧ (waitsOpen a x.waits = true) := ⟨wHold { wJob 1 [] with waits := [wRef] } wRun, (wHold { wJob 1 [] with waits := [wRef] } wRun).at_ (0), 0, wRef, { wJob 1 [] with waits := [wRef] }, rfl, by decide +kernel⟩
theorem met_WorkOpcodes_4 : ∃ (s a : State) (t : Time) (w : WorkRef) (x : Work), a = s.at_ t ∧ (readyWork a w 0x0102 = some x) ∧ (hubUp a = true) := ⟨wOp 0x0102 ([]), (wOp 0x0102 ([])).at_ (0), 0, wRef, wJob 0x0102 ([]), rfl, by decide +kernel⟩
theorem met_WorkOpcodes_5 : ∃ (s a : State) (t : Time) (w : WorkRef) (x : Work) (k : Fin 96), a = s.at_ t ∧ (readyWork a w 0x0200 = some x) ∧ (hubUp a = true) ∧ (asFin 96 (dK x.bytes) = some k) ∧ (hartLinked (takeUp w a) k = true ∨ mirrors (takeUp w a) = true ∨ x.again = true) := ⟨wOp 0x0200 ([]), (wOp 0x0200 ([])).at_ (0), 0, wRef, wJob 0x0200 ([]), 0, rfl, by decide +kernel⟩
theorem met_WorkOpcodes_6 : ∃ (s a : State) (t : Time) (w : WorkRef) (x : Work) (k : Fin 96), a = s.at_ t ∧ (readyWork a w 0x0200 = some x) ∧ (hubUp a = true) ∧ (asFin 96 (dK x.bytes) = some k) ∧ (hartLinked (takeUp w a) k = false) ∧ (mirrors (takeUp w a) = false) ∧ (x.again = false) := ⟨wHold (wJob 0x0200 []) (wChan .hold (wDo 0)), (wHold (wJob 0x0200 []) (wChan .hold (wDo 0))).at_ (0), 0, wRef, wJob 0x0200 [], 0, rfl, by decide +kernel⟩
theorem met_WorkOpcodes_7 : ∃ (s a : State) (t : Time) (w : WorkRef) (x : Work) (k : Fin 96), a = s.at_ t ∧ (readyWork a w 0x0400 = some x) ∧ (hubUp a = true) ∧ (asFin 96 (dK x.bytes) = some k) := ⟨wOp 0x0400 ([]), (wOp 0x0400 ([])).at_ (0), 0, wRef, wJob 0x0400 ([]), 0, rfl, by decide +kernel⟩
theorem met_WorkOpcodes_8 : ∃ (s a : State) (t : Time) (w : WorkRef) (x : Work), a = s.at_ t ∧ (readyWork a w 0x0401 = some x) ∧ (hubUp a = true) ∧ (a.nvs.armed = none) := ⟨wOp 0x0401 ([]), (wOp 0x0401 ([])).at_ (0), 0, wRef, wJob 0x0401 ([]), rfl, by decide +kernel⟩
theorem met_WorkOpcodes_9 : ∃ (s a : State) (t : Time) (w : WorkRef) (x : Work) (m : Armed), a = s.at_ t ∧ (readyWork a w 0x0401 = some x) ∧ (hubUp a = true) ∧ (a.nvs.armed = some m) ∧ (m.k.val = dK x.bytes) := ⟨{ wOp 0x0401 [] with nvs := { wRun.nvs with armed := some { k := 0, zref := 0, sref := 0, step := 0, ends := 0 } } }, ({ wOp 0x0401 [] with nvs := { wRun.nvs with armed := some { k := 0, zref := 0, sref := 0, step := 0, ends := 0 } } }).at_ (0), 0, wRef, wJob 0x0401 [], { k := 0, zref := 0, sref := 0, step := 0, ends := 0 }, rfl, by decide +kernel⟩
theorem met_WorkOpcodes_10 : ∃ (s a : State) (t : Time) (w : WorkRef) (x : Work), a = s.at_ t ∧ (readyWork a w 0x0402 = some x) ∧ (hubUp a = true) := ⟨wOp 0x0402 ([]), (wOp 0x0402 ([])).at_ (0), 0, wRef, wJob 0x0402 ([]), rfl, by decide +kernel⟩
theorem met_WorkOpcodes_11 : ∃ (s a : State) (t : Time) (w : WorkRef) (x : Work) (k : Fin 96), a = s.at_ t ∧ (readyWork a w 0x0405 = some x) ∧ (hubUp a = true) ∧ (asFin 96 (dK x.bytes) = some k) := ⟨wOp 0x0405 ([]), (wOp 0x0405 ([])).at_ (0), 0, wRef, wJob 0x0405 ([]), 0, rfl, by decide +kernel⟩
theorem met_WorkOpcodes_12 : ∃ (s a : State) (t : Time) (w : WorkRef) (x : Work) (k : Fin 96), a = s.at_ t ∧ (readyWork a w 0x0406 = some x) ∧ (hubUp a = true) ∧ (asFin 96 (dK x.bytes) = some k) ∧ (testMissing (takeUp w a) k (u8 x.bytes 34) = none) := ⟨wCast { chan := [wRec 64 [(2, 10), (5, 8)]], diag := [wRec 32 [(0, 0), (2, 1)]] } (wOp 0x0406 []), (wCast { chan := [wRec 64 [(2, 10), (5, 8)]], diag := [wRec 32 [(0, 0), (2, 1)]] } (wOp 0x0406 [])).at_ (0), 0, wRef, wJob 0x0406 [], 0, rfl, by decide +kernel⟩
theorem met_WorkOpcodes_13 : ∃ (s a : State) (t : Time) (w : WorkRef) (x : Work) (k : Fin 96) (res : Nat), a = s.at_ t ∧ (readyWork a w 0x0406 = some x) ∧ (hubUp a = true) ∧ (asFin 96 (dK x.bytes) = some k) ∧ (testMissing (takeUp w a) k (u8 x.bytes 34) = some res) := ⟨wOp 0x0406 ([]), (wOp 0x0406 ([])).at_ (0), 0, wRef, wJob 0x0406 ([]), 0, 0x11000000, rfl, by decide +kernel⟩
theorem met_WorkOpcodes_14 : ∃ (s a : State) (t : Time) (w : WorkRef) (x : Work), a = s.at_ t ∧ (readyWork a w 0x0407 = some x) ∧ (hubUp a = true) := ⟨wOp 0x0407 ([]), (wOp 0x0407 ([])).at_ (0), 0, wRef, wJob 0x0407 ([]), rfl, by decide +kernel⟩
theorem met_WorkOpcodes_15 : ∃ (s a : State) (t : Time) (w : WorkRef) (x : Work), a = s.at_ t ∧ (readyWork a w 0x0500 = some x) ∧ (hubUp a = true) := ⟨wOp 0x0500 ([]), (wOp 0x0500 ([])).at_ (0), 0, wRef, wJob 0x0500 ([]), rfl, by decide +kernel⟩
theorem met_WorkOpcodes_16 : ∃ (s a : State) (t : Time) (w : WorkRef) (x : Work) (z : State), a = s.at_ t ∧ (readyWork a w 0x0501 = some x) ∧ (hubUp a = true) ∧ (a.recd.queue.length < recQueueMax - recQueueKept) ∧ (z = takeUp w a) :=
  ⟨wOp 0x0501 [], (wOp 0x0501 []).at_ 0, 0, wRef, wJob 0x0501 [], _, rfl, by decide +kernel, by decide +kernel, by decide +kernel, rfl⟩
theorem met_WorkOpcodes_17 : ∃ (s a : State) (t : Time) (w : WorkRef), a = s.at_ t ∧ (recQueueMax - recQueueKept ≤ a.recd.queue.length) := ⟨{ wRun with recd := { wRun.recd with queue := List.replicate 5000 { type := 0, source := 0, time := 0 } } }, ({ wRun with recd := { wRun.recd with queue := List.replicate 5000 { type := 0, source := 0, time := 0 } } }).at_ (0), 0, wRef, rfl, by decide +kernel⟩
theorem met_WorkOpcodes_18 : ∃ (s a : State) (t : Time) (w : WorkRef) (x : Work) (n : Fin 4), a = s.at_ t ∧ (readyWork a w 0x0600 = some x) ∧ (hubUp a = true) ∧ (asFin 4 (u8 x.bytes 32) = some n) := ⟨wOp 0x0600 ([]), (wOp 0x0600 ([])).at_ (0), 0, wRef, wJob 0x0600 ([]), 0, rfl, by decide +kernel⟩
theorem met_WorkOpcodes_19 : ∃ (s a : State) (t : Time) (w : WorkRef) (x : Work), a = s.at_ t ∧ (readyWork a w 0x0701 = some x) ∧ (hubUp a = true) ∧ (a.pair.state = .orphan) ∧ (a.img.cast.isSome = true) ∧ (a.pair.wit.2.1 = true) := ⟨{ wOp 0x0701 [] with pair := { wRun.pair with wit := (false, true, false) } }, ({ wOp 0x0701 [] with pair := { wRun.pair with wit := (false, true, false) } }).at_ (0), 0, wRef, wJob 0x0701 [], rfl, by decide +kernel⟩
theorem met_WorkOpcodes_20 : ∃ (s a : State) (t : Time) (w : WorkRef) (x : Work), a = s.at_ t ∧ (readyWork a w 0x0701 = some x) ∧ (hubUp a = true) ∧ (a.pair.state ≠ .orphan ∨ a.img.cast.isSome = false ∨ a.pair.wit.2.1 = false) := ⟨wOp 0x0701 ([]), (wOp 0x0701 ([])).at_ (0), 0, wRef, wJob 0x0701 ([]), rfl, by decide +kernel⟩
theorem met_WorkOpcodes_21 : ∃ (s a : State) (t : Time) (w : WorkRef) (x : Work), a = s.at_ t ∧ (readyWork a w 0x0702 = some x) ∧ (hubUp a = true) ∧ (mayYield (takeUp w a) = true) := ⟨{ wOp 0x0702 [] with pair := { wRun.pair with state := .active, partnered := true } }, ({ wOp 0x0702 [] with pair := { wRun.pair with state := .active, partnered := true } }).at_ (0), 0, wRef, wJob 0x0702 [], rfl, by decide +kernel⟩
theorem met_WorkOpcodes_22 : ∃ (s a : State) (t : Time) (w : WorkRef) (x : Work), a = s.at_ t ∧ (readyWork a w 0x0702 = some x) ∧ (hubUp a = true) ∧ (mayYield (takeUp w a) = false) := ⟨wOp 0x0702 ([]), (wOp 0x0702 ([])).at_ (0), 0, wRef, wJob 0x0702 ([]), rfl, by decide +kernel⟩

/-- CheckUnitJobs: the premises are met. -/
theorem met_CheckUnitJobs_1 : ∃ (s a : State) (t : Time) (n : Fin 4), a = s.at_ t ∧ (hubAlive a = true) ∧ (cuHeld a n = false) ∧ (cuLegal a n.val = true) ∧ (cuBusy (a.cu.get n) = false) := ⟨wCu, (wCu).at_ (0), 0, 0, rfl, by decide +kernel⟩
theorem met_CheckUnitJobs_2 : ∃ (s a : State) (t : Time) (n : Fin 4), a = s.at_ t ∧ (hubAlive a = true) ∧ (cuHeld a n = false) ∧ (cuLegal a n.val = true) ∧ (cuBusy (a.cu.get n) = true) := ⟨{ wCu with cu := wCu.cu.set 0 { job := some 0 } }, ({ wCu with cu := wCu.cu.set 0 { job := some 0 } }).at_ (0), 0, 0, rfl, by decide +kernel⟩
theorem met_CheckUnitJobs_3 : ∃ (s a : State) (t : Time) (n : Fin 4) (word : Word) (r : BitVec 64), a = s.at_ t ∧ (hubAlive a = true) ∧ (cuHeld a n = false) ∧ ((a.cu.get n).job = some r) := ⟨{ wCu with cu := wCu.cu.set 0 { job := some 0 } }, ({ wCu with cu := wCu.cu.set 0 { job := some 0 } }).at_ (0), 0, 0, 7, 0, rfl, by decide +kernel⟩
theorem met_CheckUnitJobs_4 : ∃ (s a : State) (t : Time) (n : Fin 4) (word : Word), a = s.at_ t ∧ ((a.cu.get n).job = none) := ⟨wRun, (wRun).at_ (0), 0, 0, 7, rfl, by decide +kernel⟩
theorem met_CheckUnitJobs_5 : ∃ (s a : State) (t : Time) (n : Fin 4) (nbytes : Fin 8) (word : Word) (r : BitVec 64), a = s.at_ t ∧ (hubAlive a = true) ∧ (cuHeld a n = false) ∧ ((a.cu.get n).job = some r) ∧ (1 ≤ nbytes.val) ∧ (nbytes.val ≤ 4) := ⟨{ wCu with cu := wCu.cu.set 0 { job := some 0 } }, ({ wCu with cu := wCu.cu.set 0 { job := some 0 } }).at_ (0), 0, 0, 4, 7, 0, rfl, by decide +kernel⟩
theorem met_CheckUnitJobs_6 : ∃ (s a : State) (t : Time) (n : Fin 4), a = s.at_ t ∧ (hubAlive a = true) ∧ ((a.cu.get n).job.isSome = true) ∧ ((a.cu.get n).queue ≠ []) ∧ ((a.cu.get n).lastAt + ms 10 ≤ a.now) := ⟨{ wCu with cu := wCu.cu.set 0 { job := some 0, queue := [wRef] } }, ({ wCu with cu := wCu.cu.set 0 { job := some 0, queue := [wRef] } }).at_ (ms 10), ms 10, 0, rfl, by decide +kernel⟩
theorem met_CheckUnitJobs_7 : ∃ (s a : State) (t : Time) (n : Fin 4) (r : WorkRef) (rest : List WorkRef) (x : Work), a = s.at_ t ∧ (hubUp a = true) ∧ (cuHeld a n = false) ∧ ((a.cu.get n).queue = r :: rest) ∧ ((a.cu.get n).busy = true) ∧ (workOf a r = some x) := ⟨wHold (wJob 0x0600 []) { wCu with cu := wCu.cu.set 0 { busy := true, queue := [wRef] } }, (wHold (wJob 0x0600 []) { wCu with cu := wCu.cu.set 0 { busy := true, queue := [wRef] } }).at_ (0), 0, 0, wRef, [], wJob 0x0600 [], rfl, by decide +kernel⟩

/-- FaultCollectorEvents: the premises are met. -/
theorem met_FaultCollectorEvents_1 : ∃ (s a : State) (t : Time) (srcs : List Nat) (inj : Bool) (ids : List Nat), a = s.at_ t ∧ (hubAlive a = true) ∧ (ids = srcs.filter fun id => !(srcEntry a id).asserted && injOf a id == b2n inj) ∧ (ids ≠ []) := ⟨wRun, (wRun).at_ (0), 0, [0x1C], false, [0x1C], rfl, by decide +kernel⟩
theorem met_FaultCollectorEvents_2 : ∃ (s a : State) (t : Time) (src : Nat) (inj : Bool), a = s.at_ t ∧ (hubAlive a = true) ∧ (faultListed src = true) ∧ (inj = false) ∧ (injOf a src = 0) := ⟨wRun, (wRun).at_ (0), 0, 0x1C, false, rfl, by decide +kernel⟩
theorem met_FaultCollectorEvents_3 : ∃ (s a : State) (t : Time) (src : Nat) (inj : Bool), a = s.at_ t ∧ (hubAlive a = true) ∧ (faultListed src = true) ∧ (inj = true) ∧ ((srcEntry a src).asserted = false) ∧ (2 ≤ injOf a src) := ⟨{ wRun with flt := { wRun.flt with injEn := true, src := wRun.flt.src.upd 28 (fun e => { e with inj := 2 }) } }, ({ wRun with flt := { wRun.flt with injEn := true, src := wRun.flt.src.upd 28 (fun e => { e with inj := 2 }) } }).at_ (0), 0, 0x1C, true, rfl, by decide +kernel⟩
theorem met_FaultCollectorEvents_4 : ∃ (s a : State) (t : Time) (src : Nat) (inj : Bool), a = s.at_ t ∧ (faultListed src = false) := ⟨wRun, (wRun).at_ (0), 0, 0x1FF, false, rfl, by decide +kernel⟩
theorem met_FaultCollectorEvents_5 : ∃ (s a : State) (t : Time) (src : Nat) (back : Bool) (b : BlockId) (n : Nat) (u : Time), a = s.at_ t ∧ (hubAlive a = true) ∧ (back = true) ∧ (blockOf src = some b) ∧ (a.flt.blocks.find? (fun b => b.1 == src) = some (n, u)) ∧ (u + us 1 ≤ a.now) := ⟨{ wRun with flt := { wRun.flt with blocks := [(0x0A8, 0)] } }, ({ wRun with flt := { wRun.flt with blocks := [(0x0A8, 0)] } }).at_ (us 1), us 1, 0x0A8, true, .nvs, 0x0A8, 0, rfl, by decide +kernel⟩
theorem met_FaultCollectorEvents_6 : ∃ (s a : State) (t : Time) (src : Nat) (back : Bool) (b : BlockId) (n : Nat) (u : Time), a = s.at_ t ∧ (hubAlive a = true) ∧ (back = false) ∧ (blockOf src = some b) ∧ (a.flt.blocks.find? (fun b => b.1 == src) = some (n, u)) ∧ (u + recoverTime b ≤ a.now) := ⟨{ wRun with flt := { wRun.flt with blocks := [(0x0A8, 0)] } }, ({ wRun with flt := { wRun.flt with blocks := [(0x0A8, 0)] } }).at_ (ms 500), ms 500, 0x0A8, false, .nvs, 0x0A8, 0, rfl, by decide +kernel⟩
theorem met_FaultCollectorEvents_7 : ∃ (s a : State) (t : Time) (src : Nat), a = s.at_ t ∧ (hubAlive a = true) ∧ ((srcEntry a src).pend = true) ∧ ((srcEntry a src).ecls = 2) := ⟨{ wRun with flt := { wRun.flt with src := wRun.flt.src.upd 28 (fun e => { e with pend := true, ecls := 2 }) } }, ({ wRun with flt := { wRun.flt with src := wRun.flt.src.upd 28 (fun e => { e with pend := true, ecls := 2 }) } }).at_ (0), 0, 0x1C, rfl, by decide +kernel⟩
theorem met_FaultCollectorEvents_8 : ∃ (s a : State) (t : Time) (src : Nat), a = s.at_ t ∧ (hubAlive a = true) ∧ ((srcEntry a src).pend = true) ∧ ((srcEntry a src).ecls = 2) ∧ ((srcEntry a src).since + ms 2 ≤ a.now) := ⟨{ wRun with flt := { wRun.flt with src := wRun.flt.src.upd 28 (fun e => { e with pend := true, ecls := 2 }) } }, ({ wRun with flt := { wRun.flt with src := wRun.flt.src.upd 28 (fun e => { e with pend := true, ecls := 2 }) } }).at_ (ms 2), ms 2, 0x1C, rfl, by decide +kernel⟩
theorem met_FaultCollectorEvents_9 : ∃ (s a : State) (t : Time) (src : Nat) (b : Time), a = s.at_ t ∧ (hubAlive a = true) ∧ ((srcEntry a src).pend = true) ∧ ((srcEntry a src).ecls = 4) ∧ (a.img.cast.isSome = true) ∧ (a.flt.firstCommit = some b) ∧ (b + sec 60 ≤ a.now) := ⟨wCast {} ({ wRun with flt := { wRun.flt with firstCommit := some 0, src := wRun.flt.src.upd 0x1C (fun e => { e with pend := true, ecls := 4 }) } }), (wCast {} ({ wRun with flt := { wRun.flt with firstCommit := some 0, src := wRun.flt.src.upd 0x1C (fun e => { e with pend := true, ecls := 4 }) } })).at_ (sec 60), sec 60, 0x1C, 0, rfl, by decide +kernel⟩
theorem met_FaultCollectorEvents_10 : ∃ (s a : State) (t : Time) (src : Nat), a = s.at_ t ∧ (hubAlive a = true) ∧ ((srcEntry a src).pend = true) ∧ ((srcEntry a src).ecls = 4) ∧ (a.img.cast.isSome = false) ∧ (a.flt.loaded = true) ∧ (a.flt.loadedAt + sec 60 ≤ a.now) := ⟨{ wRun with flt := { wRun.flt with src := wRun.flt.src.upd 28 (fun e => { e with pend := true, ecls := 4 }) } }, ({ wRun with flt := { wRun.flt with src := wRun.flt.src.upd 28 (fun e => { e with pend := true, ecls := 4 }) } }).at_ (sec 60), sec 60, 0x1C, rfl, by decide +kernel⟩
theorem met_FaultCollectorEvents_11 : ∃ (s a : State) (t : Time) (src : Nat), a = s.at_ t ∧ (hubAlive a = true) ∧ (faultListed src = true) ∧ ((srcEntry a src).ecls = 1 ∨ (srcEntry a src).ecls = 4) ∧ (clears a (0x3004 + 8 * src) 2 1 = true) := ⟨{ wRun with flt := { wRun.flt with src := wRun.flt.src.upd 28 (fun e => { e with pend := true, ecls := 1 }) } }, ({ wRun with flt := { wRun.flt with src := wRun.flt.src.upd 28 (fun e => { e with pend := true, ecls := 1 }) } }).at_ (0), 0, 0x1C, rfl, by decide +kernel⟩
theorem met_FaultCollectorEvents_12 : ∃ (s a : State) (t : Time) (src : Nat), a = s.at_ t ∧ (hubAlive a = true) ∧ (faultListed src = true) ∧ ((srcEntry a src).ecls = 1 ∨ (srcEntry a src).ecls = 4) ∧ (clears a (0x3004 + 8 * src) 2 1 = false) := ⟨{ { wRun with flt := { wRun.flt with src := wRun.flt.src.upd 28 (fun e => { e with pend := true, ecls := 1 }) } } with host := { wRun.host with w1cAt := [(32 * (0x3004 + 8 * 0x1C) + 1, 0)] } }, ({ { wRun with flt := { wRun.flt with src := wRun.flt.src.upd 28 (fun e => { e with pend := true, ecls := 1 }) } } with host := { wRun.host with w1cAt := [(32 * (0x3004 + 8 * 0x1C) + 1, 0)] } }).at_ (0), 0, 0x1C, rfl, by decide +kernel⟩
theorem met_FaultCollectorEvents_13 : ∃ (s a : State) (t : Time) (src : Nat), a = s.at_ t ∧ (hubAlive a = true) ∧ (faultListed src = true) ∧ ((srcEntry a src).ecls ≠ 1) ∧ ((srcEntry a src).ecls ≠ 4) := ⟨{ wRun with flt := { wRun.flt with src := wRun.flt.src.upd 28 (fun e => { e with pend := true, ecls := 2 }) } }, ({ wRun with flt := { wRun.flt with src := wRun.flt.src.upd 28 (fun e => { e with pend := true, ecls := 2 }) } }).at_ (0), 0, 0x1C, rfl, by decide +kernel⟩
theorem met_FaultCollectorEvents_14 : ∃ (s a : State) (t : Time) (src : Nat) (field : Fin 3) (value : Nat), a = s.at_ t ∧ (hubAlive a = true) ∧ (faultListed src = true) ∧ (a.flt.cfgLock = false) ∧ (fltLegal (srcEntry a src) field.val value = true) := ⟨wRun, (wRun).at_ (0), 0, 0x1C, 0, 3, rfl, by decide +kernel⟩
theorem met_FaultCollectorEvents_15 : ∃ (s a : State) (t : Time) (src : Nat) (field : Fin 3) (value : Nat), a = s.at_ t ∧ (hubAlive a = true) ∧ (faultListed src = true) ∧ (a.flt.cfgLock = true) := ⟨{ wRun with flt := { wRun.flt with cfgLock := true } }, ({ wRun with flt := { wRun.flt with cfgLock := true } }).at_ (0), 0, 0x1C, 0, 3, rfl, by decide +kernel⟩
theorem met_FaultCollectorEvents_16 : ∃ (s a : State) (t : Time) (src : Nat) (value : Fin 4), a = s.at_ t ∧ (hubAlive a = true) ∧ (faultListed src = true) ∧ (a.flt.injEn = true) ∧ (value = 0) := ⟨{ wRun with flt := { wRun.flt with injEn := true } }, ({ wRun with flt := { wRun.flt with injEn := true } }).at_ (0), 0, 0x1C, 0, rfl, by decide +kernel⟩
theorem met_FaultCollectorEvents_17 : ∃ (s a : State) (t : Time) (src : Nat) (value : Fin 4), a = s.at_ t ∧ (hubAlive a = true) ∧ (a.flt.injEn = false) := ⟨wRun, (wRun).at_ (0), 0, 0x1C, 1, rfl, by decide +kernel⟩
theorem met_FaultCollectorEvents_18 : ∃ (s a : State) (t : Time) (b : Time), a = s.at_ t ∧ (hubAlive a = true) ∧ (a.flt.lock = true) ∧ (a.flt.mastersStop = some b) ∧ (b ≤ a.now) := ⟨{ wRun with flt := { wRun.flt with lock := true, mastersStop := some 0 } }, ({ wRun with flt := { wRun.flt with lock := true, mastersStop := some 0 } }).at_ (0), 0, 0, rfl, by decide +kernel⟩
theorem met_FaultCollectorEvents_19 : ∃ (s a : State) (t : Time) (key : Byte) (byHost : Bool), a = s.at_ t ∧ (hubAlive a = true) ∧ (byHost = true) := ⟨wRun, (wRun).at_ (0), 0, 0x5C, true, rfl, by decide +kernel⟩
theorem met_FaultCollectorEvents_20 : ∃ (s a : State) (t : Time) (key : Byte) (byHost : Bool), a = s.at_ t ∧ (hubAlive a = true) ∧ (byHost = false) ∧ (a.pwr.wda.en = true) ∧ (a.pwr.wda.expired = false) ∧ (wdaTicks a < a.pwr.wda.close + a.pwr.wda.open_) ∧ (a.pwr.wda.close ≤ wdaTicks a) ∧ (key = a.pwr.wda.key) := ⟨{ wRun with pwr := { wRun.pwr with wda := { wRun.pwr.wda with en := true, close := 0, open_ := 10 } } }, ({ wRun with pwr := { wRun.pwr with wda := { wRun.pwr.wda with en := true, close := 0, open_ := 10 } } }).at_ (0), 0, wRun.pwr.wda.key, false, rfl, by decide +kernel⟩
theorem met_FaultCollectorEvents_21 : ∃ (s a : State) (t : Time), a = s.at_ t ∧ (hubAlive a = true) ∧ (a.pwr.wda.en = true) ∧ (a.pwr.wda.expired = false) ∧ (a.pwr.wda.close + a.pwr.wda.open_ ≤ wdaTicks a) := ⟨{ wRun with pwr := { wRun.pwr with wda := { wRun.pwr.wda with en := true, close := 0, open_ := 0 } } }, ({ wRun with pwr := { wRun.pwr with wda := { wRun.pwr.wda with en := true, close := 0, open_ := 0 } } }).at_ (0), 0, rfl, by decide +kernel⟩

/-- PowerAndClockEvents: the premises are met. -/
theorem met_PowerAndClockEvents_1 : ∃ (s a : State) (t : Time), a = s.at_ t ∧ (a.pwr.phase ≠ .por) := ⟨wRun, (wRun).at_ (0), 0, rfl, by decide +kernel⟩
theorem met_PowerAndClockEvents_2 : ∃ (s a : State) (t : Time) (count : Nat), a = s.at_ t ∧ (a.pwr.phase ≠ .por) ∧ (a.pwr.pllLocked = true) ∧ (272 ≤ count) ∧ (count ≤ 300) := ⟨{ wRun with pwr := { wRun.pwr with pllLocked := true } }, ({ wRun with pwr := { wRun.pwr with pllLocked := true } }).at_ (0), 0, 288, rfl, by decide +kernel⟩
theorem met_PowerAndClockEvents_3 : ∃ (s a : State) (t : Time) (count : Nat), a = s.at_ t ∧ (a.pwr.phase ≠ .por) ∧ (a.pwr.pllLocked = true) ∧ (count < 272 ∨ 300 < count) := ⟨{ wRun with pwr := { wRun.pwr with pllLocked := true } }, ({ wRun with pwr := { wRun.pwr with pllLocked := true } }).at_ (0), 0, 271, rfl, by decide +kernel⟩
theorem met_PowerAndClockEvents_4 : ∃ (s a : State) (t : Time) (period : Time), a = s.at_ t ∧ (hubAlive a = true) ∧ (us 100 < period) := ⟨wRun, (wRun).at_ (0), 0, us 101, rfl, by decide +kernel⟩
theorem met_PowerAndClockEvents_5 : ∃ (s a : State) (t : Time) (period : Time), a = s.at_ t ∧ (hubAlive a = true) ∧ (61035 ≤ period) ∧ (period ≤ 61645) := ⟨wRun, (wRun).at_ (0), 0, 61035, rfl, by decide +kernel⟩
theorem met_PowerAndClockEvents_6 : ∃ (s a : State) (t : Time) (perst : Bool) (held : Time) (low : Bool), a = s.at_ t ∧ (pinLow perst a = false) ∧ (us 1 ≤ held) := ⟨wRun, (wRun).at_ (0), 0, true, us 1, false, rfl, by decide +kernel⟩
theorem met_PowerAndClockEvents_7 : ∃ (s a : State) (t : Time) (perst : Bool) (held : Time) (low : Bool), a = s.at_ t ∧ (pinLow perst a = true) := ⟨setPin true true wRun, (setPin true true wRun).at_ (0), 0, true, us 1, false, rfl, by decide +kernel⟩
theorem met_PowerAndClockEvents_8 : ∃ (s a : State) (t : Time) (perst : Bool) (held : Time) (low : Bool), a = s.at_ t ∧ (pinLow perst a = false) ∧ (held < 200) := ⟨wRun, (wRun).at_ (0), 0, true, 0, false, rfl, by decide +kernel⟩
theorem met_PowerAndClockEvents_9 : ∃ (s a : State) (t : Time), a = s.at_ t ∧ (hubAlive a = true) := ⟨wRun, (wRun).at_ (0), 0, rfl, by decide +kernel⟩
theorem met_PowerAndClockEvents_10 : ∃ (s a : State) (t : Time), a = s.at_ t ∧ (a.pwr.phase = .reset) ∧ (pinsLow a = false) ∧ (a.pwr.pllLocked = true) ∧ (a.pwr.resetAt + us 100 ≤ a.now) ∧ (a.pwr.cause ≠ 4 ∨ 2 ≤ a.pwr.clkGood) := ⟨{ wRun with pwr := { wRun.pwr with phase := .reset, pllLocked := true } }, ({ wRun with pwr := { wRun.pwr with phase := .reset, pllLocked := true } }).at_ (us 100), us 100, rfl, by decide +kernel⟩
theorem met_PowerAndClockEvents_11 : ∃ (s a : State) (t : Time) (straps : Straps), a = s.at_ t ∧ (a.pwr.phase = .cold) ∧ (pinsLow a = false) := ⟨{ wRun with pwr := { wRun.pwr with phase := .cold } }, ({ wRun with pwr := { wRun.pwr with phase := .cold } }).at_ (0), 0, wRun.pwr.straps, rfl, by decide +kernel⟩
theorem met_PowerAndClockEvents_12 : ∃ (s a : State) (t : Time) (vhold : Nat) (held : Time), a = s.at_ t ∧ (a.pwr.phase = .por) ∧ (19800 ≤ vhold) ∧ (ms 10 ≤ held) := ⟨{ wRun with pwr := { wRun.pwr with phase := .por } }, ({ wRun with pwr := { wRun.pwr with phase := .por } }).at_ (0), 0, 19800, ms 10, rfl, by decide +kernel⟩
theorem met_PowerAndClockEvents_13 : ∃ (s a : State) (t : Time) (vhold : Nat), a = s.at_ t ∧ (hubAlive a = true) ∧ (a.pwr.failing = false) ∧ (vhold < 18000) := ⟨wRun, (wRun).at_ (0), 0, 17999, rfl, by decide +kernel⟩
theorem met_PowerAndClockEvents_14 : ∃ (s a : State) (t : Time) (vhold : Nat), a = s.at_ t ∧ (18000 ≤ vhold) := ⟨wRun, (wRun).at_ (0), 0, 18000, rfl, by decide +kernel⟩
theorem met_PowerAndClockEvents_15 : ∃ (s a : State) (t : Time), a = s.at_ t ∧ (hubAlive a = true) ∧ (a.pwr.failing = true) := ⟨{ wRun with pwr := { wRun.pwr with failing := true } }, ({ wRun with pwr := { wRun.pwr with failing := true } }).at_ (0), 0, rfl, by decide +kernel⟩
theorem met_PowerAndClockEvents_16 : ∃ (s a : State) (t : Time) (vhold : Nat), a = s.at_ t ∧ (hubAlive a = true) ∧ (a.pwr.failing = true) ∧ (vhold ≤ 14000) := ⟨{ wRun with pwr := { wRun.pwr with failing := true } }, ({ wRun with pwr := { wRun.pwr with failing := true } }).at_ (0), 0, 14000, rfl, by decide +kernel⟩
theorem met_PowerAndClockEvents_17 : ∃ (s a : State) (t : Time) (vkeep : Nat), a = s.at_ t ∧ (a.pwr.phase = .por) ∧ (vkeep < 1600) := ⟨{ wRun with pwr := { wRun.pwr with phase := .por } }, ({ wRun with pwr := { wRun.pwr with phase := .por } }).at_ (0), 0, 1599, rfl, by decide +kernel⟩
theorem met_PowerAndClockEvents_18 : ∃ (s a : State) (t : Time) (vhold : Nat), a = s.at_ t ∧ (hubUp a = true) ∧ (a.pwr.testing = false) ∧ (a.pwr.holdRun = false ∨ a.pwr.holdAt + sec 86400 ≤ a.now) ∧ (19800 ≤ vhold) := ⟨wRun, (wRun).at_ (0), 0, 19800, rfl, by decide +kernel⟩
theorem met_PowerAndClockEvents_19 : ∃ (s a : State) (t : Time) (current : Nat) (dt : Time) (fell : Bool), a = s.at_ t ∧ (hubUp a = true) ∧ (a.pwr.testing = true) ∧ (fell = false ∨ 806000000 ≤ current * dt) := ⟨{ wRun with pwr := { wRun.pwr with testing := true } }, ({ wRun with pwr := { wRun.pwr with testing := true } }).at_ (0), 0, 0, 0, false, rfl, by decide +kernel⟩
theorem met_PowerAndClockEvents_20 : ∃ (s a : State) (t : Time) (current : Nat) (dt : Time) (fell : Bool), a = s.at_ t ∧ (hubUp a = true) ∧ (a.pwr.testing = true) ∧ (fell = true) ∧ (current * dt < 806000000) := ⟨{ wRun with pwr := { wRun.pwr with testing := true } }, ({ wRun with pwr := { wRun.pwr with testing := true } }).at_ (0), 0, 0, 0, true, rfl, by decide +kernel⟩
theorem met_PowerAndClockEvents_21 : ∃ (s a : State) (t : Time), a = s.at_ t ∧ (hubUp a = true) ∧ (a.net.locked = true) := ⟨wChan .live [], (wChan .live []).at_ (0), 0, rfl, by decide +kernel⟩
theorem met_PowerAndClockEvents_23 : ∃ (s a : State) (t : Time), a = s.at_ t ∧ (hubUp a = true) ∧ (a.nvs.studio.running.isSome = true) ∧ (a.flt.studioUp = false) ∧ ((a.flt.blocks.any fun b => blockOf b.1 == some .studio) = false) := ⟨{ wRun with flt := State.reset.flt, nvs := { wRun.nvs with studio := { wRun.nvs.studio with running := some 0 } } }, ({ wRun with flt := State.reset.flt, nvs := { wRun.nvs with studio := { wRun.nvs.studio with running := some 0 } } }).at_ (0), 0, rfl, by decide +kernel⟩

/-- ImageOpcodes: the premises are met. -/
theorem met_ImageOpcodes_1 : ∃ (s a : State) (t : Time) (w : WorkRef) (x : Work), a = s.at_ t ∧ (hubUp a = true) ∧ (workOf a w = some x) ∧ (x.opcode = 0x0300) ∧ (x.taken = false) ∧ (x.fenced = false) ∧ (x.final = none) ∧ (mayRun a x = true) ∧ (earlierTaken a x = true) ∧ (imgTurn a w = true) ∧ (mayAccept a x = true) ∧ (a.img.maqState ≠ .armed) := ⟨wOp 0x0300 [], (wOp 0x0300 []).at_ (0), 0, wRef, wJob 0x0300 [], rfl, by decide +kernel⟩
theorem met_ImageOpcodes_2 : ∃ (s a : State) (t : Time) (w : WorkRef) (x : Work), a = s.at_ t ∧ (hubUp a = true) ∧ (workOf a w = some x) ∧ (x.opcode = 0x0300) ∧ (x.taken = false) ∧ (x.fenced = false) ∧ (x.final = none) ∧ (mayRun a x = true) ∧ (earlierTaken a x = true) ∧ (imgTurn a w = true) ∧ (mayAccept a x = true) ∧ (a.img.maqState = .armed) := ⟨{ wOp 0x0300 [] with img := { (wOp 0x0300 []).img with maqState := .armed } }, ({ wOp 0x0300 [] with img := { (wOp 0x0300 []).img with maqState := .armed } }).at_ (0), 0, wRef, wJob 0x0300 [], rfl, by decide +kernel⟩
theorem met_ImageOpcodes_3 : ∃ (s a : State) (t : Time) (w : WorkRef) (x : Work), a = s.at_ t ∧ (readyWork a w 0x0305 = some x) ∧ (hubUp a = true) ∧ (imgTurn a w = true) ∧ (a.img.maqState ≠ .armed) := ⟨{ wOp 0x0305 [] with img := { (wOp 0x0305 []).img with maqState := .staged } }, ({ wOp 0x0305 [] with img := { (wOp 0x0305 []).img with maqState := .staged } }).at_ (0), 0, wRef, wJob 0x0305 [], rfl, by decide +kernel⟩
theorem met_ImageOpcodes_4 : ∃ (s a : State) (t : Time) (w : WorkRef) (x : Work), a = s.at_ t ∧ (readyWork a w 0x0305 = some x) ∧ (hubUp a = true) ∧ (imgTurn a w = true) ∧ (a.img.maqState = .armed) := ⟨{ wOp 0x0305 [] with img := { (wOp 0x0305 []).img with maqState := .armed } }, ({ wOp 0x0305 [] with img := { (wOp 0x0305 []).img with maqState := .armed } }).at_ (0), 0, wRef, wJob 0x0305 [], rfl, by decide +kernel⟩
theorem met_ImageOpcodes_5 : ∃ (s a : State) (t : Time) (w : WorkRef) (x : Work), a = s.at_ t ∧ (readyWork a w 0x0301 = some x) ∧ (hubUp a = true) ∧ (imgTurn a w = true) ∧ (imgBusy a = false) ∧ (a.img.maqState = .loaded) := ⟨{ wOp 0x0301 [] with img := { (wOp 0x0301 []).img with maqState := .loaded } }, ({ wOp 0x0301 [] with img := { (wOp 0x0301 []).img with maqState := .loaded } }).at_ (0), 0, wRef, wJob 0x0301 [], rfl, by decide +kernel⟩
theorem met_ImageOpcodes_6 : ∃ (s a : State) (t : Time) (w : WorkRef) (x : Work), a = s.at_ t ∧ (readyWork a w 0x0301 = some x) ∧ (hubUp a = true) ∧ (imgTurn a w = true) ∧ (imgBusy a = false) ∧ (a.img.maqState = .empty) ∧ (mirrors (takeUp w a) = false) := ⟨{ wOp 0x0301 [] with img := { (wOp 0x0301 []).img with maqState := .empty } }, ({ wOp 0x0301 [] with img := { (wOp 0x0301 []).img with maqState := .empty } }).at_ (0), 0, wRef, wJob 0x0301 [], rfl, by decide +kernel⟩
theorem met_ImageOpcodes_7 : ∃ (s a : State) (t : Time) (w : WorkRef) (x : Work), a = s.at_ t ∧ (readyWork a w 0x0301 = some x) ∧ (hubUp a = true) ∧ (imgTurn a w = true) ∧ (imgBusy a = false) ∧ (a.img.maqState = .armed) := ⟨{ wOp 0x0301 [] with img := { (wOp 0x0301 []).img with maqState := .armed } }, ({ wOp 0x0301 [] with img := { (wOp 0x0301 []).img with maqState := .armed } }).at_ (0), 0, wRef, wJob 0x0301 [], rfl, by decide +kernel⟩
theorem met_ImageOpcodes_8 : ∃ (s a : State) (t : Time) (w : WorkRef) (x : Work), a = s.at_ t ∧ (readyWork a w 0x0302 = some x) ∧ (hubUp a = true) ∧ (imgTurn a w = true) ∧ (imgBusy a = false) ∧ (a.img.maqState = .staged) := ⟨{ wOp 0x0302 [] with img := { (wOp 0x0302 []).img with maqState := .staged } }, ({ wOp 0x0302 [] with img := { (wOp 0x0302 []).img with maqState := .staged } }).at_ (0), 0, wRef, wJob 0x0302 [], rfl, by decide +kernel⟩
theorem met_ImageOpcodes_9 : ∃ (s a : State) (t : Time) (w : WorkRef) (x : Work), a = s.at_ t ∧ (readyWork a w 0x0302 = some x) ∧ (hubUp a = true) ∧ (imgTurn a w = true) ∧ (imgBusy a = false) ∧ (a.img.maqState = .loaded) := ⟨{ wOp 0x0302 [] with img := { (wOp 0x0302 []).img with maqState := .loaded } }, ({ wOp 0x0302 [] with img := { (wOp 0x0302 []).img with maqState := .loaded } }).at_ (0), 0, wRef, wJob 0x0302 [], rfl, by decide +kernel⟩
theorem met_ImageOpcodes_10 : ∃ (s a : State) (t : Time) (w : WorkRef) (x : Work), a = s.at_ t ∧ (readyWork a w 0x0303 = some x) ∧ (hubUp a = true) ∧ (imgTurn a w = true) ∧ (workOf a w = some x) ∧ (x.accepted = true) ∧ (a.img.stager.isNone = true) ∧ (a.img.activator.isNone = true) ∧ (a.img.maqState = .staged) := ⟨{ wOp 0x0303 [] with img := { (wOp 0x0303 []).img with maqState := .staged } }, ({ wOp 0x0303 [] with img := { (wOp 0x0303 []).img with maqState := .staged } }).at_ (0), 0, wRef, wJob 0x0303 [], rfl, by decide +kernel⟩
theorem met_ImageOpcodes_11 : ∃ (s a : State) (t : Time) (w : WorkRef) (x : Work), a = s.at_ t ∧ (readyWork a w 0x0303 = some x) ∧ (hubUp a = true) ∧ (imgTurn a w = true) ∧ (workOf a w = some x) ∧ (x.accepted = true) ∧ (a.img.stager.isNone = true) ∧ (a.img.activator.isNone = true) ∧ (a.img.maqState = .loaded) := ⟨{ wOp 0x0303 [] with img := { (wOp 0x0303 []).img with maqState := .loaded } }, ({ wOp 0x0303 [] with img := { (wOp 0x0303 []).img with maqState := .loaded } }).at_ (0), 0, wRef, wJob 0x0303 [], rfl, by decide +kernel⟩
theorem met_ImageOpcodes_12 : ∃ (s a : State) (t : Time) (w : WorkRef) (x : Work), a = s.at_ t ∧ (readyWork a w 0x0304 = some x) ∧ (hubUp a = true) ∧ (imgTurn a w = true) ∧ (workOf a w = some x) ∧ (x.accepted = true) ∧ (a.img.stager.isNone = true) ∧ (a.img.activator.isNone = true) ∧ (a.img.maqState ≠ .armed) := ⟨{ wOp 0x0304 [] with img := { (wOp 0x0304 []).img with maqState := .staged } }, ({ wOp 0x0304 [] with img := { (wOp 0x0304 []).img with maqState := .staged } }).at_ (0), 0, wRef, wJob 0x0304 [], rfl, by decide +kernel⟩
theorem met_ImageOpcodes_13 : ∃ (s a : State) (t : Time) (w : WorkRef) (x : Work), a = s.at_ t ∧ (readyWork a w 0x0302 = some x) ∧ (hubUp a = true) ∧ (imgTurn a w = true) ∧ (imgBusy a = false) ∧ (a.img.maqState = .armed) := ⟨{ wOp 0x0302 [] with img := { (wOp 0x0302 []).img with maqState := .armed } }, ({ wOp 0x0302 [] with img := { (wOp 0x0302 []).img with maqState := .armed } }).at_ (0), 0, wRef, wJob 0x0302 [], rfl, by decide +kernel⟩
theorem met_ImageOpcodes_14 : ∃ (s a : State) (t : Time) (w : WorkRef) (x : Work), a = s.at_ t ∧ (readyWork a w 0x0303 = some x) ∧ (hubUp a = true) ∧ (imgTurn a w = true) ∧ (workOf a w = some x) ∧ (x.accepted = true) ∧ (a.img.stager.isNone = true) ∧ (a.img.maqState = .armed) := ⟨{ wOp 0x0303 [] with img := { (wOp 0x0303 []).img with maqState := .armed } }, ({ wOp 0x0303 [] with img := { (wOp 0x0303 []).img with maqState := .armed } }).at_ (0), 0, wRef, wJob 0x0303 [], rfl, by decide +kernel⟩
theorem met_ImageOpcodes_15 : ∃ (s a : State) (t : Time) (w : WorkRef) (x : Work), a = s.at_ t ∧ (readyWork a w 0x0304 = some x) ∧ (hubUp a = true) ∧ (imgTurn a w = true) ∧ (workOf a w = some x) ∧ (x.accepted = true) ∧ (a.img.stager.isNone = true) ∧ (a.img.maqState = .armed) := ⟨{ wOp 0x0304 [] with img := { (wOp 0x0304 []).img with maqState := .armed } }, ({ wOp 0x0304 [] with img := { (wOp 0x0304 []).img with maqState := .armed } }).at_ (0), 0, wRef, wJob 0x0304 [], rfl, by decide +kernel⟩

/-- ImageEvents: the premises are met. -/
theorem met_ImageEvents_1 : ∃ (s a : State) (t : Time) (w : WorkRef) (z : State), a = s.at_ t ∧ (hubUp a = true) ∧ (a.flt.studioUp = true) ∧ (a.img.stager = some w) ∧ (z = staged (stageNow a).1 (modImg (fun m => { m with stager := none, stageCls := 0 }) (stageNow a).2)) ∧ (workOf z w = none) :=
  let s := { wRun with img := { wRun.img with stager := some wRef, maqState := .staging } }
  ⟨s, s.at_ 0, 0, wRef, _, rfl, by decide +kernel, by decide +kernel, by decide +kernel, rfl, by decide +kernel⟩
theorem met_ImageEvents_2 : ∃ (s a : State) (t : Time) (w : WorkRef) (z : State) (x : Work), a = s.at_ t ∧ (hubUp a = true) ∧ (a.flt.studioUp = true) ∧ (a.img.stager = some w) ∧ (z = staged (stageNow a).1 (modImg (fun m => { m with stager := none, stageCls := 0 }) (stageNow a).2)) ∧ (workOf z w = some x) ∧ (mirrors z = false) :=
  let s := { wHold (wJob 0x0301 []) wRun with img := { wRun.img with stager := some wRef, maqState := .staging } }
  ⟨s, s.at_ 0, 0, wRef, _, wJob 0x0301 [], rfl, by decide +kernel, by decide +kernel, by decide +kernel, rfl, by decide +kernel, by decide +kernel⟩
theorem met_ImageEvents_3 : ∃ (s a : State) (t : Time) (counts : List Word) (w : WorkRef) (x : Work) (result : Nat), a = s.at_ t ∧ (hubAlive a = true) ∧ (a.img.rehearser = some w) ∧ (a.img.rehearseEnd = some result) ∧ (workOf a w = some x) := ⟨{ wHold (wJob 0x0302 []) wRun with img := { wRun.img with rehearser := some wRef, rehearseEnd := some 0 } }, ({ wHold (wJob 0x0302 []) wRun with img := { wRun.img with rehearser := some wRef, rehearseEnd := some 0 } }).at_ (0), 0, [], wRef, wJob 0x0302 [], 0, rfl, by decide +kernel⟩
theorem met_ImageEvents_4 : ∃ (s a : State) (t : Time) (tile : Fin 12) (i : Image), a = s.at_ t ∧ (hubUp a = true) ∧ (incoming a = some i) ∧ ((a.tile.get tile).state = .live) ∧ (linkUp a tile = true) := ⟨let s := wTile .live; { s with img := { s.img with maq := some {}, activator := some (wRef, false) } }, (let s := wTile .live; { s with img := { s.img with maq := some {}, activator := some (wRef, false) } }).at_ (0), 0, 0, {}, rfl, by decide +kernel⟩
theorem met_ImageEvents_5 : ∃ (s a : State) (t : Time) (e : Nat) (w : WorkRef) (u : Time), a = s.at_ t ∧ (hubAlive a = true) ∧ (a.img.roleDue = some (e, w, u)) ∧ (workOf a w = none) := ⟨{ wRun with img := { wRun.img with roleDue := some (3, wRef, 0) } }, ({ wRun with img := { wRun.img with roleDue := some (3, wRef, 0) } }).at_ (0), 0, 3, wRef, 0, rfl, by decide +kernel⟩
theorem met_ImageEvents_6 : ∃ (s a : State) (t : Time) (e : Nat) (w : WorkRef) (u : Time) (x : Work), a = s.at_ t ∧ (hubAlive a = true) ∧ (a.img.roleDue = some (e, w, u)) ∧ (workOf a w = some x) ∧ (mirrors a = false) := ⟨{ wHold (wJob 0x0303 []) wRun with img := { wRun.img with roleDue := some (3, wRef, 0) } }, ({ wHold (wJob 0x0303 []) wRun with img := { wRun.img with roleDue := some (3, wRef, 0) } }).at_ (0), 0, 3, wRef, 0, wJob 0x0303 [], rfl, by decide +kernel⟩

/-- FirmwareEvents: the premises are met. -/
theorem met_FirmwareEvents_1 : ∃ (s a : State) (t : Time), a = s.at_ t ∧ (hubUp a = true) ∧ (fwWindow a = false) := ⟨wRun, (wRun).at_ (0), 0, rfl, by decide +kernel⟩
theorem met_FirmwareEvents_2 : ∃ (s a : State) (t : Time), a = s.at_ t ∧ (hubUp a = true) ∧ (fwWindow a = true) ∧ (a.nvs.load.windowOpen = true) := ⟨{ { wRun with nvs := { wRun.nvs with load := { wRun.nvs.load with windowOpen := true } } } with regs := [(0x2C14, 4)] }, ({ { wRun with nvs := { wRun.nvs with load := { wRun.nvs.load with windowOpen := true } } } with regs := [(0x2C14, 4)] }).at_ (0), 0, rfl, by decide +kernel⟩
theorem met_FirmwareEvents_3 : ∃ (s a : State) (t : Time), a = s.at_ t ∧ (hubUp a = true) ∧ (fwWindow a = true) ∧ (a.nvs.load.windowOpen = false) ∧ (a.nvs.load.target.isSome = true) := ⟨{ { wRun with nvs := { wRun.nvs with load := { wRun.nvs.load with target := some 0 } } } with regs := [(0x2C14, 4)] }, ({ { wRun with nvs := { wRun.nvs with load := { wRun.nvs.load with target := some 0 } } } with regs := [(0x2C14, 4)] }).at_ (0), 0, rfl, by decide +kernel⟩
theorem met_FirmwareEvents_4 : ∃ (s a : State) (t : Time), a = s.at_ t ∧ (hubUp a = true) ∧ (fwWindow a = true) := ⟨{ wRun with regs := [(0x2C14, 4)] }, ({ wRun with regs := [(0x2C14, 4)] }).at_ (0), 0, rfl, by decide +kernel⟩
theorem met_FirmwareEvents_5 : ∃ (s a : State) (t : Time), a = s.at_ t ∧ (hubUp a = true) ∧ (fwWindow a = false) := ⟨wRun, (wRun).at_ (0), 0, rfl, by decide +kernel⟩
theorem met_FirmwareEvents_6 : ∃ (s a : State) (t : Time) (word : Word), a = s.at_ t ∧ (hubUp a = true) ∧ (a.nvs.load.windowOpen = true) ∧ (a.nvs.load.word.length + 1 < 256) := ⟨{ wRun with nvs := { wRun.nvs with load := { wRun.nvs.load with windowOpen := true } } }, ({ wRun with nvs := { wRun.nvs with load := { wRun.nvs.load with windowOpen := true } } }).at_ (0), 0, 7, rfl, by decide +kernel⟩
theorem met_FirmwareEvents_7 : ∃ (s a : State) (t : Time) (word : Word) (off : Nat), a = s.at_ t ∧ (hubUp a = true) ∧ (a.nvs.load.windowOpen = true) ∧ (256 ≤ a.nvs.load.word.length + 1) ∧ (off = bits (reg a 0x2C0C) 0 24) ∧ (off % 1024 = 0) ∧ (off + 1024 ≤ slotSize a.nvs.load.kind) := ⟨{ wRun with nvs := { wRun.nvs with load := { wRun.nvs.load with windowOpen := true, kind := 1, word := List.replicate 255 0 } } }, ({ wRun with nvs := { wRun.nvs with load := { wRun.nvs.load with windowOpen := true, kind := 1, word := List.replicate 255 0 } } }).at_ (0), 0, 7, 0, rfl, by decide +kernel⟩
theorem met_FirmwareEvents_8 : ∃ (s a : State) (t : Time) (word : Word), a = s.at_ t ∧ (hubUp a = true) ∧ (a.nvs.load.windowOpen = false) := ⟨wRun, (wRun).at_ (0), 0, 7, rfl, by decide +kernel⟩
theorem met_FirmwareEvents_9 : ∃ (s a : State) (t : Time) (image : List Byte) (readOk : Bool) (i : Fin 2), a = s.at_ t ∧ (hubUp a = true) ∧ (a.nvs.load.target = some i) ∧ (a.nvs.load.windowOpen = false) ∧ (slotErased a = true) ∧ (a.nvs.load.window = false) := ⟨{ wRun with nvs := { wRun.nvs with load := { wRun.nvs.load with target := some 0 } } }, ({ wRun with nvs := { wRun.nvs with load := { wRun.nvs.load with target := some 0 } } }).at_ (0), 0, [], true, 0, rfl, by decide +kernel⟩
theorem met_FirmwareEvents_10 : ∃ (s a : State) (t : Time) (image : List Byte) (readOk : Bool) (i : Fin 2), a = s.at_ t ∧ (hubUp a = true) ∧ (a.nvs.load.target = some i) ∧ (a.nvs.load.windowOpen = false) ∧ (slotErased a = true) ∧ (a.nvs.load.window = true) := ⟨{ wRun with nvs := { wRun.nvs with load := { wRun.nvs.load with target := some 0, window := true } } }, ({ wRun with nvs := { wRun.nvs with load := { wRun.nvs.load with target := some 0, window := true } } }).at_ (0), 0, [], true, 0, rfl, by decide +kernel⟩
theorem met_FirmwareEvents_11 : ∃ (s a : State) (t : Time), a = s.at_ t ∧ (hubUp a = true) ∧ (a.nvs.studio.trial ≠ 2) := ⟨{ wRun with nvs := { wRun.nvs with studio := { wRun.nvs.studio with trial := 0 } } }, ({ wRun with nvs := { wRun.nvs with studio := { wRun.nvs.studio with trial := 0 } } }).at_ (0), 0, rfl, by decide +kernel⟩
theorem met_FirmwareEvents_12 : ∃ (s a : State) (t : Time), a = s.at_ t ∧ (hubUp a = true) ∧ (a.nvs.studio.trial = 2) := ⟨wRun, (wRun).at_ (0), 0, rfl, by decide +kernel⟩
theorem met_FirmwareEvents_13 : ∃ (s a : State) (t : Time) (studio : Bool) (i : Fin 2), a = s.at_ t ∧ (hubUp a = true) ∧ (goodDue studio a = true) ∧ ((if studio then a.nvs.studio else a.nvs.patch).running = some i) := ⟨{ wRun with pwr := { wRun.pwr with ready := true }, nvs := { wRun.nvs with patch := { wRun.nvs.patch with trial := 0, running := some 0 } } }, ({ wRun with pwr := { wRun.pwr with ready := true }, nvs := { wRun.nvs with patch := { wRun.nvs.patch with trial := 0, running := some 0 } } }).at_ (sec 10), sec 10, false, 0, rfl, by decide +kernel⟩

/-- StoreEvents: the premises are met. -/
theorem met_StoreEvents_1 : ∃ (s a : State) (t : Time) (block : Nat) (failed : Bool) (b purpose p : Nat), a = s.at_ t ∧ (hubAlive a = true) ∧ (a.pwr.failing = false) ∧ (a.nvs.store.intents.find? (fun x => x.1 == block) = some (b, purpose)) ∧ (p = lookupD a.nvs.store.map b b) ∧ (failed = false) ∧ (lookupD a.nvs.store.erases p 0 + 1 < 100000) := ⟨{ wRun with nvs := { wRun.nvs with store := { wRun.nvs.store with intents := [(7, 1)] } } }, ({ wRun with nvs := { wRun.nvs with store := { wRun.nvs.store with intents := [(7, 1)] } } }).at_ (0), 0, 7, false, 7, 1, 7, rfl, by decide +kernel⟩
theorem met_StoreEvents_2 : ∃ (s a : State) (t : Time) (block : Nat) (failed : Bool) (b purpose p : Nat), a = s.at_ t ∧ (hubAlive a = true) ∧ (a.pwr.failing = false) ∧ (a.nvs.store.intents.find? (fun x => x.1 == block) = some (b, purpose)) ∧ (p = lookupD a.nvs.store.map b b) ∧ (failed = false) ∧ (100000 ≤ lookupD a.nvs.store.erases p 0 + 1) ∧ (a.nvs.store.reserve = 0) := ⟨{ wRun with nvs := { wRun.nvs with store := { wRun.nvs.store with intents := [(7, 1)], erases := [(7, 99999)], reserve := 0 } } }, ({ wRun with nvs := { wRun.nvs with store := { wRun.nvs.store with intents := [(7, 1)], erases := [(7, 99999)], reserve := 0 } } }).at_ (0), 0, 7, false, 7, 1, 7, rfl, by decide +kernel⟩
theorem met_StoreEvents_3 : ∃ (s a : State) (t : Time) (block : Nat) (failed : Bool) (b purpose p : Nat), a = s.at_ t ∧ (hubAlive a = true) ∧ (a.pwr.failing = false) ∧ (a.nvs.store.intents.find? (fun x => x.1 == block) = some (b, purpose)) ∧ (p = lookupD a.nvs.store.map b b) ∧ (failed = true) := ⟨{ wRun with nvs := { wRun.nvs with store := { wRun.nvs.store with intents := [(7, 1)] } } }, ({ wRun with nvs := { wRun.nvs with store := { wRun.nvs.store with intents := [(7, 1)] } } }).at_ (0), 0, 7, true, 7, 1, 7, rfl, by decide +kernel⟩
theorem met_StoreEvents_4 : ∃ (s a : State) (t : Time) (block : Nat) (failed : Bool) (b purpose p : Nat), a = s.at_ t ∧ (hubAlive a = true) ∧ (a.pwr.failing = false) ∧ (a.nvs.store.intents.find? (fun x => x.1 == block) = some (b, purpose)) ∧ (p = lookupD a.nvs.store.map b b) ∧ (100000 ≤ lookupD a.nvs.store.erases p 0 + 1) ∧ (a.nvs.store.reserve ≠ 0) := ⟨{ wRun with nvs := { wRun.nvs with store := { wRun.nvs.store with intents := [(7, 1)], erases := [(7, 99999)] } } }, ({ wRun with nvs := { wRun.nvs with store := { wRun.nvs.store with intents := [(7, 1)], erases := [(7, 99999)] } } }).at_ (0), 0, 7, false, 7, 1, 7, rfl, by decide +kernel⟩
theorem met_StoreEvents_5 : ∃ (s a : State) (t : Time) (failed : Bool) (j : StoreJob), a = s.at_ t ∧ (hubAlive a = true) ∧ (blockHeld a 0x0A8 = false) ∧ (nextJob a.nvs.store.jobs = some j) ∧ (failed = false) := ⟨{ wRun with nvs := { wRun.nvs with store := { wRun.nvs.store with jobs := [.trim] } } }, ({ wRun with nvs := { wRun.nvs with store := { wRun.nvs.store with jobs := [.trim] } } }).at_ (0), 0, false, .trim, rfl, by decide +kernel⟩
theorem met_StoreEvents_6 : ∃ (s a : State) (t : Time) (failed : Bool) (j : StoreJob), a = s.at_ t ∧ (hubAlive a = true) ∧ (blockHeld a 0x0A8 = false) ∧ (nextJob a.nvs.store.jobs = some j) ∧ (failed = true) := ⟨{ wRun with nvs := { wRun.nvs with store := { wRun.nvs.store with jobs := [.trim] } } }, ({ wRun with nvs := { wRun.nvs with store := { wRun.nvs.store with jobs := [.trim] } } }).at_ (0), 0, true, .trim, rfl, by decide +kernel⟩
theorem met_StoreEvents_7 : ∃ (s a : State) (t : Time), a = s.at_ t ∧ (hubUp a = true) := ⟨wRun, (wRun).at_ (0), 0, rfl, by decide +kernel⟩
theorem met_StoreEvents_8 : ∃ (s a : State) (t : Time), a = s.at_ t ∧ (hubUp a = true) ∧ (a.nvs.store.reserve < 32) ∧ (a.nvs.store.dayWear = none) := ⟨{ wRun with nvs := { wRun.nvs with store := { wRun.nvs.store with reserve := 31 } } }, ({ wRun with nvs := { wRun.nvs with store := { wRun.nvs.store with reserve := 31 } } }).at_ (0), 0, rfl, by decide +kernel⟩
theorem met_StoreEvents_9 : ∃ (s a : State) (t : Time) (b : Time), a = s.at_ t ∧ (hubUp a = true) ∧ (a.nvs.store.reserve < 32) ∧ (a.nvs.store.dayWear = some b) ∧ (b + sec 86400 ≤ a.now) := ⟨{ wRun with nvs := { wRun.nvs with store := { wRun.nvs.store with reserve := 31, dayWear := some 0 } } }, ({ wRun with nvs := { wRun.nvs with store := { wRun.nvs.store with reserve := 31, dayWear := some 0 } } }).at_ (sec 86400), sec 86400, 0, rfl, by decide +kernel⟩
theorem met_StoreEvents_10 : ∃ (s a : State) (t : Time), a = s.at_ t ∧ (32 ≤ a.nvs.store.reserve) := ⟨wRun, (wRun).at_ (0), 0, rfl, by decide +kernel⟩

/-- GateRequests: the premises are met. -/
theorem met_GateRequests_1 : ∃ (s a : State) (t : Time) (k : Nat) (opened : Bool) (c : Fin 96), a = s.at_ t ∧ (gateOpen a = true) ∧ (asFin 96 k = some c) ∧ (castClaims a (resId 6 k) = true) := ⟨wCast { claim := [leBytes 4 (resId 6 0)] } wRun, (wCast { claim := [leBytes 4 (resId 6 0)] } wRun).at_ (0), 0, 0, true, 0, rfl, by decide +kernel⟩
theorem met_GateRequests_2 : ∃ (s a : State) (t : Time) (k : Nat) (opened : Bool), a = s.at_ t ∧ (gateOpen a = true) ∧ (castClaims a (resId 6 k) = false) := ⟨wRun, (wRun).at_ (0), 0, 0, true, rfl, by decide +kernel⟩
theorem met_GateRequests_3 : ∃ (s a : State) (t : Time) (begins : Bool) (cls : Nat), a = s.at_ t ∧ (gateOpen a = true) ∧ (a.img.stager.isSome = true) ∧ (1 ≤ cls) ∧ (cls ≤ 5) ∧ (begins = true) := ⟨{ wRun with img := { wRun.img with stager := some wRef } }, ({ wRun with img := { wRun.img with stager := some wRef } }).at_ (0), 0, true, 5, rfl, by decide +kernel⟩
theorem met_GateRequests_4 : ∃ (s a : State) (t : Time) (begins : Bool) (cls : Nat), a = s.at_ t ∧ (begins = false) := ⟨wRun, (wRun).at_ (0), 0, false, 5, rfl, by decide +kernel⟩
theorem met_GateRequests_5 : ∃ (s a : State) (t : Time) (n : Nat), a = s.at_ t ∧ (gateOpen a = true) ∧ (a.recd.capped = false) ∧ (n ≠ 0) ∧ (n ≤ a.recd.sealed_.length) := ⟨{ wRun with recd := { wRun.recd with sealed_ := [{ evt := { type := 0, source := 0, time := 0 }, seq := 1 }] } }, ({ wRun with recd := { wRun.recd with sealed_ := [{ evt := { type := 0, source := 0, time := 0 }, seq := 1 }] } }).at_ (0), 0, 1, rfl, by decide +kernel⟩
theorem met_GateRequests_6 : ∃ (s a : State) (t : Time) (n : Nat), a = s.at_ t ∧ (gateOpen a = true) ∧ (a.recd.capped = true ∨ n = 0 ∨ a.recd.sealed_.length < n) := ⟨wRun, (wRun).at_ (0), 0, 1, rfl, by decide +kernel⟩
theorem met_GateRequests_7 : ∃ (s a : State) (t : Time) (req : FltReq) (src : Nat) (field : Fin 3) (value : Nat), a = s.at_ t ∧ (gateOpen a = true) ∧ (req = .config src field value) := ⟨wRun, (wRun).at_ (0), 0, .config 1 0 3, 1, 0, 3, rfl, by decide +kernel⟩
theorem met_GateRequests_8 : ∃ (s a : State) (t : Time) (req : FltReq) (src : Nat), a = s.at_ t ∧ (gateOpen a = true) ∧ (req = .clear src) ∧ (faultListed src = true) ∧ ((srcEntry a src).ecls = 1) := ⟨{ wRun with flt := { wRun.flt with src := wRun.flt.src.upd 0x1C (fun e => { e with ecls := 1 }) } }, ({ wRun with flt := { wRun.flt with src := wRun.flt.src.upd 0x1C (fun e => { e with ecls := 1 }) } }).at_ (0), 0, .clear 0x1C, 0x1C, rfl, by decide +kernel⟩
theorem met_GateRequests_9 : ∃ (s a : State) (t : Time) (req : FltReq) (src : Nat), a = s.at_ t ∧ (gateOpen a = true) ∧ (req = .clear src) ∧ ((srcEntry a src).ecls ≠ 1) := ⟨wRun, (wRun).at_ (0), 0, .clear 0x1C, 0x1C, rfl, by decide +kernel⟩
theorem met_GateRequests_10 : ∃ (s a : State) (t : Time) (area index : Nat), a = s.at_ t ∧ (area = 0 ∨ area = 5) := ⟨wRun, (wRun).at_ (0), 0, 0, 9, rfl, by decide +kernel⟩
theorem met_GateRequests_11 : ∃ (s a : State) (t : Time) (area index : Nat), a = s.at_ t ∧ (gateOpen a = true) ∧ (5 < area) := ⟨wRun, (wRun).at_ (0), 0, 6, 0, rfl, by decide +kernel⟩
theorem met_GateRequests_12 : ∃ (s a : State) (t : Time) (area index : Nat), a = s.at_ t ∧ ((area = 1 ∧ index < 96) ∨ (area = 2 ∧ index < 12) ∨ (area = 3 ∧ index < 2048) ∨ (area = 4 ∧ index < 8640)) := ⟨wRun, (wRun).at_ (0), 0, 1, 9, rfl, by decide +kernel⟩
theorem met_GateRequests_13 : ∃ (s a : State) (t : Time) (area index : Nat), a = s.at_ t ∧ (gateOpen a = true) ∧ ((area = 1 ∧ 96 ≤ index) ∨ (area = 2 ∧ 12 ≤ index) ∨ (area = 3 ∧ 2048 ≤ index) ∨ (area = 4 ∧ 8640 ≤ index)) := ⟨wRun, (wRun).at_ (0), 0, 2, 12, rfl, by decide +kernel⟩
theorem met_GateRequests_14 : ∃ (s a : State) (t : Time) (w : WorkRef) (x : Work), a = s.at_ t ∧ (gateOpen a = true) ∧ (workOf a w = some x) ∧ (x.opcode = 0x0200) ∧ (castClaims a (resId 6 (u16 x.bytes 32)) = true) ∧ (x.marked = false) ∧ (x.final = none) := ⟨wCast { claim := [leBytes 4 (resId 6 0)] } (wHold (wJob 0x0200 []) wRun), (wCast { claim := [leBytes 4 (resId 6 0)] } (wHold (wJob 0x0200 []) wRun)).at_ (0), 0, wRef, wJob 0x0200 [], rfl, by decide +kernel⟩
theorem met_GateRequests_15 : ∃ (s a : State) (t : Time) (w : WorkRef), a = s.at_ t ∧ (gateOpen a = true) ∧ (workOf a w = none) := ⟨wRun, (wRun).at_ (0), 0, wRef, rfl, by decide +kernel⟩

/-- RecorderEvents: the premises are met. -/
theorem met_RecorderEvents_1 : ∃ (s a : State) (t : Time) (e : RecEvt) (rest : List RecEvt), a = s.at_ t ∧ (hubAlive a = true) ∧ (recInReset a = false) ∧ (a.recd.queue = e :: rest) ∧ (e.type ≠ 0x0302) := ⟨{ wRun with recd := { wRun.recd with queue := [{ type := 1, source := 0, time := 0 }] } }, ({ wRun with recd := { wRun.recd with queue := [{ type := 1, source := 0, time := 0 }] } }).at_ (0), 0, { type := 1, source := 0, time := 0 }, [], rfl, by decide +kernel⟩
theorem met_RecorderEvents_2 : ∃ (s a : State) (t : Time) (e : RecEvt) (rest : List RecEvt), a = s.at_ t ∧ (hubAlive a = true) ∧ (recInReset a = false) ∧ (a.recd.queue = e :: rest) ∧ (e.type = 0x0302) ∧ (a.recd.thrift = true) := ⟨{ wRun with recd := { wRun.recd with thrift := true, queue := [{ type := 0x0302, source := 0, time := 0 }] } }, ({ wRun with recd := { wRun.recd with thrift := true, queue := [{ type := 0x0302, source := 0, time := 0 }] } }).at_ (0), 0, { type := 0x0302, source := 0, time := 0 }, [], rfl, by decide +kernel⟩
theorem met_RecorderEvents_3 : ∃ (s a : State) (t : Time), a = s.at_ t ∧ (hubAlive a = true) ∧ (sealDue a = true) := ⟨{ wRun with recd := { wRun.recd with opened := some { evt := { type := 0, source := 0, time := 0 }, seq := 1 } } }, ({ wRun with recd := { wRun.recd with opened := some { evt := { type := 0, source := 0, time := 0 }, seq := 1 } } }).at_ (sec 1), sec 1, rfl, by decide +kernel⟩
theorem met_RecorderEvents_4 : ∃ (s a : State) (t : Time) (b : Time), a = s.at_ t ∧ (hubAlive a = true) ∧ (a.recd.fullSince = some b) ∧ (b + ms 100 ≤ a.now) := ⟨{ wRun with recd := { wRun.recd with fullSince := some 0 } }, ({ wRun with recd := { wRun.recd with fullSince := some 0 } }).at_ (ms 100), ms 100, 0, rfl, by decide +kernel⟩
theorem met_RecorderEvents_5 : ∃ (s a : State) (t : Time) (rate24 bytes24 rate1 bytes1 : Nat), a = s.at_ t ∧ (hubAlive a = true) ∧ (a.recd.hourAt + sec 3600 ≤ a.now) := ⟨wRun, (wRun).at_ (sec 3600), sec 3600, 0, 0, 0, 0, rfl, by decide +kernel⟩
theorem met_RecorderEvents_6 : ∃ (s a : State) (t : Time) (on : Bool), a = s.at_ t ∧ (hubAlive a = true) ∧ (on = false) := ⟨wRun, (wRun).at_ (0), 0, false, rfl, by decide +kernel⟩
theorem met_RecorderEvents_7 : ∃ (s a : State) (t : Time) (on : Bool), a = s.at_ t ∧ (hubAlive a = true) ∧ (on = true) := ⟨wRun, (wRun).at_ (0), 0, true, rfl, by decide +kernel⟩
theorem met_RecorderEvents_8 : ∃ (s a : State) (t : Time) (r : RecRec), a = s.at_ t ∧ (hubUp a = true) ∧ (a.host.eq0On = true) ∧ (a.host.eq0Paused = false) ∧ ((a.recd.stored ++ a.recd.sealed_).find? (fun r => r.seq == a.recd.eqNext) = some r) := ⟨{ { wRun with recd := { wRun.recd with eqNext := 1, sealed_ := [{ evt := { type := 0, source := 0, time := 0 }, seq := 1 }] } } with host := { wRun.host with eq0On := true } }, ({ { wRun with recd := { wRun.recd with eqNext := 1, sealed_ := [{ evt := { type := 0, source := 0, time := 0 }, seq := 1 }] } } with host := { wRun.host with eq0On := true } }).at_ (0), 0, { evt := { type := 0, source := 0, time := 0 }, seq := 1 }, rfl, by decide +kernel⟩
theorem met_RecorderEvents_9 : ∃ (s a : State) (t : Time) (r : RecRec), a = s.at_ t ∧ (hubUp a = true) ∧ (a.host.eq0On = true) ∧ (a.host.eq0Paused = false) ∧ ((a.recd.stored ++ a.recd.sealed_).find? (fun r => r.seq == a.recd.eqNext) = none) ∧ ((a.recd.stored ++ a.recd.sealed_).find? (fun r => decide ((r.seq - a.recd.eqNext).toNat < 2 ^ 31)) = some r) := ⟨{ { wRun with recd := { wRun.recd with eqNext := 1, sealed_ := [{ evt := { type := 0, source := 0, time := 0 }, seq := 3 }] } } with host := { wRun.host with eq0On := true } }, ({ { wRun with recd := { wRun.recd with eqNext := 1, sealed_ := [{ evt := { type := 0, source := 0, time := 0 }, seq := 3 }] } } with host := { wRun.host with eq0On := true } }).at_ (0), 0, { evt := { type := 0, source := 0, time := 0 }, seq := 3 }, rfl, by decide +kernel⟩
theorem met_RecorderEvents_10 : ∃ (s a : State) (t : Time) (seq : Word), a = s.at_ t ∧ (hubAlive a = true) := ⟨wRun, (wRun).at_ (0), 0, 1, rfl, by decide +kernel⟩
theorem met_RecorderEvents_11 : ∃ (s a : State) (t : Time) (r : RecRec), a = s.at_ t ∧ (hubAlive a = true) ∧ (a.recd.rdBusy = true) ∧ ((a.recd.stored ++ a.recd.sealed_).find? (fun r => r.seq == a.recd.rdSeq) = some r) := ⟨{ wRun with recd := { wRun.recd with rdBusy := true, rdSeq := 1, sealed_ := [{ evt := { type := 0, source := 0, time := 0 }, seq := 1 }] } }, ({ wRun with recd := { wRun.recd with rdBusy := true, rdSeq := 1, sealed_ := [{ evt := { type := 0, source := 0, time := 0 }, seq := 1 }] } }).at_ (0), 0, { evt := { type := 0, source := 0, time := 0 }, seq := 1 }, rfl, by decide +kernel⟩
theorem met_RecorderEvents_12 : ∃ (s a : State) (t : Time), a = s.at_ t ∧ (hubAlive a = true) ∧ (a.recd.rdBusy = true) ∧ ((a.recd.stored ++ a.recd.sealed_).find? (fun r => r.seq == a.recd.rdSeq) = none) := ⟨{ wRun with recd := { wRun.recd with rdBusy := true, rdSeq := 1 } }, ({ wRun with recd := { wRun.recd with rdBusy := true, rdSeq := 1 } }).at_ (0), 0, rfl, by decide +kernel⟩

/-- SetupRegisterCommands: the premises are met. -/
theorem met_SetupRegisterCommands_1 : ∃ (s a : State) (t : Time), a = s.at_ t ∧ (hubAlive a = true) := ⟨wRun, (wRun).at_ (0), 0, rfl, by decide +kernel⟩
theorem met_SetupRegisterCommands_2 : ∃ (s a : State) (t : Time), a = s.at_ t ∧ (hubAlive a = true) := ⟨wRun, (wRun).at_ (0), 0, rfl, by decide +kernel⟩
theorem met_SetupRegisterCommands_3 : ∃ (s a : State) (t : Time) (value : Word), a = s.at_ t ∧ (hubAlive a = true) := ⟨wRun, (wRun).at_ (0), 0, 0x8005, rfl, by decide +kernel⟩
theorem met_SetupRegisterCommands_4 : ∃ (s a : State) (t : Time) (coupler : Bool) (z : State), a = s.at_ t ∧ (hubAlive a = true) ∧ ((coupler && paired a) = false) ∧ (z = trainPort coupler 3 (trainPort coupler 2 { a with net := { a.net with coupler := coupler } })) :=
  ⟨wRun, wRun.at_ 0, 0, true, _, rfl, by decide +kernel, by decide +kernel, rfl⟩
theorem met_SetupRegisterCommands_5 : ∃ (s a : State) (t : Time) (coupler : Bool), a = s.at_ t ∧ (hubAlive a = true) ∧ (coupler = true) ∧ (paired a = true) := ⟨wPair .standby, (wPair .standby).at_ (0), 0, true, rfl, by decide +kernel⟩
theorem met_SetupRegisterCommands_6 : ∃ (s a : State) (t : Time) (value : Word), a = s.at_ t ∧ (hubAlive a = true) := ⟨wRun, (wRun).at_ (0), 0, 0x101, rfl, by decide +kernel⟩
theorem met_SetupRegisterCommands_7 : ∃ (s a : State) (t : Time), a = s.at_ t ∧ (hubAlive a = true) ∧ (a.nvs.rdBusy = true) := ⟨{ wRun with nvs := { wRun.nvs with rdBusy := true } }, ({ wRun with nvs := { wRun.nvs with rdBusy := true } }).at_ (0), 0, rfl, by decide +kernel⟩
theorem met_SetupRegisterCommands_8 : ∃ (s a : State) (t : Time) (slot : Fin 4) (confirm : BitVec 16), a = s.at_ t ∧ (hubAlive a = true) ∧ (confirm = 0x4B59) ∧ (a.sec.cmd = none) := ⟨wRun, (wRun).at_ (0), 0, 1, 0x4B59, rfl, by decide +kernel⟩
theorem met_SetupRegisterCommands_9 : ∃ (s a : State) (t : Time) (slot : Fin 4) (confirm : BitVec 16), a = s.at_ t ∧ (hubAlive a = true) ∧ (confirm ≠ 0x4B59) := ⟨wRun, (wRun).at_ (0), 0, 1, 0, rfl, by decide +kernel⟩
theorem met_SetupRegisterCommands_10 : ∃ (s a : State) (t : Time) (slot : Fin 4) (confirm : BitVec 16), a = s.at_ t ∧ (hubAlive a = true) ∧ (confirm = 0x4B59) ∧ (a.sec.cmd = none) := ⟨wRun, (wRun).at_ (0), 0, 1, 0x4B59, rfl, by decide +kernel⟩
theorem met_SetupRegisterCommands_11 : ∃ (s a : State) (t : Time) (slot : Fin 4) (confirm : BitVec 16), a = s.at_ t ∧ (hubAlive a = true) ∧ (confirm ≠ 0x4B59) := ⟨wRun, (wRun).at_ (0), 0, 1, 0, rfl, by decide +kernel⟩
theorem met_SetupRegisterCommands_12 : ∃ (s a : State) (t : Time) (confirm : BitVec 16), a = s.at_ t ∧ (hubAlive a = true) ∧ (confirm = 0x4B59) ∧ (a.sec.cmd = none) := ⟨wRun, (wRun).at_ (0), 0, 0x4B59, rfl, by decide +kernel⟩
theorem met_SetupRegisterCommands_13 : ∃ (s a : State) (t : Time) (confirm : BitVec 16), a = s.at_ t ∧ (hubAlive a = true) ∧ (confirm ≠ 0x4B59) := ⟨wRun, (wRun).at_ (0), 0, 0, rfl, by decide +kernel⟩
theorem met_SetupRegisterCommands_14 : ∃ (s a : State) (t : Time) (confirm : BitVec 16), a = s.at_ t ∧ (hubAlive a = true) ∧ (confirm = 0x4B59) ∧ (a.sec.cmd = none) := ⟨wRun, (wRun).at_ (0), 0, 0x4B59, rfl, by decide +kernel⟩
theorem met_SetupRegisterCommands_15 : ∃ (s a : State) (t : Time) (confirm : BitVec 16), a = s.at_ t ∧ (hubAlive a = true) ∧ (confirm ≠ 0x4B59) := ⟨wRun, (wRun).at_ (0), 0, 0, rfl, by decide +kernel⟩
theorem met_SetupRegisterCommands_16 : ∃ (s a : State) (t : Time) (slot : Fin 4), a = s.at_ t ∧ (hubAlive a = true) ∧ (a.sec.cmd = some (2, slot)) := ⟨{ wRun with sec := { wRun.sec with cmd := some (2, 1) } }, ({ wRun with sec := { wRun.sec with cmd := some (2, 1) } }).at_ (0), 0, 1, rfl, by decide +kernel⟩
theorem met_SetupRegisterCommands_17 : ∃ (s a : State) (t : Time) (slot : Fin 4), a = s.at_ t ∧ (hubAlive a = true) ∧ (a.sec.cmd = some (4, slot)) := ⟨{ wRun with sec := { wRun.sec with cmd := some (4, 0) } }, ({ wRun with sec := { wRun.sec with cmd := some (4, 0) } }).at_ (0), 0, 0, rfl, by decide +kernel⟩
theorem met_SetupRegisterCommands_18 : ∃ (s a : State) (t : Time) (op : Nat) (slot : Fin 4) (z : State) (err : Bool), a = s.at_ t ∧ (hubAlive a = true) ∧ (a.sec.cmd = some (op, slot)) ∧ (secEffect op slot a = (z, err)) :=
  let s := { wRun with sec := { wRun.sec with cmd := some (2, 1) } }
  ⟨s, s.at_ 0, 0, 2, 1, _, _, rfl, by decide +kernel, by decide +kernel, rfl⟩
theorem met_SetupRegisterCommands_19 : ∃ (s a : State) (t : Time), a = s.at_ t ∧ (a.sec.cmd = none) := ⟨wRun, (wRun).at_ (0), 0, rfl, by decide +kernel⟩
theorem met_SetupRegisterCommands_20 : ∃ (s a : State) (t : Time) (off size : Nat) (value : BitVec 64) (requester : Nat), a = s.at_ t ∧ (hubAlive a = true) ∧ (size = 4) ∧ (off % 4 = 0) ∧ (off < 0x10000) := ⟨wRun, (wRun).at_ (0), 0, 0x0824, 4, 50, 1024, rfl, by decide +kernel⟩
theorem met_SetupRegisterCommands_21 : ∃ (s a : State) (t : Time) (off size : Nat) (value : BitVec 64) (requester : Nat), a = s.at_ t ∧ (hubAlive a = true) ∧ (size = 8) ∧ (off % 8 = 0) ∧ (off < 0x10000) := ⟨wRun, (wRun).at_ (0), 0, 0x0838, 8, 50, 1024, rfl, by decide +kernel⟩
theorem met_SetupRegisterCommands_22 : ∃ (s a : State) (t : Time) (off size : Nat) (value : BitVec 64) (requester : Nat), a = s.at_ t ∧ (hubAlive a = true) ∧ (size ≠ 4) ∧ (size ≠ 8) := ⟨wRun, (wRun).at_ (0), 0, 0x0838, 2, 50, 1024, rfl, by decide +kernel⟩
theorem met_SetupRegisterCommands_23 : ∃ (s a : State) (t : Time) (off size : Nat) (value : BitVec 64) (requester : Nat), a = s.at_ t ∧ (hubAlive a = true) ∧ (size = 4) ∧ (off % 4 ≠ 0) := ⟨wRun, (wRun).at_ (0), 0, 0x0839, 4, 50, 1024, rfl, by decide +kernel⟩

/-- ManagementCommands: the premises are met. -/
theorem met_ManagementCommands_1 : ∃ (s a : State) (t : Time) (src : Nat) (bytes : List Byte), a = s.at_ t ∧ (netUp a = true) ∧ (8 ≤ bytes.length) ∧ (mgOp bytes = 1) := ⟨wChan .live [], (wChan .live []).at_ (0), 0, 6, wRec 8 [(0, 1)], rfl, by decide +kernel⟩
theorem met_ManagementCommands_2 : ∃ (s a : State) (t : Time) (src : Nat) (bytes : List Byte), a = s.at_ t ∧ (netUp a = true) ∧ (mgOp bytes = 2) ∧ (bytes.length = 8 + 4 * mgCount bytes) := ⟨wChan .live [], (wChan .live []).at_ (0), 0, 6, wRec 12 [(0, 2), (6, 1)], rfl, by decide +kernel⟩
theorem met_ManagementCommands_3 : ∃ (s a : State) (t : Time) (src : Nat) (bytes : List Byte), a = s.at_ t ∧ (hubUp a = true) ∧ (a.net.state ≠ 0) ∧ (mgOp bytes = 3) ∧ (bytes.length = 18) ∧ (u64 bytes 8 = a.nvs.store.serial.toNat) := ⟨wChan .live [], (wChan .live []).at_ (0), 0, 6, wRec 18 [(0, 3), (8, 1)], rfl, by decide +kernel⟩
theorem met_ManagementCommands_4 : ∃ (s a : State) (t : Time) (w : WorkRef) (x : Work) (d : Nat), a = s.at_ t ∧ (readyWork a w 0x0800 = some x) ∧ (hubUp a = true) ∧ (place (takeUp w a) x.bytes = .remote d) := ⟨wOp 0x0800 (wRec 64 [(1, 8), (16, 6)]), (wOp 0x0800 (wRec 64 [(1, 8), (16, 6)])).at_ (0), 0, wRef, wJob 0x0800 (wRec 64 [(1, 8), (16, 6)]), 6, rfl, by decide +kernel⟩
theorem met_ManagementCommands_5 : ∃ (s a : State) (t : Time) (w : WorkRef) (x : Work), a = s.at_ t ∧ (readyWork a w 0x0800 = some x) ∧ (hubUp a = true) ∧ (place (takeUp w a) x.bytes = .here) := ⟨wOp 0x0800 (wRec 64 [(1, 8), (16, 5)]), (wOp 0x0800 (wRec 64 [(1, 8), (16, 5)])).at_ (0), 0, wRef, wJob 0x0800 (wRec 64 [(1, 8), (16, 5)]), rfl, by decide +kernel⟩
theorem met_ManagementCommands_6 : ∃ (s a : State) (t : Time) (w : WorkRef) (x : Work) (d : Nat), a = s.at_ t ∧ (readyWork a w 0x0801 = some x) ∧ (hubUp a = true) ∧ (place (takeUp w a) x.bytes = .remote d) := ⟨wOp 0x0801 (wRec 64 [(0, 1), (1, 8), (16, 6)]), (wOp 0x0801 (wRec 64 [(0, 1), (1, 8), (16, 6)])).at_ (0), 0, wRef, wJob 0x0801 (wRec 64 [(0, 1), (1, 8), (16, 6)]), 6, rfl, by decide +kernel⟩
theorem met_ManagementCommands_7 : ∃ (s a : State) (t : Time) (w : WorkRef) (x : Work), a = s.at_ t ∧ (readyWork a w 0x0801 = some x) ∧ (hubUp a = true) ∧ (place (takeUp w a) x.bytes = .here) := ⟨wOp 0x0801 (wRec 64 [(0, 1), (1, 8), (16, 5)]), (wOp 0x0801 (wRec 64 [(0, 1), (1, 8), (16, 5)])).at_ (0), 0, wRef, wJob 0x0801 (wRec 64 [(0, 1), (1, 8), (16, 5)]), rfl, by decide +kernel⟩
theorem met_ManagementCommands_8 : ∃ (s a : State) (t : Time) (w : WorkRef) (x : Work), a = s.at_ t ∧ (readyWork a w 0x0802 = some x) ∧ (hubUp a = true) ∧ (u64 x.bytes 32 = a.nvs.store.serial.toNat) := ⟨wOp 0x0802 (wRec 64 [(32, 1)]), (wOp 0x0802 (wRec 64 [(32, 1)])).at_ (0), 0, wRef, wJob 0x0802 (wRec 64 [(32, 1)]), rfl, by decide +kernel⟩
theorem met_ManagementCommands_9 : ∃ (s a : State) (t : Time) (w : WorkRef) (x : Work), a = s.at_ t ∧ (readyWork a w 0x0802 = some x) ∧ (hubUp a = true) ∧ (u64 x.bytes 32 ≠ a.nvs.store.serial.toNat) := ⟨wOp 0x0802 (wRec 64 [(32, 2)]), (wOp 0x0802 (wRec 64 [(32, 2)])).at_ (0), 0, wRef, wJob 0x0802 (wRec 64 [(32, 2)]), rfl, by decide +kernel⟩
theorem met_ManagementCommands_10 : ∃ (s a : State) (t : Time) (src : Nat) (bytes : List Byte) (m : MgtOut), a = s.at_ t ∧ (hubUp a = true) ∧ (a.host.mgts.find? (fun m => m.mtag == mgTag bytes) = some m) ∧ (mgOp bytes = mgOp m.frame + 0x80) ∧ (mgOp m.frame ≠ 1 ∨ mgStat bytes ≠ 0 ∨ (bytes.drop 8).length = 4 * mgCount m.frame) := ⟨{ wChan .live [] with host := { wRun.host with mgts := [{ mtag := 7, target := 6, frame := wRec 8 [(0, 2)], w := wRef, sent := 0, resends := 0 }] } }, ({ wChan .live [] with host := { wRun.host with mgts := [{ mtag := 7, target := 6, frame := wRec 8 [(0, 2)], w := wRef, sent := 0, resends := 0 }] } }).at_ (0), 0, 6, wRec 8 [(0, 0x82), (2, 7)], { mtag := 7, target := 6, frame := wRec 8 [(0, 2)], w := wRef, sent := 0, resends := 0 }, rfl, by decide +kernel⟩
theorem met_ManagementCommands_11 : ∃ (s a : State) (t : Time) (mtag : BitVec 16) (m : MgtOut), a = s.at_ t ∧ (hubUp a = true) ∧ (a.host.mgts.find? (fun m => m.mtag == mtag) = some m) ∧ (m.sent + ms 2 ≤ a.now) ∧ (3 ≤ m.resends) := ⟨{ wChan .live [] with host := { wRun.host with mgts := [{ mtag := 7, target := 6, frame := [], w := wRef, sent := 0, resends := 3 }] } }, ({ wChan .live [] with host := { wRun.host with mgts := [{ mtag := 7, target := 6, frame := [], w := wRef, sent := 0, resends := 3 }] } }).at_ (ms 2), ms 2, 7, { mtag := 7, target := 6, frame := [], w := wRef, sent := 0, resends := 3 }, rfl, by decide +kernel⟩
theorem met_ManagementCommands_12 : ∃ (s a : State) (t : Time) (mtag : BitVec 16) (m : MgtOut), a = s.at_ t ∧ (hubUp a = true) ∧ (a.host.mgts.find? (fun m => m.mtag == mtag) = some m) ∧ (m.sent + ms 2 ≤ a.now) ∧ (m.resends < 3) := ⟨{ wChan .live [] with host := { wRun.host with mgts := [{ mtag := 7, target := 6, frame := [], w := wRef, sent := 0, resends := 0 }] } }, ({ wChan .live [] with host := { wRun.host with mgts := [{ mtag := 7, target := 6, frame := [], w := wRef, sent := 0, resends := 0 }] } }).at_ (ms 2), ms 2, 7, { mtag := 7, target := 6, frame := [], w := wRef, sent := 0, resends := 0 }, rfl, by decide +kernel⟩

end Sys2Proof.Machine
end

section
/-! Byte order (R8, R9): the laws of the little-endian bytes of a number and of a record's fields. -/

namespace Sys2Proof.Machine

open Sys2Proof

@[simp] theorem length_leBytes (k n : Nat) : (leBytes k n).length = k := by
  induction k generalizing n with
  | zero => rfl
  | succ k ih => simp [leBytes, ih]

theorem ofLe_leBytes (k n : Nat) : ofLe (leBytes k n) = n % 256 ^ k := by
  induction k generalizing n with
  | zero => simp [leBytes, ofLe, Nat.mod_one]
  | succ k ih =>
    calc ofLe (leBytes (k + 1) n)
        = n % 256 + 256 * (n / 256 % 256 ^ k) := by simp [leBytes, ofLe, ih]
      _ = n % 256 ^ (k + 1) := by rw [Nat.pow_succ', Nat.mod_mul]

/-- Bytes are the little-endian bytes of the number they spell, so no two lists of one length spell the same number. -/
theorem leBytes_ofLe (l : List Byte) : leBytes l.length (ofLe l) = l := by
  induction l with
  | nil => rfl
  | cons b bs ih =>
    have low : BitVec.ofNat 8 (b.toNat + 256 * ofLe bs) = b :=
      BitVec.eq_of_toNat_eq (by simp [Nat.mod_eq_of_lt b.isLt])
    have high : (b.toNat + 256 * ofLe bs) / 256 = ofLe bs := by
      have := b.isLt
      omega
    simp only [List.length_cons, ofLe, leBytes, low, high, ih]

@[simp] theorem u8_cons_zero (b : Byte) (bs : List Byte) : u8 (b :: bs) 0 = b.toNat := rfl

@[simp] theorem u8_cons_succ (b : Byte) (bs : List Byte) (i : Nat) : u8 (b :: bs) (i + 1) = u8 bs i := rfl

theorem u8_leBytes {k i : Nat} (n : Nat) (h : i < k) : u8 (leBytes k n) i = n / 256 ^ i % 256 := by
  induction k generalizing n i with
  | zero => omega
  | succ k ih =>
    cases i with
    | zero => simp [leBytes]
    | succ i =>
      rw [leBytes, u8_cons_succ, ih _ (Nat.lt_of_succ_lt_succ h), Nat.div_div_eq_div_mul, ← Nat.pow_succ']

/-- A field with no byte spells 0. -/
@[simp] theorem uN_zero (r : List Byte) (i : Nat) : uN r i 0 = 0 := by
  simp [uN, ofLe]

/-- The byte at a field's offset is its lowest; past the record's end both sides read 0. -/
theorem uN_succ (r : List Byte) (i k : Nat) : uN r i (k + 1) = u8 r i + 256 * uN r (i + 1) k := by
  obtain h | h := Nat.lt_or_ge i r.length
  · have byte : u8 r i = r[i].toNat := by simp [u8, h]
    simp only [uN, byte, List.drop_eq_getElem_cons h, List.take_succ_cons, ofLe]
  · have here : r.drop i = [] := List.drop_eq_nil_of_le h
    have next : r.drop (i + 1) = [] := List.drop_eq_nil_of_le (Nat.le_succ_of_le h)
    simp [uN, u8, here, next, h, ofLe]

/-- A field of `j + k` bytes is its lower `j` bytes and, above them, the `k` bytes from offset `i + j`. -/
theorem uN_add (r : List Byte) (i j k : Nat) : uN r i (j + k) = uN r i j + 256 ^ j * uN r (i + j) k := by
  induction j generalizing i with
  | zero => simp
  | succ j ih =>
    have next : i + 1 + j = i + (j + 1) := by omega
    rw [Nat.succ_add_eq_add_succ, Nat.add_succ, uN_succ, ih, uN_succ r i j, next,
      Nat.pow_succ', Nat.mul_add, Nat.mul_assoc, Nat.add_assoc]

@[simp] theorem uN_one (r : List Byte) (i : Nat) : uN r i 1 = u8 r i := by
  simp [uN_succ]

theorem u16_eq (r : List Byte) (i : Nat) : u16 r i = u8 r i + 256 * u8 r (i + 1) := by
  rw [u16, uN_add r i 1 1, uN_one, uN_one, Nat.pow_one]

theorem u32_eq (r : List Byte) (i : Nat) : u32 r i = u16 r i + 65536 * u16 r (i + 2) :=
  uN_add r i 2 2

/-- Settles O9: each law of R8 and R9 by the lemma that states it; bytes and numbers by recursion on the bytes,
fields by splitting a field at a byte. -/
theorem bytesLittleEndian : Obligations.BytesLittleEndian :=
  ⟨fun k n => ⟨ofLe_leBytes k n, length_leBytes k n⟩, fun _ n _ h => u8_leBytes n h, leBytes_ofLe, u16_eq, u32_eq⟩

end Sys2Proof.Machine
end

section
/-! The instants of an epoch: EPOCH_BOUNDARY (R18), COMMIT_SET_CLOSE (R313) and COMMIT_LOAD (R315). -/

namespace Sys2Proof.Machine

open Sys2Proof

/-! ## An event whose condition holds, and one whose condition fails -/

theorem when_of_holds {c : Bool} (f : State → State) (s : State) (h : c = true) : when c f s = .next (f s) :=
  if_pos h

theorem when_of_fails {c : Bool} (f : State → State) (s : State) (h : c = false) : when c f s = .next s :=
  if_neg (Bool.not_eq_true c ▸ h)

/-! ## Where epochs count -/

/-- The condition of EPOCH_BOUNDARY where epochs count is the coming of a later epoch, by the period then in force (R297). -/
theorem exec_epochBoundary_of_counting (t : Time) (s : State) (counting : (s.at_ t).ep.counting = true) :
    exec (.epochBoundary t) s =
      when (hubUp (s.at_ t) && decide ((s.at_ t).ep.e < epochNow (changePeriod (s.at_ t))))
        (fun _ => withHref (boundary (epochNow (changePeriod (s.at_ t)))) (changePeriod (s.at_ t))) (s.at_ t) :=
  if_pos counting

/-- Elsewhere EPOCH_BOUNDARY is that of the device's own grid (R501). -/
theorem exec_epochBoundary_of_not_counting (t : Time) (s : State) (uncounted : (s.at_ t).ep.counting = false) :
    exec (.epochBoundary t) s = when (hubUp (s.at_ t)) (fun _ => ownGrid (changePeriod (s.at_ t))) (s.at_ t) :=
  if_neg (Bool.not_eq_true _ ▸ uncounted)

/-- COMMIT_SET_CLOSE waits for T_E - GUARD of the coming epoch and then closes the set of the epoch after it (R313). -/
theorem exec_commitSetClose_eq (t : Time) (s : State) :
    exec (.commitSetClose t) s =
      when (hubUp (s.at_ t) && (s.at_ t).ep.counting &&
          decide (epochHalf (s.at_ t) ((s.at_ t).ep.e + 1) - (guardHalf (s.at_ t) : Int) ≤ (sysHalf (s.at_ t) : Int)))
        (fun a => { a with ep := { a.ep with closed := a.ep.e + 2 } }) (s.at_ t) :=
  rfl

/-! ## What COMMIT_LOAD loads -/

/-- The state in which the groups that commit the coming epoch are found: a JOINING member that is ready for it is IN (R311). -/
def enterReady (s : State) : State :=
  forEach ((s.ep.groups.filter fun g => g.state == 1 && fixedReady g (s.ep.e + 1)).map (·.num))
    (modGroup · fun g => { g with state := 2 }) s

/-- The items that the committing groups apply at the coming epoch (R315). -/
def comingItems (s : State) : List SetItem :=
  ((committing (s.ep.e + 1) (enterReady s)).flatMap fun g => (splitSets (dueSets s g (s.ep.e + 1))).1).flatMap (·.items)

/-- The load of the coming epoch marked as done. -/
def markLoaded (s : State) : State := { s with ep := { s.ep with loaded := s.ep.e + 1 } }

/-- Values and then overrides of some items sent to the tiles, stamped with the tick of the coming T_E (Table 09-4). -/
def loadItems (items : List SetItem) (s : State) (z : State) : State :=
  forEach (loadOf items).2 (loadOvr (epochTick s (s.ep.e + 1)).toNat)
    (forEach (loadOf items).1 (loadValue (epochTick s (s.ep.e + 1)).toNat) z)

/-- COMMIT_LOAD loads the coming items, unless one of them switches the image: such a set applies from the new bank at T_E (R444). -/
theorem exec_commitLoad_eq (t : Time) (s : State) :
    exec (.commitLoad t) s =
      when (hubUp (s.at_ t) && (s.at_ t).ep.counting && (s.at_ t).ep.loaded != (s.at_ t).ep.e + 1 &&
          decide (epochHalf (s.at_ t) ((s.at_ t).ep.e + 1) ≤ (sysHalf (s.at_ t) + us 84 : Nat)))
        (fun a => if (comingItems a).any fun i => isSwitch i.act then markLoaded a
          else loadItems (comingItems a) a (markLoaded a)) (s.at_ t) :=
  rfl

theorem exec_commitLoad_of_no_switch (t : Time) (s : State) (up : hubUp (s.at_ t) = true)
    (counting : (s.at_ t).ep.counting = true) (notYet : (s.at_ t).ep.loaded ≠ (s.at_ t).ep.e + 1)
    (near : epochHalf (s.at_ t) ((s.at_ t).ep.e + 1) ≤ (sysHalf (s.at_ t) + us 84 : Nat))
    (noSwitch : ((comingItems (s.at_ t)).any fun i => isSwitch i.act) = false) :
    exec (.commitLoad t) s = .next (loadItems (comingItems (s.at_ t)) (s.at_ t) (markLoaded (s.at_ t))) := by
  rw [exec_commitLoad_eq, when_of_holds]
  · exact congrArg _ (if_neg (Bool.not_eq_true _ ▸ noSwitch))
  · rw [up, counting, bne_iff_ne.mpr notYet, decide_eq_true near]
    rfl

/-- Settles O38: the three rows by their conditions at the instant. Where epochs count and the condition holds, the row's change is taken;
where they do not, EPOCH_BOUNDARY is that of the own grid and the other two conditions fail. -/
theorem epochInstants : Obligations.EpochInstants := by
  refine ⟨?boundary, ?close, ?load, ?ownGrid, ?noClose, ?noLoad⟩
  case boundary =>
    rintro s _ t rfl up counting later
    rw [exec_epochBoundary_of_counting t s counting, when_of_holds]
    rw [up, decide_eq_true later]
    rfl
  case close =>
    rintro s _ t rfl up counting reached
    rw [exec_commitSetClose_eq, when_of_holds]
    rw [up, counting, decide_eq_true reached]
    rfl
  case load =>
    rintro s _ t _ rfl up counting notYet near rfl noSwitch
    exact exec_commitLoad_of_no_switch t s up counting notYet near noSwitch
  case ownGrid =>
    rintro s _ t rfl up uncounted
    rw [exec_epochBoundary_of_not_counting t s uncounted, when_of_holds _ _ up]
  case noClose =>
    rintro s _ t rfl uncounted
    rw [exec_commitSetClose_eq, when_of_fails]
    rw [uncounted, Bool.and_false, Bool.false_and]
  case noLoad =>
    rintro s _ t rfl uncounted
    rw [exec_commitLoad_eq, when_of_fails]
    rw [uncounted, Bool.and_false, Bool.false_and, Bool.false_and]

end Sys2Proof.Machine
end

section
/-! Rows of a tile: which part of the tile a row changes (R41, R62, R75, R77, R209), and what each event of its supply does (R41 to R43, R191). -/

namespace Sys2Proof.Machine

open Sys2Proof

/-! ## The guarded effect of an event -/

/-- An event whose condition holds comes to the state that its effect gives. -/
theorem when_eq_next {c : Bool} {f : State → State} {a z : State} (holds : c = true) (effect : f a = z := by rfl) :
    when c f a = .next z :=
  (when_of_holds f a holds).trans (congrArg _ effect)

/-- What an event can come to: its effect, or the state that it found. -/
theorem eq_or_eq_of_when {c : Bool} {f : State → State} {a z : State} (h : when c f a = .next z) : z = f a ∨ z = a := by
  unfold when at h
  split at h
  · exact .inl (Host.Outcome.next.inj h).symm
  · exact .inr (Host.Outcome.next.inj h).symm

/-! ## Rows that change one unit -/

/-- An event whose effect is on one tile's sense equipment leaves everything else. -/
theorem sns_frame_of_when {c : Bool} {g : State → TSns → TSns} {a z : State} {tile : Fin 12}
    (h : when c (fun b => { b with sns := b.sns.upd tile (g b) }) a = .next z) :
    z = { a with sns := z.sns } ∧ ∀ j, j ≠ tile → z.sns.get j = a.sns.get j := by
  obtain rfl | rfl := eq_or_eq_of_when h
  · exact ⟨rfl, fun j other => Bank.get_upd_other _ _ _ _ other.symm⟩
  · exact ⟨rfl, fun _ _ => rfl⟩

/-- An event whose effect is on one tile leaves everything else. -/
theorem tile_frame_of_when {c : Bool} {f : Tile → Tile} {a z : State} {tile : Fin 12} (h : when c (modTile tile f) a = .next z) :
    z = { a with tile := z.tile } ∧ ∀ j, j ≠ tile → z.tile.get j = a.tile.get j := by
  obtain rfl | rfl := eq_or_eq_of_when h
  · exact ⟨rfl, fun j other => Bank.get_upd_other _ _ _ _ other.symm⟩
  · exact ⟨rfl, fun _ _ => rfl⟩

/-- An event whose effect is on one tile's link leaves everything else. -/
theorem link_frame_of_when {c : Bool} {g : TLink → TLink} {a z : State} {tile : Fin 12} (h : when c (modLink tile g) a = .next z) :
    z = { a with link := z.link } ∧ ∀ j, j ≠ tile → z.link.get j = a.link.get j := by
  obtain rfl | rfl := eq_or_eq_of_when h
  · exact ⟨rfl, fun j other => Bank.get_upd_other _ _ _ _ other.symm⟩
  · exact ⟨rfl, fun _ _ => rfl⟩

/-- An event whose effect is on one tile and its link leaves everything else. -/
theorem tile_link_frame_of_when {c : Bool} {f : Tile → Tile} {g : TLink → TLink} {a z : State} {tile : Fin 12}
    (h : when c (fun b => modTile tile f (modLink tile g b)) a = .next z) :
    z = { a with tile := z.tile, link := z.link } ∧ ∀ j, j ≠ tile → z.link.get j = a.link.get j ∧ z.tile.get j = a.tile.get j := by
  obtain rfl | rfl := eq_or_eq_of_when h
  · exact ⟨rfl, fun j other => ⟨Bank.get_upd_other _ _ _ _ other.symm, Bank.get_upd_other _ _ _ _ other.symm⟩⟩
  · exact ⟨rfl, fun _ _ => ⟨rfl, rfl⟩⟩

/-- Settles O19: the effect of each row is an update of one tile's part, and such an effect leaves everything else. -/
theorem tileRowsChangeOneUnit : Obligations.TileRowsChangeOneUnit := by
  refine ⟨?sense, ?pin, ?supply, ?resume, ?lock, ?good⟩
  case sense =>
    intro t tile code s z h
    unfold exec execFastSenseConversion at h
    exact sns_frame_of_when h
  case pin =>
    intro t tile code held s z h
    unfold exec execSselCodeTaken at h
    exact sns_frame_of_when h
  case supply =>
    intro t tile lpt held s z h
    unfold exec execTileSupplyGood at h
    exact tile_frame_of_when h
  case resume =>
    intro t tile s z h
    unfold exec execHubLinkResume at h
    exact link_frame_of_when h
  case lock =>
    intro t tile s z h
    unfold exec execFclkLock at h
    exact link_frame_of_when h
  case good =>
    rintro t tile _ s z h rfl
    unfold exec execLinkGood at h
    exact tile_link_frame_of_when h

/-! ## Supply events -/

/-- Settles O22: each row's condition is its tile's power and the threshold, and its effect is the one stated; TILE_START has two effects,
by the tile's power. -/
theorem tileSupplyEvents : Obligations.TileSupplyEvents := by
  refine ⟨?low, ?good, ?brownout, ?rideThroughEnd, ?stop, ?start, ?startAgain, ?dieWarn⟩
  case low =>
    rintro s _ t tile lpt rfl powered below unset
    unfold exec execTileSupplyLow
    exact when_eq_next (by rw [powered, decide_eq_true below, unset]; rfl)
  case good =>
    rintro s _ t tile lpt held rfl powered above long
    unfold exec execTileSupplyGood
    exact when_eq_next (by rw [powered, decide_eq_true above, decide_eq_true long]; rfl)
  case brownout =>
    rintro s _ t tile lpt rfl powered below
    unfold exec execBrownout
    exact when_eq_next (by rw [powered, decide_eq_true below]; rfl)
  case rideThroughEnd =>
    rintro s _ t tile lpt rfl powered below
    unfold exec execRideThroughEnd
    exact when_eq_next (by rw [powered, decide_eq_true below]; rfl)
  case stop =>
    rintro s _ t tile lpt rfl powered below
    unfold exec execTileStop
    exact when_eq_next (by rw [powered, decide_eq_true below]; rfl)
  case start =>
    rintro s _ t tile lpt held rfl unpowered above long
    unfold exec execTileStart
    exact when_eq_next (by rw [decide_eq_true above, decide_eq_true long]; rfl) (if_neg (Bool.not_eq_true _ ▸ unpowered))
  case startAgain =>
    rintro s _ t tile lpt held rfl powered above long
    unfold exec execTileStart
    exact when_eq_next (by rw [decide_eq_true above, decide_eq_true long]; rfl) (if_pos powered)
  case dieWarn =>
    rintro s _ t tile temp rfl powered hot
    unfold exec execDiewarn
    exact when_eq_next (by rw [powered, decide_eq_true hot]; rfl)

end Sys2Proof.Machine
end

section
/-! Tile links: what each frame and flash does (R52 to R59, R280, R281, R379). -/

namespace Sys2Proof.Machine

open Sys2Proof

/-! ## Flashes -/

/-- A flash is good where its second byte is the complement of the first (R59). -/
theorem flashOk_iff (d0 d1 : Byte) : flashOk d0 d1 = true ↔ d1 = ~~~d0 := beq_iff_eq

/-- A bad flash has the first of two effects, a good one the second. -/
theorem ite_flashOk_of_bad {d0 d1 : Byte} (x y : State) (bad : d1 ≠ ~~~d0) : (if !flashOk d0 d1 then x else y) = x :=
  if_pos (by rw [Bool.not_eq_true', ← Bool.not_eq_true, flashOk_iff]; exact bad)

theorem ite_flashOk_of_good {d0 d1 : Byte} (x y : State) (good : d1 = ~~~d0) : (if !flashOk d0 d1 then x else y) = y :=
  if_neg (by rw [(flashOk_iff d0 d1).mpr good]; exact Bool.false_ne_true)

/-- Where no rehearsal runs an engine operation is carried out for the cast alone (R440). -/
theorem beside_of_no_rehearsal (f : State → State) {s : State} (absent : rehOf s = none) : beside f s = f s := by
  rw [beside, absent]

/-- A comparator that the hub knows otherwise takes its new state, and the entries that use it are evaluated (R281). -/
theorem compTake_of_change {n : Nat} {on : Bool} {s : State} (change : s.eng.comp.list.getD n false ≠ on) :
    compTake n on s = evalLits 10 [n] { s with eng := { s.eng with comp := s.eng.comp.allIdx fun i b => if i = n then on else b } } :=
  if_neg change

/-- COMPARATOR_FLASH, good and with its reserved bits 0: the hub takes the comparator's state. -/
theorem exec_comparatorFlash_of_good {s : State} {t : Time} {tile : Fin 12} {d0 d1 : Byte} (works : upReceiver (s.at_ t) tile = true)
    (heard : ((s.at_ t).link.get tile).upSilent = false) (good : d1 = ~~~d0) (reserved : bits d0.toNat 5 3 = 0) :
    exec (.comparatorFlash t tile d0 d1) s =
      .next (beside (compTake (16 * tile.val + 2 * bits d0.toNat 0 3 + bits d0.toNat 3 1) (bitOf d0.toNat 4)) (s.at_ t)) := by
  unfold exec execComparatorFlash
  refine when_eq_next (by rw [works, heard]; rfl) ?_
  refine (ite_flashOk_of_good _ _ good).trans (if_neg ?_)
  rw [reserved]
  exact Bool.false_ne_true

/-! ## Frames -/

/-- Judging an upstream frame does not end the silence of its direction. -/
@[simp] theorem upJudge_upSilent (good : Bool) (seq : Byte) (now : Time) (l : TLink) : (upJudge good seq now l).upSilent = l.upSilent := by
  cases good <;> rfl

/-- Settles O23: a frame is judged and, where it is good, acts; a flash with a wrong complement counts as a bad character, and a good one has
the effect of its kind. -/
theorem tileLinkFrameEvents : Obligations.TileLinkFrameEvents := by
  refine ⟨?downGood, ?downBad, ?upGood, ?upBad, ?compChange, ?comp, ?reflexRelease, ?brownout, ?dieWarn, ?badFlash⟩
  case downGood =>
    rintro s _ t tile ok dev bytes item rfl powered good
    unfold exec execTileDownstreamFrame
    refine when_eq_next powered ?_
    simp only [good, if_true]
  case downBad =>
    rintro s _ t tile ok dev bytes item rfl powered bad
    unfold exec execTileDownstreamFrame
    refine when_eq_next powered ?_
    simp only [bad, Bool.false_eq_true, if_false]
  case upGood =>
    rintro s _ t tile ok dev bytes rep rfl works good heard
    unfold exec execHubUpstreamFrame
    refine when_eq_next works ?_
    rw [good]
    refine if_pos ?_
    rw [modLink_link, Bank.get_upd_self, upJudge_upSilent, heard]
    rfl
  case upBad =>
    rintro s _ t tile ok dev bytes rep rfl works bad
    unfold exec execHubUpstreamFrame
    refine when_eq_next works ?_
    simp only [bad, Bool.false_and, Bool.false_eq_true, if_false]
  case compChange =>
    rintro s _ t tile d0 d1 rfl works heard good reserved alone change
    rw [exec_comparatorFlash_of_good works heard good reserved, beside_of_no_rehearsal _ alone, compTake_of_change change]
  case comp =>
    rintro s _ t tile d0 d1 rfl works heard good reserved
    exact exec_comparatorFlash_of_good works heard good reserved
  case reflexRelease =>
    rintro s _ t tile d0 d1 rfl hears good reserved release
    unfold exec execHubReflexFlash
    refine when_eq_next hears ?_
    refine (ite_flashOk_of_good _ _ good).trans ?_
    simp only [reserved, release, bne_self_eq_false, Bool.false_eq_true, if_false, if_true]
  case brownout =>
    rintro s _ t tile _ d1 rfl works heard rfl good
    unfold exec execNoticeFlash
    refine when_eq_next (by rw [works, heard]; rfl) ?_
    exact (ite_flashOk_of_good _ _ good).trans (if_pos rfl)
  case dieWarn =>
    rintro s _ t tile _ d1 rfl works heard rfl good
    unfold exec execNoticeFlash
    refine when_eq_next (by rw [works, heard]; rfl) ?_
    exact (ite_flashOk_of_good _ _ good).trans ((if_neg (by decide)).trans (if_pos rfl))
  case badFlash =>
    rintro s _ t tile d0 d1 rfl works heard bad
    unfold exec execComparatorFlash
    exact when_eq_next (by rw [works, heard]; rfl) (ite_flashOk_of_bad _ _ bad)

end Sys2Proof.Machine
end

section
/-! Tile links: silence, return, lock, HOLDWIN and restoration (R45 to R50, R61, R62, R75, R366, R378). -/

namespace Sys2Proof.Machine

open Sys2Proof

/-- What each pass leaves unchanged the whole loop leaves unchanged. -/
theorem forEach_unchanged {α β : Type} (part : State → β) (l : List α) (f : α → State → State) (s : State)
    (pass : ∀ x z, part (f x z) = part z) : part (forEach l f s) = part s := by
  unfold forEach
  induction l generalizing s with
  | nil => rfl
  | cons x xs ih => rw [List.foldl_cons, ih, pass]

/-- Stopping modems leaves the tiles. -/
@[simp] theorem forEach_modemStop_tile (l : List (Fin 96)) (s : State) : (forEach l modemStop s).tile = s.tile :=
  forEach_unchanged State.tile l modemStop s fun _ _ => rfl

/-- A direction that was silent, or is found so now, is silent; whether it was so already does not matter to the second. -/
theorem or_not_and_self_or (was due : Bool) : (was || (!was && due)) = (was || due) := by
  cases was <;> rfl

/-- Settles O24: each row's condition, and its effect at the state that meets it. -/
theorem tileLinkStateEvents : Obligations.TileLinkStateEvents := by
  refine ⟨?tileSilent, ?hubSilent, ?resume, ?upGood, ?downGood, ?lock, ?holdwin, ?restore⟩
  case tileSilent =>
    rintro s _ t tile rfl powered heard due unlatched live
    unfold exec execTileLinkSilent
    refine when_eq_next (by rw [powered, heard, due]; rfl) ?_
    dsimp only
    rw [forEach_modemStop_tile, modLink_tile, unlatched, if_neg Bool.false_ne_true, if_pos live]
  case hubSilent =>
    rintro s _ t tile rfl up declaredGood cause
    unfold exec execHubLinkSilent
    have holds : (((s.at_ t).link.get tile).upSilent || silentDue ((s.at_ t).link.get tile).upBad ((s.at_ t).link.get tile).upSeen (s.at_ t).now ||
        ((s.at_ t).link.get tile).tileSays) = true := by
      simpa only [Bool.or_eq_true, or_assoc] using cause
    refine when_eq_next ?_ ?_
    · rw [up, declaredGood, or_not_and_self_or]
      exact holds
    · simp only [modLink, Bank.upd, or_not_and_self_or]
  case resume =>
    rintro s _ t tile b rfl up silent stopped waited
    unfold exec execHubLinkResume
    exact when_eq_next (by simp only [up, silent, stopped, waited, decide_true, Bool.and_self])
  case upGood =>
    rintro s _ t tile _ rfl rfl works silent due
    unfold exec execLinkGood
    exact (if_pos rfl).trans (when_eq_next (by rw [works, silent, due]; rfl))
  case downGood =>
    rintro s _ t tile _ rfl rfl powered silent due
    unfold exec execLinkGood
    exact (if_neg Bool.false_ne_true).trans (when_eq_next (by rw [powered, silent, due]; rfl))
  case lock =>
    rintro s _ t tile rfl powered heard unlocked
    unfold exec execFclkLock
    exact when_eq_next (by rw [powered, heard, unlocked]; rfl)
  case holdwin =>
    rintro s _ t k w e rfl hold holding ends window due
    unfold exec execHoldwinExpiry
    exact when_eq_next (by simp only [hold, holding, ends, window, due, beq_self_eq_true, decide_true, Bool.and_self])
  case restore =>
    rintro s _ t tile rfl ready boundary lead away
    unfold exec execTileRestore
    refine when_eq_next ?_
    rw [ready, boundary, lead]
    obtain hold | fallback := away
    · rw [hold]; rfl
    · rw [fallback]; rfl

end Sys2Proof.Machine
end

section
/-! Timed commands at a tile (R64 to R70): what SET, DUTY, REPLACE, CANCEL and RELEASE do, by the handle and the value that they carry. -/

namespace Sys2Proof.Machine

open Sys2Proof

/-! ## SET and DUTY -/

section Set

variable {s : State} {t : Fin 12} {duty : Bool} {slot : Nat} {c : Fin 8} {handle : Byte} {stamp : Word} {value : BitVec 16}

/-- A legal one whose handle is free becomes the pending entry of the slot's partition (R66). -/
theorem setOrDuty_of_legal (buffer : slot ≠ 15) (mine : inPart s t slot handle.toNat = true) (free : pendingAt s t handle.toNat = none)
    (legal : setLegal (tileRec s (chanAt t c)) duty value = true) :
    setOrDuty t duty slot c handle stamp value s =
      holdOrRun t { kind := .buf handle.toNat slot, c := c, duty := duty, stamp := stamp, value := value } s := by
  simp [setOrDuty, buffer, mine, free, legal]

/-- A legal one in the MGT slot becomes the level-5 entry of its channel, where none is pending (R68). -/
theorem setOrDuty_mgt_of_legal (legal : setLegal (tileRec s (chanAt t c)) duty value = true)
    (free : (s.tile.get t).pend.any (fun x => x.kind == .l5 && x.c == c) = false) :
    setOrDuty t duty 15 c 0 stamp value s = holdOrRun t { kind := .l5, c := c, duty := duty, stamp := stamp, value := value } s := by
  simp only [setOrDuty, legal, free]
  rfl

/-- One whose handle is outside the partition or already pending draws REJ_HANDLE (R66). -/
theorem setOrDuty_of_refused_handle (buffer : slot ≠ 15)
    (refused : inPart s t slot handle.toNat = false ∨ (pendingAt s t handle.toNat).isSome = true) :
    setOrDuty t duty slot c handle stamp value s = tack t handle.toNat 8 s := by
  obtain foreign | taken := refused
  · simp [setOrDuty, buffer, foreign]
  · simp [setOrDuty, buffer, taken]

/-- One whose value is illegal draws REJ_OP (R66). -/
theorem setOrDuty_of_illegal (buffer : slot ≠ 15) (mine : inPart s t slot handle.toNat = true) (free : pendingAt s t handle.toNat = none)
    (illegal : setLegal (tileRec s (chanAt t c)) duty value = false) :
    setOrDuty t duty slot c handle stamp value s = tack t handle.toNat 9 s := by
  simp [setOrDuty, buffer, mine, free, illegal]

end Set

/-! ## REPLACE, CANCEL and RELEASE -/

section Pending

variable {s : State} {t : Fin 12} {slot : Nat} {c : Fin 8} {handle : Byte} {stamp : Word} {value : BitVec 16} {e : TEntry}
  (mine : inPart s t slot handle.toNat = true)
include mine

/-- A REPLACE before the stamp of its entry gives it a new stamp and value and reports REPLACED (R69). -/
theorem tcmdReplace_of_early (found : pendingAt s t handle.toNat = some e) (early : stampReached s t e.stamp = false)
    (legal : setLegal (tileRec s (chanAt t e.c)) e.duty value = true) :
    tcmdReplace t slot handle stamp value s =
      holdOrRun t { e with stamp := stamp, value := value }
        (tack t handle.toNat 2 (modTile t (fun x => { x with pend := x.pend.filter (fun y => y != e) }) s)) := by
  simp [tcmdReplace, mine, found, early, legal]

/-- A REPLACE at the stamp of its entry or after it is too late (R69). -/
theorem tcmdReplace_of_late (found : pendingAt s t handle.toNat = some e) (late : stampReached s t e.stamp = true) :
    tcmdReplace t slot handle stamp value s = tack t handle.toNat 4 s := by
  simp [tcmdReplace, mine, found, late]

/-- A CANCEL before the stamp of its entry removes it and reports CANCELLED (R69). -/
theorem tcmdCancel_of_early (found : pendingAt s t handle.toNat = some e) (early : stampReached s t e.stamp = false) :
    tcmdCancel t slot handle s = tack t handle.toNat 3 (modTile t (fun x => { x with pend := x.pend.filter (fun y => y != e) }) s) := by
  simp [tcmdCancel, mine, found, early]

/-- A CANCEL at the stamp of its entry or after it is too late (R69). -/
theorem tcmdCancel_of_late (found : pendingAt s t handle.toNat = some e) (late : stampReached s t e.stamp = true) :
    tcmdCancel t slot handle s = tack t handle.toNat 4 s := by
  simp [tcmdCancel, mine, found, late]

/-- A CANCEL that finds no entry is too late where the entry has run, and otherwise refused for its handle (R66, R69). -/
theorem tcmdCancel_of_none (absent : pendingAt s t handle.toNat = none) :
    tcmdCancel t slot handle s = tack t handle.toNat (if (s.tile.get t).ran.contains handle.toNat then 4 else 8) s := by
  simp only [tcmdCancel, mine, absent, Bool.not_true, Bool.false_eq_true, if_false, missing]

end Pending

/-- A RELEASE in the MGT slot whose handle is not 0 releases level 6 of the partition that holds the handle (R68, R247). -/
theorem tcmdRelease_of_handle {s : State} {t : Fin 12} {c : Fin 8} {handle : Byte} {stamp : Word} {sl : Nat} (named : handle ≠ 0)
    (found : slotOf s t handle.toNat = some sl) :
    tcmdRelease t 15 c handle stamp s = holdOrRun t { kind := .l6rel handle.toNat sl, c := c, duty := false, stamp := stamp, value := 0 } s := by
  have named : handle.toNat ≠ 0 := fun zero => named (BitVec.eq_of_toNat_eq zero)
  simp [tcmdRelease, named, found]

/-- Settles O25: each command, at a tile that hears it, by the lemma of its case. -/
theorem timedCommandsReceived : Obligations.TimedCommandsReceived := by
  refine ⟨?set, ?setMgt, ?setHandle, ?setValue, ?duty, ?dutyMgt, ?dutyHandle, ?dutyValue, ?replace, ?replaceLate, ?cancel, ?cancelLate,
    ?cancelNone, ?release5, ?release6, ?reservedOp, ?nop⟩
  case set =>
    rintro s _ t tile slot c handle stamp value rfl hears buffer mine free legal
    unfold exec execTcmdSet
    exact when_eq_next hears (setOrDuty_of_legal buffer mine free legal)
  case setMgt =>
    rintro s _ t tile _ c _ stamp value rfl hears rfl rfl legal free
    unfold exec execTcmdSet
    exact when_eq_next hears (setOrDuty_mgt_of_legal legal free)
  case setHandle =>
    rintro s _ t tile slot c handle stamp value rfl hears buffer refused
    unfold exec execTcmdSet
    exact when_eq_next hears (setOrDuty_of_refused_handle buffer refused)
  case setValue =>
    rintro s _ t tile slot c handle stamp value rfl hears buffer mine free illegal
    unfold exec execTcmdSet
    exact when_eq_next hears (setOrDuty_of_illegal buffer mine free illegal)
  case duty =>
    rintro s _ t tile slot c handle stamp value rfl hears buffer mine free legal
    unfold exec execTcmdDuty
    exact when_eq_next hears (setOrDuty_of_legal buffer mine free legal)
  case dutyMgt =>
    rintro s _ t tile _ c _ stamp value rfl hears rfl rfl legal free
    unfold exec execTcmdDuty
    exact when_eq_next hears (setOrDuty_mgt_of_legal legal free)
  case dutyHandle =>
    rintro s _ t tile slot c handle stamp value rfl hears buffer refused
    unfold exec execTcmdDuty
    exact when_eq_next hears (setOrDuty_of_refused_handle buffer refused)
  case dutyValue =>
    rintro s _ t tile slot c handle stamp value rfl hears buffer mine free illegal
    unfold exec execTcmdDuty
    exact when_eq_next hears (setOrDuty_of_illegal buffer mine free illegal)
  case replace =>
    rintro s _ t tile slot c handle stamp value e rfl hears mine found early legal
    unfold exec execTcmdReplace
    exact when_eq_next hears (tcmdReplace_of_early mine found early legal)
  case replaceLate =>
    rintro s _ t tile slot c handle stamp value e rfl hears mine found late
    unfold exec execTcmdReplace
    exact when_eq_next hears (tcmdReplace_of_late mine found late)
  case cancel =>
    rintro s _ t tile slot c handle stamp value e rfl hears mine found early
    unfold exec execTcmdCancel
    exact when_eq_next hears (tcmdCancel_of_early mine found early)
  case cancelLate =>
    rintro s _ t tile slot c handle stamp value e rfl hears mine found late
    unfold exec execTcmdCancel
    exact when_eq_next hears (tcmdCancel_of_late mine found late)
  case cancelNone =>
    rintro s _ t tile slot c handle stamp value rfl hears mine absent
    unfold exec execTcmdCancel
    exact when_eq_next hears (tcmdCancel_of_none mine absent)
  case release5 =>
    rintro s _ t tile _ c _ stamp value rfl hears rfl rfl
    unfold exec execTcmdRelease
    exact when_eq_next hears
  case release6 =>
    rintro s _ t tile _ c handle stamp value sl rfl hears rfl named found
    unfold exec execTcmdRelease
    exact when_eq_next hears (tcmdRelease_of_handle named found)
  case reservedOp =>
    rintro s _ t tile slot c handle stamp value op rfl hears
    unfold exec execTcmdReservedOp
    exact when_eq_next hears
  case nop =>
    rintro s _ t tile slot c handle stamp value rfl
    unfold exec execTcmdNop
    rfl

end Sys2Proof.Machine
end

section
/-! Timed commands taking effect, their reports, and the MGT slot (R44, R56, R67, R70, R366, R379, R443, R486). -/

namespace Sys2Proof.Machine

open Sys2Proof

@[simp] theorem tileOf_chanAt (t : Fin 12) (c : Fin 8) : tileOf (chanAt t c) = t :=
  Fin.ext (by simp only [tileOf, chanAt]; omega)

section Ack

variable {s : State} {t : Fin 12} {c : Fin 8} (waits : (s.chan.get (chanAt t c)).lev.ackWait = true)
include waits

/-- A restore acknowledgement in a LIVE tile releases level 3 (R44). -/
theorem ackLevel3_of_live (live : (s.tile.get t).state = .live) :
    ackLevel3 (chanAt t c) s = refresh (chanAt t c) (modLev (chanAt t c) (fun l =>
      { l with l3 := none, ackWait := false, fell := false, l7 := baseDrive s (chanAt t c) }) s) := by
  simp [ackLevel3, withRefresh, ackLevels, waits, live]

/-- In any other tile it ends the wait alone (R44, Table 01-3). -/
theorem ackLevel3_of_not_live (away : (s.tile.get t).state ≠ .live) :
    ackLevel3 (chanAt t c) s =
      refresh (chanAt t c) (modLev (chanAt t c) (fun l => { l with ackWait := false, fell := l.fell && !l.holding }) s) := by
  simp [ackLevel3, withRefresh, ackLevels, waits, away]

end Ack

/-- Settles O26: each row by its condition; what the tile does differently by its state or its role by the branch taken. -/
theorem timedCommandsTakingEffect : Obligations.TimedCommandsTakingEffect := by
  refine ⟨?execute, ?report, ?ackLive, ?ackAway, ?partReset, ?commitLive, ?commitAway, ?roleAhead, ?roleLate, ?roleApply, ?lock, ?lockPartnered⟩
  case execute =>
    rintro s _ t tile stamp rfl powered unlatched tick
    unfold exec execTcmdExecute
    exact when_eq_next (by rw [powered, unlatched, decide_eq_true tick]; rfl)
  case report =>
    rintro s _ t tile c handle code ticks slot n cmd rfl works heard hears named
    unfold exec execTackReport
    refine when_eq_next (by rw [works, heard, hears]; rfl) ?_
    dsimp only
    rw [named]
  case ackLive =>
    rintro s _ t tile c rfl hears waits live
    unfold exec execMgtRestoreAck
    exact when_eq_next hears (ackLevel3_of_live waits live)
  case ackAway =>
    rintro s _ t tile c rfl hears waits away
    unfold exec execMgtRestoreAck
    exact when_eq_next hears (ackLevel3_of_not_live waits away)
  case partReset =>
    rintro s _ t tile slot rfl hears
    unfold exec execMgtPartitionReset
    exact when_eq_next hears
  case commitLive =>
    rintro s _ t tile rfl hears live
    unfold exec execMgtConfigCommit
    exact when_eq_next hears (by rw [configCommit, if_pos live])
  case commitAway =>
    rintro s _ t tile rfl hears away
    unfold exec execMgtConfigCommit
    exact when_eq_next hears (by rw [configCommit, if_neg away])
  case roleAhead =>
    rintro s _ t tile standby partnered stamp rfl hears ahead
    unfold exec execRoleChange
    exact when_eq_next hears (by rw [roleChange, ahead, if_neg Bool.false_ne_true])
  case roleLate =>
    rintro s _ t tile standby partnered stamp rfl hears late
    unfold exec execRoleChange
    exact when_eq_next hears (by rw [roleChange, if_pos late])
  case roleApply =>
    rintro s _ t stamp rfl stays
    unfold exec execRoleChangeApply
    refine congrArg Host.Outcome.next (if_neg ?_)
    rw [stays, Bool.false_and]
    exact Bool.false_ne_true
  case lock =>
    rintro s _ t tile rfl hears alone acts
    unfold exec execTileLock
    refine when_eq_next hears ?_
    simp only [tileLock, alone, Bool.false_eq_true, if_false]
  case lockPartnered =>
    rintro s _ t tile rfl hears partnered
    unfold exec execTileLock
    refine when_eq_next hears ?_
    simp only [tileLock, partnered, if_true]

end Sys2Proof.Machine
end

section
/-! Comparators, tile reflex and the fast sense converter of a tile (R71 to R73, R77 to R79). -/

namespace Sys2Proof.Machine

open Sys2Proof

/-! ## Comparators -/

/-- A comparator that has its level already decides nothing (R71). -/
theorem comparatorSet_same (k : Fin 96) (b : Bool) (s : State) :
    comparatorSet k b (if b then (s.chan.get k).cmpB else (s.chan.get k).cmpA) s = s :=
  if_pos rfl

section Decides

variable {r : Rec} {b was : Bool} {value : Word}

/-- The rising threshold stands at offset 48 or 56 of the record, the falling one behind it (R454). -/
theorem cmpDecides_eq : cmpDecides r b was value =
    if f32 value = .nan then was
    else if !ltF value (w32 r (if b then 56 else 48)) then true
    else if !ltF (w32 r (if b then 60 else 52)) value then false
    else was := by
  cases b <;> rfl

/-- A number at or above the rising threshold decides 1. -/
theorem cmpDecides_of_above (number : f32 value ≠ .nan) (above : ltF value (w32 r (if b then 56 else 48)) = false) :
    cmpDecides r b was value = true := by
  rw [cmpDecides_eq, if_neg number, above]
  rfl

/-- A number at or below the falling threshold, and below the rising one, decides 0. -/
theorem cmpDecides_of_below (number : f32 value ≠ .nan) (low : ltF value (w32 r (if b then 56 else 48)) = true)
    (below : ltF (w32 r (if b then 60 else 52)) value = false) : cmpDecides r b was value = false := by
  rw [cmpDecides_eq, if_neg number, low, below]
  rfl

/-- What is no number, or lies between the thresholds, decides what stood (R71). -/
theorem cmpDecides_of_between (between : f32 value = .nan ∨
    ltF value (w32 r (if b then 56 else 48)) = true ∧ ltF (w32 r (if b then 60 else 52)) value = true) :
    cmpDecides r b was value = was := by
  rw [cmpDecides_eq]
  obtain noNumber | ⟨low, high⟩ := between
  · exact if_pos noNumber
  · rw [low, high]
    exact ite_self was

end Decides

/-- COMPARATOR_DECISION in a configured powered tile, of a comparator that has a source: it takes the level that it decides. -/
theorem exec_comparatorDecision_of_source {s : State} {t : Time} {k : Fin 96} {cmpB : Bool} (value : Word)
    (powered : tilePowered (s.at_ t) (tileOf k) = true) (configured : ((s.at_ t).tile.get (tileOf k)).bank.isSome = true)
    (source : chCmpSrc (tileRec (s.at_ t) k) cmpB ≠ 0) :
    exec (.comparatorDecision t k cmpB value) s = .next (comparatorSet k cmpB (cmpDecides (tileRec (s.at_ t) k) cmpB
      (if cmpB then ((s.at_ t).chan.get k).cmpB else ((s.at_ t).chan.get k).cmpA) value) (s.at_ t)) := by
  unfold exec execComparatorDecision
  exact when_eq_next (by rw [powered, configured, bne_iff_ne.mpr source]; rfl)

/-- Settles O27: a comparator by what it decides, an entry and a conversion by the row's condition. -/
theorem tileComparatorEvents : Obligations.TileComparatorEvents := by
  refine ⟨?rise, ?fall, ?keep, ?reflex, ?turn, ?claim⟩
  case rise =>
    rintro s _ t k cmpB value rfl powered configured source number above
    rw [exec_comparatorDecision_of_source value powered configured source, cmpDecides_of_above number above]
  case fall =>
    rintro s _ t k cmpB value rfl powered configured source number low below
    rw [exec_comparatorDecision_of_source value powered configured source, cmpDecides_of_below number low below]
  case keep =>
    rintro s _ t k cmpB value rfl powered configured source between
    rw [exec_comparatorDecision_of_source value powered configured source, cmpDecides_of_between between, comparatorSet_same]
  case reflex =>
    rintro s _ t tile entry r b rfl found acts unfired since held holds
    unfold exec execTileReflexQualExpiry
    dsimp only
    rw [found]
    exact when_eq_next (by simp only [acts, unfired, since, held, holds, Bool.not_false, Bool.and_self])
  case turn =>
    rintro s _ t tile code rfl powered unclaimed
    unfold exec execFastSenseConversion
    refine when_eq_next powered ?_
    simp only [Bank.upd, senseTurn, senseClaimed, unclaimed]
    rfl
  case claim =>
    rintro s _ t tile code c stop rfl powered claimed stands
    unfold exec execFastSenseConversion
    refine when_eq_next powered ?_
    simp only [Bank.upd, senseTurn, senseClaimed, claimed, stands, decide_true, if_true]
    rfl

end Sys2Proof.Machine
end

section
/-! What an operation may reach: which parts of the state it leaves as they were, one lemma per operation (R27, R71 to R73, R94, R238, R372, R386). -/

namespace Sys2Proof.Machine

open Sys2Proof

/-! ## Reach -/

/-- The parts of the state that an operation may change: some of the channels, and whole groups. -/
structure Reach where
  chan : Fin 96 → Prop
  tile : Bool := false
  host : Bool := false
  net : Bool := false
  nvs : Bool := false
  recd : Bool := false
  misc : Bool := false

/-- The state `a` with the parts in reach as they are in `z`. -/
def Reach.graft (r : Reach) (z a : State) : State :=
  { a with
    chan := z.chan
    tile := bif r.tile then z.tile else a.tile
    host := bif r.host then z.host else a.host
    net := bif r.net then z.net else a.net
    nvs := bif r.nvs then z.nvs else a.nvs
    recd := bif r.recd then z.recd else a.recd
    misc := bif r.misc then z.misc else a.misc }

/-- From `a` to `z` nothing out of reach has changed. -/
structure Within (r : Reach) (a z : State) : Prop where
  parts : z = r.graft z a
  others : ∀ j, ¬ r.chan j → z.chan.get j = a.chan.get j

section

variable {r : Reach} {a b s z : State} {k : Fin 96}

@[simp] theorem Reach.graft_self : r.graft a a = a := by
  simp [Reach.graft]

/-- A choice made twice by one condition is made once. -/
theorem cond_else_cond {α : Type} (c : Bool) (x y z : α) : (bif c then x else bif c then y else z) = bif c then x else z := by
  cases c <;> rfl

/-- Parts taken twice are those taken last. -/
theorem Reach.graft_graft : r.graft z (r.graft b a) = r.graft z a := by
  simp only [Reach.graft, cond_else_cond]

namespace Within

theorem refl : Within r a a := ⟨Reach.graft_self.symm, fun _ _ => rfl⟩

theorem trans (first : Within r a b) (second : Within r b z) : Within r a z where
  parts := by
    rw [← Reach.graft_graft (b := b), ← first.parts]
    exact second.parts
  others j out := (second.others j out).trans (first.others j out)

/-- What a row leaves, in the words of an obligation. -/
theorem frame (h : Within r a z) : z = r.graft z a ∧ ∀ j, ¬ r.chan j → z.chan.get j = a.chan.get j := ⟨h.parts, h.others⟩

theorem ite {c : Prop} [Decidable c] (yes : Within r a s) (no : Within r a z) : Within r a (if c then s else z) := by
  split <;> assumption

theorem forEach {α : Type} {l : List α} {f : α → State → State} (h : Within r a s) (pass : ∀ x z, Within r a z → Within r a (f x z)) :
    Within r a (forEach l f s) := by
  unfold Machine.forEach
  induction l generalizing s with
  | nil => exact h
  | cons x xs ih => exact ih (pass x s h)

/-! ## A part in reach written -/

theorem modChan (h : Within r a s) (f : Chan → Chan) (hk : r.chan k) : Within r a (modChan k f s) :=
  h.trans ⟨by simp [Reach.graft, Machine.modChan], fun j out => Bank.get_upd_other _ _ _ _ fun e => out (e ▸ hk)⟩

theorem setTile (h : Within r a s) (ht : r.tile = true) (x : Bank Tile 12) : Within r a { s with tile := x } :=
  h.trans ⟨by simp [Reach.graft, ht], fun _ _ => rfl⟩

theorem setHost (h : Within r a s) (hh : r.host = true) (x : HostIf) : Within r a { s with host := x } :=
  h.trans ⟨by simp [Reach.graft, hh], fun _ _ => rfl⟩

theorem setNet (h : Within r a s) (hn : r.net = true) (x : Net) : Within r a { s with net := x } :=
  h.trans ⟨by simp [Reach.graft, hn], fun _ _ => rfl⟩

theorem setNvs (h : Within r a s) (hn : r.nvs = true) (x : Nvs) : Within r a { s with nvs := x } :=
  h.trans ⟨by simp [Reach.graft, hn], fun _ _ => rfl⟩

theorem setRecd (h : Within r a s) (hr : r.recd = true) (x : Recorder) : Within r a { s with recd := x } :=
  h.trans ⟨by simp [Reach.graft, hr], fun _ _ => rfl⟩

theorem setMisc (h : Within r a s) (hm : r.misc = true) (x : Misc) : Within r a { s with misc := x } :=
  h.trans ⟨by simp [Reach.graft, hm], fun _ _ => rfl⟩

/-! ## Records and frames -/

theorem recordEvt (h : Within r a s) (hr : r.recd = true) (e : RecEvt) : Within r a (recordEvt e s) := by
  unfold Machine.recordEvt
  refine .ite h (.ite ?_ ?_)
  · exact h.setRecd hr _
  · exact h.setRecd hr _

theorem record (h : Within r a s) (hr : r.recd = true) (type source ev hi : Nat) (rest : List Nat) :
    Within r a (record type source ev hi rest s) :=
  h.recordEvt hr _

theorem frameOut (h : Within r a s) (hn : r.net = true) (own : Bool) (p : Nat) (bytes : List Byte) (v : Bool) :
    Within r a (frameOut own p bytes v s) := by
  unfold Machine.frameOut
  split
  · exact h
  · refine .ite ?_ ?_
    · exact h.setNet hn _
    · exact h.setNet hn _

theorem portSend (h : Within r a s) (hn : r.net = true) (p : Nat) (bytes : List Byte) : Within r a (portSend p bytes s) := by
  unfold Machine.portSend Machine.ownDrop
  refine .ite ?_ (h.frameOut hn _ _ _ _)
  split
  · exact h
  · exact h.setNet hn _

theorem jnlSend (h : Within r a s) (hn : r.net = true) (sub count joff : Nat) (body : List Byte) :
    Within r a (jnlSend sub count joff body s) := by
  unfold Machine.jnlSend prtSend
  exact .ite h ((h.setNet hn _).portSend hn _ _)

/-! ## Judgements of a channel and its terminal -/

theorem noteInvalid (h : Within r a s) (hk : r.chan k) : Within r a (noteInvalid k s) := by
  unfold Machine.noteInvalid
  exact .ite (h.modChan _ hk) h

/-- A judged change reaches what the change reaches, and the channel. -/
theorem judging {f : State → State} (h : Within r a (f s)) (hk : r.chan k) : Within r a (judging k f s) := by
  have noted := h.noteInvalid hk
  unfold Machine.judging
  exact .ite noted (.ite ((noted.modChan _ hk).modChan _ hk) (noted.modChan _ hk))

theorem setVerdict (h : Within r a s) (hk : r.chan k) (v : Nat) : Within r a (setVerdict k v s) :=
  judging (h.modChan _ hk) hk

/-- A change in protection bits reaches the partner besides (Table 11-8). -/
theorem protecting {f : State → State} (h : Within r a (f s)) (hk : r.chan k) (hn : r.net = true) : Within r a (protecting k f s) := by
  unfold Machine.protecting
  exact .ite ((judging h hk).jnlSend hn _ _ _ _) (judging h hk)

/-- A test that the switch ends reaches its run, the channel's count and the recorder (R238). -/
theorem testSkip (h : Within r a s) (hk : r.chan k) (hm : r.misc = true) (hr : r.recd = true) : Within r a (testSkip k s) := by
  unfold Machine.testSkip
  exact .ite (((h.setMisc hm _).modChan _ hk).record hr _ _ _ _ _) h

/-- A terminal brought up to date reaches its channel and, where its switch closes, the cycle counts and a test (R27, R238). -/
theorem refresh (h : Within r a s) (hk : r.chan k) (hm : r.misc = true) (hn : r.nvs = true) (hr : r.recd = true) :
    Within r a (refresh k s) := by
  unfold Machine.refresh
  extract_lets t x c pg c1
  split
  extract_lets on c2 s1
  have present : Within r a s1 := h.modChan (fun _ => c2) hk
  refine .ite (testSkip (setNvs ?_ hn _) hk hm hr) present
  exact .ite (present.modChan _ hk) present

/-! ## Comparators and the tile reflex -/

theorem queueEvt (h : Within r a s) (ht : r.tile = true) (t : Fin 12) (kind idx : Nat) (on : Bool) : Within r a (queueEvt t kind idx on s) :=
  h.setTile ht _

theorem putTref (h : Within r a s) (ht : r.tile = true) (t : Fin 12) (e : TrefSt) : Within r a (putTref t e s) :=
  h.setTile ht _

section Reflex

variable (every : ∀ k, r.chan k) (ht : r.tile = true) (hm : r.misc = true) (hn : r.nvs = true) (hr : r.recd = true)
include every ht hm hn hr

theorem fireTref (h : Within r a s) (t : Fin 12) (x : Rec) : Within r a (fireTref t x s) := by
  unfold Machine.fireTref
  split
  · exact h
  · exact queueEvt (refresh ((h.putTref ht _ _).modChan _ (every _)) (every _) hm hn hr) ht _ _ _ _

theorem releaseTref (h : Within r a s) (t : Fin 12) (x : Rec) : Within r a (releaseTref t x s) := by
  unfold Machine.releaseTref liftTref
  split
  · exact h
  · exact (((h.putTref ht _ _).queueEvt ht _ _ _ _).modChan _ (every _)).refresh (every _) hm hn hr

/-- An entry of the tile reflex evaluated: it is released, fires, begins to qualify or does not hold (R72, R73). -/
theorem evalTref (h : Within r a s) (t : Fin 12) (x : Rec) : Within r a (evalTref t x s) := by
  have released := releaseTref every ht hm hn hr h t x
  have fired := fireTref every ht hm hn hr h t x
  unfold Machine.evalTref
  exact .ite (.ite released h) (.ite (.ite fired (.ite (h.putTref ht _ _) h)) (h.putTref ht _ _))

theorem evalTile (h : Within r a s) (t : Fin 12) (bit : Nat) : Within r a (evalTile t bit s) := by
  unfold Machine.evalTile
  exact .ite h (h.forEach fun x z hz => evalTref every ht hm hn hr hz t x)

/-- A comparator that takes a level reaches its channel, the tile's events, its flash and what the tile reflex reaches (R71). -/
theorem comparatorSet (h : Within r a s) (b on : Bool) : Within r a (comparatorSet k b on s) := by
  unfold Machine.comparatorSet
  refine .ite h (evalTile every ht hm hn hr ?_ _ _)
  exact ((h.modChan _ (every k)).queueEvt ht _ _ _ _).setMisc hm _

theorem setLine (h : Within r a s) (line : Option Bool) : Within r a (setLine k line s) := by
  unfold Machine.setLine
  refine comparatorSet every ht hm hn hr (judging ?_ (every k)) _ _
  exact (h.modChan _ (every k)).modChan _ (every k)

end Reflex

/-! ## The journal -/

theorem jnlChunks (h : Within r a s) (hn : r.net = true) (n off : Nat) (bs : List Byte) : Within r a (jnlChunks n off bs s) := by
  induction n generalizing off bs s with
  | zero => exact h
  | succ n ih => exact .ite h (ih (h.jnlSend hn _ _ _ _) _ _)

theorem putEntry (h : Within r a s) (hh : r.host = true) (hn : r.net = true) (etype : Nat) (body : List Byte) :
    Within r a (putEntry etype body s) := by
  unfold Machine.putEntry
  exact .ite ((h.setHost hh _).jnlChunks hn _ _ _) (h.setHost hh _)

theorem spill (h : Within r a s) (hs : r.nvs = true) (n : Nat) : Within r a (spill n s) := by
  unfold Machine.spill
  refine setNvs ?_ hs _
  split
  · exact h
  · exact h.setNvs hs _

theorem askSpill (h : Within r a s) (hs : r.nvs = true) (n : Nat) : Within r a (askSpill n s) := by
  unfold Machine.askSpill
  exact .ite (h.setNvs hs _) h

theorem makeRoom (h : Within r a s) (hh : r.host = true) (hs : r.nvs = true) (n : Nat) : Within r a (makeRoom n s) := by
  unfold Machine.makeRoom
  exact .ite (((h.askSpill hs n).spill hs _).setHost hh _) (h.askSpill hs n)

section Journal

variable (hh : r.host = true) (hs : r.nvs = true) (hn : r.net = true)
include hh hs hn

theorem padEntry (h : Within r a s) (etype : Nat) (body : List Byte) : Within r a (padEntry etype body s) := by
  unfold Machine.padEntry
  refine .ite ((h.makeRoom hh hs _).putEntry hh hn _ _) (putEntry (makeRoom ?_ hh hs _) hh hn _ _)
  exact .ite ((h.makeRoom hh hs _).putEntry hh hn _ _) h

/-- A journal entry, with the marks before it, reaches the host interface, the store and the partner (R386, R387). -/
theorem journal (h : Within r a s) (etype : Nat) (body : List Byte) : Within r a (journal etype body s) := by
  unfold Machine.journal
  refine .ite h (padEntry hh hs hn (h.forEach fun x z hz => ?_) _ _)
  split
  · exact padEntry hh hs hn hz _ _
  · exact hz

/-- A write-class request's STARTED mark asked for (R150). -/
theorem startMark (h : Within r a s) (w : WorkRef) : Within r a (startMark w s) := by
  have marked := (journal hh hs hn h 3 (refBytes w)).setHost hh
  unfold Machine.startMark
  exact .ite (marked _) ((marked _).setNvs hs _)

end Journal

end Within

end

end Sys2Proof.Machine
end

section
/-! Rows of a channel: which parts of the state a row changes (R94, R100, R126 to R130, R139, R159, R166, R187, R220, R241). -/

namespace Sys2Proof.Machine

open Sys2Proof

/-! ## The next attempt of a HART schedule -/

section Attempt

variable {r : Reach} {a s : State} {k : Fin 96} (hk : r.chan k) (hh : r.host = true) (hs : r.nvs = true) (hn : r.net = true)
include hk hh hs hn

/-- An attempt in the ad hoc window asks for a mark or sends a request, one in a plan's turn sends a request, and either may do nothing
(R139, R147, R150). -/
theorem Within.attempt (h : Within r a s) : Within r a (attempt k s) := by
  have sent {z : State} (hz : Within r a z) (addr : Nat) (long : List Byte) (cmd : Nat) (data : List Byte) :
      Within r a (sendRequest k addr long cmd data z) := hz.modChan _ hk
  unfold Machine.attempt
  dsimp only
  refine .ite h ?_
  split
  case h_1 => exact h
  case h_2 =>
    split
    case h_1 => exact h
    case h_2 w _ =>
      split
      case h_1 => exact h
      case h_2 d _ =>
        refine .ite (.ite (sent h _ _ _ _) h) (.ite ?verify (.ite h (.ite (.ite h (startMark hh hs hn h _)) ?write)))
        case verify =>
          split
          · exact .ite (sent h _ _ _ _) h
          · exact h
        case write => exact sent (h.setHost hh _) _ _ _ _
  case h_3 =>
    split
    case h_1 => exact h
    case h_2 x _ =>
      split
      case h_1 => exact h
      case h_2 d _ => exact .ite h (.ite (.ite (sent h _ _ _ _) h) (.ite (.ite (sent h _ _ _ _) h) (.ite (sent h _ _ _ _) h)))

end Attempt

/-! ## The rows -/

/-- An event keeps within the reach of its effect. -/
theorem within_of_when {r : Reach} {c : Bool} {f : State → State} {a z : State} (h : when c f a = .next z) (effect : Within r a (f a)) :
    Within r a z := by
  obtain rfl | rfl := eq_or_eq_of_when h
  · exact effect
  · exact .refl

/-- The reach of a row that changes channel k alone. -/
def chanReach (k : Fin 96) : Reach := { chan := (· = k) }

/-- The reach of a change at the terminal of channel k: besides it the store's group, the diagnostic runs and the recorder. -/
def terminalReach (k : Fin 96) : Reach := { chan := (· = k), misc := true, nvs := true, recd := true }

/-- The reach of a HART attempt on channel k: besides it the host interface, the store's group and the network side. -/
def hartReach (k : Fin 96) : Reach := { chan := (· = k), host := true, nvs := true, net := true }

/-- The reach of a comparator: the channels, the tiles and what the tile reflex changes besides. -/
def reflexReach : Reach := { chan := fun _ => True, misc := true, nvs := true, recd := true, tile := true }

/-- The reach of a protection: the channels and the network side. -/
def protectReach : Reach := { chan := fun _ => True, net := true }

/-- An event whose effect is a change at one channel keeps within that channel. -/
theorem within_of_when_modChan {c : Bool} {f : State → Chan → Chan} {a z : State} {k : Fin 96}
    (h : when c (fun b => modChan k (f b) b) a = .next z) : Within (chanReach k) a z :=
  within_of_when h (Within.refl.modChan _ rfl)

/-- An event whose effect is a change at one channel and its terminal. -/
theorem within_of_when_refresh {c : Bool} {f : State → Chan → Chan} {a z : State} {k : Fin 96}
    (h : when c (fun b => refresh k (modChan k (f b) b)) a = .next z) : Within (terminalReach k) a z :=
  within_of_when h (.refresh (Within.refl.modChan _ rfl) rfl rfl rfl rfl)

/-- Settles O18: the effect of each row keeps within its reach. -/
theorem channelRowsChangeOneChannel : Obligations.ChannelRowsChangeOneChannel := by
  refine ⟨?modemStart, ?modemEnd, ?modemAbort, ?txdone, ?rxByte, ?complClear, ?openLoad, ?verdict, ?sinkOpen, ?sinkRetry, ?complSet,
    ?silence, ?rawChange, ?lineFault, ?limit, ?analogLimit, ?belowCeiling⟩
  case modemStart =>
    intro t k bytes s z h
    unfold exec execHartModemStart at h
    exact (within_of_when_modChan h).frame
  case modemEnd =>
    intro t k bytes s z h
    unfold exec execHartModemEnd at h
    exact (within_of_when_modChan h).frame
  case modemAbort =>
    intro t k s z h
    unfold exec execHartModemAbort at h
    exact (within_of_when_modChan h).frame
  case txdone =>
    intro t k s z h
    unfold exec execHartTxdone at h
    exact (within_of_when_modChan h).frame
  case rxByte =>
    intro t k byte perr eom s z h
    unfold exec execHartRxByte at h
    exact (within_of_when_modChan h).frame
  case complClear =>
    intro t k headroom held s z h
    unfold exec execComplClear at h
    exact (within_of_when_modChan h).frame
  case openLoad =>
    intro t k counted maxCurrent s z h
    unfold exec execOpenLoadOn at h
    exact (within_of_when (r := chanReach k) h (Within.refl.setVerdict rfl _)).frame
  case verdict =>
    intro t k s z h
    unfold exec execVerdictRecord at h
    exact (within_of_when (r := { chanReach k with recd := true }) h ((Within.refl.modChan _ rfl).record rfl _ _ _ _ _)).frame
  case sinkOpen =>
    intro t k burden held s z h
    unfold exec execSinkOpen at h
    exact (within_of_when_refresh h).frame
  case sinkRetry =>
    intro t k s z h
    unfold exec execSinkRetry at h
    exact (within_of_when_refresh h).frame
  case complSet =>
    intro t k headroom held s z h
    unfold exec execComplSet at h
    exact (within_of_when_refresh h).frame
  case silence =>
    intro t k s z h
    unfold exec execHartLoopSilence at h
    exact (within_of_when (r := hartReach k) h (.attempt rfl rfl rfl rfl (Within.refl.modChan _ rfl))).frame
  case rawChange =>
    intro t k x s z h
    unfold exec execInputRawChange at h
    exact (within_of_when (r := reflexReach) h (.comparatorSet (fun _ => trivial) rfl rfl rfl rfl (Within.refl.modChan _ trivial) _ _)).parts
  case lineFault =>
    intro t k current held s z h
    unfold exec execNamLineFault at h
    exact (within_of_when (r := reflexReach) h (.setLine (fun _ => trivial) rfl rfl rfl rfl .refl _)).parts
  case limit =>
    intro t j current s z h
    unfold exec execCurrentLimit at h
    exact (within_of_when (r := protectReach) h (.protecting (Within.refl.modChan _ trivial) trivial rfl)).parts
  case analogLimit =>
    intro t k limiting s z h
    unfold exec execAnalogCurrentLimit at h
    exact (within_of_when (r := protectReach) h (.protecting
      (.ite ((Within.refl.modChan _ trivial).modChan _ trivial) (Within.refl.modChan _ trivial)) trivial rfl)).parts
  case belowCeiling =>
    intro t j s z h
    unfold exec execCurrentBelowCeiling at h
    exact (within_of_when (r := protectReach) h (.protecting (Within.refl.modChan _ trivial) trivial rfl)).parts

end Sys2Proof.Machine
end

section
/-! Analog channels and the trim buttons (R84 to R96, R100, R103, R117, R118, R121, R221). -/

namespace Sys2Proof.Machine

open Sys2Proof

/-! ## Conversions -/

/-- A lead conversion is one of an RTD (R103). -/
theorem chFunc_of_isLead {r : Rec} {n : Nat} (lead : isLead r n = true) : chFunc r = .rtd := by
  simp only [isLead, Bool.and_eq_true, beq_iff_eq] at lead
  obtain ⟨⟨rtd, _⟩, _⟩ := lead
  exact rtd

/-- A test conversion is one of a thermocouple (R221). -/
theorem chFunc_of_isTcTest {r : Rec} {n : Nat} (test : isTcTest r n = true) : chFunc r = .tc := by
  simp only [isTcTest, Bool.and_eq_true, beq_iff_eq] at test
  obtain ⟨⟨tc, _⟩, _⟩ := test
  exact tc

/-- So a test conversion is no lead conversion. -/
theorem isLead_of_isTcTest {r : Rec} {n : Nat} (test : isTcTest r n = true) : isLead r n = false := by
  rw [isLead, chFunc_of_isTcTest test]
  rfl

section Due

variable {s : State} {t : Time} {k : Fin 96} {x aux : Word} {n : Nat}
  (index : n = convNow (s.at_ t) k (chRate (tileRec (s.at_ t) k)))
  (on : ((s.at_ t).tile.get (tileOf k)).state ≠ .off)
  (analog : isAnalogF (chFunc (tileRec (s.at_ t) k)) = true)
  (converts : isOutF (chFunc (tileRec (s.at_ t) k)) = true ∨
    inputOn (chFunc (tileRec (s.at_ t) k)) ((s.at_ t).tile.get (tileOf k)).standby ((s.at_ t).chan.get k).lev.share = true)
  (new : ((s.at_ t).chan.get k).ana.restart = true ∨ ((s.at_ t).chan.get k).ana.n ≠ n)
  (started : ((s.at_ t).chan.get k).ana.startAt < 2 * convInstant n (chRate (tileRec (s.at_ t) k)))
include index on analog converts new started

/-- ADC_CONVERSION of a due index on a channel that converts: a lead conversion, a test conversion, or one of the value. -/
theorem exec_adcConversion_of_due :
    exec (.adcConversion t k x aux) s = .next (
      if isLead (tileRec (s.at_ t) k) n then
        leadJudge k aux (modAna k (fun y => { y with n := n, restart := false, lead := aux }) (s.at_ t))
      else if isTcTest (tileRec (s.at_ t) k) n then tcJudge k aux (modAna k (fun y => { y with n := n, restart := false }) (s.at_ t))
      else convert k n (tileRec (s.at_ t) k) x aux (s.at_ t)) := by
  subst index
  unfold exec execAdcConversion
  refine when_eq_next ?_
  simp only [Bool.and_eq_true, Bool.or_eq_true, bne_iff_ne, decide_eq_true_eq]
  exact ⟨⟨⟨⟨on, analog⟩, converts⟩, new⟩, started⟩

end Due

/-! ## The limit of an analog channel -/

/-- ANALOG_CURRENT_LIMIT on an AII or AOV channel of a powered tile: LIMIT follows, and a set LIMIT clears VALID on the ranges of AII other
than 0 (R100, R133). -/
theorem exec_analogCurrentLimit_of_powered {s : State} {t : Time} {k : Fin 96} {limiting : Bool}
    (powered : tilePowered (s.at_ t) (tileOf k) = true) (kind : chFunc (tileRec (s.at_ t) k) = .aii ∨ chFunc (tileRec (s.at_ t) k) = .aov)
    (allowed : limiting = true ∨ ((s.at_ t).chan.get k).ana.sinkOpen = none) :
    exec (.analogCurrentLimit t k limiting) s = .next (protecting k (fun z =>
      if limiting && chFunc (tileRec (s.at_ t) k) == .aii && chRange (tileRec (s.at_ t) k) != 0 then
        modAna k (fun x => { x with valid := false, wasValid := false }) (modSw k (fun w => { w with limiting := limiting }) z)
      else modSw k (fun w => { w with limiting := limiting }) z) (s.at_ t)) := by
  unfold exec execAnalogCurrentLimit
  refine when_eq_next ?_
  simp only [Bool.and_eq_true, Bool.or_eq_true, beq_iff_eq, Option.isNone_iff_eq_none]
  exact ⟨⟨powered, kind⟩, allowed⟩

/-- Settles O30: each row by its condition; a conversion by its kind, and the current limit of an input by its range. -/
theorem analogChannelEvents : Obligations.AnalogChannelEvents := by
  refine ⟨?value, ?lead, ?complSet, ?complClear, ?lowReturn, ?sinkOpen, ?sinkRetry, ?test, ?limit, ?limitInvalid, ?pressBoth, ?pressOne,
    ?pressHeld, ?timeout⟩
  case value =>
    rintro s _ t k x aux n rfl index on analog converts new started noLead noTest
    rw [exec_adcConversion_of_due index on analog converts new started, noLead, noTest]
    rfl
  case lead =>
    rintro s _ t k x aux n rfl index on lead inputs new started
    have analog : isAnalogF (chFunc (tileRec (s.at_ t) k)) = true := by rw [chFunc_of_isLead lead]; rfl
    rw [exec_adcConversion_of_due index on analog (.inr inputs) new started, lead]
    rfl
  case complSet =>
    rintro s _ t k headroom held rfl output acts low long noOpen
    unfold exec execComplSet
    refine when_eq_next ?_
    simp only [Bool.and_eq_true, Bool.or_eq_true, beq_iff_eq, decide_eq_true_eq, Bool.not_eq_true']
    exact ⟨⟨⟨⟨output, acts⟩, low⟩, long⟩, noOpen⟩
  case complClear =>
    rintro s _ t k headroom held rfl set noLow high long
    unfold exec execComplClear
    exact when_eq_next (by rw [set, noLow, decide_eq_true high, decide_eq_true long]; rfl)
  case lowReturn =>
    rintro s _ t k predicted held rfl low high long
    unfold exec execComplactLowReturn
    exact when_eq_next (by rw [low, decide_eq_true high, decide_eq_true long]; rfl)
  case sinkOpen =>
    rintro s _ t k burden held rfl aii limiting closed high long
    unfold exec execSinkOpen
    exact when_eq_next (by rw [aii, limiting, closed, decide_eq_true high, decide_eq_true long]; rfl)
  case sinkRetry =>
    rintro s _ t k e rfl opened passed
    unfold exec execSinkRetry
    exact when_eq_next (by rw [opened]; exact passed)
  case test =>
    rintro s _ t k x aux n rfl index on test inputs new started
    have analog : isAnalogF (chFunc (tileRec (s.at_ t) k)) = true := by rw [chFunc_of_isTcTest test]; rfl
    rw [exec_adcConversion_of_due index on analog (.inr inputs) new started, isLead_of_isTcTest test, test]
    rfl
  case limit =>
    rintro s _ t k limiting rfl powered kind allowed
    have stays : (limiting && chFunc (tileRec (s.at_ t) k) == .aii && chRange (tileRec (s.at_ t) k) != 0) = false := by
      obtain aov | ⟨_, rfl | zero⟩ := kind
      · rw [aov, Bool.and_comm limiting]
        rfl
      · rfl
      · rw [zero, bne_self_eq_false, Bool.and_false]
    rw [exec_analogCurrentLimit_of_powered powered (kind.symm.imp_left And.left) allowed, stays]
    rfl
  case limitInvalid =>
    rintro s _ t k _ rfl powered aii wide rfl
    rw [exec_analogCurrentLimit_of_powered powered (.inl aii) (.inl rfl), aii, bne_iff_ne.mpr wide]
    rfl
  case pressBoth =>
    rintro s _ t span _ trdHigh held rested rfl up long rest rfl
    unfold exec execTrimPress
    exact when_eq_next (by rw [up, decide_eq_true long, rest]; rfl)
  case pressOne =>
    rintro s _ t span _ trdHigh held rested rfl up long rest rfl
    unfold exec execTrimPress
    exact when_eq_next (by rw [up, decide_eq_true long, rest]; rfl)
  case pressHeld =>
    rintro s _ t held span up next x rfl pressed armed alive long due output
    unfold exec execTrimPressRepeat
    dsimp only
    rw [pressed, armed]
    exact when_eq_next (by rw [alive, decide_eq_true long, decide_eq_true due, output]; rfl) (by rw [armed])
  case timeout =>
    rintro s _ t x rfl up armed ended
    unfold exec execTrimTimeout
    exact when_eq_next (by rw [up, armed]; exact decide_eq_true ended)

end Sys2Proof.Machine
end

section
/-! The HART scheduler's times and the staleness of HART tags (R136 to R142, R147, R150). -/

namespace Sys2Proof.Machine

open Sys2Proof

/-! ## A stale tag -/

/-- HART_STALE of a mapped tag older than its drop's STALE (R141). -/
theorem exec_hartStale_of_old {s : State} {t : Time} {item : Nat} {k : Fin 96} {x : HartTag} (up : hubUp (s.at_ t) = true)
    (chan : chanOfItem (s.at_ t) item = some k) (tag : tagOfItem (s.at_ t) item = some x)
    (old : staleOf (s.at_ t) k.val (u8 ((castAll (s.at_ t) (·.item)).getD item []) 1) < (s.at_ t).now - x.at_) :
    exec (.hartStale t item) s = .next (hartFlag k (putTag { x with valid := false, stale := true, hart := true } (s.at_ t))) := by
  unfold exec execHartStale
  dsimp only
  rw [chan, tag]
  exact when_eq_next (by rw [up, decide_eq_true old]; rfl)

/-- The tag of an item is that item's. -/
theorem item_of_tagOfItem {s : State} {item : Nat} {x : HartTag} (tag : tagOfItem s item = some x) : x.item = item :=
  by
  simpa only [beq_iff_eq] using List.find?_some (p := fun y : HartTag => y.item == item) tag

/-- A tag that has been put is the tag of its item. -/
@[simp] theorem tagOfItem_putTag (x : HartTag) (s : State) : tagOfItem (putTag x s) x.item = some x :=
  List.find?_cons_of_pos (beq_self_eq_true x.item)

@[simp] theorem tagOfItem_hartFlag (k : Fin 96) (s : State) (item : Nat) : tagOfItem (hartFlag k s) item = tagOfItem s item := rfl

/-! ## Staleness and Studio -/

/-- The state with Studio up or down. -/
def withStudio (up : Bool) (s : State) : State := { s with flt := { s.flt with studioUp := up } }

section Studio

variable (up : Bool) (s : State)

theorem withStudio_at_ (t : Time) : (withStudio up s).at_ t = withStudio up (s.at_ t) := rfl
@[simp] theorem withStudio_now : (withStudio up s).now = s.now := rfl
@[simp] theorem withStudio_misc : (withStudio up s).misc = s.misc := rfl
@[simp] theorem hubUp_withStudio : hubUp (withStudio up s) = hubUp s := rfl
@[simp] theorem castAll_withStudio (f : Image → List Rec) : castAll (withStudio up s) f = castAll s f := rfl
@[simp] theorem staleOf_withStudio (k addr : Nat) : staleOf (withStudio up s) k addr = staleOf s k addr := rfl
@[simp] theorem chanOfItem_withStudio (item : Nat) : chanOfItem (withStudio up s) item = chanOfItem s item := rfl
@[simp] theorem tagOfItem_withStudio (item : Nat) : tagOfItem (withStudio up s) item = tagOfItem s item := rfl
theorem putTag_withStudio (x : HartTag) : putTag x (withStudio up s) = withStudio up (putTag x s) := rfl
theorem hartFlag_withStudio (k : Fin 96) : hartFlag k (withStudio up s) = withStudio up (hartFlag k s) := rfl

/-- HART_STALE reads nothing of Studio and changes nothing of it: the runs with Studio up and with it down differ in that alone (R141). -/
theorem exec_hartStale_withStudio {y : State} {t : Time} {item : Nat} (h : exec (.hartStale t item) s = .next y) :
    exec (.hartStale t item) (withStudio up s) = .next (withStudio up y) := by
  unfold exec execHartStale at h ⊢
  dsimp only at h ⊢
  rw [withStudio_at_, chanOfItem_withStudio, tagOfItem_withStudio]
  cases chan : chanOfItem (s.at_ t) item with
  | none =>
    rw [chan] at h
    cases h
    rfl
  | some k =>
    cases tag : tagOfItem (s.at_ t) item with
    | none =>
      rw [chan, tag] at h
      cases h
      rfl
    | some x =>
      rw [chan, tag] at h
      unfold when at h ⊢
      dsimp only at h ⊢
      rw [hubUp_withStudio, castAll_withStudio, staleOf_withStudio, withStudio_now]
      split at h
      case isTrue old =>
        cases h
        rw [if_pos old, putTag_withStudio, hartFlag_withStudio]
      case isFalse young =>
        cases h
        exact if_neg young

end Studio

/-- Settles O16: the tag put by HART_STALE is the item's, and the row commutes with any change of Studio's state. -/
theorem hartStalenessNeedsNoStudio : Obligations.HartStalenessNeedsNoStudio := by
  refine ⟨?stale, ?studio⟩
  case stale =>
    rintro s _ t item k x rfl up chan tag old
    refine ⟨_, exec_hartStale_of_old up chan tag old, ?_⟩
    rw [← item_of_tagOfItem tag, tagOfItem_hartFlag]
    exact tagOfItem_putTag _ _
  case studio =>
    rintro s _ y z t item up rfl first second
    have same : z = withStudio up y := Host.Outcome.next.inj (second.symm.trans (exec_hartStale_withStudio up s first))
    rw [same, withStudio_misc]

/-! ## The end of a turn's budget -/

/-- A change of a channel's HART state is what it was changed to. -/
theorem hart_modHart (k : Fin 96) (f : Hart → Hart) (s : State) : ((modHart k f s).chan.get k).hart = f (s.chan.get k).hart := by
  rw [modHart_chan, Bank.get_upd_self]

/-- The end of a request leaves the turn. -/
theorem turn_requestOver (k : Fin 96) (s : State) : ((requestOver k s).chan.get k).hart.turn = (s.chan.get k).hart.turn := by
  unfold requestOver hartWait
  dsimp only
  split
  · rw [hart_modHart, hart_modHart]
  · rw [hart_modHart]

/-- A turn of the cycle list whose budget has run out ends without a good reply (R136); 255 is the ad hoc window. -/
theorem budgetOut_of_turn {k : Fin 96} {n : Nat} {s : State} (cut : Bool) (turn : (s.chan.get k).hart.turn = some n) (listed : n ≠ 255) :
    budgetOut k cut s = endTurn k false s :=
  if_neg (by rw [turn, Option.some_inj]; exact listed)

/-- Settles O33: each row by its condition; the budget's end by whether a request is under way. -/
theorem hartSchedulerEvents : Obligations.HartSchedulerEvents := by
  refine ⟨?treply, ?budgetIdle, ?budgetCut, ?silence, ?stale, ?qtime, ?durable⟩
  case treply =>
    rintro s _ t k e rfl up request due passed silent
    unfold exec execHartTreplyExpiry
    exact when_eq_next (by simp only [up, request, due, silent, passed, decide_true, Bool.not_false, Bool.and_self])
  case budgetIdle =>
    rintro s _ t k n rfl up turn listed idle ended
    unfold exec execHartBudgetExpiry
    refine when_eq_next ?_ ?_
    · simpa only [up, turn, idle, Option.isSome_some, Option.isNone_none, Bool.true_and, Bool.or_eq_true, decide_eq_true_eq,
        Bool.not_eq_true'] using ended
    · rw [idle]
      exact budgetOut_of_turn _ turn listed
  case budgetCut =>
    rintro s _ t k n rfl up turn listed request ended
    have busy : ((s.at_ t).chan.get k).hart.request.isNone = false := by
      rw [Option.isNone_eq_false_iff]
      exact request
    unfold exec execHartBudgetExpiry
    refine when_eq_next ?_ ?_
    · rw [up, turn, decide_eq_true ended]
      rfl
    · rw [busy]
      exact budgetOut_of_turn _ ((turn_requestOver k _).trans turn) listed
  case silence =>
    rintro s _ t k rfl up idle quiet
    unfold exec execHartLoopSilence
    exact when_eq_next (by rw [up, idle]; exact decide_eq_true quiet)
  case stale =>
    rintro s _ t item k x rfl up chan tag old
    exact exec_hartStale_of_old up chan tag old
  case qtime =>
    rintro s _ t w x k rfl up held chan harttx accepted unfinished waiting passed
    unfold exec execHartQtimeExpiry
    dsimp only
    rw [held]
    dsimp only
    rw [chan]
    exact when_eq_next (by simp only [up, harttx, accepted, unfinished, waiting, passed, beq_self_eq_true, Option.isNone_none,
      decide_true, Bool.not_false, Bool.and_self])
  case durable =>
    rintro s _ t w x k rfl up held chan harttx marked unstarted unfinished durable
    unfold exec execHartStartedDurable
    dsimp only
    rw [held]
    dsimp only
    rw [chan]
    exact when_eq_next (by simp only [up, harttx, marked, unstarted, unfinished, durable, beq_self_eq_true, Option.isNone_none,
      Bool.not_false, Bool.and_self])

end Sys2Proof.Machine
end

section
/-! The HART modem of a channel, and the messages that the hub takes from it (R123, R126 to R130, R134, R138, R139, R142, R149, R154). -/

namespace Sys2Proof.Machine

open Sys2Proof

/-! ## The modem -/

/-- Changes that agree on the present HART state of a channel change it alike. -/
theorem modHart_congr {k : Fin 96} {f g : Hart → Hart} {s : State} (agree : f (s.chan.get k).hart = g (s.chan.get k).hart) :
    modHart k f s = modHart k g s := by
  unfold modHart modChan Bank.upd
  dsimp only
  rw [agree]

/-- A modem that is connected takes payloads while its tile's downstream direction is good. -/
theorem modemTakes_of_on {s : State} {k : Fin 96} (on : modemOn s k = true) (heard : (s.link.get (tileOf k)).downSilent = false) :
    modemTakes s k = true := by
  rw [modemTakes, on, heard]
  rfl

/-- A modem of a LIVE tile that drives may transmit as a primary or secondary master, but not in the couch window (R126). -/
theorem modemMay_of_live {x : Tile} {r : Rec} {h : Hart} (live : x.state = .live) (drives : x.standby = false)
    (master : chHartm r = 1 ∨ chHartm r = 2) (free : h.couchHold = false) : modemMay x r h = true := by
  simpa only [modemMay, live, drives, free, beq_self_eq_true, Bool.not_false, Bool.true_and, Bool.and_true, Bool.or_eq_true, beq_iff_eq]
    using master

section Byte

variable {byte : Byte} {perr eom : Bool} {h : Hart}

/-- A message goes on to its end. -/
theorem modemByte_of_message (inside : h.rxOn = true) :
    modemByte byte perr eom h =
      { h with rx := h.rx ++ [byte], rxErr := h.rxErr || perr, carrier := !eom, rxOn := !eom, pre := if eom then 0 else h.pre } := by
  unfold modemByte
  cases eom <;> simp [inside]

/-- After two preamble characters the first other one begins a message. -/
theorem modemByte_of_first (outside : h.rxOn = false) (preamble : 2 ≤ h.pre) (other : byte ≠ 0xFF) :
    modemByte byte perr eom h = { h with rx := [byte], rxErr := perr, carrier := !eom, rxOn := !eom, pre := 0 } := by
  have noPreamble : ¬ (decide (byte = 0xFF) && !perr) = true := by
    rw [decide_eq_false other]
    exact Bool.false_ne_true
  unfold modemByte
  rw [outside, if_neg Bool.false_ne_true, if_neg noPreamble, if_pos preamble]
  cases eom <;> rfl

/-- A preamble character before a message is counted. -/
theorem modemByte_of_preamble (outside : h.rxOn = false) :
    modemByte 0xFF false false h = { h with pre := h.pre + 1, carrier := true } := by
  unfold modemByte
  rw [outside, if_neg Bool.false_ne_true]
  rfl

end Byte

/-! ## Replies -/

section Reply

variable {k : Fin 96} {bytes : List Byte} {perr : Bool} {z : State}

/-- A message while no request is open within its turn's budget is foreign (R137, R139). -/
theorem takeReply_of_closed
    (closed : (z.chan.get k).hart.request.filter (fun _ => decide (z.now ≤ (z.chan.get k).hart.turnEnd)) = none) :
    takeReply k bytes perr z = foreignReply k (if perr then none else hartParse bytes) z := by
  unfold takeReply
  dsimp only
  rw [closed]

/-- So is a message after the end of the turn's budget (R137). -/
theorem takeReply_of_late (late : ¬ z.now ≤ (z.chan.get k).hart.turnEnd) :
    takeReply k bytes perr z = foreignReply k (if perr then none else hartParse bytes) z :=
  takeReply_of_closed (Option.filter_eq_none_iff.mpr fun _ _ => by rwa [decide_eq_true_eq])

/-- A message that cannot be read, while a request is open: a secondary master's request is foreign, any other fails the attempt (R138). -/
theorem takeReply_of_unreadable {q : Nat × Nat} (request : (z.chan.get k).hart.request = some q)
    (inTime : z.now ≤ (z.chan.get k).hart.turnEnd) (unread : (if perr then none else hartParse bytes) = none) :
    takeReply k bytes perr z =
      if !perr && decide (bits (u8 bytes 0) 0 3 = 2) then foreignReply k none z else failAttempt k 1 z := by
  unfold takeReply
  dsimp only
  rw [request, Option.filter_some, if_pos (decide_eq_true inTime), unread]

/-- A secondary master's request is foreign, whether the turn's budget still runs or not (R139). -/
theorem takeReply_of_secondary {q : Nat × Nat} (request : (z.chan.get k).hart.request = some q) (unparsed : hartParse bytes = none)
    (master : bits (u8 bytes 0) 0 3 = 2) : takeReply k bytes false z = foreignReply k none z := by
  by_cases inTime : z.now ≤ (z.chan.get k).hart.turnEnd
  · rw [takeReply_of_unreadable request inTime (by rw [unparsed, ite_self]), decide_eq_true master]
    rfl
  · rw [takeReply_of_late inTime, unparsed]
    rfl

/-- A reply is none to an identification where no identification is due, or where it answers another command. -/
theorem not_identity_of {ident : Bool} {cmd : Nat} (data : ident = false ∨ cmd ≠ 0) : ¬ (ident = true ∧ cmd = 0) := by
  rintro ⟨rfl, rfl⟩
  exact data.elim Bool.noConfusion fun other => other rfl

section Good

variable {addr cmd : Nat} {m : HartMsg} (request : (z.chan.get k).hart.request = some (addr, cmd))
  (inTime : z.now ≤ (z.chan.get k).hart.turnEnd) (parsed : hartParse bytes = some m)
  (answer : answers z k addr cmd (identifies (z.chan.get k).hart addr) m = true) (good : bitOf (u8 m.data 0) 7 = false)
include request inTime parsed answer good

/-- A good reply to an identification that holds an identity identifies the drop (R134, R135). -/
theorem takeReply_of_identity (ident : identifies (z.chan.get k).hart addr = true) (zero : cmd = 0) (whole : 14 ≤ m.data.length) :
    takeReply k bytes false z = identified k addr m z := by
  subst zero
  rw [ident] at answer
  unfold takeReply
  simp [Option.filter_some, request, inTime, parsed, answer, good, ident, whole]

section Data

variable (data : ¬ (identifies (z.chan.get k).hart addr = true ∧ cmd = 0))
include data

/-- A good reply in a turn of the cycle list is mapped to tags and ends the turn (R136, R143). -/
theorem takeReply_of_turn (listed : (z.chan.get k).hart.turn ≠ some 255) :
    takeReply k bytes false z = endTurn k true (requestOver k (takeMessage k addr m z)) := by
  unfold takeReply
  simp [Option.filter_some, request, inTime, parsed, answer, good, data, listed]

/-- A good reply in the ad hoc window goes to the host transaction whose window it is (R149). -/
theorem takeReply_of_host {w : WorkRef} {x : Work} (window : (z.chan.get k).hart.turn = some 255)
    (host : (z.chan.get k).hart.host = some w) (work : workOf z w = some x) :
    takeReply k bytes false z = hostReply k x addr m z := by
  unfold takeReply
  simp [Option.filter_some, request, inTime, parsed, answer, good, data, window, host, work]

end Data

end Good

end Reply

/-! ## Bursts -/

section Burst

variable {k : Fin 96} {bytes : List Byte} {perr : Bool} {z : State}

/-- A burst in the couch window is counted as lost, and recorded (R154, Table 18-3, log entry 151). -/
theorem takeBurst_of_couch (couch : (z.chan.get k).hart.couchHold = true) :
    takeBurst k bytes perr z =
      recordArgs 0x0B01 (srcOf 1 k.val) [4] (modHart k (fun h => { h with burstLost := h.burstLost + 1 }) z) :=
  if_pos couch

/-- A frame that cannot be read makes the scheduler wait (R139). -/
theorem takeBurst_of_unreadable (free : (z.chan.get k).hart.couchHold = false) (unread : (if perr then none else hartParse bytes) = none) :
    takeBurst k bytes perr z = hartWait k 8 z := by
  unfold takeBurst
  dsimp only
  rw [free, if_neg Bool.false_ne_true, unread]
  rfl

/-- A burst of a planned drop is mapped like a reply; where the plan declares a burst drop, a request may follow within 2 τ (R142). -/
theorem takeBurst_of_drop {m : HartMsg} {d : Drop} (free : (z.chan.get k).hart.couchHold = false) (parsed : hartParse bytes = some m)
    (burst : m.burst = true) (drop : hartDropOf (planItems z k.val) (z.chan.get k).hart m = some d) :
    takeBurst k bytes false z =
      if !burstPlan z k.val then takeMessage k d.addr m (hartWait k 8 z)
      else if (z.chan.get k).hart.request.isNone then
        attempt k (modHart k (fun h => { h with burstBy := some (z.now + 2 * hartTau) }) (takeMessage k d.addr m (hartWait k 8 z)))
      else modHart k (fun h => { h with burstBy := some (z.now + 2 * hartTau) }) (takeMessage k d.addr m (hartWait k 8 z)) := by
  unfold takeBurst
  dsimp only
  rw [free, if_neg Bool.false_ne_true, if_neg Bool.false_ne_true, parsed, Option.filter_some, if_pos burst]
  dsimp only
  rw [drop]

end Burst

/-! ## The rows -/

section Rows

variable {s : State} {t : Time} {k : Fin 96} {bytes : List Byte} {perr : Bool} {y : State} (hears : hartHears (s.at_ t) k = true)
include hears

/-- HART_REPLY_RECEIVED at a hub that takes the channel's messages. -/
theorem exec_hartReplyReceived_of_hears (taken : takeReply k bytes perr (messageEnd k (sysHalf (s.at_ t)) (s.at_ t)) = y) :
    exec (.hartReplyReceived t k bytes perr) s = .next y := by
  unfold exec execHartReplyReceived
  exact when_eq_next hears taken

/-- HART_BURST_FRAME at a hub that takes the channel's messages. -/
theorem exec_hartBurstFrame_of_hears (taken : takeBurst k bytes perr (messageEnd k (sysHalf (s.at_ t)) (s.at_ t)) = y) :
    exec (.hartBurstFrame t k bytes perr) s = .next y := by
  unfold exec execHartBurstFrame
  exact when_eq_next hears taken

end Rows

/-- Settles O32: the modem's rows by what its buffer and receiver do; a reply by whether a request is open, whether it can be read and whose turn it
is; a burst by the couch window, its drop and the plan. -/
theorem hartModemEvents : Obligations.HartModemEvents := by
  refine ⟨?start, ?modemEnd, ?abort, ?txdone, ?message, ?first, ?preamble, ?turn, ?host, ?identity, ?unasked, ?unreadable, ?late, ?secondary,
    ?burst, ?burstTurn, ?couch, ?noBurst⟩
  case start =>
    rintro s _ t k bytes rfl on heard
    unfold exec execHartModemStart
    exact when_eq_next (modemTakes_of_on on heard)
  case modemEnd =>
    rintro s _ t k bytes rfl on heard live drives master free
    unfold exec execHartModemEnd
    refine when_eq_next (modemTakes_of_on on heard) (modHart_congr ?_)
    have may : modemMay ((s.at_ t).tile.get (tileOf k)) (tileRec (s.at_ t) k) (modemFill false bytes ((s.at_ t).chan.get k).hart) = true :=
      modemMay_of_live live drives master free
    rw [modemEnd, may, Bool.or_true]
    rfl
  case abort =>
    rintro s _ t k rfl on heard
    unfold exec execHartModemAbort
    exact when_eq_next (modemTakes_of_on on heard)
  case txdone =>
    rintro s _ t k rfl on sending
    unfold exec execHartTxdone
    exact when_eq_next (by rw [on, sending]; rfl)
  case message =>
    rintro s _ t k byte perr eom rfl on drives inside
    unfold exec execHartRxByte
    exact when_eq_next (by rw [on, drives]; rfl) (modHart_congr (modemByte_of_message inside))
  case first =>
    rintro s _ t k byte perr eom rfl on drives outside preamble other
    unfold exec execHartRxByte
    exact when_eq_next (by rw [on, drives]; rfl) (modHart_congr (modemByte_of_first outside preamble other))
  case preamble =>
    rintro s _ t k _ _ _ rfl on drives outside rfl rfl rfl
    unfold exec execHartRxByte
    exact when_eq_next (by rw [on, drives]; rfl) (modHart_congr (modemByte_of_preamble outside))
  case turn =>
    rintro s _ t k bytes _ addr cmd _ m _ rfl hears rfl request inTime rfl parsed rfl answer good data listed
    exact exec_hartReplyReceived_of_hears hears (takeReply_of_turn request inTime parsed answer good (not_identity_of data) listed)
  case host =>
    rintro s _ t k bytes _ addr cmd _ m _ w x rfl hears rfl request inTime rfl parsed rfl answer good data window host work
    exact exec_hartReplyReceived_of_hears hears (takeReply_of_host request inTime parsed answer good (not_identity_of data) window host work)
  case identity =>
    rintro s _ t k bytes _ addr m _ rfl hears rfl request inTime rfl parsed ident answer good whole
    exact exec_hartReplyReceived_of_hears hears (takeReply_of_identity request inTime parsed (ident ▸ answer) good ident rfl whole)
  case unasked =>
    rintro s _ t k bytes perr _ rfl hears rfl none
    refine exec_hartReplyReceived_of_hears hears (takeReply_of_closed ?_)
    rw [none, Option.filter_none]
  case unreadable =>
    rintro s _ t k bytes perr _ rfl hears rfl request inTime bad
    obtain ⟨q, request⟩ := Option.isSome_iff_exists.mp request
    refine exec_hartReplyReceived_of_hears hears ?_
    obtain rfl | ⟨unparsed, noMaster⟩ := bad
    · exact takeReply_of_unreadable request inTime rfl
    · rw [takeReply_of_unreadable request inTime (by rw [unparsed, ite_self]), decide_eq_false noMaster, Bool.and_false]
      rfl
  case late =>
    rintro s _ t k bytes perr _ rfl hears rfl request late
    exact exec_hartReplyReceived_of_hears hears (takeReply_of_late (Nat.not_le_of_lt late))
  case secondary =>
    rintro s _ t k bytes _ _ rfl hears rfl request rfl unparsed master
    obtain ⟨q, request⟩ := Option.isSome_iff_exists.mp request
    exact exec_hartReplyReceived_of_hears hears (takeReply_of_secondary request unparsed master)
  case burst =>
    rintro s _ t k bytes _ m d _ rfl hears rfl free rfl parsed burst drop unplanned
    refine exec_hartBurstFrame_of_hears hears ((takeBurst_of_drop free parsed burst drop).trans (if_pos ?_))
    rw [unplanned]
    rfl
  case burstTurn =>
    rintro s _ t k bytes _ m d _ _ rfl hears rfl free rfl parsed burst drop planned rfl
    refine exec_hartBurstFrame_of_hears hears ((takeBurst_of_drop free parsed burst drop).trans (if_neg ?_))
    rw [planned]
    exact Bool.false_ne_true
  case couch =>
    rintro s _ t k bytes perr _ rfl hears rfl couch
    exact exec_hartBurstFrame_of_hears hears (takeBurst_of_couch couch)
  case noBurst =>
    rintro s _ t k bytes perr _ rfl hears rfl free bad
    refine exec_hartBurstFrame_of_hears hears (takeBurst_of_unreadable free ?_)
    obtain rfl | unparsed := bad
    · rfl
    · rw [unparsed, ite_self]

end Sys2Proof.Machine
end

section
/-! Digital inputs: raw changes, accepted edges, DIVMIN and the line of a NAMUR sensor (R159 to R168). -/

namespace Sys2Proof.Machine

open Sys2Proof

/-! ## Accepted edges -/

/-- EDGE_ACCEPT of either edge on a CNT whose raw state has held for FILT: the edge is counted and stamped, CMPB follows, no event of the edge itself is queued,
and an edge in the FCLK cycle of T_E goes into that epoch's own entry (R159, R160, R167, R177). -/
theorem exec_edgeAccept_of_cnt {s : State} {t : Time} {k : Fin 96} {rising : Bool} (powered : tilePowered (s.at_ t) (tileOf k) = true)
    (cnt : chFunc (tileRec (s.at_ t) k) = .cnt) (raw : ((s.at_ t).chan.get k).dig.raw = rising)
    (filt : ((s.at_ t).chan.get k).dig.filt = !rising) (line : ((s.at_ t).chan.get k).dig.line = none)
    (passed : tileSpan (s.at_ t) (tileOf k) ((s.at_ t).chan.get k).dig.runStart (us (chFilt (tileRec (s.at_ t) k))) = true) :
    exec (.edgeAccept t k) s = .next (edgeAtGrid (acceptTick (s.at_ t) k) k rising (comparatorSet k true rising (modDig k (fun d =>
      let counted := countEdge (tileRec (s.at_ t) k) rising (acceptTick (s.at_ t) k)
        (acceptStamp (tileRec (s.at_ t) k) (acceptTick (s.at_ t) k)) { d with filt := rising, edges := d.edges + 1 }
      let stamp := some (acceptStamp (tileRec (s.at_ t) k) (acceptTick (s.at_ t) k))
      if rising then { counted with lastRise := stamp, riseRep := stamp } else { counted with lastFall := stamp, fallRep := stamp })
      (s.at_ t)))) := by
  unfold exec execEdgeAccept
  dsimp only
  refine when_eq_next ?held ?effect
  case held =>
    have digital : isDigIn (tileRec (s.at_ t) k) = true := by rw [isDigIn, cnt]; rfl
    rw [powered, digital, raw, filt, line, passed]
    cases rising <;> rfl
  case effect =>
    have unqueued : (chFunc (tileRec (s.at_ t) k) != .cnt) = false := by rw [cnt]; rfl
    have counter : ¬ chFunc (tileRec (s.at_ t) k) = .nam := by rw [cnt]; exact Func.noConfusion
    rw [raw, if_neg counter, unqueued, Bool.and_false, if_neg Bool.false_ne_true]

/-! ## The rows -/

/-- Settles O31: each row by its condition; an accepted edge by what either edge of a CNT does. -/
theorem digitalInputEvents : Obligations.DigitalInputEvents := by
  refine ⟨?rawChange, ?edge, ?divminLow, ?divminRecover, ?namurLow, ?lineFault, ?lineClear⟩
  case rawChange =>
    rintro s _ t k level input rfl powered digital takes
    unfold exec execInputRawChange
    exact when_eq_next (by rw [powered, digital, takes]; rfl)
  case edge =>
    rintro s _ t k rfl powered _ cnt raw filt line passed
    exact exec_edgeAccept_of_cnt powered cnt raw filt line passed
  case divminLow =>
    rintro s _ t tile lpt rfl powered
    unfold exec execDivminLow
    exact when_eq_next powered
  case divminRecover =>
    rintro s _ t tile lpt held rfl powered long
    unfold exec execDivminRecover
    exact when_eq_next (by rw [powered, decide_eq_true long]; rfl)
  case namurLow =>
    rintro s _ t tile lpt rfl powered
    unfold exec execNamurLptBelow10v
    exact when_eq_next powered
  case lineFault =>
    rintro s _ t k current held rfl powered drives nam long outside
    unfold exec execNamLineFault
    refine when_eq_next ?_
    simp only [Bool.and_eq_true, Bool.or_eq_true, beq_iff_eq, decide_eq_true_eq, Bool.not_eq_true']
    exact ⟨⟨⟨⟨powered, drives⟩, nam⟩, long⟩, outside⟩
  case lineClear =>
    rintro s _ t k current held rfl powered drives nam fault long above below
    unfold exec execNamLineFaultClear
    refine when_eq_next ?_
    simp only [Bool.and_eq_true, beq_iff_eq, decide_eq_true_eq, Bool.not_eq_true']
    exact ⟨⟨⟨⟨⟨⟨powered, drives⟩, nam⟩, fault⟩, long⟩, above⟩, below⟩

end Sys2Proof.Machine
end

section
/-! Switched outputs: the protected switch, its waveform, clamp, trip and sense output, and the pulse generator (R174, R176, R185 to R195, R198,
R201, R204, R209, R210, R225). -/

namespace Sys2Proof.Machine

open Sys2Proof

/-! ## Thermal shutdown -/

/-- THERMAL_SHUTDOWN of a hot sensor that does not stand yet: counted, and latched where it is the sixteenth within 60 s (R191, R198). -/
theorem exec_thermalShutdown_of_hot {s : State} {t : Time} {j : Fin 96} {temp : Int} {latched : Bool}
    (switch : hasSwitch (s.at_ t) (mainChan (s.at_ t) j) = true)
    (first : sensorStands (mainChan (s.at_ t) j != j) ((s.at_ t).chan.get (mainChan (s.at_ t) j)).sw = false) (hot : 1700 ≤ temp)
    (sixteenth : decide (15 ≤ (lastMinute (s.at_ t).now ((s.at_ t).chan.get (mainChan (s.at_ t) j)).sw.thermTimes).length) = latched) :
    exec (.thermalShutdown t j temp) s = .next (
      let k := mainChan (s.at_ t) j
      let z := modPat k (fun p => { p with thermals := p.thermals + 1 }) (protecting k (withRefresh k (judgedSw k (fun w =>
        { sensorHot (k != j) true temp w with
          thermLatch := w.thermLatch || latched
          thermTimes := (s.at_ t).now :: lastMinute (s.at_ t).now ((s.at_ t).chan.get k).sw.thermTimes }))) (s.at_ t))
      if latched then recordLatch k 1 2 0 z else z) := by
  unfold exec execThermalShutdown
  refine when_eq_next (by rw [switch, first, decide_eq_true hot]; rfl) ?_
  simp only [List.length_cons, Nat.reduceLeDiff, sixteenth]

/-- Settles O28: each row by its condition on the channel that leads the pair; a thermal shutdown by whether it is the sixteenth. -/
theorem protectedSwitchEvents : Obligations.ProtectedSwitchEvents := by
  refine ⟨?short, ?overload, ?retry, ?thermal, ?thermalLatch, ?cooled, ?limit, ?below⟩
  case short =>
    rintro s _ t j _ term lpt held rfl rfl switch on limiting uncut low long
    unfold exec execShortVerdict
    exact when_eq_next (by rw [switch, on, limiting, uncut, decide_eq_true low, decide_eq_true long]; rfl)
  case overload =>
    rintro s _ t j _ term lpt held rfl rfl switch on limiting uncut high long
    unfold exec execOverloadVerdict
    exact when_eq_next (by rw [switch, on, limiting, uncut, decide_eq_true high, decide_eq_true long]; rfl)
  case retry =>
    rintro s _ t k u rfl switch cut unlatched passed
    unfold exec execRetrytExpiry
    exact when_eq_next (by simp only [switch, cut, unlatched, passed, Bool.not_false, Bool.and_self])
  case thermal =>
    rintro s _ t j _ temp rfl rfl switch first hot few
    rw [exec_thermalShutdown_of_hot switch first hot (decide_eq_false (Nat.not_le_of_lt few))]
    simp only [Bool.or_false, Bool.false_eq_true, if_false]
  case thermalLatch =>
    rintro s _ t j _ temp rfl rfl switch first hot many
    rw [exec_thermalShutdown_of_hot switch first hot (decide_eq_true many)]
    simp only [Bool.or_true, if_true]
  case cooled =>
    rintro s _ t j _ temp rfl rfl switch stands cool
    unfold exec execThermalCooled
    exact when_eq_next (by rw [switch, stands, decide_eq_true cool]; rfl)
  case limit =>
    rintro s _ t j _ current rfl rfl switch on reached
    unfold exec execCurrentLimit
    refine when_eq_next ?_
    simp only [Bool.and_eq_true, decide_eq_true_eq]
    exact ⟨⟨switch, on⟩, reached⟩
  case below =>
    rintro s _ t j _ rfl rfl switch limiting
    unfold exec execCurrentBelowCeiling
    exact when_eq_next (by rw [switch, limiting]; rfl)

/-! ## The mirror check -/

/-- MIRROR_CHECK of a powered tile whose mirror and sense output agree within 10 % plus 50 mA: the run of differences ends (R210). -/
theorem exec_mirrorCheck_of_agree {s : State} {t : Time} {tile : Fin 12} {mirror sense : Nat} (powered : tilePowered (s.at_ t) tile = true)
    (above : 10 * (mirror - sense) ≤ sense + 500) (below : 10 * (sense - mirror) ≤ sense + 500) :
    exec (.mirrorCheck t tile mirror sense) s =
      .next { s.at_ t with sns := (s.at_ t).sns.upd tile fun x => { x with mirrorBad := 0 } } := by
  unfold exec execMirrorCheck
  have agree : 10 * (if mirror < sense then sense - mirror else mirror - sense) ≤ sense + 500 := by
    split
    · exact below
    · exact above
  exact when_eq_next powered (if_pos agree)

/-! ## The pulse generator -/

/-- A period starts in the first FCLK cycle of the grid. -/
theorem periodStarts_of_grid {s : State} {k : Fin 96} {r : Rec} (grid : pwmPos s k r < 5) : periodStarts s k r = true := by
  simp only [periodStarts, Bool.or_eq_true, decide_eq_true_eq]
  exact .inl (Nat.lt_add_right _ grid)

/-- A period starts where no more than the drift is left of the one before. -/
theorem periodStarts_of_drift {s : State} {k : Fin 96} {r : Rec} (near : pwmPeriod r ≤ pwmPos s k r + tileDrift s (tileOf k)) :
    periodStarts s k r = true := by
  simp only [periodStarts, Bool.or_eq_true, decide_eq_true_eq]
  exact .inr near

/-- PWM_PERIOD_START of a PWM output whose period starts, at the grid or within the drift (R174): the waiting word is taken. -/
theorem exec_pwmPeriodStart_of_starts {s : State} {t : Time} {k : Fin 96} (powered : tilePowered (s.at_ t) (tileOf k) = true)
    (dout : chFunc (tileRec (s.at_ t) k) = .dout) (pwm : chPgmode (tileRec (s.at_ t) k) = 1)
    (acts : outputsAct ((s.at_ t).tile.get (tileOf k)) = true)
    (starts : periodStarts (s.at_ t) k (tileRec (s.at_ t) k) = true) :
    exec (.pwmPeriodStart t k) s = .next (refresh k (modPg k (fun g => pwmAt (s.at_ t)
      (if pwmPos (s.at_ t) k (tileRec (s.at_ t) k) < 5 then pwmPos (s.at_ t) k (tileRec (s.at_ t) k) else 0) (tileRec (s.at_ t) k)
      (g.next.getD (g.on, g.duty)).1 (g.next.getD (g.on, g.duty)).2 g) (s.at_ t))) := by
  unfold exec execPwmPeriodStart
  exact when_eq_next (by rw [powered, dout, pwm, acts, starts]; rfl)

/-- Settles O29: each row by its condition; a mirror check by either sign of the difference, and a period by what starts it. -/
theorem switchWaveformAndClampEvents : Obligations.SwitchWaveformAndClampEvents := by
  refine ⟨?peakEnd, ?rampEnd, ?clampEnd, ?clampLimit, ?clampBack, ?bins, ?trip, ?sense, ?mirror, ?period, ?periodDrift, ?onTime, ?train⟩
  case peakEnd =>
    rintro s _ t k e rfl switch peak ended
    unfold exec execValveTpeakEnd
    exact when_eq_next (by rw [switch, peak]; exact decide_eq_true ended)
  case rampEnd =>
    rintro s _ t k term lpt rfl switch ramping near
    unfold exec execCapRampEnd
    exact when_eq_next (by rw [switch, ramping, decide_eq_true near]; rfl)
  case clampEnd =>
    rintro s _ t j energy rfl
    rfl
  case clampLimit =>
    rintro s _ t j _ energy rfl rfl enabled high
    unfold exec execClampEnergyLimit
    exact when_eq_next (by rw [enabled, decide_eq_true high]; rfl)
  case clampBack =>
    rintro s _ t j _ term held rfl rfl disabled above long
    unfold exec execClampStageReenable
    exact when_eq_next (by rw [disabled, decide_eq_true above, decide_eq_true long]; rfl)
  case bins =>
    rintro s _ t tile rfl powered
    unfold exec execClampBinRoll
    exact when_eq_next powered
  case trip =>
    rintro s _ t tile currents held _ _ _ rfl powered rfl high long rfl rfl
    unfold exec execTileTrip
    refine when_eq_next ?_
    simp only [Bool.and_eq_true, decide_eq_true_eq]
    exact ⟨⟨powered, high⟩, long⟩
  case sense =>
    rintro s _ t tile code held rfl powered long
    unfold exec execSselCodeTaken
    exact when_eq_next (by rw [powered, decide_eq_true long]; rfl)
  case mirror =>
    rintro s _ t tile mirror sense rfl powered above below
    exact exec_mirrorCheck_of_agree powered above below
  case period =>
    rintro s _ t k rfl powered dout pwm acts grid
    rw [exec_pwmPeriodStart_of_starts powered dout pwm acts (periodStarts_of_grid grid), if_pos grid]
    rfl
  case periodDrift =>
    rintro s _ t k rfl powered dout pwm acts later near
    rw [exec_pwmPeriodStart_of_starts powered dout pwm acts (periodStarts_of_drift near), if_neg (Nat.not_lt_of_le later)]
  case onTime =>
    rintro s _ t k e rfl powered generates pulse passed
    unfold exec execPwmOnTimeEnd
    exact when_eq_next (by simp only [powered, bne_iff_ne.mpr generates, pulse, passed, Bool.and_self])
  case train =>
    rintro s _ t k e rfl powered dout train due passed
    unfold exec execTrainPulse
    exact when_eq_next (by simp only [powered, dout, train, due, passed, beq_self_eq_true, Bool.and_self])

end Sys2Proof.Machine
end

section
/-! The channel status word and its verdict: what VALID and VERDICT read (R213 to R218, Tables 07-1 and 07-2). -/

namespace Sys2Proof.Machine

open Sys2Proof

/-! ## Flags in a word -/

/-- Flags as a number, the first at bit 0. -/
def flagsNat (flags : List Bool) : Nat := flags.foldr (fun b n => 2 * n + b2n b) 0

theorem flagsNat_cons (b : Bool) (flags : List Bool) : flagsNat (b :: flags) = 2 * flagsNat flags + b2n b := rfl

theorem b2n_lt_two (b : Bool) : b2n b < 2 := by
  cases b <;> decide

theorem flagsNat_lt (flags : List Bool) : flagsNat flags < 2 ^ flags.length := by
  induction flags with
  | nil => exact Nat.one_pos
  | cons b flags ih =>
    have := b2n_lt_two b
    rw [flagsNat_cons, List.length_cons, Nat.pow_succ]
    omega

/-! ## The fields of the CSW -/

/-- The CSW is VALID and nineteen flags more in its low bits, and VERDICT from bit 24 (Table 07-1). -/
theorem cswOf_eq_flags (s : State) (k : Fin 96) : ∃ flags : List Bool, flags.length = 19 ∧
    cswOf s k = BitVec.ofNat 32 (flagsNat (validOf s k :: flags) + verdictOf s k * 2 ^ 24) :=
  ⟨_, rfl, by rw [flagsNat, ← List.foldl_reverse]; rfl⟩

/-- The codes of Table 07-2 (R215). -/
def listedVerdicts : List Nat :=
  [0x00, 0x01, 0x10, 0x11, 0x12, 0x13, 0x14, 0x15, 0x20, 0x21, 0x22, 0x23, 0x30, 0x31, 0x32, 0x33, 0x34, 0x38, 0x39, 0x3A, 0x3B,
    0x40, 0x50, 0x51, 0x52, 0x53, 0x60, 0x61]

/-- VERDICT is a verdict that the order of R216 ranks, OK or NOTEST. -/
theorem verdictOf_mem_listedVerdicts (s : State) (k : Fin 96) : verdictOf s k ∈ listedVerdicts := by
  have ranked : ∀ v ∈ verdictOrder, v ∈ listedVerdicts := by decide
  unfold verdictOf
  split
  case h_1 v found => exact ranked v (List.mem_of_find?_eq_some found)
  case h_2 =>
    split
    · decide
    · decide

theorem verdictOf_lt (s : State) (k : Fin 96) : verdictOf s k < 2 ^ 8 :=
  (by decide : ∀ v ∈ listedVerdicts, v < 2 ^ 8) _ (verdictOf_mem_listedVerdicts s k)

/-- Bit 0 of the CSW is VALID. -/
theorem cswOf_getLsbD_zero (s : State) (k : Fin 96) : (cswOf s k).getLsbD 0 = validOf s k := by
  obtain ⟨flags, -, csw⟩ := cswOf_eq_flags s k
  have odd : (flagsNat (validOf s k :: flags) + verdictOf s k * 2 ^ 24) % 2 = b2n (validOf s k) := by
    have := b2n_lt_two (validOf s k)
    rw [flagsNat_cons]
    omega
  rw [csw, BitVec.getLsbD_ofNat, Nat.testBit_zero, odd]
  cases validOf s k <;> rfl

/-- Bits 31 to 24 of the CSW are VERDICT. -/
theorem cswOf_verdict (s : State) (k : Fin 96) : (cswOf s k).toNat / 2 ^ 24 = verdictOf s k := by
  obtain ⟨flags, count, csw⟩ := cswOf_eq_flags s k
  have low := flagsNat_lt (validOf s k :: flags)
  rw [List.length_cons, count] at low
  have high := verdictOf_lt s k
  rw [csw, BitVec.toNat_ofNat]
  omega

/-- Settles O14: VERDICT of the CSW is the verdict chosen by R216. -/
theorem verdictCodesAreListed : Obligations.VerdictCodesAreListed := by
  intro s k
  rw [cswOf_verdict]
  exact verdictOf_mem_listedVerdicts s k

/-! ## VALID of an input -/

theorem anyStands_of_mem {standing vs : List Nat} {v : Nat} (listed : v ∈ vs) (stands : v ∈ standing) : anyStands standing vs = true :=
  List.any_eq_true.mpr ⟨v, listed, List.contains_iff_mem.mpr stands⟩

/-- A wire verdict that stands on an input of any function blocks VALID (R218). -/
theorem validBase_of_wireVerdict {s : State} {k : Fin 96} (input : chFunc (tileRec s k) ∈ [Func.aiv, .aii, .rtd, .tc, .di, .cnt, .nam])
    (blocked : anyStands (standing s k) [0x10, 0x15, 0x14, 0x21, 0x20, 0x23] = true) : validBase s k = false := by
  unfold validBase
  cases func : chFunc (tileRec s k) with
  | aiv | aii | rtd | tc | di | cnt | nam => simp only [func, blocked, Bool.not_true, Bool.and_false, Bool.false_and]
  | off | aoi | aov | dout =>
    rw [func] at input
    exact absurd input (by decide)

/-- Settles O13: bit 0 of the CSW is VALID, which the verdict blocks whatever the cold junction says (R107). -/
theorem inputVerdictsClearValid : Obligations.InputVerdictsClearValid := by
  intro s k v input wire stands
  rw [cswOf_getLsbD_zero, validOf, validBase_of_wireVerdict input (anyStands_of_mem wire stands), Bool.false_and]

end Sys2Proof.Machine
end

section
/-! Channel diagnostics: continuous verdicts, diagnostic slots, insulation watch and edge calibration (R220, R222, R223, R226, R228, R231 to R234,
R236 to R241, R607, R609). -/

namespace Sys2Proof.Machine

open Sys2Proof

/-! ## Insulation measurements -/

/-- ISO_MEASUREMENT_END in the window of an insulation slot: disturbed, without a path to earth, or good (R231, R232). -/
theorem exec_isoMeasurementEnd_of_runs {s : State} {t : Time} {slot : Nat} {meas : IsoMeas} {x : Fin 12}
    (tile : asFin 12 (dgTile (diagRec (s.at_ t) slot)) = some x) (runs : (runOf (s.at_ t) slot).isSome = true)
    (insulation : dgKind (diagRec (s.at_ t) slot) = 2) :
    exec (.isoMeasurementEnd t slot meas) s = .next (
      let a := s.at_ t
      if 200 < meas.variation then
        let n := (a.iso.get x).disturbedRun + 1
        let z := recordDiag (srcOf 2 x.val) 2 0 (modIso x (fun i => { i with disturbedRun := min n 3, disturbed := i.disturbed + 1 })
          (modRun slot (fun d => { d with skipped := true }) a))
        if n = 3 then raise (0x060 + x.val) z else z
      else if meas.charge < 2000 then
        forEach (isoJudged a x.val) (fun k z => setVerdict k 0x52 z) (modIso x (fun i => { i with disturbedRun := 0 })
          (modRun slot (fun d => { d with gave := (isoJudged a x.val).map (·.val) }) a))
      else isoResults x meas (modRun slot (fun d => { d with gave := isoGave a x meas }) a)) := by
  unfold exec execIsoMeasurementEnd
  simp only [tile]
  exact when_of_holds _ _ (by rw [runs, insulation]; rfl)

/-! ## The rows -/

/-- Settles O34: each row by its condition; the end of an insulation measurement by what it comes to in the window of its slot. -/
theorem diagnosticEvents : Obligations.DiagnosticEvents := by
  refine ⟨?qualified, ?openLoad, ?verdictRecord, ?slotStart, ?offStart, ?slotEnd, ?offEnd, ?abort, ?parallel, ?isoGood, ?isoNoEarth,
    ?isoDisturbed, ?hourly, ?edge, ?neverOff⟩
  case qualified =>
    rintro s _ t k pin code set held q rfl powered judges qual long reverse
    unfold exec execVerdictQualified
    refine when_eq_next ?_
    simp only [qual, Bool.and_eq_true, Bool.or_eq_true, bne_iff_ne, beq_iff_eq, decide_eq_true_eq, Bool.not_eq_true', ne_eq]
    exact ⟨⟨powered, judges⟩, long, or_assoc.mpr reverse⟩
  case openLoad =>
    rintro s _ t k counted maxCurrent rfl switch dout opendet active unshorted unlimited long low
    unfold exec execOpenLoadOn
    exact when_eq_next (by
      rw [switch, dout, opendet, active, unshorted, unlimited, decide_eq_true long, decide_eq_true low]
      rfl)
  case verdictRecord =>
    rintro s _ t k rfl up link differs stood
    unfold exec execVerdictRecord
    exact when_eq_next (by rw [up, link, bne_iff_ne.mpr differs, decide_eq_true stood]; rfl)
  case slotStart =>
    rintro s _ t slot rfl up configured may idle due kind
    unfold exec execDiagSlotStart
    exact when_eq_next (by rw [up, configured, may, idle, due]; rfl) (if_neg kind)
  case offStart =>
    rintro s _ t slot k rfl up configured may idle due kind chan
    unfold exec execDiagSlotStart
    refine when_eq_next (by rw [up, configured, may, idle, due]; rfl) ?_
    simp only [kind, chan, if_true]
  case slotEnd =>
    rintro s _ t slot v1 v2 run rfl runs ended kind
    unfold exec execDiagSlotEnd
    simp only [runs]
    refine when_eq_next (decide_eq_true ended) ?_
    simp only [kind, decide_false, Bool.false_and, Bool.false_eq_true, if_false]
  case offEnd =>
    rintro s _ t slot v1 v2 run k rfl runs ended kind eligible unskipped chan
    unfold exec execDiagSlotEnd
    simp only [runs]
    refine when_eq_next (decide_eq_true ended) ?_
    simp only [kind, eligible, unskipped, chan, decide_true, Bool.not_true, Bool.not_false, Bool.and_self, Bool.or_self, Bool.false_eq_true,
      if_true, if_false]
  case abort =>
    rintro s _ t slot run rfl runs stopped notOff notIso
    unfold exec execDiagWindowAbort
    simp only [runs]
    refine when_eq_next (by rw [stopped]; rfl) ?_
    rw [if_neg notIso]
    split
    case h_1 off _ => exact absurd off notOff
    case h_2 => rfl
  case parallel =>
    rintro s _ t slot x followers rfl runs kind covers
    unfold exec execPartestTransition
    exact when_eq_next (by rw [runs, kind, covers]; rfl)
  case isoGood =>
    rintro s _ t slot meas x rfl tile runs kind steady charged
    rw [exec_isoMeasurementEnd_of_runs tile runs kind]
    simp only [if_neg (Nat.not_lt_of_le steady), if_neg (Nat.not_lt_of_le charged)]
  case isoNoEarth =>
    rintro s _ t slot meas x rfl tile runs kind steady uncharged
    rw [exec_isoMeasurementEnd_of_runs tile runs kind]
    simp only [if_neg (Nat.not_lt_of_le steady), if_pos uncharged]
  case isoDisturbed =>
    rintro s _ t slot meas x rfl tile runs kind disturbed notThird
    rw [exec_isoMeasurementEnd_of_runs tile runs kind]
    simp only [if_pos disturbed, if_neg notThird]
  case hourly =>
    rintro s _ t rfl
    rfl
  case edge =>
    rintro s _ t k on ticks level1 run rfl runs edgecal notTesting rfl low high rfl
    unfold exec execEdgecalMeasurement
    simp only [runs]
    refine when_eq_next edgecal ?_
    simp only [notTesting, decide_eq_false (Nat.not_lt_of_le low), decide_eq_false (Nat.not_lt_of_le high), Bool.or_self,
      Bool.false_eq_true, if_false, if_true]
  case neverOff =>
    rintro s _ t k rfl up dout offtest notOff on
    unfold exec execNeverOffHourlyRecord
    refine when_eq_next (by rw [up, dout, offtest]; rfl) ?_
    simp only [notOff, on, Bool.not_true, Bool.false_and, Bool.or_false, Bool.false_eq_true, if_false]

end Sys2Proof.Machine
end

section
/-! The network rows: what CANDIDATE_FORGOTTEN reaches where the device becomes time master by it (R345, R348). -/

namespace Sys2Proof.Machine

open Sys2Proof

/-- An unlocked device that is time master as it chooses its upstream locks, and the level of SYSTIME unlocked ends (R345, R348). -/
theorem chooseUpstream_flt_of_master {s : State} (master : isMaster s = true) (unlocked : s.net.locked = false) :
    (chooseUpstream s).flt = (calm 0x01B s).flt := by
  have locks {x : State} (h : isMaster x && !x.net.locked) :
      (if isMaster x && !x.net.locked then timeLock x else x).flt = (calm 0x01B x).flt := by
    rw [if_pos h]
    rfl
  exact locks (by rw [unlocked]; exact congrArg (· && true) master)

/-- SYSTIME unlocked, not under injection, is no longer asserted once its level has ended. -/
theorem calm_asserted_of_not_injected {s : State} (quiet : (s.flt.src.get 0x01B).inj = 0) :
    ((calm 0x01B s).flt.src.get 0x01B).asserted = false := by
  have ended : (calm 0x01B s).flt.src.get 0x01B =
      { s.flt.src.get 0x01B with asserted := (s.flt.src.get 0x01B).asserted && (s.flt.src.get 0x01B).inj != 0 } :=
    Bank.get_upd_self _ _ _
  rw [ended, quiet, bne_self_eq_false, Bool.and_false]

/-- Source 0x01B, SYSTIME unlocked, at its class of Table 15-1 and asserted. -/
def assertedSource : FltSt := { cls := 1, wcls := 1, min := 1, asserted := true }

/-- Device 5, JOINED with its own PRIO and unlocked, holds one candidate, on port 0; source 0x01B is asserted. -/
def unlockedMember : State := { State.reset with
  pwr := { State.reset.pwr with phase := .run }
  flt := { State.reset.flt with src := State.reset.flt.src.set 0x01B assertedSource }
  net := { State.reset.net with
    num := 5, numValid := true, state := 3, prioHeld := false
    port := State.reset.net.port.set 0 {
      state := 1
      cand := some { prio := 1, num := 6, dist := 0, locked := true, mseq := 0, adv := some 0, seen := 0 } } } }

/-- Device 5 a millisecond after its candidate's last frame, without the candidate. -/
def withoutCandidate : State := modPort 0 (fun x => { x with cand := none }) (unlockedMember.at_ (ms 1))

theorem exec_candidateForgotten_unlockedMember :
    exec (.candidateForgotten (ms 1) 0) unlockedMember = .next (chooseUpstream withoutCandidate) :=
  rfl

/-- Its source 0x01B is asserted before the row and not after it. -/
theorem candidateForgotten_calms :
    (unlockedMember.flt.src.get 0x01B).asserted = true ∧ ((chooseUpstream withoutCandidate).flt.src.get 0x01B).asserted = false := by
  have before : unlockedMember.flt.src.get 0x01B = assertedSource := Bank.get_set_self _ _ _
  refine ⟨congrArg FltSt.asserted before, ?_⟩
  rw [chooseUpstream_flt_of_master (by decide) rfl]
  exact calm_asserted_of_not_injected (congrArg FltSt.inj before)

/-- Refutes O21: CANDIDATE_FORGOTTEN changes the fault collector where the device becomes time master by it. It then locks (R345), and the level of
source 0x01B, SYSTIME unlocked, ends (R348). -/
theorem not_hostEngineAndNetworkRowsFrames : ¬ Obligations.HostEngineAndNetworkRowsFrames := by
  rintro ⟨-, -, -, -, -, -, -, -, -, -, -, -, -, candidate, -⟩
  have frame := candidate (ms 1) 0 unlockedMember _ exec_candidateForgotten_unlockedMember
  obtain ⟨before, after⟩ := candidateForgotten_calms
  rw [frame] at after
  exact Bool.false_ne_true (after.symm.trans before)

end Sys2Proof.Machine
end

section
/-! Axis inputs and the engines' instants: what each row does to the cast and, while a rehearsal runs, beside it (R252, R254 to R261, R276, R281,
R285, R294, R440). -/

namespace Sys2Proof.Machine

open Sys2Proof

/-! ## An engine operation and what follows it -/

/-- The hub reflex that follows a change of the engines depends on the state that the change comes to alone (R281). -/
theorem withHref_congr {f g : State → State} {s : State} (same : f s = g s) : withHref f s = withHref g s :=
  congrArg (fun z => evalLits 10 (changedLits s z) z) same

/-- Apart from the rehearsal's copy the cast comes to what it comes to without one. -/
theorem beside_cast (f : State → State) (s : State) : { beside f s with reh := (f s).reh } = f s := by
  unfold beside
  split <;> rfl

/-- Two levels are not both new where one of them stands. -/
theorem not_both_changed {a b u v : Bool} (c : Bool) (single : a = u ∨ b = v) : (a != u && b != v && c) = false := by
  obtain rfl | rfl := single
  · rw [bne_self_eq_false, Bool.false_and, Bool.false_and]
  · rw [bne_self_eq_false, Bool.and_false, Bool.false_and]

/-! ## The inputs of an axis -/

section Inputs

variable {s : State} {t : Time} (up : hubUp (s.at_ t) = true)
include up

theorem exec_encoderEdge_of_up (x : Fin 4) (la lb : EncLine) :
    exec (.encoderEdge t x la lb) s = .next (beside (encoderEdge x la lb) (s.at_ t)) :=
  when_of_holds _ _ up

theorem exec_zEdge_of_held {l : ZLine} {r : Rec} (axis : axisOf (s.at_ t) l.enc.val = some r) (held : axEfilt r < l.samples) :
    exec (.zEdge t l) s = .next (beside (zEdge l.enc) (s.at_ t)) := by
  unfold exec execZEdge
  refine when_of_holds _ _ ?_
  simp only [up, axis, held, decide_true, Bool.and_self]

theorem exec_encoderLineFault_of_held {held : Time} (x : Fin 4) (line : Fin 3) (long : us 1 ≤ held) :
    exec (.encoderLineFault t x line held) s = .next (beside (encoderFault x line) (s.at_ t)) :=
  when_of_holds _ _ (by rw [up, decide_eq_true long]; rfl)

theorem exec_lostClear_of_held {held : Time} (x : Fin 4) (u v : Bool) (long : ms 100 ≤ held) :
    exec (.lostClear t x u v held) s = .next (beside (lostClear x u v) (s.at_ t)) :=
  when_of_holds _ _ (by rw [up, decide_eq_true long]; rfl)

theorem exec_axsFrameReceived_of_length {bytes : List Byte} (src : Nat) (whole : bytes.length = 40) :
    exec (.axsFrameReceived t src bytes) s = .next (beside (axsTake src bytes) (s.at_ t)) :=
  when_of_holds _ _ (by rw [up, whole]; rfl)

theorem exec_axsSilence_of_up (x : Fin 8) : exec (.axsSilence t x) s = .next (beside (axsSilence x) (s.at_ t)) :=
  when_of_holds _ _ up

end Inputs

/-- Settles O35: each row acts beside by its condition, and without a rehearsal on the cast alone, by the branch that its operation takes. -/
theorem axisInputEvents : Obligations.AxisInputEvents := by
  refine ⟨?edge, ?quadrature, ?latch, ?abFault, ?zFault, ?clear, ?unfollowed, ?followed, ?silence, ?edgeBeside, ?zBeside, ?faultBeside,
    ?clearBeside, ?frameBeside, ?silenceBeside, ?cast⟩
  case edge =>
    rintro s _ t x la lb r _ _ _ d rfl idle axis up rfl rfl rfl single found counts
    rw [exec_encoderEdge_of_up up, beside_of_no_rehearsal _ idle]
    unfold encoderEdge
    simp only [axis]
    refine congrArg _ (withHref_congr ?_)
    simp only [modAxis_eng, Bank.get_upd_self, not_both_changed _ single, found, counts, Bool.false_eq_true, if_false]
  case quadrature =>
    rintro s _ t x la lb r _ _ _ rfl idle axis up rfl rfl rfl aMoved bMoved decode sound
    rw [exec_encoderEdge_of_up up, beside_of_no_rehearsal _ idle]
    unfold encoderEdge
    simp only [axis]
    refine congrArg _ (withHref_congr ?_)
    simp only [modAxis_eng, Bank.get_upd_self, bne_iff_ne.mpr aMoved, bne_iff_ne.mpr bMoved, decode, sound]
    rfl
  case latch =>
    rintro s _ t l r rfl idle axis up held asks
    rw [exec_zEdge_of_held up axis held, beside_of_no_rehearsal _ idle]
    unfold zEdge
    simp only [axis, asks, if_true]
  case abFault =>
    rintro s _ t x line held rfl idle up configured long notZ
    rw [exec_encoderLineFault_of_held up x line long, beside_of_no_rehearsal _ idle]
    unfold encoderFault
    simp only [Option.isNone_eq_false_iff.mpr configured, Bool.false_eq_true, if_false]
    refine congrArg _ (withHref_congr ?_)
    exact if_neg notZ
  case zFault =>
    rintro s _ t x line held rfl idle up configured long isZ unset
    rw [exec_encoderLineFault_of_held up x line long, beside_of_no_rehearsal _ idle]
    unfold encoderFault
    simp only [Option.isNone_eq_false_iff.mpr configured, Bool.false_eq_true, if_false]
    refine congrArg _ (withHref_congr ?_)
    exact (if_pos isZ).trans (if_neg (Bool.not_eq_true _ ▸ unset))
  case clear =>
    rintro s _ t x u v held rfl idle up configured lost long past
    rw [exec_lostClear_of_held up x u v long, beside_of_no_rehearsal _ idle]
    unfold lostClear
    simp only [configured, lost, past, Bool.and_self, if_true]
    exact congrArg _ (withHref_congr rfl)
  case unfollowed =>
    rintro s _ t src bytes rfl idle up whole nobody
    rw [exec_axsFrameReceived_of_length up src whole, beside_of_no_rehearsal _ idle]
    unfold axsTake
    refine congrArg _ (withHref_congr ?_)
    simp only [nobody]
    rfl
  case followed =>
    rintro s _ t src bytes x r rfl idle up whole follower notLost notStopping uncounted
    rw [exec_axsFrameReceived_of_length up src whole, beside_of_no_rehearsal _ idle]
    unfold axsTake
    refine congrArg _ (withHref_congr ?_)
    simp only [follower, forEach, List.foldl_cons, List.foldl_nil, notLost, notStopping, uncounted, Bool.and_false,
      Bool.false_and, Bool.false_eq_true, if_false]
  case silence =>
    rintro s _ t x rfl idle up follower configured due
    rw [exec_axsSilence_of_up up, beside_of_no_rehearsal _ idle]
    refine congrArg _ (if_pos ?_)
    rw [decide_eq_true follower, configured]
    cases last : ((s.at_ t).eng.axis.get x).lastAxs with
    | none => rfl
    | some b =>
      rw [last] at due
      exact due
  case edgeBeside =>
    rintro s _ t x la lb rfl up
    exact exec_encoderEdge_of_up up x la lb
  case zBeside =>
    rintro s _ t l r rfl up axis held
    exact exec_zEdge_of_held up axis held
  case faultBeside =>
    rintro s _ t x line held rfl up long
    exact exec_encoderLineFault_of_held up x line long
  case clearBeside =>
    rintro s _ t x u v held rfl up long
    exact exec_lostClear_of_held up x u v long
  case frameBeside =>
    rintro s _ t src bytes rfl up whole
    exact exec_axsFrameReceived_of_length up src whole
  case silenceBeside =>
    rintro s _ t x rfl up
    exact exec_axsSilence_of_up up x
  case cast =>
    exact fun f s => ⟨beside_cast f s, beside_of_no_rehearsal f⟩

/-! ## The instants of the engines -/

section Instants

variable {s : State} {t : Time} (up : hubUp (s.at_ t) = true)
include up

theorem exec_axisTick_of_due (due : sysNs (s.at_ t) % 10000 = 0) : exec (.axisTick t) s = .next (beside axisTick (s.at_ t)) :=
  when_of_holds _ _ (by rw [up, due]; rfl)

theorem exec_timeLaneIssue_of_up (lane : Fin 96) : exec (.timeLaneIssue t lane) s = .next (beside (timeIssue lane) (s.at_ t)) :=
  when_of_holds _ _ up

theorem exec_trdmaxExpiry_of_up (x : Fin 8) : exec (.trdmaxExpiry t x) s = .next (beside (trdmaxEnd x) (s.at_ t)) :=
  when_of_holds _ _ up

theorem exec_hubReflexQualExpiry_of_up (entry : Nat) : exec (.hubReflexQualExpiry t entry) s = .next (beside (qualFire entry) (s.at_ t)) :=
  when_of_holds _ _ up

theorem exec_loopSample_of_up (block : Fin 48) : exec (.loopSample t block) s = .next (beside (sampleDue block) (s.at_ t)) :=
  when_of_holds _ _ up

theorem exec_totaliserIncrement_of_counting (n : Fin 96) (counting : (s.at_ t).ep.counting = true) :
    exec (.totaliserIncrement t n) s = .next (beside (totIncrement n) (s.at_ t)) :=
  when_of_holds _ _ (by rw [up, counting]; rfl)

end Instants

/-- Settles O36: as for the inputs, with each engine's operation at the instant that it waits for. -/
theorem axisEngineEvents : Obligations.AxisEngineEvents := by
  refine ⟨?tick, ?issue, ?trdmax, ?reflex, ?loop, ?totaliser, ?tickBeside, ?issueBeside, ?trdmaxBeside, ?reflexBeside, ?loopBeside,
    ?totaliserBeside⟩
  case tick =>
    rintro s _ t rfl idle up due
    rw [exec_axisTick_of_due up due, beside_of_no_rehearsal _ idle]
    rfl
  case issue =>
    rintro s _ t lane r k tick v before rfl idle up found target entry timed runs near live oneshot
    rw [exec_timeLaneIssue_of_up up, beside_of_no_rehearsal _ idle]
    unfold timeIssue
    simp only [found, target, entry, timed, runs, near, live, oneshot, decide_true, beq_self_eq_true, Bool.not_false, Bool.and_self, if_true]
  case trdmax =>
    rintro s _ t x r rfl idle up axis runsDown long
    rw [exec_trdmaxExpiry_of_up up, beside_of_no_rehearsal _ idle]
    unfold trdmaxEnd
    simp only [axis, runsDown, long, decide_true, Bool.and_self, if_true]
  case reflex =>
    rintro s _ t entry r b rfl idle up found unfired free since long holds
    rw [exec_hubReflexQualExpiry_of_up up, beside_of_no_rehearsal _ idle]
    unfold qualFire
    simp only [found, unfired, free, since, long, holds, decide_true, Bool.not_false, Bool.and_self, if_true]
  case loop =>
    rintro s _ t block r rfl idle up found started period due
    rw [exec_loopSample_of_up up, beside_of_no_rehearsal _ idle]
    unfold sampleDue
    simp only [found, started, period, due, decide_true, beq_self_eq_true, Bool.and_self, if_true]
  case totaliser =>
    rintro s _ t n r k c rfl idle up found counting fresh counts source before unset
    rw [exec_totaliserIncrement_of_counting up n counting, beside_of_no_rehearsal _ idle]
    unfold totIncrement
    simp only [found, beq_eq_false_iff_ne.mpr fresh, Bool.false_eq_true, if_false]
    refine congrArg _ (withHref_congr ?_)
    simp only [counts, source, before, unset]
    rfl
  case tickBeside =>
    rintro s _ t rfl up due
    exact exec_axisTick_of_due up due
  case issueBeside =>
    rintro s _ t lane rfl up
    exact exec_timeLaneIssue_of_up up lane
  case trdmaxBeside =>
    rintro s _ t x rfl up
    exact exec_trdmaxExpiry_of_up up x
  case reflexBeside =>
    rintro s _ t entry rfl up
    exact exec_hubReflexQualExpiry_of_up up entry
  case loopBeside =>
    rintro s _ t block rfl up
    exact exec_loopSample_of_up up block
  case totaliserBeside =>
    rintro s _ t n rfl up counting
    exact exec_totaliserIncrement_of_counting up n counting

end Sys2Proof.Machine
end

section
/-! The setup commands: the time master's block (R297, R350), the number and the coupler (R330, R563), the store's read window (R570), the
security block (R573) and the other register writes (R558). -/

namespace Sys2Proof.Machine

open Sys2Proof

/-! ## A SEC command begins and ends -/

section Begins

variable {s : State} {op : Nat} {slot : Fin 4} {requester : Nat} {confirm : BitVec 16}

theorem secStart_of_confirmed (listed : 1 ≤ op ∧ op ≤ 4) (confirmed : confirm = 0x4B59) (idle : s.sec.cmd = none) :
    secStart op slot confirm.toNat requester s = { s with sec := { s.sec with cmd := some (op, slot) } } := by
  obtain ⟨least, most⟩ := listed
  have word : (confirm.toNat != 0x4B59) = false := by rw [confirmed]; rfl
  have accepted : (s.sec.cmd.isSome || decide (op = 0) || decide (4 < op)) = false := by
    rw [idle, decide_eq_false (by omega : ¬ op = 0), decide_eq_false (by omega : ¬ 4 < op)]
    rfl
  unfold secStart
  simp only [word, accepted, Bool.false_eq_true, if_false]

theorem secStart_of_unconfirmed (unconfirmed : confirm ≠ 0x4B59) :
    secStart op slot confirm.toNat requester s = recordRefused 0x5C04 requester s :=
  if_pos (bne_iff_ne.mpr fun same => unconfirmed (BitVec.eq_of_toNat_eq same))

/-- The hub takes a confirmed command where none runs. -/
theorem when_secStart_of_confirmed (alive : hubAlive s = true) (listed : 1 ≤ op ∧ op ≤ 4) (confirmed : confirm = 0x4B59)
    (idle : s.sec.cmd = none) :
    when (hubAlive s) (secStart op slot confirm.toNat requester) s = .next { s with sec := { s.sec with cmd := some (op, slot) } } := by
  rw [when_of_holds _ _ alive, secStart_of_confirmed listed confirmed idle]

/-- The hub records a command without its confirmation as refused. -/
theorem when_secStart_of_unconfirmed (alive : hubAlive s = true) (unconfirmed : confirm ≠ 0x4B59) :
    when (hubAlive s) (secStart op slot confirm.toNat requester) s = .next (recordRefused 0x5C04 requester s) := by
  rw [when_of_holds _ _ alive, secStart_of_unconfirmed unconfirmed]

end Begins

/-- What the end of every SEC command leaves: no command, its error, SEC_KEYDATA and SEC_TOKEN zero (R573). -/
def secEnd (err : Bool) (s : State) : State :=
  { s with sec := { s.sec with cmd := none, err := err, keyData := List.replicate 32 0, token := List.replicate 96 0 } }

theorem exec_secCmdDone_of_running {s z : State} {t : Time} {op : Nat} {slot : Fin 4} {err : Bool} (alive : hubAlive (s.at_ t) = true)
    (running : (s.at_ t).sec.cmd = some (op, slot)) (effect : secEffect op slot (s.at_ t) = (z, err)) :
    exec (.secCmdDone t) s = .next (secEnd err z) := by
  unfold exec execSecCmdDone
  simp only [running, when_of_holds _ _ alive, effect]
  rfl

theorem exec_secCmdDone_of_idle {s : State} {t : Time} (idle : (s.at_ t).sec.cmd = none) : exec (.secCmdDone t) s = .next (s.at_ t) := by
  unfold exec execSecCmdDone
  simp only [idle]
  rfl

/-! ## Who may be a coupler -/

/-- The trim store is to be written (R563). -/
def requestTrim (s : State) : State :=
  { s with nvs := { s.nvs with store := { s.nvs.store with jobs := s.nvs.store.jobs ++ [.trim] } } }

theorem couplerWrite_of_allowed {on : Bool} {s : State} (requester : Nat) (allowed : (on && paired s) = false) :
    couplerWrite requester on s =
      requestTrim (trainPort on 3 (trainPort on 2 { s with net := { s.net with coupler := on } })) :=
  if_neg (Bool.not_eq_true _ ▸ allowed)

theorem couplerWrite_of_paired {s : State} (requester : Nat) (member : paired s = true) :
    couplerWrite requester true s = recordRefused 0x0C04 requester s :=
  if_pos member

/-! ## The sizes and places of a register write -/

section Access

variable (requester : Nat) {off size : Nat} (value : BitVec 64) (s : State)

theorem barWrite_of_word (aligned : off % 4 = 0) (inside : off < 0x10000) :
    barWrite requester off 4 value s = regWrite requester off (bits value.toNat 0 32) s := by
  unfold barWrite
  exact if_pos (by rw [aligned, decide_eq_true inside]; rfl)

theorem barWrite_of_pair (aligned : off % 8 = 0) (inside : off < 0x10000) :
    barWrite requester off 8 value s =
      regWrite requester (off + 4) (bits value.toNat 32 32) (regWrite requester off (bits value.toNat 0 32) s) := by
  unfold barWrite
  refine (if_neg Bool.false_ne_true).trans (if_pos ?_)
  rw [aligned, decide_eq_true inside]
  rfl

/-- An access that is neither an aligned word nor an aligned pair of words. -/
theorem barWrite_of_bad (noWord : ¬ (size = 4 ∧ off % 4 = 0)) (noPair : ¬ (size = 8 ∧ off % 8 = 0)) :
    barWrite requester off size value s = badAcc s := by
  unfold barWrite
  rw [if_neg, if_neg]
  · simp only [Bool.and_eq_true, decide_eq_true_eq]
    exact fun pair => noPair pair.1
  · simp only [Bool.and_eq_true, decide_eq_true_eq]
    exact fun word => noWord word.1

end Access

/-- Settles O59: at a hub that is alive each row does its operation, and the operation takes the branch that the premises name. -/
theorem setupRegisterCommands : Obligations.SetupRegisterCommands := by
  refine ⟨?submit, ?step, ?number, ?coupler, ?member, ?select, ?loaded, ?program, ?programRefused, ?revoke, ?revokeRefused, ?token,
    ?tokenRefused, ?clear, ?clearRefused, ?revokeDone, ?clearDone, ?done, ?noneDone, ?word, ?pair, ?otherSize, ?misaligned⟩
  case submit =>
    rintro s _ t rfl alive
    exact when_of_holds _ _ alive
  case step =>
    rintro s _ t rfl alive
    exact when_of_holds _ _ alive
  case number =>
    rintro s _ t value rfl alive
    exact when_of_holds _ _ alive
  case coupler =>
    rintro s _ t coupler _ rfl alive allowed rfl
    exact (when_of_holds _ _ alive).trans (congrArg _ (couplerWrite_of_allowed 1024 allowed))
  case member =>
    rintro s _ t _ rfl alive rfl member
    exact (when_of_holds _ _ alive).trans (congrArg _ (couplerWrite_of_paired 1024 member))
  case select =>
    rintro s _ t value rfl alive
    exact when_of_holds _ _ alive
  case loaded =>
    rintro s _ t rfl alive busy
    unfold exec execNvsRdwinLoaded
    refine when_of_holds _ _ ?_
    simp only [alive, busy, Bool.and_self]
  case program =>
    rintro s _ t slot confirm rfl alive confirmed idle
    exact when_secStart_of_confirmed alive (by decide) confirmed idle
  case programRefused =>
    rintro s _ t slot confirm rfl alive unconfirmed
    exact when_secStart_of_unconfirmed alive unconfirmed
  case revoke =>
    rintro s _ t slot confirm rfl alive confirmed idle
    exact when_secStart_of_confirmed alive (by decide) confirmed idle
  case revokeRefused =>
    rintro s _ t slot confirm rfl alive unconfirmed
    exact when_secStart_of_unconfirmed alive unconfirmed
  case token =>
    rintro s _ t confirm rfl alive confirmed idle
    exact when_secStart_of_confirmed alive (by decide) confirmed idle
  case tokenRefused =>
    rintro s _ t confirm rfl alive unconfirmed
    exact when_secStart_of_unconfirmed alive unconfirmed
  case clear =>
    rintro s _ t confirm rfl alive confirmed idle
    exact when_secStart_of_confirmed alive (by decide) confirmed idle
  case clearRefused =>
    rintro s _ t confirm rfl alive unconfirmed
    exact when_secStart_of_unconfirmed alive unconfirmed
  case revokeDone =>
    rintro s _ t slot rfl alive running
    exact exec_secCmdDone_of_running alive running rfl
  case clearDone =>
    rintro s _ t slot rfl alive running
    exact exec_secCmdDone_of_running alive running rfl
  case done =>
    rintro s _ t op slot z err rfl alive running effect
    exact exec_secCmdDone_of_running alive running effect
  case noneDone =>
    rintro s _ t rfl idle
    exact exec_secCmdDone_of_idle idle
  case word =>
    rintro s _ t off _ value requester rfl alive rfl aligned inside
    exact (when_of_holds _ _ alive).trans (congrArg _ (barWrite_of_word requester value _ aligned inside))
  case pair =>
    rintro s _ t off _ value requester rfl alive rfl aligned inside
    exact (when_of_holds _ _ alive).trans (congrArg _ (barWrite_of_pair requester value _ aligned inside))
  case otherSize =>
    rintro s _ t off size value requester rfl alive not4 not8
    exact (when_of_holds _ _ alive).trans
      (congrArg _ (barWrite_of_bad requester value _ (fun word => not4 word.1) (fun pair => not8 pair.1)))
  case misaligned =>
    rintro s _ t off _ value requester rfl alive rfl askew
    exact (when_of_holds _ _ alive).trans
      (congrArg _ (barWrite_of_bad requester value _ (fun word => askew word.2) (fun pair => absurd pair.1 (by decide))))

end Sys2Proof.Machine
end

section
/-! Tokens, verdicts and their absence: what each row does to a commit group (R309, R312, R315, R316, R319, R355). -/

namespace Sys2Proof.Machine

open Sys2Proof

/-! ## Departures (R312) -/

section Departures

variable {e g m : Nat} {x : Group} {s : State}

/-- A departure takes effect on the member itself: OUT, and nothing more where no lag is to end. -/
theorem departs_self (group : groupOf s g = some x) (running : x.state ≠ 3) :
    departs e g (grpSelf s) s = modGroup g (fun z => { z with state := 0, readyRun := 0, rejoin := false }) s := by
  unfold departs
  simp only [group, if_true, decide_eq_false running, Bool.false_and, Bool.false_eq_true, if_false]

/-- A departure of the CTLDEV begins host silence at a member that does not lead (R321). -/
theorem departs_ctlDev (group : groupOf s g = some x) (other : m ≠ grpSelf s) (follows : isLeader s x = false)
    (control : ctlDev s g = some m) :
    departs e g m s = modGroup g (fun z => { z with silence := true, served := false }) s := by
  unfold departs
  simp only [group, if_neg other, follows, Bool.false_eq_true, if_false, control, if_true]

theorem departGroup_of_one (group : groupOf s g = some x) (one : x.leaving = [m]) :
    departGroup e g s = modGroup g (fun z => { z with leaving := [] }) (departs e g m s) := by
  unfold departGroup
  simp only [group, one]
  rfl

end Departures

/-! ## Tokens (R355) -/

/-- The token of the coming epoch is at a member of its group. -/
structure TokenComes (a : State) (bytes : List Byte) (x : Group) : Prop where
  up : hubUp a = true
  counting : a.ep.counting = true
  token : tkPhase bytes = 0
  member : grpHas (grpRec a (tkGroup bytes)) (grpSelf a) = true
  coming : tkEpoch bytes = a.ep.e + 1
  group : groupOf a (tkGroup bytes) = some x

section Tokens

variable {s : State} {t : Time} {bytes : List Byte} {x : Group} (comes : TokenComes (s.at_ t) bytes x)
include comes

/-- A member that did not launch the token is visited, once the departures that waited for it have taken effect, and passes it on. -/
theorem exec_tokFrame_of_passing {y : State} (passing : x.launched ≠ some (tkEpoch bytes))
    (departed : departGroup (tkEpoch bytes) (tkGroup bytes) (s.at_ t) = y) :
    exec (.tokFrame t bytes) s = .next (passToken (tkGroup bytes) (visit (tkGroup bytes) bytes y).1 (visit (tkGroup bytes) bytes y).2) := by
  obtain ⟨up, counting, token, member, coming, group⟩ := comes
  change execTokFrame t bytes s = _
  unfold execTokFrame
  refine when_eq_next ?_ ?_
  · simp only [up, counting, token, member, coming, group, beq_self_eq_true, Option.isSome_some, Bool.and_self]
  · simp only [group, beq_eq_false_iff_ne.mpr passing, Bool.false_eq_true, if_false, departed]

/-- The member that launched the token decides it. -/
theorem exec_tokFrame_of_launched (own : x.launched = some (tkEpoch bytes)) :
    exec (.tokFrame t bytes) s = .next (decideToken (tkGroup bytes) bytes (s.at_ t)) := by
  obtain ⟨up, counting, token, member, coming, group⟩ := comes
  change execTokFrame t bytes s = _
  unfold execTokFrame
  refine when_eq_next ?_ ?_
  · simp only [up, counting, token, member, coming, group, beq_self_eq_true, Option.isSome_some, Bool.and_self]
  · simp only [group, own, beq_self_eq_true, if_true]

end Tokens

/-! ## Verdicts (R355) and their absence (R316) -/

/-- What a TOK_VERDICT frame says. -/
def tokVerdictOf (bytes : List Byte) : Verdict :=
  { epoch := tkEpoch bytes, commit := bitOf (tkFlags bytes) 0, silent := bitOf (tkFlags bytes) 1, exclude := bitOf (tkFlags bytes) 3,
    rdDone := bitOf (tkFlags bytes) 4 }

/-- A verdict's sender leads, and its SILENT bit begins host silence. -/
def followSender (src : Nat) (bytes : List Byte) (s : State) : State :=
  modGroup (tkGroup bytes)
    (fun y => { y with leader := some (src, tkEpoch bytes), silence := y.silence || bitOf (tkFlags bytes) 1 }) s

section Verdicts

variable {s : State} {t : Time} {bytes : List Byte} {x : Group}

/-- The first verdict of the coming epoch is taken; a member that the token visited, or whose GHASH agrees, records no mismatch (R309). -/
theorem exec_tokVerdict_of_first (src : Nat) (up : hubUp (s.at_ t) = true) (counting : (s.at_ t).ep.counting = true) (phase : tkPhase bytes = 1)
    (member : grpHas (grpRec (s.at_ t) (tkGroup bytes)) (grpSelf (s.at_ t)) = true) (coming : tkEpoch bytes = (s.at_ t).ep.e + 1)
    (group : groupOf (s.at_ t) (tkGroup bytes) = some x) (first : x.verdict.all (fun v => v.epoch != tkEpoch bytes) = true)
    (inTime : x.noVerdict ≠ some (tkEpoch bytes))
    (agrees : lookupO x.visits (grpSelf (s.at_ t)) = some (tkEpoch bytes) ∨ tkHash bytes = ghash (grpRec (s.at_ t) (tkGroup bytes))) :
    exec (.tokVerdict t src bytes) s =
      .next (takeVerdict (tkGroup bytes) (tokVerdictOf bytes) (tkNr bytes) (followSender src bytes (s.at_ t))) := by
  have unrecorded : (tkHash bytes != ghash (grpRec (s.at_ t) (tkGroup bytes)) &&
      lookupO x.visits (grpSelf (s.at_ t)) != some (tkEpoch bytes)) = false := by
    obtain visited | same := agrees
    · rw [visited, bne_self_eq_false, Bool.and_false]
    · rw [same, bne_self_eq_false, Bool.false_and]
  change execTokVerdict t src bytes s = _
  unfold execTokVerdict
  simp only [group]
  refine when_eq_next ?_ ?_
  · rw [up, counting, phase, member, ← coming, beq_eq_false_iff_ne.mpr inTime, Bool.or_false]
    simp only [beq_self_eq_true, Bool.and_self, Bool.true_and]
    cases verdict : x.verdict with
    | none => rfl
    | some v =>
      rw [verdict, Option.all_some] at first
      exact first
  · rw [unrecorded]
    rfl

/-- A verdict of another epoch than the coming one tells nothing. -/
theorem exec_tokVerdict_of_other_epoch (src : Nat) (other : tkEpoch bytes ≠ (s.at_ t).ep.e + 1) :
    exec (.tokVerdict t src bytes) s = .next (s.at_ t) := by
  change execTokVerdict t src bytes s = _
  unfold execTokVerdict
  cases group : groupOf (s.at_ t) (tkGroup bytes) with
  | none => simp only [group]; rfl
  | some x =>
    simp only [group]
    refine when_of_fails _ _ ?_
    rw [beq_eq_false_iff_ne.mpr other, Bool.and_false, Bool.false_and]

theorem exec_tokenDeadline_of_due (up : hubUp (s.at_ t) = true) (counting : (s.at_ t).ep.counting = true)
    (due : epochHalf (s.at_ t) ((s.at_ t).ep.e + 1) ≤ (sysHalf (s.at_ t) + us 100 : Nat)) :
    exec (.tokenDeadline t) s =
      .next (forEach (((s.at_ t).ep.groups.filter fun x => lacksVerdict x ((s.at_ t).ep.e + 1)).map (·.num))
        (fun g z => noVerdict g ((s.at_ t).ep.e + 1) z) (s.at_ t)) := by
  change execTokenDeadline t s = _
  unfold execTokenDeadline
  exact when_eq_next (by rw [up, counting, decide_eq_true due]; rfl)

end Verdicts

/-! ## Members that are heard no longer (R312) -/

/-- A number's frames have stayed away for 5 ms: the own ones from the ring, another's from its window and from its coupler's PMAP. -/
def framesGone (s : State) (member : Nat) : Bool :=
  if member = grpSelf s then s.net.ownBack.all fun back => decide (back + ms 5 ≤ s.now)
  else s.net.srcs.all (fun q => q.num != member || decide (q.last + ms 5 ≤ s.now)) &&
    !(member / 32 != s.net.num / 32 &&
      s.net.pmaps.any fun p => p.1 / 32 == member / 32 && decide (s.now < p.2.2 + ms 5) && bitOf p.2.1.toNat (member % 32))

theorem framesGone_self_of_never {s : State} {member : Nat} (self : member = grpSelf s) (never : s.net.ownBack = none) :
    framesGone s member = true := by
  unfold framesGone
  rw [if_pos self, never]
  rfl

theorem framesGone_self_of_long {s : State} {member : Nat} {back : Time} (self : member = grpSelf s) (last : s.net.ownBack = some back)
    (long : back + ms 5 ≤ s.now) : framesGone s member = true := by
  unfold framesGone
  rw [if_pos self, last, Option.all_some]
  exact decide_eq_true long

theorem framesGone_other_of_no_pmap {s : State} {member : Nat} (other : member ≠ grpSelf s) (nowhere : s.net.pmaps = [])
    (gone : s.net.srcs.all (fun q => q.num != member || decide (q.last + ms 5 ≤ s.now)) = true) : framesGone s member = true := by
  unfold framesGone
  rw [if_neg other, gone, nowhere, List.any_nil, Bool.and_false]
  rfl

/-- A member is to leave its group. -/
def markLeaving (group member : Nat) (s : State) : State :=
  modGroup group (fun y => { y with leaving := if y.leaving.contains member then y.leaving else y.leaving ++ [member] }) s

/-- MEMBER_DEPART marks a member that no token visited for three epochs and whose frames have stayed away. -/
theorem exec_memberDepart_of_gone {s : State} {t : Time} {group member : Nat} {x : Group} (up : hubUp (s.at_ t) = true)
    (counting : (s.at_ t).ep.counting = true) (found : groupOf (s.at_ t) group = some x) (numbered : group ≠ ownGroup)
    (listed : grpHas (grpRec (s.at_ t) group) member = true)
    (unvisited : (lookupO x.visits member).all (fun e => decide (e + 3 ≤ (s.at_ t).ep.e)) = true)
    (gone : framesGone (s.at_ t) member = true) :
    exec (.memberDepart t group member) s = .next (markLeaving group member (s.at_ t)) := by
  change execMemberDepart t group member s = _
  unfold execMemberDepart
  simp only [found]
  refine when_eq_next ?_
  rw [up, counting, bne_iff_ne.mpr numbered, listed, Bool.and_self, Bool.and_self, Bool.and_self, Bool.true_and, Bool.and_eq_true]
  constructor
  · cases visit : lookupO x.visits member with
    | none => rfl
    | some e =>
      rw [visit, Option.all_some] at unvisited
      exact unvisited
  · unfold framesGone at gone
    split at gone
    next self =>
      rw [if_pos self]
      cases last : (s.at_ t).net.ownBack with
      | none => rfl
      | some back =>
        rw [last, Option.all_some] at gone
        exact gone
    next other => rwa [if_neg other]

/-- Settles O37: each row's condition follows from its premises, and its operation takes the branch that they name; a departure that waits is
resolved before the visit. -/
theorem tokenEvents : Obligations.TokenEvents := by
  refine ⟨?pass, ?passOut, ?passSilent, ?decide, ?verdict, ?otherEpoch, ?deadline, ?neverBack, ?selfGone, ?otherGone⟩
  case pass =>
    rintro s _ t bytes x rfl up counting token member coming group passing
    exact exec_tokFrame_of_passing ⟨up, counting, token, member, coming, group⟩ passing rfl
  case passOut =>
    rintro s _ t bytes x _ rfl up counting token member coming group passing one running rfl
    refine exec_tokFrame_of_passing ⟨up, counting, token, member, coming, group⟩ passing ?_
    rw [departGroup_of_one group one, departs_self group running]
  case passSilent =>
    rintro s _ t bytes x m _ rfl up counting token member coming group passing one other follows control rfl
    refine exec_tokFrame_of_passing ⟨up, counting, token, member, coming, group⟩ passing ?_
    rw [departGroup_of_one group one, departs_ctlDev group other follows control]
  case decide =>
    rintro s _ t bytes x rfl up counting token member coming group own
    exact exec_tokFrame_of_launched ⟨up, counting, token, member, coming, group⟩ own
  case verdict =>
    rintro s _ t src bytes x rfl up counting phase member coming group first inTime agrees
    exact exec_tokVerdict_of_first src up counting phase member coming group first inTime agrees
  case otherEpoch =>
    rintro s _ t src bytes rfl other
    exact exec_tokVerdict_of_other_epoch src other
  case deadline =>
    rintro s _ t rfl up counting due
    exact exec_tokenDeadline_of_due up counting due
  case neverBack =>
    rintro s _ t group member x rfl up counting found numbered listed unvisited self never
    exact exec_memberDepart_of_gone up counting found numbered listed unvisited (framesGone_self_of_never self never)
  case selfGone =>
    rintro s _ t group member x back rfl up counting found numbered listed unvisited self last long
    exact exec_memberDepart_of_gone up counting found numbered listed unvisited (framesGone_self_of_long self last long)
  case otherGone =>
    rintro s _ t group member x rfl up counting found numbered listed unvisited other nowhere gone
    exact exec_memberDepart_of_gone up counting found numbered listed unvisited (framesGone_other_of_no_pmap other nowhere gone)

end Sys2Proof.Machine
end

section
/-! Epoch images on the network: the own image of an epoch, the frames of others, and the cuts (R300, R301, R306, R354). -/

namespace Sys2Proof.Machine

open Sys2Proof

/-! ## The own image (R354) -/

/-- The own image of the present epoch: the records stored for it. -/
def ownImage (s : State) : RImage :=
  { dev := s.net.num, epoch := s.ep.e, parts := [0], last := some 0, unlocked := false,
    recs := s.ep.tags.filterMap fun x => if x.2.epoch = s.ep.e then some (x.1, x.2.value, x.2.csw) else none }

/-- The own image joins those held, and the epoch counts as done. -/
def completeOwn (s : State) : State :=
  { s with ep := { s.ep with ownDone := s.ep.e, imgSent := s.ep.e, rimg := s.ep.rimg ++ [ownImage s] } }

/-- The frames of an image go out in order, each in its place of `e`'s image. -/
def castFrames (e : Nat) (frames : List (List (Nat × List (Word × Word)))) (s : State) : State :=
  forEach ((List.range frames.length).zip frames)
    (fun x z => castSend 1 scopeSeg (z.net.imgExp.contains (selfNum z)) (imgBytes e (!z.net.locked) (x.1 + 1 == frames.length) x.1 x.2) z) s

/-- What IMG_SEND does with the frames of the own image: a member that does not drive its pair sends none, and where no ring takes them
they count as dropped. -/
def sendOwn (s : State) : State :=
  if mute s then completeOwn s
  else if !netUp s then
    { completeOwn s with ep := { (completeOwn s).ep with
        imgDropped := (completeOwn s).ep.imgDropped + (packAll (s.ep.published.map (ownRec s))).length } }
  else castFrames s.ep.e (packAll (s.ep.published.map (ownRec s))) (completeOwn s)

theorem sendOwn_of_mute {s : State} (silent : mute s = true) : sendOwn s = completeOwn s :=
  if_pos silent

theorem sendOwn_of_driving {s : State} (drives : mute s = false) (net : netUp s = true) :
    sendOwn s = castFrames s.ep.e (packAll (s.ep.published.map (ownRec s))) (completeOwn s) := by
  unfold sendOwn
  rw [drives, net]
  rfl

/-- From 25 us after T_E the own image of the epoch is completed, once, and the cuts that it makes due are delivered. -/
theorem exec_imgSend_of_due {s : State} {t : Time} (up : hubUp (s.at_ t) = true) (counting : (s.at_ t).ep.counting = true)
    (once : (s.at_ t).ep.ownDone ≠ (s.at_ t).ep.e)
    (due : epochHalf (s.at_ t) (s.at_ t).ep.e + (us 25 : Nat) ≤ (sysHalf (s.at_ t) : Int))
    (inTime : (sysHalf (s.at_ t) : Int) < epochHalf (s.at_ t) ((s.at_ t).ep.e + 1)) :
    exec (.imgSend t) s = .next (cutsAll (sendOwn (s.at_ t))) := by
  change execImgSend t s = _
  unfold execImgSend
  refine when_eq_next ?_
  rw [up, counting, bne_iff_ne.mpr once, decide_eq_true due, decide_eq_true inTime]
  rfl

/-! ## The frames of other devices (R300, R306) -/

/-- The values that a frame brings: none of an image sent UNLOCKED, and no record marked ABSENT. -/
def freshValues (src : Nat) (bytes : List Byte) : List (Word × TagRec) :=
  if bitOf (u8 bytes 6) 0 then []
  else ((imgRuns (u16 bytes 8) (bytes.drop 12)).filter fun r => r.2.2 &&& cswAbsent == 0).map fun r =>
    (BitVec.ofNat 32 (src * 32768 + r.1), { value := r.2.1, csw := r.2.2, epoch := uN bytes 0 6 })

/-- The image that a frame joins, or a new one of its epoch. -/
def imageJoined (s : State) (src : Nat) (bytes : List Byte) : RImage :=
  (imageOf s src (uN bytes 0 6)).getD { dev := src, epoch := uN bytes 0 6, parts := [], last := none, unlocked := false, recs := [] }

/-- An image with one frame more. -/
def joinFrame (bytes : List Byte) (i : RImage) : RImage :=
  { i with
    parts := u8 bytes 7 :: i.parts
    last := if bitOf (u8 bytes 6) 1 then some (u8 bytes 7) else i.last
    unlocked := i.unlocked || bitOf (u8 bytes 6) 0
    recs := i.recs ++ imgRuns (u16 bytes 8) (bytes.drop 12) }

/-- A value held gives way to a fresh one of the same tag that is not of an older epoch. -/
def givesWay (fresh : List (Word × TagRec)) (x : Word × TagRec) : Bool := fresh.any fun y => y.1 == x.1 && decide (x.2.epoch ≤ y.2.epoch)

/-- The last-good values after some fresh ones. -/
def newLast (fresh last : List (Word × TagRec)) : List (Word × TagRec) :=
  fresh.filter (fun y => !last.any fun x => x.1 == y.1 && decide (y.2.epoch < x.2.epoch)) ++ last.filter fun x => !givesWay fresh x

/-- The values before the last-good ones: those replaced now by a value of another epoch, and those of tags without a fresh one. -/
def newPrev (fresh last prev : List (Word × TagRec)) : List (Word × TagRec) :=
  last.filter (fun x => givesWay fresh x && !fresh.any fun y => y.1 == x.1 && y.2.epoch == x.2.epoch) ++
    prev.filter fun x => !last.any fun y => y.1 == x.1 && givesWay fresh y

@[simp] theorem givesWay_nil (x : Word × TagRec) : givesWay [] x = false := rfl

/-- Without fresh values every last-good one stays. -/
@[simp] theorem newLast_nil (last : List (Word × TagRec)) : newLast [] last = last :=
  List.filter_eq_self.mpr fun _ _ => rfl

/-- Without fresh values none is replaced, and those before them stay. -/
@[simp] theorem newPrev_nil (last prev : List (Word × TagRec)) : newPrev [] last prev = prev := by
  have replaced : last.filter (fun x => givesWay [] x && !([] : List (Word × TagRec)).any fun y => y.1 == x.1 && y.2.epoch == x.2.epoch) = [] :=
    List.filter_eq_nil_iff.mpr fun _ _ => Bool.false_ne_true
  have unreplaced : prev.filter (fun x => !last.any fun y => y.1 == x.1 && givesWay [] y) = prev := by
    refine List.filter_eq_self.mpr fun x _ => ?_
    have none_fresh : (last.any fun y => y.1 == x.1 && givesWay [] y) = false := by
      refine List.any_eq_false.mpr fun y _ => ?_
      rw [givesWay_nil, Bool.and_false]
      exact Bool.false_ne_true
    rw [none_fresh, Bool.not_false]
  unfold newPrev
  rw [replaced, unreplaced, List.nil_append]

/-- A frame of another device taken: image, last-good values and those before them. -/
def takeImage (src : Nat) (bytes : List Byte) (s : State) : State :=
  { s with ep := { s.ep with
      rimg := joinFrame bytes (imageJoined s src bytes) :: s.ep.rimg.filter fun x => !(x.dev == src && x.epoch == uN bytes 0 6)
      rlast := newLast (freshValues src bytes) s.ep.rlast
      rprev := newPrev (freshValues src bytes) s.ep.rlast s.ep.rprev } }

theorem exec_imgFrameReceived_of_other {s : State} {t : Time} {src : Nat} (bytes : List Byte) (up : hubUp (s.at_ t) = true)
    (other : isSelf (s.at_ t) src = false) :
    exec (.imgFrameReceived t src bytes) s = .next (cutsAll (takeImage src bytes (s.at_ t))) := by
  change execImgFrameReceived t src bytes s = _
  unfold execImgFrameReceived
  refine when_eq_next ?_ ?_
  · rw [up, other]
    rfl
  · simp only [takeImage, newPrev, newLast, givesWay, Bool.not_not]
    rfl

/-! ## Cuts (R301) -/

theorem exec_cutDeadline_of_due {s : State} {t : Time} {iq : Fin 16} (due : cutDue iq (s.at_ t) = true) :
    exec (.cutDeadline t iq) s = .next (dropImages (cutsOf iq (s.at_ t))) := by
  change execCutDeadline t iq s = _
  unfold execCutDeadline
  exact when_eq_next due

/-- Settles O39: IMG_SEND by the member's part in its pair, a frame of another device by whether its image was sent UNLOCKED, and the cuts by
their being due. -/
theorem imageFrameAndCutEvents : Obligations.ImageFrameAndCutEvents := by
  refine ⟨?muted, ?driving, ?own, ?unlocked, ?locked, ?due, ?early⟩
  case muted =>
    rintro s _ t rfl up counting once due inTime silent
    rw [exec_imgSend_of_due up counting once due inTime, sendOwn_of_mute silent]
    rfl
  case driving =>
    rintro s _ t rfl up counting once due inTime drives net unpublished
    rw [exec_imgSend_of_due up counting once due inTime, sendOwn_of_driving drives net, unpublished]
    rfl
  case own =>
    rintro s _ t src bytes rfl self
    change execImgFrameReceived t src bytes s = _
    unfold execImgFrameReceived
    refine when_of_fails _ _ ?_
    rw [self, Bool.not_true, Bool.and_false]
  case unlocked =>
    rintro s _ t src bytes _ rfl up other unlocked rfl
    rw [exec_imgFrameReceived_of_other bytes up other]
    simp only [takeImage, freshValues, joinFrame, unlocked, if_true, newLast_nil, newPrev_nil, Bool.or_true]
    rfl
  case locked =>
    rintro s _ t src bytes _ _ rfl up other locked rfl rfl
    rw [exec_imgFrameReceived_of_other bytes up other]
    simp only [takeImage, freshValues, joinFrame, locked, Bool.false_eq_true, if_false, Bool.or_false]
    rfl
  case due =>
    rintro s _ t iq rfl due
    exact exec_cutDeadline_of_due due
  case early =>
    rintro s _ t iq rfl early
    change execCutDeadline t iq s = _
    unfold execCutDeadline
    exact when_of_fails _ _ early

end Sys2Proof.Machine
end

section
/-! The ports: up and down (R328), their frames (R335, R339, R342), sources that are silent, and the states that the device takes by them
(Table 10-7, R353). -/

namespace Sys2Proof.Machine

open Sys2Proof

/-! ## Ports up and down (R328) -/

/-- A port UP, with its errors cleared, and recorded. -/
def risePort (port : Fin 5) (s : State) : State :=
  recordPort port 1 (s.net.port.get port).bad (modPort port (fun p => { p with state := 1, errs := [] }) s)

/-- A port DOWN, recorded, and its source raised. -/
def dropPort (port : Fin 5) (s : State) : State :=
  raise (portSource port) (recordPort port 2 (s.net.port.get port).bad
    (modPort port (fun p => { p with state := 0, downAt := s.now, cand := none, echo := none }) s))

/-- The partner link is lost from the present on, unless it was lost before; a couch before its step 1 is abandoned (R378). -/
def losePartnerLink (s : State) : State :=
  couchCause { s with pair := { s.pair with linkLostAt := match s.pair.linkLostAt with | some b => some b | none => some s.now } }

section Ports

variable {s : State} {t : Time} {port : Fin 5} (alive : hubAlive (s.at_ t) = true)
include alive

/-- A port that has decoded for 1 ms and is not blocked comes UP: the partner link's always, a ring's where it is in use. -/
theorem exec_portUp_of_long {held : Time} (down : ((s.at_ t).net.port.get port).state = 0) (long : ms 1 ≤ held)
    (free : ((s.at_ t).flt.blocks.any fun b => b.1 == portSource port) = false)
    (inUse : port.val = 4 ∨ (ringIn (s.at_ t)).contains port = true) :
    exec (.portUp t port held) s =
      .next (if port.val = 4 then risePort port (s.at_ t) else netRise (risePort port (s.at_ t))) := by
  have use : (port.val == 4 || (ringIn (s.at_ t)).contains port) = true := by
    rwa [Bool.or_eq_true, beq_iff_eq]
  change execPortUp t port held s = _
  unfold execPortUp
  refine when_eq_next ?_
  rw [alive, down, decide_eq_true long, free, use]
  rfl

variable (on : portOn (s.at_ t) port = true)
include on

/-- A ring port that goes DOWN while another one of the rings still decodes leaves the device's own state. -/
theorem exec_portDown_of_ring (ring : port.val ≠ 4) (others : ringsDown (dropPort port (s.at_ t)) = false) :
    exec (.portDown t port) s = .next (dropPort port (s.at_ t)) := by
  change execPortDown t port s = _
  unfold execPortDown
  refine when_eq_next (by rw [alive, on]; rfl) ((if_neg ring).trans (if_neg ?_))
  intro both
  exact Bool.false_ne_true (others.symm.trans (Bool.and_eq_true_iff.mp both).1)

theorem exec_portDown_of_partner (partner : port.val = 4) :
    exec (.portDown t port) s = .next (losePartnerLink (dropPort port (s.at_ t))) := by
  change execPortDown t port s = _
  unfold execPortDown
  exact when_eq_next (by rw [alive, on]; rfl) (if_pos partner)

end Ports

/-! ## The frames of a port (R335, R339, R342) -/

section Frames

variable {port : Fin 5} {bytes : List Byte} {s : State}

theorem takeFrame_of_ring {q : Fin 4} (bad : Bool) (ring : port.val = q.val) (nonempty : bytes ≠ []) :
    takeFrame port bytes bad s = ringFrame q bytes bad s := by
  have place : asFin 4 port.val = some q := by rw [ring]; exact dif_pos q.isLt
  unfold takeFrame
  rw [List.isEmpty_eq_false_iff.mpr nonempty]
  simp only [place, Bool.false_eq_true, if_false]

theorem takeFrame_of_partner (bad : Bool) (partner : port.val = 4) (nonempty : bytes ≠ []) :
    takeFrame port bytes bad s = if bad || !prtLegal bytes then portError port s else s := by
  have place : asFin 4 port.val = none := by rw [partner]; rfl
  unfold takeFrame
  rw [List.isEmpty_eq_false_iff.mpr nonempty]
  simp only [place, Bool.false_eq_true, if_false]

theorem takeFrame_nil (bad : Bool) : takeFrame port [] bad s = s :=
  rfl

/-- At a running port the invalid code groups are counted and the frame is taken as its check and its end code say. -/
theorem exec_pelrunFrame_of_on {t : Time} (bytes : List Byte) (fin : FrameEnd) (alive : hubAlive (s.at_ t) = true)
    (on : portOn (s.at_ t) port = true) :
    exec (.pelrunFrame t port bytes fin) s =
      .next (takeFrame port bytes (fin.v || !frCheckOk bytes) (portErrors port fin.codes (raiseDrops (s.at_ t)))) := by
  change execPelrunFrame t port bytes fin s = _
  unfold execPelrunFrame
  exact when_eq_next (by rw [alive, on]; rfl)

theorem exec_pelrunFrame_of_off {t : Time} (bytes : List Byte) (fin : FrameEnd) (off : portOn (s.at_ t) port = false) :
    exec (.pelrunFrame t port bytes fin) s = .next (s.at_ t) := by
  change execPelrunFrame t port bytes fin s = _
  unfold execPelrunFrame
  exact when_of_fails _ _ (by rw [off, Bool.and_false])

end Frames

/-! ## Joining and leaving (Table 10-7) -/

/-- The instant at which a locked device joins epochs: 2 P after its lock (R298). -/
def lockJoin (s : State) : Nat := ((s.net.lockedAt + 2 * us s.ep.p : Nat) + s.sysOff).toNat

theorem exec_listenEnd_of_long {s : State} {t : Time} (up : hubUp (s.at_ t) = true) (listens : (s.at_ t).net.state = 2)
    (long : (s.at_ t).net.listenAt + ms 10 ≤ (s.at_ t).now) :
    exec (.listenEnd t) s =
      .next (chooseUpstream { s.at_ t with
        net := { (s.at_ t).net with state := 3 }
        ep := { (s.at_ t).ep with joinAt := if (s.at_ t).net.locked then some (lockJoin (s.at_ t)) else none } }) := by
  change execListenEnd t s = _
  unfold execListenEnd
  exact when_eq_next (by rw [up, listens, decide_eq_true long]; rfl)

/-- Settles O40: each row's condition follows from its premises; a frame is taken by the port that it comes on. -/
theorem portEvents : Obligations.PortEvents := by
  refine ⟨?partnerUp, ?ringUp, ?ringDown, ?partnerDown, ?ring, ?partner, ?empty, ?off, ?forgotten, ?allDown, ?unlocked, ?locked⟩
  case partnerUp =>
    rintro s _ t port held rfl alive down long free partner
    rw [exec_portUp_of_long alive down long free (.inl partner), if_pos partner]
    rfl
  case ringUp =>
    rintro s _ t port held rfl alive down long free ring used
    rw [exec_portUp_of_long alive down long free (.inr used), if_neg ring]
    rfl
  case ringDown =>
    rintro s _ t port rfl alive on ring others
    exact exec_portDown_of_ring alive on ring others
  case partnerDown =>
    rintro s _ t port rfl alive on partner
    exact exec_portDown_of_partner alive on partner
  case ring =>
    rintro s _ t port q bytes fin _ rfl alive on ring nonempty rfl
    rw [exec_pelrunFrame_of_on bytes fin alive on, takeFrame_of_ring _ ring nonempty]
  case partner =>
    rintro s _ t port bytes fin _ rfl alive on partner nonempty rfl
    rw [exec_pelrunFrame_of_on bytes fin alive on, takeFrame_of_partner _ partner nonempty]
  case empty =>
    rintro s _ t port _ fin rfl alive on rfl
    rw [exec_pelrunFrame_of_on [] fin alive on, takeFrame_nil]
  case off =>
    rintro s _ t port bytes fin rfl off
    exact exec_pelrunFrame_of_off bytes fin off
  case forgotten =>
    rintro s _ t src rfl alive
    change execSourceForgotten t src s = _
    unfold execSourceForgotten
    exact when_eq_next alive
  case allDown =>
    rintro s _ t rfl up joined long
    change execAllPortsDown t s = _
    unfold execAllPortsDown
    refine when_eq_next ?_
    rw [up, joined, long]
    rfl
  case unlocked =>
    rintro s _ t rfl up listens long unlocked
    rw [exec_listenEnd_of_long up listens long, unlocked]
    rfl
  case locked =>
    rintro s _ t rfl up listens long locked
    rw [exec_listenEnd_of_long up listens long, locked]
    rfl

end Sys2Proof.Machine
end

section
/-! The network's time: TIM frames sent and received, and the loss of their sources (R345 to R348, R513). -/

namespace Sys2Proof.Machine

open Sys2Proof

/-! ## What a TIM frame tells (R346, R347) -/

/-- The ring port `p` among the five ports. -/
abbrev ringPort (p : Fin 4) : Fin 5 := ⟨p.val, by omega⟩

/-- The TIM answers one that the port sent within the last 1 ms (R347). -/
def timAnswers (port : Fin 5) (bytes : List Byte) (s : State) : Bool :=
  (s.net.port.get port).txs.any fun e => e.1 == fieldTime bytes 9 && decide (s.now ≤ e.2 + ms 1)

/-- The offset of the neighbour's time that a TIM gives, in 1/256 ns. -/
def timOffset (bytes : List Byte) (s : State) : Int :=
  (((fieldTime bytes 18 : Int) - fieldTime bytes 9) + ((fieldTime bytes 0 : Int) - (sys256 s : Int))) / 2

/-- The delay of the link that a TIM gives, in 1/256 ns. -/
def timDelay (bytes : List Byte) (s : State) : Int :=
  (((sys256 s : Int) - fieldTime bytes 9) - ((fieldTime bytes 0 : Int) - fieldTime bytes 18)) / 2

/-- A TIM noted at its port, and the upstream chosen again; one that answers gives the port its delay and offset. -/
def noteTim (port : Fin 5) (bytes : List Byte) (s : State) : State :=
  chooseUpstream (modPort port (fun x => { x with
    cand := takeCand s.now bytes x.cand
    echo := some (fieldTime bytes 0, sys256 s)
    lastTim := some s.now
    lastValid := if timAnswers port bytes s then some s.now else x.lastValid
    delay := if timAnswers port bytes s then timDelay bytes s else x.delay
    offset := if timAnswers port bytes s then timOffset bytes s else x.offset }) s)

theorem noteTim_of_answer {port : Fin 5} {bytes : List Byte} {s : State} (answers : timAnswers port bytes s = true) :
    noteTim port bytes s = chooseUpstream (modPort port (fun x => { x with
      cand := takeCand s.now bytes x.cand
      echo := some (fieldTime bytes 0, sys256 s)
      lastTim := some s.now
      lastValid := some s.now
      delay := timDelay bytes s
      offset := timOffset bytes s }) s) := by
  unfold noteTim
  simp only [answers, if_true]

theorem noteTim_of_no_answer {port : Fin 5} {bytes : List Byte} {s : State} (unasked : timAnswers port bytes s = false) :
    noteTim port bytes s = chooseUpstream (modPort port (fun x => { x with
      cand := takeCand s.now bytes x.cand
      echo := some (fieldTime bytes 0, sys256 s)
      lastTim := some s.now }) s) := by
  unfold noteTim
  simp only [unasked, Bool.false_eq_true, if_false]

/-- What follows a noted TIM where its port is upstream: the grid, and for one that answers the steering by its offset. -/
def followTim (port : Fin 4) (bytes : List Byte) (a z : State) : State :=
  if z.net.upPort != some port then z
  else if timAnswers (ringPort port) bytes a then
    steer (timOffset bytes a) (bitOf (u8 bytes 31) 0)
      { takeGrid bytes z with net := { (takeGrid bytes z).net with delay := timDelay bytes a } }
  else takeGrid bytes z

theorem followTim_of_elsewhere {port : Fin 4} {bytes : List Byte} {a z : State} (elsewhere : z.net.upPort ≠ some port) :
    followTim port bytes a z = z :=
  if_pos (bne_iff_ne.mpr elsewhere)

theorem followTim_of_unasked {port : Fin 4} {bytes : List Byte} {a z : State} (unasked : timAnswers (ringPort port) bytes a = false) :
    followTim port bytes a z = if z.net.upPort = some port then takeGrid bytes z else z := by
  unfold followTim
  simp only [unasked, bne_iff_ne, ne_eq, ite_not, Bool.false_eq_true, if_false]

theorem followTim_of_answer {port : Fin 4} {bytes : List Byte} {a z : State} (answers : timAnswers (ringPort port) bytes a = true)
    (here : z.net.upPort = some port) :
    followTim port bytes a z =
      steer (timOffset bytes a) (bitOf (u8 bytes 31) 0)
        { takeGrid bytes z with net := { (takeGrid bytes z).net with delay := timDelay bytes a } } := by
  unfold followTim
  simp only [answers, here, bne_self_eq_false, Bool.false_eq_true, if_false, if_true]

theorem exec_timReceived_of_on {s : State} {t : Time} {port : Fin 4} {bytes : List Byte} (src : Nat) (up : hubUp (s.at_ t) = true)
    (on : portOn (s.at_ t) (ringPort port) = true) (whole : 60 ≤ bytes.length) :
    exec (.timReceived t port src bytes) s =
      .next (followTim port bytes (s.at_ t) (noteTim (ringPort port) bytes (s.at_ t))) := by
  change execTimReceived t port src bytes s = _
  unfold execTimReceived
  exact when_eq_next (by rw [decide_eq_true whole, Bool.and_true, Bool.and_eq_true]; exact ⟨up, on⟩)

/-! ## TIM frames sent (R345, R346) -/

/-- The master advances its sequence number. -/
def advanceMseq (s : State) : State :=
  if isMaster s then { s with net := { s.net with mseq := (s.net.mseq + 1) % 2 ^ 32 } } else s

theorem exec_timSend_of_up {s : State} {t : Time} (up : netUp (s.at_ t) = true) :
    exec (.timSend t) s =
      .next (forEach (ringIn (advanceMseq (raiseDrops (s.at_ t)))) timOut (advanceMseq (raiseDrops (s.at_ t)))) := by
  change execTimSend t s = _
  unfold execTimSend
  exact when_eq_next up

/-! ## The loss of a source (R345, R347, R348, R513) -/

section Losses

variable {s : State} {t : Time} (up : hubUp (s.at_ t) = true)
include up

/-- An upstream without a valid TIM for 250 us is given up. -/
theorem exec_upstreamLoss_of_quiet {p : Fin 4} {b : Time} (upstream : (s.at_ t).net.upPort = some p)
    (last : ((s.at_ t).net.port.get (ringPort p)).lastValid = some b) (quiet : b + us 250 ≤ (s.at_ t).now) {z : State}
    (chosen : z = chooseUpstream (modPort (ringPort p) (fun x => { x with cand := none }) (s.at_ t))) :
    exec (.upstreamLoss t) s =
      .next (if z.net.upPort.isNone && z.net.locked && !isMaster z then { z with net := { z.net with holdover := true } } else z) := by
  subst chosen
  change execUpstreamLoss t s = _
  unfold execUpstreamLoss
  simp only [upstream]
  refine when_eq_next ?_
  rw [up, Bool.true_and]
  simp only [last]
  exact decide_eq_true quiet

theorem exec_noUpstreamUnlock_of_long {b : Time} (locked : (s.at_ t).net.locked = true) (unled : (s.at_ t).net.upPort.isNone = true)
    (follower : isMaster (s.at_ t) = false) (lost : (s.at_ t).net.upLostAt = some b) (long : b + ms 10 ≤ (s.at_ t).now) :
    exec (.noUpstreamUnlock t) s = .next (timeUnlock (s.at_ t)) := by
  change execNoUpstreamUnlock t s = _
  unfold execNoUpstreamUnlock
  refine when_eq_next ?_
  rw [up, locked, unled, follower]
  simp only [lost, Bool.not_false, Bool.and_self, Bool.true_and]
  exact decide_eq_true long

theorem exec_candidateForgotten_of_stale {port : Fin 4} {c : Cand}
    (known : ((s.at_ t).net.port.get (ringPort port)).cand = some c) (stale : candLive (s.at_ t) c = false) :
    exec (.candidateForgotten t port) s = .next (chooseUpstream (modPort (ringPort port) (fun x => { x with cand := none }) (s.at_ t))) := by
  unfold ringPort at known
  change execCandidateForgotten t port s = _
  unfold execCandidateForgotten
  refine when_eq_next ?_
  simp only [up, known, stale, Bool.not_false, Bool.and_self]

/-- The held priority returns after 1 s of lock. -/
theorem exec_prioRestore_of_locked (held : (s.at_ t).net.prioHeld = true) (locked : (s.at_ t).net.locked = true)
    (long : (s.at_ t).net.lockedAt + sec 1 ≤ (s.at_ t).now) :
    exec (.prioRestore t) s = .next (chooseUpstream { s.at_ t with net := { (s.at_ t).net with prioHeld := false } }) := by
  change execPrioRestore t s = _
  unfold execPrioRestore
  refine when_eq_next ?_
  simp only [up, held, locked, decide_eq_true long, Bool.and_self, Bool.true_or]

end Losses

/-- Settles O41: TIM_SEND by who is master, a TIM by whether it answers and whether its port is upstream, the losses by their times. -/
theorem networkTimeEvents : Obligations.NetworkTimeEvents := by
  refine ⟨?follower, ?master, ?unasked, ?elsewhere, ?upstream, ?quiet, ?unlock, ?stale, ?restore⟩
  case follower =>
    rintro s _ t _ rfl up rfl follower
    rw [exec_timSend_of_up up, advanceMseq, if_neg (Bool.not_eq_true _ ▸ follower)]
  case master =>
    rintro s _ t _ rfl up rfl master
    rw [exec_timSend_of_up up, advanceMseq, if_pos master]
  case unasked =>
    rintro s _ t port src bytes _ rfl up on whole unasked rfl
    have unasked : timAnswers (ringPort port) bytes (s.at_ t) = false := unasked
    rw [exec_timReceived_of_on src up on whole, followTim_of_unasked unasked, noteTim_of_no_answer unasked]
  case elsewhere =>
    rintro s _ t port src bytes _ rfl up on whole answers rfl elsewhere
    rw [exec_timReceived_of_on src up on whole, noteTim_of_answer answers]
    exact congrArg _ (followTim_of_elsewhere elsewhere)
  case upstream =>
    rintro s _ t port src bytes _ _ rfl up on whole answers rfl here rfl
    rw [exec_timReceived_of_on src up on whole, noteTim_of_answer answers]
    exact congrArg _ (followTim_of_answer answers here)
  case quiet =>
    rintro s _ t p b z rfl up upstream last quiet chosen
    exact exec_upstreamLoss_of_quiet up upstream last quiet chosen
  case unlock =>
    rintro s _ t b rfl up locked unled follower lost long
    exact exec_noUpstreamUnlock_of_long up locked unled follower lost long
  case stale =>
    rintro s _ t port c rfl up known stale
    exact exec_candidateForgotten_of_stale up known stale
  case restore =>
    rintro s _ t rfl up held locked long
    exact exec_prioRestore_of_locked up held locked long

end Sys2Proof.Machine
end

section
/-! Heartbeats: sent (R331, R351), received, and the number found twice (R332). -/

namespace Sys2Proof.Machine

open Sys2Proof

/-! ## Heartbeats sent -/

/-- The heartbeat under the number `src` with the next FSEQ, on every ring port. -/
def sendHeartbeat (src : Nat) (s : State) : State :=
  forEach (ringIn (takeFseq false s).2)
    (fun p z => portSend p.val (frameBytes 8 (if s.net.coupler then scopeSys else scopeSeg) (if 2 ≤ p.val then 64 else 32) src src
      (takeFseq false s).1 (hbtPayload s)) z) (takeFseq false s).2

/-- An UNNUM device sends its heartbeat as device 0, a JOINED or DUPNUM one under its number. -/
theorem exec_hbtSend_of_up {s : State} {t : Time} (up : hubUp (s.at_ t) = true) (power : (s.at_ t).pwr.failing = false)
    (sends : ((s.at_ t).net.state == 1 || (s.at_ t).net.state == 3 || (s.at_ t).net.state == 4) = true) :
    exec (.hbtSend t) s = .next (sendHeartbeat (if (s.at_ t).net.state = 1 then 0 else (s.at_ t).net.num) (s.at_ t)) := by
  change execHbtSend t s = _
  unfold execHbtSend
  exact when_eq_next (by rw [up, power, sends]; rfl)

/-! ## Heartbeats received -/

/-- The flags of a heartbeat kept with their instant. -/
def noteHeartbeat (src : Nat) (bytes : List Byte) (s : State) : State :=
  { s with net := { s.net with hbts := (src, BitVec.ofNat 8 (u8 bytes 9), s.now) :: s.net.hbts.filter fun p => p.1 != src } }

/-- The PMAP of a coupler's heartbeat kept. -/
def notePmap (src : Nat) (bytes : List Byte) (s : State) : State :=
  if bitOf (u8 bytes 9) 4 then
    { s with net := { s.net with pmaps := (src, w32 bytes 12, s.now) :: s.net.pmaps.filter fun p => p.1 != src } }
  else s

/-- A heartbeat under the own number with another serial number, at a device that has or is about to take the number. -/
def foundTwice (src : Nat) (bytes : List Byte) (s : State) : Bool :=
  s.net.numValid && decide (src = s.net.num) && u64 bytes 0 != s.nvs.store.serial.toNat && (s.net.state == 2 || s.net.state == 3)

/-- DUPNUM, recorded with the other's serial number, and its source raised (R332). -/
def leaveNumber (bytes : List Byte) (s : State) : State :=
  raise 0x095 (recordArgs 0x0602 (srcOf 8 0) [u32 bytes 0, u32 bytes 4] (netLeave 4 s))

/-- A heartbeat of a numbered device is kept; one that finds the own number twice makes the device DUPNUM. -/
theorem exec_hbtReceived_of_numbered {s : State} {t : Time} {bytes : List Byte} (src : Nat) (up : hubUp (s.at_ t) = true)
    (numbered : bitOf (u8 bytes 9) 5 = false) {z : State} (noted : notePmap src bytes (noteHeartbeat src bytes (s.at_ t)) = z) :
    exec (.hbtReceived t src bytes) s = .next (if foundTwice src bytes z then leaveNumber bytes z else z) := by
  subst noted
  change execHbtReceived t src bytes s = _
  unfold execHbtReceived
  exact when_eq_next (by rw [up, numbered]; rfl)

theorem foundTwice_of_other {src : Nat} {s : State} (bytes : List Byte) (other : src ≠ s.net.num) : foundTwice src bytes s = false := by
  unfold foundTwice
  rw [decide_eq_false other, Bool.and_false, Bool.false_and, Bool.false_and]

theorem foundTwice_of_joined {src : Nat} {bytes : List Byte} {s : State} (valid : s.net.numValid = true) (own : src = s.net.num)
    (serial : u64 bytes 0 ≠ s.nvs.store.serial.toNat) (joined : s.net.state = 3) : foundTwice src bytes s = true := by
  unfold foundTwice
  rw [valid, decide_eq_true own, bne_iff_ne.mpr serial, joined]
  rfl

/-- Settles O42: a heartbeat is sent under the number that the state gives; one received is kept, and only one under the own number with
another serial number does more. -/
theorem heartbeatEvents : Obligations.HeartbeatEvents := by
  refine ⟨?unnumbered, ?numbered, ?coupler, ?device, ?twice, ?noNumber⟩
  case unnumbered =>
    rintro s _ t rfl up power state
    rw [exec_hbtSend_of_up up power (by rw [state]; rfl), if_pos state]
    rfl
  case numbered =>
    rintro s _ t rfl up power state
    obtain ⟨sends, named⟩ : ((s.at_ t).net.state == 1 || (s.at_ t).net.state == 3 || (s.at_ t).net.state == 4) = true ∧
        (s.at_ t).net.state ≠ 1 := by
      obtain state | state := state <;> rw [state] <;> decide
    rw [exec_hbtSend_of_up up power sends, if_neg named]
    rfl
  case coupler =>
    rintro s _ t src bytes rfl up numbered coupler other
    rw [exec_hbtReceived_of_numbered src up numbered (if_pos coupler)]
    exact congrArg _ (if_neg (Bool.not_eq_true _ ▸ foundTwice_of_other bytes other))
  case device =>
    rintro s _ t src bytes rfl up numbered device other
    rw [exec_hbtReceived_of_numbered src up numbered (if_neg (Bool.not_eq_true _ ▸ device))]
    exact congrArg _ (if_neg (Bool.not_eq_true _ ▸ foundTwice_of_other bytes other))
  case twice =>
    rintro s _ t src bytes _ rfl up numbered device valid own serial joined rfl
    rw [exec_hbtReceived_of_numbered src up numbered (if_neg (Bool.not_eq_true _ ▸ device))]
    exact congrArg _ (if_pos (foundTwice_of_joined valid own serial joined))
  case noNumber =>
    rintro s _ t src bytes rfl unnumbered
    change execHbtReceived t src bytes s = _
    unfold execHbtReceived
    refine when_of_fails _ _ ?_
    rw [unnumbered, Bool.not_true, Bool.and_false]

end Sys2Proof.Machine
end

section
/-! The management proxy: requests at their target, and at their origin the descriptors, replies and repeats (R331, R359, R576). -/

namespace Sys2Proof.Machine

open Sys2Proof

/-! ## A work that its opcode takes up -/

/-- At a running hub an opcode takes its work up and does its effect on it. -/
theorem onWork_of_ready {a : State} {r : WorkRef} {op : Nat} {x : Work} (f : Work → State → State) (ready : readyWork a r op = some x)
    (up : hubUp a = true) : onWork r op f a = .next (f x (takeUp r a)) := by
  unfold onWork
  simp only [ready]
  exact when_of_holds _ _ up

@[simp] theorem takeUp_nvs (r : WorkRef) (s : State) : (takeUp r s).nvs = s.nvs :=
  modWork_nvs r _ s

/-! ## At the target (R359, R576) -/

section Target

variable {s : State} {t : Time} {bytes : List Byte} (src : Nat)

theorem exec_mgtFrameRead_of_read (up : netUp (s.at_ t) = true) (whole : 8 ≤ bytes.length) (read : mgOp bytes = 1) :
    exec (.mgtFrameRead t src bytes) s = .next (mgOnce src bytes (mgServeRead src bytes) (s.at_ t)) := by
  change execMgtFrameRead t src bytes s = _
  unfold execMgtFrameRead
  exact when_eq_next (by rw [up, decide_eq_true whole, read]; rfl)

theorem exec_mgtFrameWrite_of_write (up : netUp (s.at_ t) = true) (write : mgOp bytes = 2)
    (whole : bytes.length = 8 + 4 * mgCount bytes) :
    exec (.mgtFrameWrite t src bytes) s = .next (mgOnce src bytes (mgServeWrite src bytes) (s.at_ t)) := by
  change execMgtFrameWrite t src bytes s = _
  unfold execMgtFrameWrite
  exact when_eq_next (by rw [up, write, beq_iff_eq.mpr whole]; rfl)

theorem exec_mgtFrameSetnum_of_own_serial (up : hubUp (s.at_ t) = true) (running : (s.at_ t).net.state ≠ 0) (setnum : mgOp bytes = 3)
    (whole : bytes.length = 18) (own : u64 bytes 8 = (s.at_ t).nvs.store.serial.toNat) :
    exec (.mgtFrameSetnum t src bytes) s = .next (serveSetnum src bytes (s.at_ t)) := by
  change execMgtFrameSetnum t src bytes s = _
  unfold execMgtFrameSetnum
  exact when_eq_next (by rw [up, bne_iff_ne.mpr running, setnum, whole, beq_iff_eq.mpr own]; rfl)

end Target

/-! ## The descriptors at the origin -/

section Origin

variable {s : State} {t : Time} {w : WorkRef} {x : Work} (up : hubUp (s.at_ t) = true)
include up

theorem exec_mgtread_of_remote {d : Nat} (ready : readyWork (s.at_ t) w 0x0800 = some x)
    (remote : place (takeUp w (s.at_ t)) x.bytes = .remote d) :
    exec (.mgtread t w) s = .next (mgRemote x d 1 (u16 x.bytes 32) (u16 x.bytes 34) [] (takeUp w (s.at_ t))) := by
  change execMgtread t w s = _
  unfold execMgtread
  rw [onWork_of_ready _ ready up]
  simp only [remote]

theorem exec_mgtread_of_here (ready : readyWork (s.at_ t) w 0x0800 = some x) (here : place (takeUp w (s.at_ t)) x.bytes = .here) :
    exec (.mgtread t w) s = .next (mgSelfRead x (u16 x.bytes 32) (u16 x.bytes 34) (takeUp w (s.at_ t))) := by
  change execMgtread t w s = _
  unfold execMgtread
  rw [onWork_of_ready _ ready up]
  simp only [here]

theorem exec_mgtwrite_of_remote {d : Nat} (ready : readyWork (s.at_ t) w 0x0801 = some x)
    (remote : place (takeUp w (s.at_ t)) x.bytes = .remote d) :
    exec (.mgtwrite t w) s = .next (mgRemote x d 2 (u16 x.bytes 32) (u16 x.bytes 34) (mgData x) (takeUp w (s.at_ t))) := by
  change execMgtwrite t w s = _
  unfold execMgtwrite
  rw [onWork_of_ready _ ready up]
  simp only [remote]

theorem exec_mgtwrite_of_here (ready : readyWork (s.at_ t) w 0x0801 = some x) (here : place (takeUp w (s.at_ t)) x.bytes = .here) :
    exec (.mgtwrite t w) s = .next (mgSelfWrite x (u16 x.bytes 32) (u16 x.bytes 34) (mgData x) (takeUp w (s.at_ t))) := by
  change execMgtwrite t w s = _
  unfold execMgtwrite
  rw [onWork_of_ready _ ready up]
  simp only [here]

/-- The serial number that SETNUM names is compared with the own one, which taking the work up leaves. -/
theorem exec_setnum_of_ready (ready : readyWork (s.at_ t) w 0x0802 = some x) :
    exec (.setnum t w) s =
      .next (if u64 x.bytes 32 = (s.at_ t).nvs.store.serial.toNat then
          setNumber (bits (u16 x.bytes 40) 0 10) true (finishDone x.ref 0 (takeUp w (s.at_ t)))
        else mgRequest x 1024 3 0 0 (slice x.bytes 32 8 ++ leBytes 2 (bits (u16 x.bytes 40) 0 10)) (takeUp w (s.at_ t))) := by
  change execSetnum t w s = _
  unfold execSetnum
  rw [onWork_of_ready _ ready up]
  simp only [takeUp_nvs]

end Origin

/-! ## Replies and repeats at the origin -/

/-- A request no longer waits for its reply. -/
def dropRequest (m : MgtOut) (s : State) : State := { s with host := { s.host with mgts := s.host.mgts.erase m } }

/-- A request is sent again at the present. -/
def countResend (m : MgtOut) (s : State) : State :=
  { s with host := { s.host with mgts := s.host.mgts.map fun y => if y == m then { y with sent := s.now, resends := y.resends + 1 } else y } }

theorem exec_mgtReply_of_request {s : State} {t : Time} {bytes : List Byte} {m : MgtOut} (src : Nat) (up : hubUp (s.at_ t) = true)
    (request : (s.at_ t).host.mgts.find? (fun m => m.mtag == mgTag bytes) = some m) (answers : mgOp bytes = mgOp m.frame + 0x80)
    (whole : mgOp m.frame ≠ 1 ∨ mgStat bytes ≠ 0 ∨ (bytes.drop 8).length = 4 * mgCount m.frame) :
    exec (.mgtReply t src bytes) s =
      .next (mgFinish src 4 (mgOp m.frame) m.w (mgStat bytes) (bytes.drop 8) (dropRequest m (s.at_ t))) := by
  have complete : (mgOp m.frame != 1 || mgStat bytes != 0 || (bytes.drop 8).length == 4 * mgCount m.frame) = true := by
    rw [Bool.or_eq_true, Bool.or_eq_true, bne_iff_ne, bne_iff_ne, beq_iff_eq, or_assoc]
    exact whole
  change execMgtReply t src bytes s = _
  unfold execMgtReply
  simp only [request]
  refine when_eq_next ?_
  rw [up, answers, beq_self_eq_true, complete]
  rfl

/-- A request without reply for 2 ms is given up after three repeats, and sent again before. -/
theorem exec_mgtResend_of_due {s : State} {t : Time} {mtag : BitVec 16} {m : MgtOut} (up : hubUp (s.at_ t) = true)
    (request : (s.at_ t).host.mgts.find? (fun m => m.mtag == mtag) = some m) (due : m.sent + ms 2 ≤ (s.at_ t).now) :
    exec (.mgtResend t mtag) s =
      .next (if 3 ≤ m.resends then finishWith m.w 0x21 0 0 0 0 [] (dropRequest m (s.at_ t))
        else mgSend m.target m.frame (countResend m (s.at_ t))) := by
  change execMgtResend t mtag s = _
  unfold execMgtResend
  simp only [request]
  refine when_eq_next ?_
  rw [up, decide_eq_true due]
  rfl

/-- Settles O60: each request by what its frame or its descriptor asks, each waiting request by its reply or by its repeats. -/
theorem managementCommands : Obligations.ManagementCommands := by
  refine ⟨?read, ?write, ?setnum, ?readRemote, ?readHere, ?writeRemote, ?writeHere, ?takeNumber, ?giveNumber, ?reply, ?timeout, ?again⟩
  case read =>
    rintro s _ t src bytes rfl up whole read
    exact exec_mgtFrameRead_of_read src up whole read
  case write =>
    rintro s _ t src bytes rfl up write whole
    exact exec_mgtFrameWrite_of_write src up write whole
  case setnum =>
    rintro s _ t src bytes rfl up running setnum whole own
    exact exec_mgtFrameSetnum_of_own_serial src up running setnum whole own
  case readRemote =>
    rintro s _ t w x d rfl ready up remote
    exact exec_mgtread_of_remote up ready remote
  case readHere =>
    rintro s _ t w x rfl ready up here
    exact exec_mgtread_of_here up ready here
  case writeRemote =>
    rintro s _ t w x d rfl ready up remote
    exact exec_mgtwrite_of_remote up ready remote
  case writeHere =>
    rintro s _ t w x rfl ready up here
    exact exec_mgtwrite_of_here up ready here
  case takeNumber =>
    rintro s _ t w x rfl ready up own
    rw [exec_setnum_of_ready up ready, if_pos own]
  case giveNumber =>
    rintro s _ t w x rfl ready up other
    rw [exec_setnum_of_ready up ready, if_neg other]
  case reply =>
    rintro s _ t src bytes m rfl up request answers whole
    exact exec_mgtReply_of_request src up request answers whole
  case timeout =>
    rintro s _ t mtag m rfl up request due third
    rw [exec_mgtResend_of_due up request due, if_pos third]
    rfl
  case again =>
    rintro s _ t mtag m rfl up request due fewer
    rw [exec_mgtResend_of_due up request due, if_neg (Nat.not_le.mpr fewer)]
    rfl

end Sys2Proof.Machine
end

section
/-! What every step keeps (R427, R490, R523, R537): each command answers a next state; all but eight leave the image partitions, the mirrored image
and the image-key slots (R375, R421, R438, R439, R444, R573), and those eight keep the partitions in their canonical form and every fuse. -/

namespace Sys2Proof.Machine

open Sys2Proof

-- One proof at a time: the check compiles every file as one text, within a limit of memory.
set_option Elab.async false

/-! ## The rows that leave the image partitions and the key slots -/

@[simp] theorem kept_at_fold (s : State) (t : Time) :
    (⟨max s.now t, s.pending, s.sec.ikey, s.sec.fkRev, s.sec.fieldLock, s.nvs.store.serial, s.nvs.store.idBad, s.img.part, s.pair.image⟩ : Kept) =
      kept (s.at_ t) := rfl

theorem same_execTileStart (t : Time) (tile : Fin 12) (lpt : Nat) (held : Time) (s : State) :
    Same (s.at_ t) (execTileStart t tile lpt held s) := by
  unfold execTileStart
  generalize s.at_ t = a
  exact Same.when (by simp)

theorem same_execLinkGood (t : Time) (tile : Fin 12) (up : Bool) (s : State) : Same (s.at_ t) (execLinkGood t tile up s) := by
  unfold execLinkGood
  generalize s.at_ t = a
  dsimp only
  split
  · exact Same.when (by simp)
  · exact Same.when (by simp)

theorem same_execRoleChangeApply (t : Time) (stamp : Word) (s : State) : Same (s.at_ t) (execRoleChangeApply t stamp s) := by
  unfold execRoleChangeApply
  generalize s.at_ t = a
  dsimp only
  refine Same.next ?_
  rw [kept_ite, kept_standAside, ite_self]
  refine kept_forEach _ _ _ fun x z => ?_
  split <;> simp

theorem same_execAdcConversion (t : Time) (k : Fin 96) (x aux : Word) (s : State) : Same (s.at_ t) (execAdcConversion t k x aux s) := by
  unfold execAdcConversion
  generalize s.at_ t = a
  exact Same.when (by simp)

theorem same_execHartQtimeExpiry (t : Time) (w : WorkRef) (s : State) : Same (s.at_ t) (execHartQtimeExpiry t w s) := by
  unfold execHartQtimeExpiry
  generalize s.at_ t = a
  dsimp only
  split
  · exact Same.noEffect _
  · split
    · exact Same.noEffect _
    · exact Same.when (by simp)

theorem same_execHartStartedDurable (t : Time) (w : WorkRef) (s : State) : Same (s.at_ t) (execHartStartedDurable t w s) := by
  unfold execHartStartedDurable
  generalize s.at_ t = a
  dsimp only
  split
  · exact Same.noEffect _
  · split
    · exact Same.noEffect _
    · exact Same.when (by simp)

theorem same_execClampEventEnd (t : Time) (j : Fin 96) (energy : Nat) (s : State) : Same (s.at_ t) (execClampEventEnd t j energy s) := by
  unfold execClampEventEnd
  generalize s.at_ t = a
  exact Same.next (by simp)

theorem same_execMirrorCheck (t : Time) (tile : Fin 12) (mirror sense : Nat) (s : State) :
    Same (s.at_ t) (execMirrorCheck t tile mirror sense s) := by
  unfold execMirrorCheck
  generalize s.at_ t = a
  dsimp only
  have sense (z : State) (b : Bank TSns 12) : kept { z with sns := b } = kept z := rfl
  refine Same.when ?_
  rw [kept_ite, sense, kept_ite, kept_raise, kept_judgingTile _ _ _ fun z => sense z _, ite_self, ite_self]

theorem same_execDiagSlotEnd (t : Time) (slot : Nat) (v1 v2 : Int) (s : State) : Same (s.at_ t) (execDiagSlotEnd t slot v1 v2 s) := by
  unfold execDiagSlotEnd
  generalize s.at_ t = a
  dsimp only
  split
  · exact Same.noEffect _
  · exact Same.when (by (repeat' split) <;> simp)

theorem same_execInsulationHourly (t : Time) (s : State) : Same (s.at_ t) (execInsulationHourly t s) := by
  unfold execInsulationHourly
  generalize s.at_ t = a
  exact Same.next (by simp)

theorem same_execTimReceived (t : Time) (port : Fin 4) (_src : Nat) (bytes : List Byte) (s : State) :
    Same (s.at_ t) (execTimReceived t port _src bytes s) := by
  unfold execTimReceived
  generalize s.at_ t = a
  exact Same.when (by simp)

theorem same_execJnlEntry (t : Time) (joff : Word) (bytes : List Byte) (s : State) : Same (s.at_ t) (execJnlEntry t joff bytes s) := by
  unfold execJnlEntry
  generalize s.at_ t = a
  dsimp only
  split
  · exact Same.noEffect _
  · refine Same.when ?_
    rw [kept_ite, kept_takeEntries, kept_ite, kept_takeEntries, kept_mk, kept_mk]
    simp

theorem same_execFenceRelease (t : Time) (w : WorkRef) (s : State) : Same (s.at_ t) (execFenceRelease t w s) := by
  unfold execFenceRelease
  generalize s.at_ t = a
  dsimp only
  split
  · exact Same.when (by simp)
  · exact Same.when (by simp)

theorem same_execFence (t : Time) (w : WorkRef) (s : State) : Same (s.at_ t) (execFence t w s) := by
  unfold execFence
  generalize s.at_ t = a
  dsimp only
  split
  · exact Same.ite (Same.noEffect _) (Same.onWork (by simp))
  · exact Same.noEffect _

theorem same_execImgrevert (t : Time) (w : WorkRef) (s : State) : Same (s.at_ t) (execImgrevert t w s) := by
  unfold execImgrevert
  generalize s.at_ t = a
  refine Same.onImage fun w z => ?_
  unfold unlessArmed
  split
  · exact kept_endWork ..
  · dsimp only
    split <;> simp

theorem same_execRelease (t : Time) (w : WorkRef) (s : State) : Same (s.at_ t) (execRelease t w s) := by
  unfold execRelease
  generalize s.at_ t = a
  refine Same.onWork fun w z => ?_
  dsimp only
  split <;> simp

theorem same_execRecnote (t : Time) (w : WorkRef) (s : State) : Same (s.at_ t) (execRecnote t w s) := by
  unfold execRecnote
  generalize s.at_ t = a
  exact Same.ite (Same.noEffect _) (Same.onWork (by simp))

theorem same_execBlockRecovery (t : Time) (src : Nat) (back : Bool) (s : State) : Same (s.at_ t) (execBlockRecovery t src back s) := by
  unfold execBlockRecovery
  generalize s.at_ t = a
  dsimp only
  split
  · exact Same.ite (Same.when (by simp)) (Same.when (by simp))
  · exact Same.noEffect _

theorem same_execResetPin (t : Time) (pin : PinIs) (held : Time) (s : State) : Same (s.at_ t) (execResetPin t pin held s) := by
  unfold execResetPin
  generalize s.at_ t = a
  refine Same.ite (Same.next (by simp)) (Same.ite (Same.next (by simp)) (Same.ite (Same.next rfl) (Same.next ?_)))
  split <;> simp

theorem same_execIntrusion (t : Time) (s : State) : Same (s.at_ t) (execIntrusion t s) := by
  unfold execIntrusion
  generalize s.at_ t = a
  exact Same.next (by simp)

theorem same_execYieldHoldoffEnd (t : Time) (s : State) : Same (s.at_ t) (execYieldHoldoffEnd t s) := by
  unfold execYieldHoldoffEnd
  generalize s.at_ t = a
  dsimp only
  split
  · exact Same.noEffect _
  · exact Same.when (by simp)

theorem same_execShdReceived (t : Time) (bytes : List Byte) (s : State) : Same (s.at_ t) (execShdReceived t bytes s) := by
  unfold execShdReceived
  generalize s.at_ t = a
  refine Same.when ?_
  simp only [kept_ite, kept_resendJournal, kept_sendStaged, kept_shadowAll, kept_sendCast, kept_partnerAccepts, kept_arming, kept_dualActive,
    kept_negotiate, kept_mk, kept_fold, ite_self]

theorem same_execEdgecalMeasurement (t : Time) (k : Fin 96) (on : Bool) (ticks : Nat) (level1 : Bool) (s : State) :
    Same (s.at_ t) (execEdgecalMeasurement t k on ticks level1 s) := by
  unfold execEdgecalMeasurement
  generalize s.at_ t = a
  dsimp only
  split
  · exact Same.noEffect _
  · refine Same.when ?_
    simp only [kept_ite, kept_setVerdict, kept_clearVerdict, kept_modRun, kept_modDg, kept_putEdge, ite_self]

/-- The rows that change no image partition, no mirrored image and no key slot: all but eight. -/
def leavesImages (c : Instr) : Prop :=
  match c with
  | .imgload .. | .imgdiscard .. | .jnlImage .. | .epochBoundary .. | .epochJoin .. | .hubResetRelease .. | .porRelease .. | .secCmdDone .. => False
  | _ => True

/-- Each of them answers a next state with exactly the kept parts that it found, by the shape of its meaning. -/
theorem same_exec (c : Instr) (s : State) (leaves : leavesImages c) : ∃ t, Same (s.at_ t) (exec c s) := by
  cases c
  case imgload | imgdiscard | jnlImage | epochBoundary | epochJoin | hubResetRelease | porRelease | secCmdDone => exact leaves.elim
  -- Effects under a condition: tiles, analog channels and HART.
  case tileSupplyLow | tileSupplyGood | brownout | rideThroughEnd | tileStop | diewarn | tileDownstreamFrame | hubUpstreamFrame |
    comparatorFlash | hubReflexFlash | noticeFlash | tileLinkSilent | hubLinkSilent | hubLinkResume | fclkLock | holdwinExpiry | tileRestore
    | tcmdSet | tcmdDuty | tcmdReplace | tcmdCancel | tcmdRelease | tcmdReservedOp | tcmdExecute | mgtRestoreAck | mgtPartitionReset |
    mgtConfigCommit | roleChange | tileLock | comparatorDecision | fastSenseConversion | complSet | complClear | complactLowReturn |
    sinkOpen | sinkRetry | trimPress | trimTimeout | hartReplyReceived | hartTreplyExpiry | hartLoopSilence | hartBurstFrame |
    hartModemStart | hartModemEnd | hartModemAbort | hartRxByte =>
    simp only [exec, execTileSupplyLow, execTileSupplyGood, execBrownout, execRideThroughEnd, execTileStop, execDiewarn,
      execTileDownstreamFrame, execHubUpstreamFrame, execComparatorFlash, execHubReflexFlash, execNoticeFlash, execTileLinkSilent,
      execHubLinkSilent, execHubLinkResume, execFclkLock, execHoldwinExpiry, execTileRestore, execTcmdSet, execTcmdDuty, execTcmdReplace,
      execTcmdCancel, execTcmdRelease, execTcmdReservedOp, execTcmdExecute, execMgtRestoreAck, execMgtPartitionReset, execMgtConfigCommit,
      execRoleChange, execTileLock, execComparatorDecision, execFastSenseConversion, execComplSet, execComplClear, execComplactLowReturn,
      execSinkOpen, execSinkRetry, execTrimPress, execTrimTimeout, execHartReplyReceived, execHartTreplyExpiry, execHartLoopSilence,
      execHartBurstFrame, execHartModemStart, execHartModemEnd, execHartModemAbort, execHartRxByte]
    exact ⟨_, Same.when (by simp)⟩
  -- Effects under a condition: digital channels, switches and diagnostics.
  case inputRawChange | edgeAccept | divminLow | divminRecover | namLineFault | namLineFaultClear | pwmPeriodStart | pwmOnTimeEnd |
    trainPulse | currentLimit | shortVerdict | overloadVerdict | retrytExpiry | thermalShutdown | thermalCooled | valveTpeakEnd | capRampEnd
    | clampEnergyLimit | clampBinRoll | tileTrip | sselCodeTaken | verdictQualified | openLoadOn | verdictRecord | partestTransition =>
    simp only [exec, execInputRawChange, execEdgeAccept, execDivminLow, execDivminRecover, execNamLineFault, execNamLineFaultClear,
      execPwmPeriodStart, execPwmOnTimeEnd, execTrainPulse, execCurrentLimit, execShortVerdict, execOverloadVerdict, execRetrytExpiry,
      execThermalShutdown, execThermalCooled, execValveTpeakEnd, execCapRampEnd, execClampEnergyLimit, execClampBinRoll, execTileTrip,
      execSselCodeTaken, execVerdictQualified, execOpenLoadOn, execVerdictRecord, execPartestTransition]
    exact ⟨_, Same.when (by simp)⟩
  -- Effects under a condition: engines, epochs, Pelrun and the pair.
  case axisTick | encoderEdge | zEdge | encoderLineFault | lostClear | axsFrameReceived | axsSilence | timeLaneIssue | trdmaxExpiry |
    hubReflexQualExpiry | loopSample | totaliserIncrement | commitSetClose | commitLoad | tokFrame | tokenDeadline | imgFrameReceived |
    cutDeadline | portUp | portDown | pelrunFrame | sourceForgotten | timSend | noUpstreamUnlock | candidateForgotten | prioRestore |
    hbtSend | hbtReceived | listenEnd | allPortsDown | imgSend | reqReceived | reqHoldExpiry | rspReceived | mgtFrameRead | mgtFrameWrite |
    mgtFrameSetnum | shdSend | orphwaitExpiry | armedLinkLoss | partneredLinkLoss | jnlState | cchCouchset | cchYield |
    cchTaken | witnessAssert =>
    simp only [exec, execAxisTick, execEncoderEdge, execZEdge, execEncoderLineFault, execLostClear, execAxsFrameReceived, execAxsSilence,
      execTimeLaneIssue, execTrdmaxExpiry, execHubReflexQualExpiry, execLoopSample, execTotaliserIncrement, execCommitSetClose,
      execCommitLoad, execTokFrame, execTokenDeadline, execImgFrameReceived, execCutDeadline, execPortUp, execPortDown, execPelrunFrame,
      execSourceForgotten, execTimSend, execNoUpstreamUnlock, execCandidateForgotten, execPrioRestore, execHbtSend, execHbtReceived,
      execListenEnd, execAllPortsDown, execImgSend, execReqReceived, execReqHoldExpiry, execRspReceived, execMgtFrameRead,
      execMgtFrameWrite, execMgtFrameSetnum, execShdSend, execOrphwaitExpiry, execArmedLinkLoss, execPartneredLinkLoss,
      execJnlState, execCchCouchset, execCchYield, execCchTaken, execWitnessAssert]
    exact ⟨_, Same.when (by simp)⟩
  -- Effects under a condition: rings and queues.
  case eq0HeadUpdate | wdhHeartbeat | crEnable | crDisable | drainComplete | ringError | forget | iqEnable | eq0Enable | storeAccept |
    cqModerationTimer =>
    simp only [exec, execEq0HeadUpdate, execWdhHeartbeat, execCrEnable, execCrDisable, execDrainComplete, execRingError, execForget,
      execIqEnable, execEq0Enable, execStoreAccept, execCqModerationTimer]
    exact ⟨_, Same.when (by simp)⟩
  -- Effects under a condition: faults, clocks, resets, power and the gate.
  case faultEvent | wireFault | trapAckTimeout | c4PendAutoClear | pendClear | fltConfigRequest | injWrite | clockMonitor | cclkPllLock |
    wdaExpire | wdhExpire | devrst | vlogGood | powerFail | flushDone | flushFloor | plinthLoss | holdupTest | holdupTestEnd | tsetUpdate |
    gateJournal | gateStage | gateStorerec | gatePatinard =>
    simp only [exec, execFaultEvent, execWireFault, execTrapAckTimeout, execC4PendAutoClear, execPendClear, execFltConfigRequest,
      execInjWrite, execClockMonitor, execCclkPllLock, execWdaExpire, execWdhExpire, execDevrst, execVlogGood, execPowerFail, execFlushDone,
      execFlushFloor, execPlinthLoss, execHoldupTest, execHoldupTestEnd, execTsetUpdate, execGateJournal, execGateStage, execGateStorerec,
      execGatePatinard]
    exact ⟨_, Same.when (by simp)⟩
  -- Effects under a condition: firmware, store, recorder, check units and setup.
  case fwGo | fwOpen | fwChunk | fwApply | goodMark | patinaWrite | storewear | recordSealTime | recorderStall | thriftEvaluation |
    recRdseqWrite | cuStart | cuData | cuLast | cuAbort | timeSubmit | timeCmdStep | pelNumWrite | pelCouplerWrite | nvsRdselWrite |
    secProgram | secRevoke | secToken | secClrintr | registerWrite | studioRunning | trapHandlerEnd | hartTxdone | couchHartWindowEnd |
    tileLinkMastersStop | clampStageReenable | currentBelowCeiling | analogCurrentLimit | namurLptBelow10v | neverOffHourlyRecord |
    nvsRdwinLoaded =>
    simp only [exec, execFwGo, execFwOpen, execFwChunk, execFwApply, execGoodMark, execPatinaWrite, execStorewear, execRecordSealTime,
      execRecorderStall, execThriftEvaluation, execRecRdseqWrite, execCuStart, execCuData, execCuLast, execCuAbort, execTimeSubmit,
      execTimeCmdStep, execPelNumWrite, execPelCouplerWrite, execNvsRdselWrite, execSecProgram, execSecRevoke, execSecToken, execSecClrintr,
      execRegisterWrite, execStudioRunning, execTrapHandlerEnd, execHartTxdone, execCouchHartWindowEnd, execTileLinkMastersStop,
      execClampStageReenable, execCurrentBelowCeiling, execAnalogCurrentLimit, execNamurLptBelow10v, execNeverOffHourlyRecord,
      execNvsRdwinLoaded]
    exact ⟨_, Same.when (by simp)⟩
  -- Effects that differ by case, under a condition.
  case tackReport | hartBudgetExpiry | diagSlotStart | crTailDoorbell | cqHeadUpdate | iqHeadUpdate | cqEnable | descriptorFetch | kclkCheck
    | wdaKey | gateModemset | gateFltreq | gateStarted | eq0Deliver | recRdwinLoaded =>
    simp only [exec, execTackReport, execHartBudgetExpiry, execDiagSlotStart, execCrTailDoorbell, execCqHeadUpdate, execIqHeadUpdate,
      execCqEnable, execDescriptorFetch, execKclkCheck, execWdaKey, execGateModemset, execGateFltreq, execGateStarted, execEq0Deliver,
      execRecRdwinLoaded]
    exact ⟨_, Same.when (by (repeat' split) <;> simp)⟩
  -- Effects on something that the state may hold: nothing happens where it holds none.
  case tileReflexQualExpiry | diagWindowAbort | isoMeasurementEnd | tokVerdict | memberDepart | upstreamLoss |
    reqResend | mgtReply | mgtResend | jnlFwd | jnlCpl | couchStep | completionPost | stagingEnd | shadowBankLoaded | roleRecordWritten |
    fwLoadEnd | storeEraseDone | storeWriteDone | recEventTake | cujobDone =>
    simp only [exec, execTileReflexQualExpiry, execDiagWindowAbort, execIsoMeasurementEnd, execTokVerdict,
      execMemberDepart, execUpstreamLoss, execReqResend, execMgtReply, execMgtResend, execJnlFwd, execJnlCpl, execCouchStep,
      execCompletionPost, execStagingEnd, execShadowBankLoaded, execRoleRecordWritten, execFwLoadEnd, execStoreEraseDone,
      execStoreWriteDone, execRecEventTake, execCujobDone]
    apply Exists.intro
    split
    · exact Same.noEffect _
    · exact Same.when (by simp)
  case trimPressRepeat | hartStale | cchCouchgo | cchCouchend | cchCouchabort | rehearsalEnd =>
    simp only [exec, execTrimPressRepeat, execHartStale, execCchCouchgo, execCchCouchend, execCchCouchabort, execRehearsalEnd]
    apply Exists.intro
    split
    · exact Same.when (by simp)
    · exact Same.noEffect _
  -- Opcodes.
  case nop | tagwrite | tagwriten | tagread | restoreack | trimdisarm | trimclear | override | ovrelease | reflexrel | recread | couch |
    seize | yield | setnum =>
    simp only [exec, execNop, execTagwrite, execTagwriten, execTagread, execRestoreack, execTrimdisarm, execTrimclear, execOverride,
      execOvrelease, execReflexrel, execRecread, execCouch, execSeize, execYield, execSetnum]
    exact ⟨_, Same.onWork (by simp)⟩
  case harttx | trimarm | test | cujob | mgtread | mgtwrite =>
    simp only [exec, execHarttx, execTrimarm, execTest, execCujob, execMgtread, execMgtwrite]
    exact ⟨_, Same.onWork (by intros; (repeat' split) <;> simp)⟩
  case imgstage | imgrehearse | imgactivate =>
    simp only [exec, execImgstage, execImgrehearse, execImgactivate]
    exact ⟨_, Same.onImage (by simp)⟩
  -- Rows with a lemma of their own.
  case tileStart t tile lpt held => exact ⟨t, same_execTileStart t tile lpt held s⟩
  case linkGood t tile up => exact ⟨t, same_execLinkGood t tile up s⟩
  case tcmdNop t _ _ _ _ _ _ => exact ⟨t, Same.next rfl⟩
  case roleChangeApply t stamp => exact ⟨t, same_execRoleChangeApply t stamp s⟩
  case adcConversion t k x aux => exact ⟨t, same_execAdcConversion t k x aux s⟩
  case hartQtimeExpiry t w => exact ⟨t, same_execHartQtimeExpiry t w s⟩
  case hartStartedDurable t w => exact ⟨t, same_execHartStartedDurable t w s⟩
  case clampEventEnd t k energy => exact ⟨t, same_execClampEventEnd t k energy s⟩
  case mirrorCheck t tile mirror sense => exact ⟨t, same_execMirrorCheck t tile mirror sense s⟩
  case diagSlotEnd t slot v1 v2 => exact ⟨t, same_execDiagSlotEnd t slot v1 v2 s⟩
  case insulationHourly t => exact ⟨t, same_execInsulationHourly t s⟩
  case timReceived t port src bytes => exact ⟨t, same_execTimReceived t port src bytes s⟩
  case shdReceived t bytes => exact ⟨t, same_execShdReceived t bytes s⟩
  case edgecalMeasurement t k on ticks level1 => exact ⟨t, same_execEdgecalMeasurement t k on ticks level1 s⟩
  case jnlEntry t joff bytes => exact ⟨t, same_execJnlEntry t joff bytes s⟩
  case fenceRelease t w => exact ⟨t, same_execFenceRelease t w s⟩
  case fence t w => exact ⟨t, same_execFence t w s⟩
  case imgrevert t w => exact ⟨t, same_execImgrevert t w s⟩
  case release t w => exact ⟨t, same_execRelease t w s⟩
  case recnote t w => exact ⟨t, same_execRecnote t w s⟩
  case blockRecovery t src back => exact ⟨t, same_execBlockRecovery t src back s⟩
  case resetPin t pin held => exact ⟨t, same_execResetPin t pin held s⟩
  case intrusion t => exact ⟨t, same_execIntrusion t s⟩
  case yieldHoldoffEnd t => exact ⟨t, same_execYieldHoldoffEnd t s⟩

/-! ## Every row -/

theorem keeps_exec (c : Instr) (s : State) : ∃ t, Keeps (s.at_ t) (exec c s) := by
  have others (leaves : leavesImages c) : ∃ t, Keeps (s.at_ t) (exec c s) := by
    obtain ⟨t, same⟩ := same_exec c s leaves
    exact ⟨t, same.keeps⟩
  cases c
  case imgload t w => exact ⟨t, keeps_execImgload t w s⟩
  case imgdiscard t w => exact ⟨t, keeps_execImgdiscard t w s⟩
  case jnlImage t off bytes last => exact ⟨t, keeps_execJnlImage t off bytes last s⟩
  case epochBoundary t => exact ⟨t, keeps_execEpochBoundary t s⟩
  case epochJoin t => exact ⟨t, keeps_execEpochJoin t s⟩
  case hubResetRelease t => exact ⟨t, keeps_execHubResetRelease t s⟩
  case porRelease t straps => exact ⟨t, keeps_execPorRelease t straps s⟩
  case secCmdDone t => exact ⟨t, keeps_execSecCmdDone t s⟩
  all_goals exact others trivial

/-- A step keeps what every operation keeps; apart from it, it takes the front of the queue and moves the time forward. -/
theorem grows_of_exec {c : Instr} {s z : State} (answer : exec c s = .next z) : ∃ t, Grows (kept (s.at_ t)) (kept z) := by
  obtain ⟨t, y, next, grows⟩ := keeps_exec c s
  obtain rfl := Host.Outcome.next.inj (next.symm.trans answer)
  exact ⟨t, grows⟩

/-- A step, with the queue and the time that its command begins with. -/
theorem grows_of_step {s z : State} (answer : step s = .next z) :
    ∃ pending t, Grows (kept ({ s with pending := pending }.at_ t)) (kept z) := by
  unfold step at answer
  split at answer
  next empty =>
    obtain rfl := Host.Outcome.next.inj answer
    refine ⟨s.pending, s.now, Grows.of_eq ?_⟩
    simp [State.at_]
  next c rest front =>
    obtain ⟨t, grows⟩ := grows_of_exec answer
    exact ⟨rest, t, grows⟩

/-- Settles O3: every row keeps what Laws/Kept.lean names, so it answers. -/
theorem everyCommandAnswers : Obligations.EveryCommandAnswers := by
  intro c s
  obtain ⟨t, z, next, -⟩ := keeps_exec c s
  exact ⟨z, next⟩

/-- Settles O4: the canonical form is among what a step keeps. -/
theorem wellFormedKept : Obligations.WellFormedKept := by
  intro s z wf answer
  obtain ⟨pending, t, -, -, -, -, -, -, -, canonical⟩ := grows_of_step answer
  exact Bool.and_eq_true_iff.mpr (canonical (Bool.and_eq_true_iff.mp wf))

/-- Settles O5: so are the fuses and the factory's data. -/
theorem fusesHeld_of_step : Obligations.FusesHeld := by
  intro s z answer
  obtain ⟨pending, t, -, -, ⟨digests, revocations⟩, fkRev, fieldLock, serial, idBad, -⟩ := grows_of_step answer
  exact ⟨digests, revocations, fkRev, fieldLock, serial, idBad⟩

/-- Settles O6: a command leaves the queue that it is given, the rest, and its instant moves the time forward only. -/
theorem queueAndTimeKept : Obligations.QueueAndTimeKept := by
  intro s z c rest front answer
  unfold step at answer
  rw [front] at answer
  obtain ⟨t, now, pending, -⟩ := grows_of_exec answer
  exact ⟨pending, Nat.le_trans (Nat.le_max_left s.now t) (Nat.le_of_eq now.symm)⟩

/-- Settles O7: a row that leaves the images leaves all of what is kept. -/
theorem onlyImageRowsChangeImages : Obligations.OnlyImageRowsChangeImages := by
  intro c s z answer other
  obtain ⟨t, y, next, same⟩ := same_exec c s other
  obtain rfl := Host.Outcome.next.inj (next.symm.trans answer)
  have part : y.img.part = s.img.part := congrArg Kept.part same
  have mirror : y.pair.image = s.pair.image := congrArg Kept.mirror same
  have ikey : y.sec.ikey = s.sec.ikey := congrArg Kept.ikey same
  exact ⟨fun i a => by rw [part], fun a => by rw [mirror], ikey⟩

/-- Settles O1: what `step` is on a queue with a front. -/
theorem stepTakesTheFront : Obligations.StepTakesTheFront := by
  intro s c rest front
  unfold step
  rw [front]

end Sys2Proof.Machine
end

section
/-! Sparse partitions (log entry 9): a byte read after a write, and equal contents as equal lists; and what an image load writes (R375, R438). -/

namespace Sys2Proof.Machine

open Sys2Proof

-- One proof at a time: the check compiles every file as one text, within a limit of memory.
set_option Elab.async false

/-! ## Keyed lists -/

theorem lookupD_eq_lookupO {α : Type} (l : List (Nat × α)) (k : Nat) (d : α) : lookupD l k d = (lookupO l k).getD d := by
  unfold lookupD lookupO
  cases l.find? (fun e => e.1 == k) <;> rfl

theorem lookupO_cons {α : Type} (j : Nat) (v : α) (l : List (Nat × α)) (k : Nat) :
    lookupO ((j, v) :: l) k = if j = k then some v else lookupO l k := by
  by_cases same : j = k <;> simp [lookupO, same]

theorem lookupO_insertK {α : Type} (k x : Nat) (v : α) (l : List (Nat × α)) :
    lookupO (insertK k v l) x = if k = x then some v else lookupO l x := by
  induction l with
  | nil => exact lookupO_cons k v [] x
  | cons e l ih =>
    obtain ⟨j, w⟩ := e
    unfold insertK
    split
    · exact lookupO_cons k v _ x
    · split
      next same =>
        subst same
        simp only [lookupO_cons]
        split <;> rfl
      next other =>
        simp only [lookupO_cons, ih]
        split
        next here => rw [if_neg (here ▸ other)]
        next => rfl

theorem lookupO_eraseK {α : Type} (k x : Nat) (l : List (Nat × α)) :
    lookupO (eraseK k l) x = if k = x then none else lookupO l x := by
  unfold lookupO eraseK
  rw [List.find?_filter]
  split
  next same =>
    subst same
    simp
  next other =>
    congr 2
    funext e
    by_cases here : e.1 = x
    · simp [here, Ne.symm other]
    · simp [here]

/-! ## Cells -/

theorem cellRead_eq_lookupO (m : List Host.Cell) (x : Nat) : cellRead m x = (lookupO m x).getD 0 :=
  lookupD_eq_lookupO m x 0

theorem cellRead_cons (j : Nat) (v : Byte) (m : List Host.Cell) (x : Nat) :
    cellRead ((j, v) :: m) x = if j = x then v else cellRead m x := by
  simp only [cellRead_eq_lookupO, lookupO_cons]
  split <;> rfl

theorem cellRead_cellWrite (a x : Nat) (b : Byte) (m : List Host.Cell) :
    cellRead (cellWrite a b m) x = if a = x then b else cellRead m x := by
  unfold cellWrite
  split
  next zero =>
    simp only [cellRead_eq_lookupO, lookupO_eraseK, zero]
    split <;> rfl
  next =>
    simp only [cellRead_eq_lookupO, lookupO_insertK]
    split <;> rfl

theorem cellRead_cellWrites_of_outside {off x : Nat} (bytes : List Byte) (m : List Host.Cell)
    (outside : x < off ∨ off + bytes.length ≤ x) : cellRead (cellWrites off bytes m) x = cellRead m x := by
  induction bytes generalizing off m with
  | nil => rfl
  | cons b bs ih =>
    rw [List.length_cons] at outside
    have elsewhere : off ≠ x := by omega
    rw [cellWrites, ih _ (by omega), cellRead_cellWrite, if_neg elsewhere]

/-! ## The canonical form -/

theorem wfFrom_cons {lo j : Nat} {v : Byte} {m : List Host.Cell} (wf : Memory.wfFrom lo ((j, v) :: m) = true) :
    lo ≤ j ∧ v ≠ 0 ∧ Memory.wfFrom (j + 1) m = true := by
  simpa [Memory.wfFrom, and_assoc] using wf

/-- Below the address from which a canonical list rises it lists no byte. -/
theorem cellRead_of_lt {lo x : Nat} {m : List Host.Cell} (wf : Memory.wfFrom lo m = true) (below : x < lo) : cellRead m x = 0 := by
  induction m generalizing lo with
  | nil => rfl
  | cons e m ih =>
    obtain ⟨from_lo, -, rest⟩ := wfFrom_cons wf
    have elsewhere : e.1 ≠ x := by omega
    rw [cellRead_cons, if_neg elsewhere]
    exact ih rest (by omega)

theorem cellRead_head (j : Nat) (v : Byte) (m : List Host.Cell) : cellRead ((j, v) :: m) j = v := by
  rw [cellRead_cons, if_pos rfl]

/-- A canonical list whose first address is below that of another reads a byte that the other does not list. -/
theorem exists_cellRead_ne_of_lt {lo j : Nat} {v : Byte} {m n : List Host.Cell} (wf : Memory.wfFrom lo ((j, v) :: m) = true)
    (later : Memory.wfFrom (j + 1) n = true) : cellRead ((j, v) :: m) j ≠ cellRead n j := by
  obtain ⟨-, nonzero, -⟩ := wfFrom_cons wf
  rw [cellRead_head, cellRead_of_lt later (Nat.lt_succ_self j)]
  exact nonzero

theorem wfFrom_of_lt {lo i j : Nat} {w : Byte} {n : List Host.Cell} (wf : Memory.wfFrom lo ((i, w) :: n) = true) (later : j < i) :
    Memory.wfFrom (j + 1) ((i, w) :: n) = true := by
  obtain ⟨-, nonzero, rest⟩ := wfFrom_cons wf
  exact Bool.and_eq_true_iff.mpr ⟨Bool.and_eq_true_iff.mpr ⟨decide_eq_true later, bne_iff_ne.mpr nonzero⟩, rest⟩

theorem eq_of_cellRead_eq {lo : Nat} {m n : List Host.Cell} (wfm : Memory.wfFrom lo m = true) (wfn : Memory.wfFrom lo n = true)
    (alike : ∀ x, cellRead m x = cellRead n x) : m = n := by
  induction m generalizing lo n with
  | nil =>
    cases n with
    | nil => rfl
    | cons e n => exact absurd (alike e.1).symm (exists_cellRead_ne_of_lt wfn rfl)
  | cons e m ih =>
    obtain ⟨j, v⟩ := e
    cases n with
    | nil => exact absurd (alike j) (exists_cellRead_ne_of_lt wfm rfl)
    | cons d n =>
      obtain ⟨i, w⟩ := d
      obtain lt | rfl | gt := Nat.lt_trichotomy j i
      · exact absurd (alike j) (exists_cellRead_ne_of_lt wfm (wfFrom_of_lt wfn lt))
      · obtain ⟨-, -, restm⟩ := wfFrom_cons wfm
        obtain ⟨-, -, restn⟩ := wfFrom_cons wfn
        have value : v = w := by simpa only [cellRead_head] using alike j
        have rest : m = n := ih restm restn fun x => by
          obtain low | high := Nat.lt_or_ge x (j + 1)
          · rw [cellRead_of_lt restm low, cellRead_of_lt restn low]
          · have elsewhere : j ≠ x := by omega
            simpa only [cellRead_cons, if_neg elsewhere] using alike x
        rw [value, rest]
      · exact absurd (alike i).symm (exists_cellRead_ne_of_lt wfn (wfFrom_of_lt wfm gt))

/-- Settles O8: a read after a write, by the lookup in a keyed list; equal contents, by recursion on the rising addresses. -/
theorem cellsReadBack : Obligations.CellsReadBack := by
  refine ⟨fun m a x b wf => ⟨?_, cellWrite_wf a b m wf⟩, fun m n wfm wfn alike => eq_of_cellRead_eq wfm wfn alike⟩
  rw [cellRead_cellWrite]
  simp only [eq_comm (a := a) (b := x)]

/-! ## The last part of a mirrored image -/

/-- A mirrored image that is complete but no image leaves none under way. -/
theorem mirrorImage_image_of_no_image {s : State} (no : imageBytes s.pair.image = none) : (mirrorImage s).pair.image = [] := by
  unfold mirrorImage
  dsimp only
  split
  next => exact congrArg Kept.mirror (kept_stageNow _)
  next b whole => exact absurd (whole.symm.trans no) (by simp)

/-- A running STANDBY member to which one byte of its partner's image has come. -/
def mirroringMember : State := { State.reset with
  pwr := { State.reset.pwr with phase := .run }
  pair := { State.reset.pair with state := .standby, image := [(0, 1)] } }

/-- The same when the last part, of no byte, has come. -/
theorem exec_jnlImage_mirroringMember :
    exec (.jnlImage 0 8 [] true) mirroringMember = .next (mirrorImage (maqChanged .loaded mirroringMember)) := by
  rfl

/-- Refutes O10: the last part of a mirrored image, here one of no byte at offset 8, empties the mirrored image, so byte 0 does not stay. -/
theorem not_imageLoadsChangeOnlyTheirSpan : ¬ Obligations.ImageLoadsChangeOnlyTheirSpan := by
  rintro ⟨-, mirrored⟩
  obtain ⟨outside, -⟩ := mirrored _ _ _ _ _ _ exec_jnlImage_mirroringMember
  have image : (maqChanged .loaded mirroringMember).pair.image = [(0, 1)] := congrArg Kept.mirror (kept_maqChanged .loaded mirroringMember)
  have emptied : (mirrorImage (maqChanged .loaded mirroringMember)).pair.image = [] :=
    mirrorImage_image_of_no_image (by rw [image]; decide +kernel)
  have stays := outside 0 (.inl (by decide))
  rw [emptied] at stays
  exact absurd stays (by decide)

end Sys2Proof.Machine
end

section
/-! The fixed checks (R557, Table 18-6) and the check units (R554 to R556). -/

namespace Sys2Proof.Machine

open Sys2Proof

-- One proof at a time: the check compiles every file as one text, within a limit of memory.
set_option Elab.async false

/-! ## The fixed checks -/

/-- The fold of a tile-link frame is the two bytes of the number of its tile, direction and SEQ (R54). -/
theorem leBytes_tileFold (low : Nat) (d : List Byte) (byte : low < 256) :
    leBytes 2 (low + 256 * u8 d 0) = [BitVec.ofNat 8 low, d.getD 0 0] := by
  have first : BitVec.ofNat 8 (low + 256 * u8 d 0) = BitVec.ofNat 8 low :=
    BitVec.eq_of_toNat_eq (by simp)
  have second : (low + 256 * u8 d 0) / 256 = u8 d 0 := by omega
  have seq : BitVec.ofNat 8 (u8 d 0) = d.getD 0 0 := by simp [u8]
  simp only [leBytes, first, second, seq]

/-- Settles O12: each check by its fold, whose fields hold what the premises bound; the test values by computation. -/
theorem fixedChecks : Obligations.FixedChecks := by
  refine ⟨?tile, ?pelrun, ?descriptor, ?store, fun _ => rfl, ?values⟩
  case tile =>
    intro tile up d narrow
    have direction : b2n up ≤ 1 := by cases up <;> decide
    rw [tileCheck, leBytes_tileFold _ _ (by omega)]
  case pelrun =>
    intro dst fseq d device sequence
    rw [pelrunCheck, Nat.mod_eq_of_lt device, Nat.mod_eq_of_lt sequence]
  case descriptor =>
    intro ring seq d narrow wide
    rw [descCheck, Nat.mod_eq_of_lt narrow, Nat.mod_eq_of_lt wide, Nat.mul_comm seq]
  case store => exact fun _ => rfl
  case values =>
    rintro _ rfl
    decide +kernel

/-! ## What a register row of a check unit changes -/

/-- A state with other check units and other instants at which sources set their bits. -/
def withUnits (cu : Bank CU 4) (sets : List (Nat × Time)) (s : State) : State :=
  { s with cu := cu, host := { s.host with w1cAt := sets } }

/-- Apart from one check unit, and the instants at which sources set their bits, the state is as it was. -/
def OneUnit (n : Fin 4) (s z : State) : Prop :=
  z = withUnits z.cu z.host.w1cAt s ∧ ∀ m, m ≠ n → z.cu.get m = s.cu.get m

theorem OneUnit.refl (n : Fin 4) (s : State) : OneUnit n s s := ⟨rfl, fun _ _ => rfl⟩

theorem OneUnit.trans {n : Fin 4} {a b c : State} (first : OneUnit n a b) (second : OneUnit n b c) : OneUnit n a c := by
  obtain ⟨eq, others⟩ := second
  refine ⟨?_, fun m other => (others m other).trans (first.2 m other)⟩
  rw [eq, first.1]
  rfl

theorem oneUnit_modCu (n : Fin 4) (f : CU → CU) (s : State) : OneUnit n s (modCu n f s) :=
  ⟨rfl, fun _ other => Bank.get_upd_other _ _ _ _ other.symm⟩

theorem oneUnit_cuNext (n : Fin 4) (s : State) : OneUnit n s (cuNext n s) := oneUnit_modCu n _ s

theorem oneUnit_sourceSets (n : Fin 4) (off bit : Nat) (s : State) : OneUnit n s (sourceSets off bit s) :=
  ⟨rfl, fun _ _ => rfl⟩

theorem oneUnit_cuStartJob (n : Fin 4) (s : State) : OneUnit n s (cuStartJob n s) := by
  unfold cuStartJob
  dsimp only
  split
  · exact OneUnit.refl n s
  · split
    · exact (oneUnit_modCu n _ s).trans (oneUnit_sourceSets n _ _ _)
    · exact oneUnit_modCu n _ s

theorem oneUnit_cuDataWord (n : Fin 4) (w : Word) (s : State) : OneUnit n s (cuDataWord n w s) := by
  unfold cuDataWord
  split
  · exact OneUnit.refl n s
  · exact oneUnit_modCu n _ s

theorem oneUnit_cuLastWord (n : Fin 4) (k : Nat) (w : Word) (s : State) : OneUnit n s (cuLastWord n k w s) := by
  unfold cuLastWord
  dsimp only
  split
  · exact OneUnit.refl n s
  · split
    · exact OneUnit.refl n s
    · exact (oneUnit_modCu n _ s).trans (oneUnit_cuNext n _)

/-- A row whose effect stays in one unit changes that unit alone, whether its condition holds or not. -/
theorem oneUnit_of_when {c : Bool} {f : State → State} {n : Fin 4} {a z : State} (answer : when c f a = .next z)
    (stays : OneUnit n a (f a)) : OneUnit n a z := by
  obtain rfl | rfl := eq_or_eq_of_when answer
  · exact stays
  · exact OneUnit.refl n z

/-- Settles O11: each row is a guarded operation that stays in its unit. -/
theorem checkUnitRowsChangeOneUnit : Obligations.CheckUnitRowsChangeOneUnit := by
  intro s z t n k word answer
  have stays : OneUnit n (s.at_ t) z := by
    obtain start | data | last := answer
    · exact oneUnit_of_when start (oneUnit_cuStartJob n _)
    · exact oneUnit_of_when data (oneUnit_cuDataWord n word _)
    · exact oneUnit_of_when last (oneUnit_cuLastWord n k.val word _)
  exact stays

/-! ## Jobs -/

theorem cuStartJob_of_idle {n : Fin 4} {s : State} (legal : cuLegal s n.val = true) (idle : cuBusy (s.cu.get n) = false) :
    cuStartJob n s = modCu n (fun c => { c with job := some (BitVec.ofNat 64 (cuBegin s n.val)), lastAt := s.now, done := false }) s := by
  simp only [cuStartJob, legal, idle, Bool.not_true, Bool.false_eq_true, if_false]

theorem cuStartJob_of_busy {n : Fin 4} {s : State} (legal : cuLegal s n.val = true) (busy : cuBusy (s.cu.get n) = true) :
    cuStartJob n s = sourceSets (0x442C + 64 * n.val) 2 (modCu n (fun c => { c with busyRef := true }) s) := by
  simp only [cuStartJob, legal, busy, Bool.not_true, Bool.false_eq_true, if_false, if_true]

theorem cuDataWord_of_job {n : Fin 4} {s : State} {r : BitVec 64} (w : Word) (job : (s.cu.get n).job = some r) :
    cuDataWord n w s =
      modCu n (fun c => { c with job := some (BitVec.ofNat 64 (cuFeed s n.val r.toNat (leBytes 4 w.toNat))), lastAt := s.now }) s := by
  simp only [cuDataWord, job]

theorem cuDataWord_of_no_job {n : Fin 4} {s : State} (w : Word) (absent : (s.cu.get n).job = none) : cuDataWord n w s = s := by
  simp only [cuDataWord, absent]

theorem cuLastWord_of_job {n : Fin 4} {k : Nat} {s : State} {r : BitVec 64} (w : Word) (job : (s.cu.get n).job = some r)
    (least : 1 ≤ k) (most : k ≤ 4) :
    cuLastWord n k w s = cuNext n (modCu n (fun c => { c with
      job := none, done := true, result := BitVec.ofNat 64 (cuEnd s n.val (cuFeed s n.val r.toNat (leBytes k w.toNat))) }) s) := by
  have counted : (decide (k = 0) || decide (4 < k)) = false := by
    rw [decide_eq_false (by omega : ¬ k = 0), decide_eq_false (by omega : ¬ 4 < k)]
    rfl
  simp only [cuLastWord, job, counted, Bool.false_eq_true, if_false]

/-- Settles O50: each row by its condition and the branch of its operation that the unit's job selects. -/
theorem checkUnitJobs : Obligations.CheckUnitJobs := by
  refine ⟨?start, ?busy, ?data, ?noJob, ?last, ?abort, ?done⟩
  case start =>
    rintro s _ t n rfl alive free legal idle
    exact when_eq_next (by simp [alive, free]) (cuStartJob_of_idle legal idle)
  case busy =>
    rintro s _ t n rfl alive free legal busy
    exact when_eq_next (by simp [alive, free]) (cuStartJob_of_busy legal busy)
  case data =>
    rintro s _ t n word r rfl alive free job
    exact when_eq_next (by simp [alive, free]) (cuDataWord_of_job word job)
  case noJob =>
    rintro s _ t n word rfl absent
    obtain taken | untaken := Bool.eq_false_or_eq_true (hubAlive (s.at_ t) && !cuHeld (s.at_ t) n)
    · exact when_eq_next taken (cuDataWord_of_no_job word absent)
    · exact when_of_fails _ _ untaken
  case last =>
    rintro s _ t n k word r rfl alive free job least most
    exact when_eq_next (by simp [alive, free]) (cuLastWord_of_job word job least most)
  case abort =>
    rintro s _ t n rfl alive job waiting long
    unfold exec execCuAbort
    exact when_eq_next (by rw [alive, job, List.isEmpty_eq_false_iff.mpr waiting, decide_eq_true long]; rfl)
  case done =>
    rintro s _ t n r rest x rfl up free queue busy work
    unfold exec execCujobDone
    simp only [queue]
    refine when_eq_next (by rw [up, free, busy]; rfl) ?_
    rw [work]
    rfl

end Sys2Proof.Machine
end

section
/-! What the registers read at reset (R558, R562, R565, R568), and CRn_LASTSEQ with FORGET (R409). -/

namespace Sys2Proof.Machine

open Sys2Proof

-- One proof at a time: the check compiles every file as one text, within a limit of memory.
set_option Elab.async false

/-! ## Reads of BAR0 -/

/-- The requester counts for the page register and the tag window alone. -/
theorem regValue_congr_requester (s : State) (r q : Nat) {off : Nat} (page : off ≠ 0x18) (below : off < 0x6000) :
    regValue s r off = regValue s q off := by
  have left (x y : Nat) : (if off < 0x6000 then x else y) = x := if_pos below
  unfold regValue
  simp only [page, if_false, left]

/-- The offsets of the command rings' registers. -/
theorem regValue_of_ring (s : State) (r : Nat) {off : Nat} (from_ : 0x1000 ≤ off) (to_ : off < 0x1800) :
    regValue s r off = readRing s off := by
  have listed : bar0Listed off = true := by simp [bar0Listed, offIn, from_, to_]
  unfold regValue
  rw [listed, if_neg (by decide), if_neg (by omega), if_neg (by omega), if_neg (by omega), if_neg (by omega), if_pos (by omega)]

/-- CRn_LASTSEQ is the attached device's H of the ring (R409). -/
theorem regValue_lastSeq (s : State) (n : Fin 64) (r : Nat) :
    regValue s r (0x1000 + 32 * n.val + 0x1C) = (lookupD (s.host.cr.get n).high s.net.num 0).toNat := by
  have ring : (0x1000 + 32 * n.val + 0x1C - 0x1000) / 32 = n.val := by omega
  have place : (0x1000 + 32 * n.val + 0x1C) % 32 = 0x1C := by omega
  have index : asFin 64 n.val = some n := dif_pos n.isLt
  rw [regValue_of_ring s r (by omega) (by omega)]
  unfold readRing
  rw [if_pos (by omega), ring, place, index]
  rfl

/-! ## Reset -/

theorem regValue_reset_time (r : Nat) : regValue State.reset r 0x0810 = 1000 ∧ regValue State.reset r 0x0824 = 100 ∧
    regValue State.reset r 0x0828 = 128 ∧ regValue State.reset r 0x0834 = 0 ∧ regValue State.reset r 0x2828 = 1000 := by
  have alike {off : Nat} := regValue_congr_requester State.reset r 0 (off := off)
  rw [alike (off := 0x0810) (by decide) (by decide), alike (off := 0x0824) (by decide) (by decide),
    alike (off := 0x0828) (by decide) (by decide), alike (off := 0x0834) (by decide) (by decide),
    alike (off := 0x2828) (by decide) (by decide)]
  decide +kernel

theorem regValue_reset_rings (n : Fin 64) (r : Nat) :
    bits (regValue State.reset r (0x1000 + 32 * n.val + 0x10)) 0 5 = 6 ∧ regValue State.reset r (0x1000 + 32 * n.val + 0x14) = 0 ∧
      bits (regValue State.reset r (0x1800 + 16 * n.val + 0xC)) 0 1 = 0 ∧ bits (regValue State.reset r (0x1800 + 16 * n.val + 0xC)) 4 5 = 6 := by
  rw [regValue_congr_requester _ r 0 (by omega) (by omega), regValue_congr_requester _ r 0 (by omega) (by omega),
    regValue_congr_requester _ r 0 (by omega) (by omega)]
  revert n
  decide +kernel

theorem regValue_reset_imageQueues (n : Fin 16) (r : Nat) :
    regValue State.reset r (0x1C00 + 48 * n.val + 0x10) = 1 ∧ regValue State.reset r (0x1C00 + 48 * n.val + 0x14) = 1 ∧
      regValue State.reset r (0x1C00 + 48 * n.val + 0x18) = 250 ∧ regValue State.reset r (0x1C00 + 48 * n.val + 0x1C) = 1000 ∧
      regValue State.reset r (0x1C00 + 48 * n.val + 0x20) = 0 := by
  rw [regValue_congr_requester _ r 0 (by omega) (by omega), regValue_congr_requester _ r 0 (by omega) (by omega),
    regValue_congr_requester _ r 0 (by omega) (by omega), regValue_congr_requester _ r 0 (by omega) (by omega),
    regValue_congr_requester _ r 0 (by omega) (by omega)]
  revert n
  decide +kernel

theorem step_of_empty_queue {s : State} (empty : s.pending = []) : step s = .next (idleStep s) := by
  unfold step
  rw [empty]

theorem idleStep_of_no_edge {s : State} (none : s.tap.edges = []) : idleStep s = s := by
  unfold idleStep
  rw [none]

/-- Settles O2: the registers by evaluation of the state after reset, whoever asks; an empty queue by the cases of a step. -/
theorem resetValues : Obligations.ResetValues :=
  ⟨rfl, by decide +kernel, by decide +kernel, regValue_reset_time, regValue_reset_rings, regValue_reset_imageQueues,
    fun _ empty => step_of_empty_queue empty,
    fun _ empty none => (step_of_empty_queue empty).trans (congrArg _ (idleStep_of_no_edge none))⟩

/-! ## What a journal entry leaves alone -/

/-- The command rings, the record of work and the device's number. -/
def ringParts (s : State) : Bank CR 64 × List Work × Nat := (s.host.cr, s.host.work, s.net.num)

theorem ringParts_frameOut (own : Bool) (p : Nat) (bytes : List Byte) (v : Bool) (s : State) :
    ringParts (frameOut own p bytes v s) = ringParts s := by
  unfold frameOut
  split
  · rfl
  · dsimp only
    split <;> rfl

theorem ringParts_portSend (p : Nat) (bytes : List Byte) (s : State) : ringParts (portSend p bytes s) = ringParts s := by
  unfold portSend ownDrop
  split
  · split <;> rfl
  · exact ringParts_frameOut ..

theorem ringParts_jnlSend (sub count joff : Nat) (body : List Byte) (s : State) :
    ringParts (jnlSend sub count joff body s) = ringParts s := by
  unfold jnlSend prtSend
  split
  · rfl
  · exact ringParts_portSend ..

theorem ringParts_jnlChunks (n off : Nat) (bs : List Byte) (s : State) : ringParts (jnlChunks n off bs s) = ringParts s := by
  induction n generalizing off bs s with
  | zero => rfl
  | succ n ih =>
    unfold jnlChunks
    split
    · rfl
    · rw [ih, ringParts_jnlSend]

theorem ringParts_putEntry (etype : Nat) (body : List Byte) (s : State) : ringParts (putEntry etype body s) = ringParts s := by
  unfold putEntry
  dsimp only
  split
  · exact ringParts_jnlChunks ..
  · rfl

theorem ringParts_spill (n : Nat) (s : State) : ringParts (spill n s) = ringParts s := by
  unfold spill
  dsimp only
  split <;> rfl

theorem ringParts_askSpill (n : Nat) (s : State) : ringParts (askSpill n s) = ringParts s := by
  unfold askSpill
  split <;> rfl

theorem ringParts_ite {c : Prop} [Decidable c] {x y s : State} (left : ringParts x = ringParts s)
    (right : ringParts y = ringParts s) : ringParts (if c then x else y) = ringParts s := by
  split
  · exact left
  · exact right

theorem ringParts_setUnspilled (n : Nat) (s : State) : ringParts (setUnspilled n s) = ringParts s := rfl

theorem ringParts_makeRoom (n : Nat) (s : State) : ringParts (makeRoom n s) = ringParts s := by
  have asked := ringParts_askSpill n s
  have spilled (k m : Nat) : ringParts (setUnspilled k (spill m (askSpill n s))) = ringParts s :=
    (ringParts_setUnspilled ..).trans ((ringParts_spill ..).trans asked)
  unfold makeRoom
  exact ringParts_ite (spilled _ _) asked

theorem ringParts_padEntry (etype : Nat) (body : List Byte) (s : State) : ringParts (padEntry etype body s) = ringParts s := by
  unfold padEntry
  dsimp only
  split
  · rw [ringParts_putEntry, ringParts_makeRoom]
  · rw [ringParts_putEntry, ringParts_makeRoom]
    split
    · rw [ringParts_putEntry, ringParts_makeRoom]
    · rfl

theorem ringParts_journal (etype : Nat) (body : List Byte) (s : State) : ringParts (journal etype body s) = ringParts s := by
  unfold journal
  dsimp only
  split
  · rfl
  · refine (ringParts_padEntry ..).trans (forEach_unchanged ringParts _ _ _ fun x z => ?_)
    split
    · exact ringParts_padEntry ..
    · rfl

theorem ringParts_recordEvt (e : RecEvt) (s : State) : ringParts (recordEvt e s) = ringParts s := by
  unfold recordEvt
  exact ringParts_ite rfl (ringParts_ite rfl rfl)

theorem ringParts_recordRing (inst ev : Nat) (s : State) : ringParts (recordRing inst ev s) = ringParts s :=
  ringParts_recordEvt _ _

/-! ## FORGET -/

/-- The state without the class J work of a ring and without its high mark (R409). -/
def forgetRing (n : Fin 64) (s : State) : State :=
  modCr n (fun c => { c with forgetRef := false, high := eraseK s.net.num c.high })
    { s with host := { s.host with work := s.host.work.filter fun w => !(ringWork s n.val w && w.classJ) } }

theorem exec_forget_of_free {s : State} {t : Time} {n : Fin 64} (alive : hubAlive (s.at_ t) = true)
    (disabled : ((s.at_ t).host.cr.get n).state = 0) (free : ringOwes (s.at_ t) n.val = false) :
    exec (.forget t n) s =
      .next (journal 9 (refBytes { origin := (s.at_ t).net.num, ring := n.val, seq := 0 }) (forgetRing n (s.at_ t))) := by
  refine when_eq_next alive ?_
  unfold crForget
  rw [disabled, free]
  rfl

theorem exec_forget_of_refused {s : State} {t : Time} {n : Fin 64} (alive : hubAlive (s.at_ t) = true)
    (refused : ((s.at_ t).host.cr.get n).state ≠ 0 ∨ ringOwes (s.at_ t) n.val = true) :
    exec (.forget t n) s = .next (recordRing n.val 5 (modCr n (fun c => { c with forgetRef := true }) (s.at_ t))) := by
  refine when_eq_next alive ?_
  unfold crForget
  refine if_pos ?_
  simpa only [Bool.or_eq_true, bne_iff_ne] using refused

/-- Settles O15: LASTSEQ by the register's read; FORGET by what it erases, which the journal entry after it leaves so. -/
theorem forgetAndLastSeq : Obligations.ForgetAndLastSeq := by
  refine ⟨regValue_lastSeq, ?forgotten, ?refused⟩
  case forgotten =>
    rintro s _ t n rfl alive disabled free
    have parts := ringParts_journal 9 (refBytes { origin := (s.at_ t).net.num, ring := n.val, seq := 0 }) (forgetRing n (s.at_ t))
    refine ⟨_, exec_forget_of_free alive disabled free, ?_⟩
    generalize journal 9 _ (forgetRing n (s.at_ t)) = z at parts ⊢
    have rings : z.host.cr = (forgetRing n (s.at_ t)).host.cr := congrArg Prod.fst parts
    have work : z.host.work = (forgetRing n (s.at_ t)).host.work := congrArg (·.2.1) parts
    have num : z.net.num = s.net.num := congrArg (·.2.2) parts
    have high : (z.host.cr.get n).high = eraseK s.net.num (s.host.cr.get n).high := by
      rw [rings]
      exact congrArg CR.high (Bank.get_upd_self _ _ _)
    have erased : lookupO (z.host.cr.get n).high z.net.num = none := by
      rw [high, num, lookupO_eraseK, if_pos rfl]
    refine ⟨erased, fun r => ?_, fun w mem mine => ?_, fun m other => ?_⟩
    · rw [regValue_lastSeq, lookupD_eq_lookupO, erased]
      rfl
    · have same : ringWork z n.val w = ringWork (s.at_ t) n.val w := by
        unfold ringWork
        rw [num]
        rfl
      have kept : w ∈ (forgetRing n (s.at_ t)).host.work := work ▸ mem
      have left := (List.mem_filter.mp kept).2
      rw [← same, mine] at left
      exact Bool.not_eq_true' w.classJ |>.mp left
    · rw [rings]
      exact Bank.get_upd_other _ _ _ _ other.symm
  case refused =>
    rintro s _ t n rfl alive owes
    have parts := ringParts_recordRing n.val 5 (modCr n (fun c => { c with forgetRef := true }) (s.at_ t))
    refine ⟨_, exec_forget_of_refused alive (.inr owes), ?_, ?_, rfl⟩
    · exact (congrArg (fun x => (x.1.get n).high) parts).trans (congrArg CR.high (Bank.get_upd_self ..))
    · exact congrArg (·.2.1) parts

end Sys2Proof.Machine
end

section
/-! The host interface's queues: doorbells (R391, R397, R398, R418, R419, R575), rings and queues that are enabled, disabled or fail
(R396, R409, R415, R417, R421, R565), and descriptors in flight (R357, R358, R407, R413). -/

namespace Sys2Proof.Machine

open Sys2Proof

-- One proof at a time: the check compiles every file as one text, within a limit of memory.
set_option Elab.async false

/-! ## Doorbells -/

theorem doorbell_of_legal {n off size place inst : Nat} {legal : Bool} {f : State → State} {s : State} (whole : size = 4)
    (there : off = place) (page : n < 64) (may : legal = true) : doorbell n off size place inst legal f s = f s := by
  unfold doorbell
  rw [decide_eq_true whole, decide_eq_true there, decide_eq_true page, may]
  rfl

theorem doorbell_of_elsewhere {n off size place inst : Nat} {legal : Bool} {f : State → State} {s : State}
    (elsewhere : size ≠ 4 ∨ off ≠ place ∨ legal = false) : doorbell n off size place inst legal f s = dbIgnore inst s := by
  unfold doorbell
  refine if_neg fun taken => ?_
  simp only [Bool.and_eq_true, decide_eq_true_eq] at taken
  obtain ⟨⟨⟨whole, there⟩, -⟩, may⟩ := taken
  obtain other | other | never := elsewhere
  · exact other whole
  · exact other there
  · rw [may] at never
    exact Bool.noConfusion never

/-- Settles O45: each doorbell by its place, and there by its INDEX and its GEN. -/
theorem ringDoorbells : Obligations.RingDoorbells := by
  refine ⟨?tail, ?beyond, ?otherGen, ?cqHead, ?iqHead, ?eqHead, ?odd, ?heartbeat, ?elsewhere⟩
  case tail =>
    rintro s _ t n off size value r rfl alive whole there page index below gen
    refine when_eq_next alive ((doorbell_of_legal whole there page rfl).trans ?_)
    simp only [index]
    rw [if_neg (Nat.not_le.mpr below), if_neg fun other => bne_iff_ne.mp other gen]
  case beyond =>
    rintro s _ t n off size value r rfl alive whole there page index above
    refine when_eq_next alive ((doorbell_of_legal whole there page rfl).trans ?_)
    simp only [index]
    exact if_pos above
  case otherGen =>
    rintro s _ t n off size value r rfl alive whole there page index below gen
    refine when_eq_next alive ((doorbell_of_legal whole there page rfl).trans ?_)
    simp only [index]
    rw [if_neg (Nat.not_le.mpr below), if_pos (bne_iff_ne.mpr gen)]
  case cqHead =>
    rintro s _ t n off size value q rfl alive whole there page index below gen
    refine when_eq_next alive ((doorbell_of_legal whole there page rfl).trans ?_)
    simp only [index]
    rw [if_neg (Nat.not_le.mpr below), if_neg fun other => bne_iff_ne.mp other gen]
  case iqHead =>
    rintro s _ t n off size value q rfl alive whole there page index imagePage below
    refine when_eq_next alive ((doorbell_of_legal whole there page (decide_eq_true imagePage)).trans ?_)
    simp only [index]
    exact if_neg (Nat.not_le.mpr below)
  case eqHead =>
    rintro s _ t n off size value rfl alive whole there page first aligned below
    refine when_eq_next alive ((doorbell_of_legal whole there page (beq_iff_eq.mpr first)).trans (if_neg ?_))
    rw [aligned, decide_eq_false (Nat.not_le.mpr below)]
    exact Bool.false_ne_true
  case odd =>
    rintro s _ t n off size value rfl alive whole there page first odd
    refine when_eq_next alive ((doorbell_of_legal whole there page (beq_iff_eq.mpr first)).trans (if_pos ?_))
    rw [bne_iff_ne.mpr odd, Bool.true_or]
  case heartbeat =>
    rintro s _ t n off size value rfl up whole there first
    exact when_eq_next up (doorbell_of_legal whole there (first ▸ by decide) (beq_iff_eq.mpr first))
  case elsewhere =>
    rintro s _ t n off size value rfl up elsewhere
    exact when_eq_next up (doorbell_of_elsewhere (elsewhere.imp_right (.imp_right beq_eq_false_iff_ne.mpr)))

/-! ## Rings and queues -/

theorem crOn_of_enabled {s : State} {n : Fin 64} (on : (s.host.cr.get n).state = 1 ∨ (s.host.cr.get n).state = 3) : crOn n s = s := by
  unfold crOn
  refine if_pos ?_
  obtain on | on := on <;> rw [on] <;> rfl

theorem crOn_of_draining {s : State} {n : Fin 64} (draining : (s.host.cr.get n).state = 2) :
    crOn n s = recordRing n.val 2 (modCr n (fun c => { c with enRef := true }) s) := by
  unfold crOn
  simp only [draining]
  rfl

/-- Settles O46: each event by the state of its ring or queue. -/
theorem ringStateEvents : Obligations.RingStateEvents := by
  refine ⟨?already, ?draining, ?enabled, ?disabled, ?drained, ?failed, ?forgotten, ?refused, ?cqOn, ?cqOff, ?iqOn, ?posted, ?signalled,
    ?expired⟩
  case already =>
    rintro s _ t n rfl up on
    exact when_eq_next up (crOn_of_enabled on)
  case draining =>
    rintro s _ t n rfl up draining
    exact when_eq_next up (crOn_of_draining draining)
  case enabled =>
    rintro s _ t n q _ rfl up off ready queue queueOn size base rfl
    refine when_eq_next up ?_
    unfold crOn
    simp only [off, ready, queue, queueOn, size, base]
    rfl
  case disabled =>
    rintro s _ t n rfl alive
    exact when_eq_next alive
  case drained =>
    rintro s _ t n rfl alive draining drained
    exact when_eq_next (by rw [alive, draining, drained]; rfl)
  case failed =>
    rintro s _ t n kind rfl up on
    exact when_eq_next (by rw [up, on]; rfl)
  case forgotten =>
    rintro s _ t n rfl alive off free
    exact exec_forget_of_free alive off free
  case refused =>
    rintro s _ t n rfl alive on
    exact exec_forget_of_refused alive (.inl on)
  case cqOn =>
    rintro s _ t n on rfl alive rfl off ready size base
    refine when_eq_next alive ?_
    change cqOn n (s.at_ t) = _
    unfold cqOn
    rw [if_neg (Bool.not_eq_true _ ▸ off), if_neg (by rw [ready, size, base]; decide)]
  case cqOff =>
    rintro s _ t n on rfl alive rfl unbound
    exact when_eq_next alive (if_neg (Bool.not_eq_true _ ▸ unbound))
  case iqOn =>
    rintro s _ t n readOk tags r rfl alive length off ready least most base ring ringOn rfl known
    refine when_eq_next (by rw [alive, length, beq_self_eq_true]; rfl) ?_
    unfold iqOn
    simp only [ring]
    rw [if_neg (Bool.not_eq_true _ ▸ off), if_neg, if_neg (by rw [known]; decide)]
    rw [ready, decide_eq_false (Nat.not_lt.mpr least), decide_eq_false (Nat.not_lt.mpr most), base, bne_iff_ne.mpr ringOn]
    decide
  case posted =>
    rintro s _ t cq c irq rest rfl up held on room
    unfold exec execCompletionPost
    simp only [held]
    exact when_eq_next (by rw [up, on, room]; rfl)
  case signalled =>
    rintro s _ t cq b rfl alive first due
    unfold exec execCqModerationTimer
    exact when_eq_next (by rw [alive, first]; exact decide_eq_true due)
  case expired =>
    rintro s _ t rfl up on late
    exact when_eq_next (by rw [up, on, decide_eq_true late]; rfl)

end Sys2Proof.Machine
end

section
/-! Descriptors in flight: fetched, stored, released, refused at the gate, requested of another device and answered (R298, R357, R358, R407,
R413, R520). -/

namespace Sys2Proof.Machine

open Sys2Proof

-- One proof at a time: the check compiles every file as one text, within a limit of memory.
set_option Elab.async false

/-! ## Fetch and gate -/

/-- The fetch buffer of one descriptor parsed again. -/
theorem parseAll_of_one {s : State} {f : Fetched} (one : s.host.buf = [f]) :
    parseAll s = parse f { s with host := { s.host with buf := [] } } := by
  unfold parseAll
  rw [one]
  rfl

/-- A descriptor of another device goes on to its checks here, once Studio runs and nothing of its ring waits before it (R407). -/
theorem parse_of_far {s : State} {f : Fetched} (studio : s.flt.studioUp = true) (far : f.ref.origin ≠ s.net.num)
    (free : blocked s f none = false) (check : u32 f.bytes 60 = descCheck f.ref.ring f.ref.seq.toNat (f.bytes.take 60)) :
    parse f s = checkRest f true s := by
  have own : (f.ref.origin == s.net.num) = false := beq_eq_false_iff_ne.mpr far
  unfold parse
  simp only [studio, own, free, check, Bool.not_true, Bool.not_false, Bool.false_and, bne_self_eq_false, Bool.false_eq_true, if_false]

/-- A whole and new descriptor that the cast does not claim is refused at the gate (R16, R520, log entry 154). -/
theorem checkRest_of_unclaimed {s : State} {f : Fetched} {far : Bool} {res : Nat}
    (format : formatBad s far f.bytes f.payload f.payloadOk = none) (direct : dInd f.bytes = false)
    (fresh : seqVerdict s (asWork s f) = .fresh) (unclaimed : claimMissing s f.bytes = some res) :
    checkRest f far s = reject f 0x12 (BitVec.ofNat 32 res) (gateRefuse s) := by
  unfold checkRest
  simp only [format, direct, fresh, unclaimed, Bool.false_and, Bool.false_eq_true, if_false]

theorem exec_gateJournal_of_buffered {s : State} {t : Time} {w : WorkRef} (up : hubUp (s.at_ t) = true)
    (studio : (s.at_ t).flt.studioUp = true) (buffered : ((s.at_ t).host.buf.any fun f => f.ref == w) = true) :
    exec (.gateJournal t w) s = .next (parseAll (s.at_ t)) :=
  when_eq_next (by rw [up, studio, buffered]; rfl)

/-! ## Requests (R357, R358) -/

theorem exec_reqResend_of_due {s : State} {t : Time} {ring : Fin 64} {seq : Word} {q : ReqOut} (up : hubUp (s.at_ t) = true)
    (found : (s.at_ t).host.reqs.find? (fun q => q.ring == ring.val && q.seq == seq) = some q) (open_ : q.answered = false)
    (own : q.fwd = false) (due : q.sent + ms 2 ≤ (s.at_ t).now) :
    exec (.reqResend t ring seq) s =
      .next (if 3 ≤ q.resends then endReq q 0x20 (s.at_ t)
        else uniSend 6 q.target (q.frame.take 2 ++ [BitVec.ofNat 8 (u8 q.frame 2 ||| 2)] ++ q.frame.drop 3)
          { s.at_ t with host := { (s.at_ t).host with
              reqs := (s.at_ t).host.reqs.map fun r => if r == q then { r with sent := (s.at_ t).now, resends := r.resends + 1 } else r } }) := by
  unfold exec execReqResend
  simp only [found]
  exact when_eq_next (by rw [up, open_, own, decide_eq_true due]; rfl)

/-- Settles O47: each event by what it finds: the room of the ring, the work it names, the request it ends. -/
theorem descriptorsInFlight : Obligations.DescriptorsInFlight := by
  refine ⟨?fetch, ?failed, ?stored, ?released, ?heldBack, ?gate, ?refused, ?request, ?forgotten, ?response, ?unknown, ?resent, ?joined⟩
  case fetch =>
    rintro s _ t ring bytes payload rd rfl up on waiting room rfl whole length
    unfold exec execDescriptorFetch
    refine when_eq_next (by rw [up, on, bne_iff_ne.mpr waiting, room]; rfl) (if_pos ?_)
    rw [whole, length, beq_self_eq_true, beq_self_eq_true]
    rfl
  case failed =>
    rintro s _ t ring bytes payload rd k rfl up on waiting room rfl
    unfold exec execDescriptorFetch
    exact when_eq_next (by rw [up, on, bne_iff_ne.mpr waiting, room]; rfl)
  case stored =>
    rintro s _ t w rfl alive free job
    unfold exec execStoreAccept
    exact when_eq_next (by rw [alive, free, job]; rfl)
  case released =>
    rintro s _ t w x rfl up work fenced free
    unfold exec execFenceRelease
    simp only [work]
    exact when_eq_next (by rw [up, fenced, free]; rfl)
  case heldBack =>
    rintro s _ t w rfl up noWork buffered
    unfold exec execFenceRelease
    simp only [noWork]
    exact when_eq_next (by rw [up, buffered]; rfl)
  case gate =>
    rintro s _ t w rfl up studio buffered
    exact exec_gateJournal_of_buffered up studio buffered
  case refused =>
    rintro s _ t w f z res rfl up studio one named emptied far free check format direct fresh unclaimed
    have buffered : ((s.at_ t).host.buf.any fun f => f.ref == w) = true := by
      rw [one]
      exact (Bool.or_false _).trans (beq_iff_eq.mpr named)
    have there : f.ref.origin ≠ z.net.num := emptied ▸ far
    have running : z.flt.studioUp = true := emptied ▸ studio
    rw [exec_gateJournal_of_buffered up studio buffered, parseAll_of_one one, ← emptied, parse_of_far running there free check,
      checkRest_of_unclaimed format direct fresh unclaimed]
    rfl
  case request =>
    rintro s _ t src bytes rfl up speaks below
    exact when_eq_next (by rw [up, speaks, decide_eq_true below]; rfl)
  case forgotten =>
    rintro s _ t src ring seq rfl up
    unfold exec execReqHoldExpiry
    exact when_eq_next up
  case response =>
    rintro s _ t src bytes rfl up whole
    exact when_eq_next (by rw [up, decide_eq_true whole]; rfl)
  case unknown =>
    rintro s _ t ring seq q rfl up found open_ own due last
    rw [exec_reqResend_of_due up found open_ own due, if_pos last]
  case resent =>
    rintro s _ t ring seq q rfl up found open_ own due left
    rw [exec_reqResend_of_due up found open_ own due, if_neg (Nat.not_le.mpr left)]
  case joined =>
    rintro s _ t b rfl up locked state out joinAt due before behind
    unfold exec execEpochJoin
    refine when_eq_next (by rw [up, locked, state, out, joinAt]; exact decide_eq_true due) ?_
    rw [before]
    exact congrArg parseAll (if_neg (Nat.not_lt.mpr behind))

end Sys2Proof.Machine
end

section
/-! The opcodes of Table 12-7: which have no effect (R404, R411, R421), which join a commit set (R44, R68, R313, R376), and what the others
do (R73, R116 to R121, R147, R199, R367, R379, R414, R551, R552, R556, R607). -/

namespace Sys2Proof.Machine

open Sys2Proof

-- One proof at a time: the check compiles every file as one text, within a limit of memory.
set_option Elab.async false

/-! ## Work that its opcode may not take up -/

theorem readyWork_of_no_work {s : State} {r : WorkRef} (op : Nat) (none_ : workOf s r = none) : readyWork s r op = none := by
  unfold readyWork
  rw [none_]

theorem ref_of_readyWork {s : State} {r : WorkRef} {op : Nat} {x : Work} (ready : readyWork s r op = some x) : x.ref = r := by
  unfold readyWork at ready
  cases found : workOf s r with
  | none => simp only [found, reduceCtorEq] at ready
  | some y =>
    simp only [found] at ready
    obtain ⟨-, same⟩ := Option.ite_none_right_eq_some.mp ready
    have named : (y.ref == r) = true := List.find?_some (p := fun w : Work => w.ref == r) found
    exact (congrArg Work.ref (Option.some.inj same)).symm.trans (beq_iff_eq.mp named)

/-- A hub that is not up, or a reference that names no work, gives an opcode nothing to do. -/
theorem onWork_of_idle {a : State} {r : WorkRef} (op : Nat) (f : Work → State → State) (idle : hubUp a = false ∨ workOf a r = none) :
    onWork r op f a = .next a := by
  unfold onWork
  obtain down | none_ := idle
  · split
    · exact when_of_fails _ _ down
    · rfl
  · rw [readyWork_of_no_work op none_]
    rfl

theorem onImage_of_idle {a : State} {r : WorkRef} (op : Nat) (c : Bool) (f : Work → State → State)
    (idle : hubUp a = false ∨ workOf a r = none) : onImage r op c f a = .next a := by
  unfold onImage
  split
  · exact onWork_of_idle op f idle
  · rfl

section Idle

variable {s : State} (t : Time) {w : WorkRef} (idle : hubUp (s.at_ t) = false ∨ workOf (s.at_ t) w = none)
include idle

theorem exec_fence_of_idle : exec (.fence t w) s = .next (s.at_ t) := by
  unfold exec execFence
  dsimp only
  split
  · split
    · rfl
    · exact onWork_of_idle _ _ idle
  · rfl

theorem exec_recnote_of_idle : exec (.recnote t w) s = .next (s.at_ t) := by
  unfold exec execRecnote
  dsimp only
  split
  · rfl
  · exact onWork_of_idle _ _ idle

theorem exec_imgload_of_idle : exec (.imgload t w) s = .next (s.at_ t) := by
  unfold exec execImgload
  dsimp only
  split
  · rfl
  · next found =>
    obtain down | none_ := idle
    · exact when_of_fails _ _ (by rw [down]; rfl)
    · exact absurd (none_.symm.trans found) (Option.some_ne_none _).symm

end Idle

/-- Settles O17: every opcode takes its work up by `onWork`, but for IMGLOAD, which looks its work up itself. -/
theorem opcodesNeedARunningHubAndTheirWork : Obligations.OpcodesNeedARunningHubAndTheirWork := by
  rintro s _ t w rfl idle
  have work (op : Nat) (f : Work → State → State) := onWork_of_idle op f idle
  have image (op : Nat) (c : Bool) (f : Work → State → State) := onImage_of_idle op c f idle
  refine ⟨?_, exec_fence_of_idle t idle, ?_, ?_, ?_, ?_, ?_, exec_imgload_of_idle t idle, ?_, ?_, ?_, ?_, ?_, ?_, ?_, ?_, ?_, ?_, ?_, ?_,
    ?_, ?_, exec_recnote_of_idle t idle, ?_, ?_, ?_, ?_, ?_, ?_, ?_⟩
  all_goals
    simp only [exec, execNop, execTagwrite, execTagwriten, execTagread, execRestoreack, execHarttx, execTrimarm, execTrimdisarm,
      execTrimclear, execOverride, execOvrelease, execRelease, execTest, execReflexrel, execRecread, execCujob, execCouch, execSeize,
      execYield, execMgtread, execMgtwrite, execSetnum, work, execImgstage, execImgrehearse, execImgactivate, execImgrevert,
      execImgdiscard, image]

/-! ## Commit sets -/

/-- A work joins the set of its own epoch where that set is open (R313). -/
theorem onWork_joinWork_of_open {a : State} {w : WorkRef} {op : Nat} {x : Work} {g e : Nat} {z : State}
    (ready : readyWork a w op = some x) (up : hubUp a = true) (set_ : x.set = some (g, e)) (open_ : eMin (takeUp w a) ≤ e)
    (joined : z = joinSet g e [] (takeUp w a)) :
    onWork w op joinWork a = .next { z with ep := { z.ep with sets := z.ep.sets.map fun c => if c.group = g && c.epoch = e then
        { c with items := placeItems z w (x.acts.map fun y => { w := w, act := y : SetItem }) c.items } else c } } := by
  rw [onWork_of_ready _ ready up, joined, ← ref_of_readyWork ready]
  rw [← ref_of_readyWork ready] at open_
  unfold joinWork
  simp only [set_, Nat.max_eq_left open_, if_neg (Nat.not_lt.mpr open_)]

/-- Settles O48: each of the six opcodes is `joinWork` at its code. -/
theorem commitSetOpcodes : Obligations.CommitSetOpcodes := by
  refine ⟨?tagwrite, ?tagwriten, ?restoreack, ?override, ?ovrelease, ?couch⟩ <;>
    (rintro s _ t w x g e z rfl ready up set_ open_ joined; exact onWork_joinWork_of_open ready up set_ open_ joined)

/-! ## The other opcodes -/

theorem exec_harttx_of_channel {s : State} {t : Time} {w : WorkRef} {x : Work} {k : Fin 96}
    (ready : readyWork (s.at_ t) w 0x0200 = some x) (up : hubUp (s.at_ t) = true) (channel : asFin 96 (dK x.bytes) = some k) :
    exec (.harttx t w) s =
      .next (if !hartLinked (takeUp w (s.at_ t)) k && !mirrors (takeUp w (s.at_ t)) && !x.again then
          endTransaction k x.ref 5 [] (takeUp w (s.at_ t))
        else hartResume k (modHart k (fun h => { h with queue := queueWork (s.at_ t).net.num x.ref h.queue }) (takeUp w (s.at_ t)))) := by
  unfold exec execHarttx
  refine (onWork_of_ready _ ready up).trans ?_
  simp only [channel]
  rfl

theorem exec_recnote_of_room {s : State} {t : Time} {w : WorkRef} {x : Work} (ready : readyWork (s.at_ t) w 0x0501 = some x)
    (up : hubUp (s.at_ t) = true) (room : (s.at_ t).recd.queue.length < recQueueMax - recQueueKept) :
    exec (.recnote t w) s = .next (recordEvt
      { type := 0x0802, source := srcOf 7 x.ref.ring, flags := unlockedFlag (takeUp w (s.at_ t)), text := noteText x,
        time := ((x.acceptedAt : Int) + (takeUp w (s.at_ t)).sysOff).toNat / 2 % 2 ^ 64 } (takeUp w (s.at_ t))) := by
  unfold exec execRecnote
  exact (if_neg (Nat.not_le.mpr room)).trans (onWork_of_ready _ ready up)

/-- Settles O49: each opcode by what its ready work names. -/
theorem workOpcodes : Obligations.WorkOpcodes := by
  refine ⟨?nop, ?fence, ?fenceWaits, ?tagread, ?hartQueued, ?hartNoLink, ?trimarm, ?disarmNone, ?disarmOwn, ?trimclear, ?release, ?testWaits,
    ?testClaim, ?reflexrel, ?recread, ?recnote, ?recnoteWaits, ?cujob, ?seized, ?notSeized, ?yielded, ?notYielded⟩
  case nop =>
    rintro s _ t w x rfl ready up
    exact onWork_of_ready _ ready up
  case fence =>
    rintro s _ t w x rfl ready up work free
    unfold exec execFence
    simp only [work, free]
    exact onWork_of_ready _ ready up
  case fenceWaits =>
    rintro s _ t w x rfl work waits
    unfold exec execFence
    simp only [work, waits]
    rfl
  case tagread =>
    rintro s _ t w x rfl ready up
    unfold exec execTagread
    exact onWork_of_ready _ ready up
  case hartQueued =>
    rintro s _ t w x k rfl ready up channel may
    rw [exec_harttx_of_channel ready up channel, if_neg]
    obtain linked | mirror | again := may
    · rw [linked, Bool.not_true, Bool.false_and, Bool.false_and]
      decide
    · rw [mirror, Bool.not_true, Bool.and_false, Bool.false_and]
      decide
    · rw [again, Bool.not_true, Bool.and_false]
      decide
  case hartNoLink =>
    rintro s _ t w x k rfl ready up channel unlinked drives first
    rw [exec_harttx_of_channel ready up channel, if_pos]
    rw [unlinked, drives, first]
    rfl
  case trimarm =>
    rintro s _ t w x k rfl ready up channel
    unfold exec execTrimarm
    refine (onWork_of_ready _ ready up).trans ?_
    simp only [channel]
  case disarmNone =>
    rintro s _ t w x rfl ready up none_
    unfold exec execTrimdisarm
    refine (onWork_of_ready _ ready up).trans ?_
    simp only [takeUp_nvs, none_]
    rfl
  case disarmOwn =>
    rintro s _ t w x m rfl ready up armed own
    unfold exec execTrimdisarm
    refine (onWork_of_ready _ ready up).trans ?_
    simp only [takeUp_nvs, armed, own, beq_self_eq_true, if_true]
  case trimclear =>
    rintro s _ t w x rfl ready up
    unfold exec execTrimclear
    exact onWork_of_ready _ ready up
  case release =>
    rintro s _ t w x k rfl ready up channel
    unfold exec execRelease
    refine (onWork_of_ready _ ready up).trans ?_
    simp only [channel]
  case testWaits =>
    rintro s _ t w x k rfl ready up channel none_
    unfold exec execTest
    refine (onWork_of_ready _ ready up).trans ?_
    simp only [channel, none_]
  case testClaim =>
    rintro s _ t w x k res rfl ready up channel missing
    unfold exec execTest
    refine (onWork_of_ready _ ready up).trans ?_
    simp only [channel, missing]
  case reflexrel =>
    rintro s _ t w x rfl ready up
    unfold exec execReflexrel
    exact onWork_of_ready _ ready up
  case recread =>
    rintro s _ t w x rfl ready up
    unfold exec execRecread
    exact onWork_of_ready _ ready up
  case recnote =>
    rintro s _ t w x _ rfl ready up room rfl
    exact exec_recnote_of_room ready up room
  case recnoteWaits =>
    rintro s _ t w rfl full
    exact if_pos full
  case cujob =>
    rintro s _ t w x n rfl ready up unit_
    unfold exec execCujob
    refine (onWork_of_ready _ ready up).trans ?_
    simp only [unit_]
  case seized =>
    rintro s _ t w x rfl ready up orphan cast witness
    unfold exec execSeize
    refine (onWork_of_ready _ ready up).trans (congrArg _ (if_pos ?_))
    change (decide ((s.at_ t).pair.state = .orphan) && (s.at_ t).img.cast.isSome && (s.at_ t).pair.wit.2.1) = true
    rw [orphan, cast, witness]
    rfl
  case notSeized =>
    rintro s _ t w x rfl ready up missing
    unfold exec execSeize
    refine (onWork_of_ready _ ready up).trans (congrArg _ (if_neg ?_))
    change ¬(decide ((s.at_ t).pair.state = .orphan) && (s.at_ t).img.cast.isSome && (s.at_ t).pair.wit.2.1) = true
    simp only [Bool.and_eq_true, decide_eq_true_eq]
    rintro ⟨⟨orphan, cast⟩, witness⟩
    obtain other | none_ | dark := missing
    · exact other orphan
    · rw [cast] at none_
      exact Bool.noConfusion none_
    · rw [witness] at dark
      exact Bool.noConfusion dark
  case yielded =>
    rintro s _ t w x rfl ready up may
    unfold exec execYield
    exact (onWork_of_ready _ ready up).trans (congrArg _ (if_pos may))
  case notYielded =>
    rintro s _ t w x rfl ready up mayNot
    unfold exec execYield
    exact (onWork_of_ready _ ready up).trans (congrArg _ (if_neg (Bool.not_eq_true _ ▸ mayNot)))

end Sys2Proof.Machine
end

section
/-! Images under way: what the image opcodes and the ends of staging, rehearsal and activation do (R436 to R449). -/

namespace Sys2Proof.Machine

open Sys2Proof

-- One proof at a time: the check compiles every file as one text, within a limit of memory.
set_option Elab.async false

/-! ## The image opcodes -/

theorem onImage_of_turn {a : State} {r : WorkRef} {op : Nat} {c : Bool} {x : Work} (f : Work → State → State) (holds : c = true)
    (turn : imgTurn a r = true) (ready : readyWork a r op = some x) (up : hubUp a = true) :
    onImage r op c f a = .next (f x (takeUp r a)) := by
  unfold onImage
  rw [holds, turn]
  exact onWork_of_ready f ready up

/-- Taking a work up leaves the images alone, so that the maquette's state before it decides. -/
theorem unlessArmed_of_armed {s : State} (r : WorkRef) (w : Work) (f : State → State) (armed : s.img.maqState = .armed) :
    unlessArmed w f (takeUp r s) = endWork w 0x600 (takeUp r s) := if_pos armed

theorem unlessArmed_of_other {s : State} (r : WorkRef) (w : Work) (f : State → State) (other : s.img.maqState ≠ .armed) :
    unlessArmed w f (takeUp r s) = f (takeUp r s) := if_neg other

@[simp] theorem takeUp_img (r : WorkRef) (s : State) : (takeUp r s).img = s.img := rfl

theorem isAccepted_of_accepted {s : State} {r : WorkRef} {x : Work} (work : workOf s r = some x) (accepted : x.accepted = true) :
    isAccepted s r = true := by
  unfold isAccepted
  rw [work]
  exact accepted

section Opcodes

variable {s : State} {t : Time} {w : WorkRef} {x : Work} (up : hubUp (s.at_ t) = true) (turn : imgTurn (s.at_ t) w = true)
include up turn

theorem exec_imgload_of_turn (work : workOf (s.at_ t) w = some x) (op : x.opcode = 0x0300) (taken : x.taken = false)
    (fenced : x.fenced = false) (final : x.final = none) (run : mayRun (s.at_ t) x = true) (earlier : earlierTaken (s.at_ t) x = true)
    (accept : mayAccept (s.at_ t) x = true) :
    exec (.imgload t w) s =
      .next (if (s.at_ t).img.maqState = .armed then endWork x 0x600 (acceptWork w (takeUp w (s.at_ t)))
        else endWork x 0 (acceptWork w (loadImage (u32 x.bytes 32) x.payload (takeUp w (s.at_ t))))) := by
  unfold exec execImgload
  simp only [work]
  exact when_eq_next (by rw [up, op, taken, fenced, final, run, earlier, turn, accept]; rfl)

theorem exec_imgdiscard_of_turn (ready : readyWork (s.at_ t) w 0x0305 = some x) :
    exec (.imgdiscard t w) s = .next (unlessArmed x (fun z => endWork x 0 (emptyMaquette z)) (takeUp w (s.at_ t))) := by
  unfold exec execImgdiscard
  exact onImage_of_turn _ rfl turn ready up

theorem exec_imgstage_of_turn (ready : readyWork (s.at_ t) w 0x0301 = some x) (free : imgBusy (s.at_ t) = false) :
    exec (.imgstage t w) s = .next (unlessArmed x (fun z =>
      if z.img.maqState = .empty then
        (if mirrors z && !localWork z x then z else finishData x.ref 0x100 (findingBytes (errAt 0x100 0xFFFFFFFF)) z)
      else modImg (fun m => { m with maqState := .staging, stager := some x.ref, stageCls := 1, maq := none }) z) (takeUp w (s.at_ t))) := by
  unfold exec execImgstage
  exact onImage_of_turn _ (by rw [free]; rfl) turn ready up

theorem exec_imgrehearse_of_turn (ready : readyWork (s.at_ t) w 0x0302 = some x) (free : imgBusy (s.at_ t) = false) :
    exec (.imgrehearse t w) s = .next (unlessArmed x (fun z =>
      if z.img.maqState != .staged then endWork x 0x100 z
      else modImg (fun m => { m with
        maqState := .rehearsing
        rehearser := some x.ref
        rehearseFirst := 0
        rehearseLeft := u32 x.bytes 32
        rehearseEnd := none }) z) (takeUp w (s.at_ t))) := by
  unfold exec execImgrehearse
  exact onImage_of_turn _ (by rw [free]; rfl) turn ready up

variable (work : workOf (s.at_ t) w = some x) (accepted : x.accepted = true) (stager : (s.at_ t).img.stager.isNone = true)
  (alone : (s.at_ t).img.activator.isNone = true ∨ (s.at_ t).img.maqState = .armed)
include work accepted stager alone

omit up turn in
theorem mayActivate : (isAccepted (s.at_ t) w && (s.at_ t).img.stager.isNone &&
    ((s.at_ t).img.activator.isNone || (s.at_ t).img.maqState == .armed)) = true := by
  rw [isAccepted_of_accepted work accepted, stager, Bool.true_and, Bool.true_and, Bool.or_eq_true, beq_iff_eq]
  exact alone

theorem exec_imgactivate_of_turn (ready : readyWork (s.at_ t) w 0x0303 = some x) :
    exec (.imgactivate t w) s = .next (unlessArmed x (fun z =>
      if z.img.maqState != .staged && z.img.maqState != .rehearsing then endWork x 0x100 z
      else joinWork x (shadowsAfresh (modImg (fun m => { m with maqState := .armed, activator := some (x.ref, false) })
        (cutRehearsal 2 .armed z)))) (takeUp w (s.at_ t))) := by
  unfold exec execImgactivate
  exact onImage_of_turn _ (mayActivate work accepted stager alone) turn ready up

end Opcodes

/-- Settles O53: each opcode in its turn, by the state of the maquette. -/
theorem imageOpcodes : Obligations.ImageOpcodes := by
  refine ⟨?load, ?loadArmed, ?discard, ?discardArmed, ?stage, ?stageEmpty, ?stageArmed, ?rehearse, ?rehearseLoaded, ?activate,
    ?activateLoaded, ?revert, ?rehearseArmed, ?activateArmed, ?revertArmed⟩
  case load =>
    rintro s _ t w x rfl up work op taken fenced final run earlier turn accept other
    rw [exec_imgload_of_turn up turn work op taken fenced final run earlier accept, if_neg other]
  case loadArmed =>
    rintro s _ t w x rfl up work op taken fenced final run earlier turn accept armed
    rw [exec_imgload_of_turn up turn work op taken fenced final run earlier accept, if_pos armed]
  case discard =>
    rintro s _ t w x rfl ready up turn other
    rw [exec_imgdiscard_of_turn up turn ready, unlessArmed_of_other _ _ _ other]
  case discardArmed =>
    rintro s _ t w x rfl ready up turn armed
    rw [exec_imgdiscard_of_turn up turn ready, unlessArmed_of_armed _ _ _ armed]
  case stage =>
    rintro s _ t w x rfl ready up turn free loaded
    rw [exec_imgstage_of_turn up turn ready free, unlessArmed_of_other _ _ _ (by rw [loaded]; decide), takeUp_img, loaded]
    rfl
  case stageEmpty =>
    rintro s _ t w x rfl ready up turn free empty drives
    rw [exec_imgstage_of_turn up turn ready free, unlessArmed_of_other _ _ _ (by rw [empty]; decide), takeUp_img, empty, drives]
    rfl
  case stageArmed =>
    rintro s _ t w x rfl ready up turn free armed
    rw [exec_imgstage_of_turn up turn ready free, unlessArmed_of_armed _ _ _ armed]
  case rehearse =>
    rintro s _ t w x rfl ready up turn free staged
    rw [exec_imgrehearse_of_turn up turn ready free, unlessArmed_of_other _ _ _ (by rw [staged]; decide), takeUp_img, staged]
    rfl
  case rehearseLoaded =>
    rintro s _ t w x rfl ready up turn free loaded
    rw [exec_imgrehearse_of_turn up turn ready free, unlessArmed_of_other _ _ _ (by rw [loaded]; decide), takeUp_img, loaded]
    rfl
  case activate =>
    rintro s _ t w x rfl ready up turn work accepted stager alone staged
    rw [exec_imgactivate_of_turn up turn work accepted stager (.inl alone) ready,
      unlessArmed_of_other _ _ _ (by rw [staged]; decide), takeUp_img, staged]
    rfl
  case activateLoaded =>
    rintro s _ t w x rfl ready up turn work accepted stager alone loaded
    rw [exec_imgactivate_of_turn up turn work accepted stager (.inl alone) ready,
      unlessArmed_of_other _ _ _ (by rw [loaded]; decide), takeUp_img, loaded]
    rfl
  case revert =>
    rintro s _ t w x rfl ready up turn work accepted stager alone other
    unfold exec execImgrevert
    exact (onImage_of_turn _ (mayActivate work accepted stager (.inl alone)) turn ready up).trans
      (congrArg _ (unlessArmed_of_other _ _ _ other))
  case rehearseArmed =>
    rintro s _ t w x rfl ready up turn free armed
    rw [exec_imgrehearse_of_turn up turn ready free, unlessArmed_of_armed _ _ _ armed]
  case activateArmed =>
    rintro s _ t w x rfl ready up turn work accepted stager armed
    rw [exec_imgactivate_of_turn up turn work accepted stager (.inr armed) ready, unlessArmed_of_armed _ _ _ armed]
  case revertArmed =>
    rintro s _ t w x rfl ready up turn work accepted stager armed
    unfold exec execImgrevert
    refine (onImage_of_turn _ (mayActivate work accepted stager (.inr armed)) turn ready up).trans ?_
    rw [unlessArmed_of_armed _ _ _ armed]

/-! ## The ends of staging, rehearsal and activation -/

/-- A control-log record changes the store alone. -/
theorem controlNote_eq (s : State) : controlNote s = { s with nvs := (controlNote s).nvs } := by
  unfold controlNote
  dsimp only
  split <;> rfl

theorem mirrors_controlNote (s : State) : mirrors (controlNote s) = mirrors s := by
  rw [controlNote_eq]
  rfl

theorem workOf_controlNote (s : State) (r : WorkRef) : workOf (controlNote s) r = workOf s r := by
  rw [controlNote_eq]
  rfl

/-- Settles O54: each end by the descriptor that waits for it, where this device still has its work. -/
theorem imageEvents : Obligations.ImageEvents := by
  refine ⟨?staged, ?stagedFor, ?rehearsed, ?shadow, ?activated, ?activatedFor⟩
  case staged =>
    rintro s _ t w z rfl up studio stager after gone
    unfold exec execStagingEnd
    simp only [stager]
    refine when_eq_next (by rw [up, studio]; rfl) ?_
    simp only [← after, gone]
    rfl
  case stagedFor =>
    rintro s _ t w z x rfl up studio stager after work drives
    unfold exec execStagingEnd
    simp only [stager]
    refine when_eq_next (by rw [up, studio]; rfl) ?_
    simp only [← after, work, drives]
    rfl
  case rehearsed =>
    rintro s _ t counts w x result rfl alive rehearser end_ work
    unfold exec execRehearsalEnd
    simp only [rehearser, end_]
    refine when_eq_next alive ?_
    simp only [work]
  case shadow =>
    rintro s _ t tile i rfl up image live link
    unfold exec execShadowBankLoaded
    simp only [image]
    exact when_eq_next (by rw [up, live, link]; rfl)
  case activated =>
    rintro s _ t e w u rfl alive due gone
    unfold exec execRoleRecordWritten
    simp only [due]
    refine when_eq_next alive ?_
    have gone' : workOf (modImg (fun m => { m with roleDue := none }) (controlNote (s.at_ t))) w = none :=
      (workOf_controlNote (s.at_ t) w).trans gone
    simp only [gone']
    rfl
  case activatedFor =>
    rintro s _ t e w u x rfl alive due work drives
    unfold exec execRoleRecordWritten
    simp only [due]
    refine when_eq_next alive ?_
    have here : workOf (modImg (fun m => { m with roleDue := none }) (controlNote (s.at_ t))) w = some x :=
      (workOf_controlNote (s.at_ t) w).trans work
    have drives' : mirrors (modImg (fun m => { m with roleDue := none }) (controlNote (s.at_ t))) = false :=
      (mirrors_controlNote (s.at_ t)).trans drives
    simp only [here, drives']
    rfl

end Sys2Proof.Machine
end

section
/-! The partner pair: what its times, its witnesses, its partner's messages and a couch do (R154, R365 to R381). -/

namespace Sys2Proof.Machine

open Sys2Proof

-- One proof at a time: the check compiles every file as one text, within a limit of memory.
set_option Elab.async false

/-! ## The pair's own events -/

/-- Two witnesses make an ARMED member that may take its partner's place ACTIVE 20 µs ahead (R380, R381). -/
theorem exec_witnessAssert_of_two {s : State} {t : Time} (equal still : Time) (field : List (Fin 96 × Int × Time)) {w1 w2 w3 : Bool}
    {z : State} (up : hubUp (s.at_ t) = true) (seat : seated (s.at_ t) = true) (link : w1 = linkWitness (s.at_ t))
    (partner : w2 = (decide (us 5 ≤ equal) || decide (us 500 ≤ still))) (terminals : w3 = fieldWitness field (s.at_ t))
    (two : 2 ≤ count3 w1 w2 w3)
    (seen : z = (fun s1 : State => if w2 then raiseLevel 0x097 s1 else calm 0x097 s1) { s.at_ t with pair := { (s.at_ t).pair with
      wit := (w1, w2, w3)
      linkLostAt := if w1 then (match (s.at_ t).pair.linkLostAt with | some b => some b | none => some (s.at_ t).now) else none
      orphanSince := if w1 && w2 && !foreignDrive field (s.at_ t) then
        (match (s.at_ t).pair.orphanSince with | some b => some b | none => some (s.at_ t).now) else none } })
    (may : mayTake z = true) (armed : z.pair.armed = true) :
    exec (.witnessAssert t equal still field) s =
      .next (becomeActive (sysNs z + 20000) (nsTick (sysNs z + 20000)) (witMask z) z) := by
  subst link partner terminals
  unfold exec execWitnessAssert
  refine when_eq_next (by rw [up, seat]; rfl) ?_
  subst seen
  refine if_pos ?_
  rw [decide_eq_true two, Bool.true_and, Bool.and_eq_true]
  exact ⟨may, armed⟩

/-- Settles O43: each event by the role it finds, or by how long the link has been gone. -/
theorem pairMemberEvents : Obligations.PairMemberEvents := by
  refine ⟨?shd, ?items, ?armedLoss, ?partneredLoss, ?orphwait, ?witness, ?yield, ?takenOrphan, ?takenActive, ?reset, ?lock, ?imagePart,
    ?imageEnd, ?entry, ?forwarded, ?completed⟩
  case shd =>
    rintro s _ t rfl up seat
    unfold exec execShdSend
    exact when_eq_next (by rw [up, seat]; rfl)
  case items =>
    rintro s _ t bytes rfl up mirror
    exact when_eq_next (by rw [up, mirror]; rfl)
  case armedLoss =>
    rintro s _ t b rfl up standby armed lost due
    unfold exec execArmedLinkLoss
    exact when_eq_next (by simp only [up, standby, armed, lost, decide_eq_true due]; rfl)
  case partneredLoss =>
    rintro s _ t b rfl up active partnered lost due
    unfold exec execPartneredLinkLoss
    exact when_eq_next (by simp only [up, active, partnered, lost, decide_eq_true due]; rfl)
  case orphwait =>
    rintro s _ t b i rfl up seat orphan pair witness since cast due
    unfold exec execOrphwaitExpiry
    exact when_eq_next (by simp only [up, seat, orphan, pair, witness, since, cast, decide_eq_true due]; rfl)
  case witness =>
    rintro s _ t equal still field w1 w2 w3 z rfl up seat link partner terminals two seen may armed
    exact exec_witnessAssert_of_two equal still field up seat link partner terminals two seen may armed
  case yield =>
    rintro s _ t epoch stamp reason rfl up may
    exact when_eq_next (by rw [up, may]; rfl)
  case takenOrphan =>
    rintro s _ t epoch stamp rfl up seat orphan
    unfold exec execCchTaken
    exact when_eq_next (by rw [up, seat]; rfl) (if_pos orphan)
  case takenActive =>
    rintro s _ t epoch stamp rfl up seat drives other steady
    unfold exec execCchTaken
    refine when_eq_next (by rw [up, seat]; rfl) ((if_neg other).trans (if_pos ?_))
    rw [drives, steady]
    rfl
  case reset =>
    rintro s _ t stop cause src rfl alive held due other steady
    unfold exec execYieldHoldoffEnd
    simp only [held]
    exact when_eq_next (by rw [alive, decide_eq_true due]; rfl) ((if_neg other).trans (if_neg (Bool.not_eq_true _ ▸ steady)))
  case lock =>
    rintro s _ t stop src rfl alive held due
    unfold exec execYieldHoldoffEnd
    simp only [held]
    exact when_eq_next (by rw [alive, decide_eq_true due]; rfl)
  case imagePart =>
    rintro s _ t off bytes last rfl up mirror other rfl
    unfold exec execJnlImage
    exact when_eq_next (by rw [up, mirror, bne_iff_ne.mpr other]; rfl)
  case imageEnd =>
    rintro s _ t off bytes last rfl up mirror other rfl
    unfold exec execJnlImage
    exact when_eq_next (by rw [up, mirror, bne_iff_ne.mpr other]; rfl)
  case entry =>
    rintro s _ t joff bytes p rfl up mirror partner continues
    unfold exec execJnlEntry
    simp only [partner]
    rw [when_of_holds _ _ (by rw [up, mirror]; rfl), continues, if_pos rfl]
  case forwarded =>
    rintro s _ t bytes d rfl up partner drives
    unfold exec execJnlFwd
    simp only [partner]
    exact when_eq_next (by rw [up, drives]; rfl)
  case completed =>
    rintro s _ t bytes d rfl up partner whole
    unfold exec execJnlCpl
    simp only [partner]
    exact when_eq_next (by rw [up, decide_eq_true whole]; rfl)

/-! ## Couch -/

theorem exec_cchCouchset_of_own {s : State} {t : Time} {epoch seat : Nat} (up : hubUp (s.at_ t) = true)
    (standby : (s.at_ t).pair.state = .standby) (own : seat = ownSeat (s.at_ t)) (none_ : (s.at_ t).pair.couch.isNone = true) :
    exec (.cchCouchset t epoch seat) s =
      .next (if (s.at_ t).pair.armed && allLive (s.at_ t) then enterCouch true epoch none (s.at_ t)
        else cchSend 4 epoch (sysNs (s.at_ t)) 0 (s.at_ t)) := by
  unfold exec execCchCouchset
  exact when_eq_next (by rw [up, standby, beq_iff_eq.mpr own, none_]; rfl)

/-- Settles O44: each message or time by the couch that it finds. -/
theorem couchEvents : Obligations.CouchEvents := by
  refine ⟨?enters, ?abandons, ?go, ?step, ?end_, ?abort, ?window, ?shd⟩
  case enters =>
    rintro s _ t epoch seat rfl up standby own none_ armed live
    rw [exec_cchCouchset_of_own up standby own none_, armed, live]
    rfl
  case abandons =>
    rintro s _ t epoch seat rfl up standby own none_ disarmed
    rw [exec_cchCouchset_of_own up standby own none_, disarmed]
    rfl
  case go =>
    rintro s _ t epoch stamp c rfl up couch incoming first
    unfold exec execCchCouchgo
    simp only [couch]
    exact when_eq_next (by rw [up, incoming, first]; rfl)
  case step =>
    rintro s _ t c b rfl up couch left start due
    unfold exec execCouchStep
    simp only [couch, start]
    exact when_eq_next (by rw [up, decide_eq_true (Nat.succ_le_of_lt left), decide_eq_true due]; rfl)
  case end_ =>
    rintro s _ t epoch c rfl up couch incoming positive
    unfold exec execCchCouchend
    simp only [couch]
    exact when_eq_next (by rw [up, incoming, decide_eq_true positive]; rfl)
  case abort =>
    rintro s _ t epoch c rfl up couch first named
    unfold exec execCchCouchabort
    simp only [couch]
    exact when_eq_next (by rw [up, first, beq_iff_eq.mpr named]; rfl)
  case window =>
    rintro s _ t b rfl up open_ due
    unfold exec execCouchHartWindowEnd
    exact when_eq_next (by rw [up, open_]; exact decide_eq_true due)
  case shd =>
    rintro s _ t bytes z rfl up seat whole after other
    unfold exec execShdReceived
    refine when_eq_next (by rw [up, seat, decide_eq_true whole]; rfl) ?_
    simp only [← after]
    exact if_pos (by rw [bne_iff_ne.mpr other, Bool.true_or])

end Sys2Proof.Machine
end

section
/-! The fault collector and the key watchdog of Armature (R472 to R500), and what clocks, supplies and resets do (R494 to R517). -/

namespace Sys2Proof.Machine

open Sys2Proof

-- One proof at a time: the check compiles every file as one text, within a limit of memory.
set_option Elab.async false

/-! ## The fault collector -/

theorem exec_wireFault_of_unlisted {s : State} {t : Time} {src : Nat} (inj : Bool) (unlisted : faultListed src = false) :
    exec (.wireFault t src inj) s = .next (s.at_ t) := by
  unfold exec execWireFault
  refine when_of_fails _ _ ?_
  rw [unlisted, Bool.and_false, Bool.false_and]

theorem exec_blockRecovery_of_held {s : State} {t : Time} {src : Nat} (back : Bool) {b : BlockId} {n : Nat} {u : Time}
    (block : blockOf src = some b) (held : (s.at_ t).flt.blocks.find? (fun b => b.1 == src) = some (n, u)) :
    exec (.blockRecovery t src back) s =
      if back then when (hubAlive (s.at_ t) && decide (u + us 1 ≤ (s.at_ t).now)) (blockBack b src) (s.at_ t)
      else when (hubAlive (s.at_ t) && decide (u + recoverTime b ≤ (s.at_ t).now)) (fun s => raise src (dropBlock src s)) (s.at_ t) := by
  unfold exec execBlockRecovery
  simp only [block, held]

theorem pendWrite_of_listed {s : State} {id : Nat} (requester : Nat) (listed : faultListed id = true) :
    pendWrite requester id s =
      if (srcEntry s id).ecls = 1 || (srcEntry s id).ecls = 4 then (if clears s (0x3004 + 8 * id) 2 1 then clearPend id s else s)
      else recordRefused (0x3004 + 8 * id) requester s := by
  unfold pendWrite
  rw [listed]
  rfl

theorem fltRequest_of_listed {s : State} {id : Nat} (field value : Nat) (listed : faultListed id = true) :
    fltRequest id field value s =
      if s.flt.cfgLock || !fltLegal (srcEntry s id) field value then recordFltcfg id 2 field value s
      else recordFltcfg id 1 field value (keepFlt id (modSrc id (fltSet field value) s)) := by
  unfold fltRequest
  rw [listed]
  rfl

/-- A service in the open part of the window with the key that is due (R498). -/
theorem wdaService_of_good {s : State} {key : Byte} (on : s.pwr.wda.en = true) (runs : s.pwr.wda.expired = false)
    (before : wdaTicks s < s.pwr.wda.close + s.pwr.wda.open_) (after : s.pwr.wda.close ≤ wdaTicks s) (due : key = s.pwr.wda.key) :
    wdaService key s =
      modWda (fun w => { w with from_ := s.now, key := if w.key = 0x5C then 0xA3 else 0x5C, last := 1, good := (w.good + 1) % 65536 }) s := by
  unfold wdaService
  dsimp only
  rw [on, runs, if_neg (by decide), if_neg (Nat.not_le.mpr before), if_neg (Nat.not_lt.mpr after), if_pos due]

/-- The expiry is no judgement of a key: LAST stays (Table 19-7). -/
theorem wdaFault_of_expiry (s : State) : wdaFault 4 s = raise 4 (modWda (fun w => { w with expired := true }) s) := by
  unfold wdaFault
  simp only [decide_true, Bool.or_true, if_true]

/-- Settles O51: each event by the entry of its source, its block, or the watchdog's window. -/
theorem faultCollectorEvents : Obligations.FaultCollectorEvents := by
  refine ⟨?faults, ?wire, ?wireInjected, ?unlisted, ?back, ?late, ?trapEnd, ?trapLate, ?c4Commit, ?c4Loaded, ?cleared, ?kept, ?refused,
    ?applied, ?locked, ?released, ?notEnabled, ?stopped, ?hostKey, ?goodKey, ?expired⟩
  case faults =>
    rintro s _ t srcs inj _ rfl alive rfl some_
    unfold exec execFaultEvent
    exact when_eq_next (by rw [alive, Bool.true_and, Bool.not_eq_true', List.isEmpty_eq_false_iff]; exact some_)
  case wire =>
    rintro s _ t src inj rfl alive listed rfl free
    unfold exec execWireFault
    exact when_eq_next (by rw [alive, listed, free]; rfl)
  case wireInjected =>
    rintro s _ t src inj rfl alive listed rfl healthy invalid
    unfold exec execWireFault
    exact when_eq_next (by rw [alive, listed, healthy, decide_eq_true invalid]; rfl)
  case unlisted =>
    rintro s _ t src inj rfl unlisted
    exact exec_wireFault_of_unlisted inj unlisted
  case back =>
    rintro s _ t src back b n u rfl alive rfl block held due
    rw [exec_blockRecovery_of_held true block held, if_pos rfl]
    exact when_eq_next (by rw [alive, decide_eq_true due]; rfl)
  case late =>
    rintro s _ t src back b n u rfl alive rfl block held due
    rw [exec_blockRecovery_of_held false block held, if_neg Bool.false_ne_true]
    exact when_eq_next (by rw [alive, decide_eq_true due]; rfl)
  case trapEnd =>
    rintro s _ t src rfl alive pending trap
    unfold exec execTrapHandlerEnd
    exact when_eq_next (by rw [alive, pending, trap]; rfl)
  case trapLate =>
    rintro s _ t src rfl alive pending trap due
    unfold exec execTrapAckTimeout
    exact when_eq_next (by rw [alive, pending, trap, decide_eq_true due]; rfl)
  case c4Commit =>
    rintro s _ t src b rfl alive pending class_ cast commit due
    unfold exec execC4PendAutoClear
    exact when_eq_next (by simp only [alive, pending, class_, cast, commit, if_true, decide_eq_true due]; rfl)
  case c4Loaded =>
    rintro s _ t src rfl alive pending class_ cast loaded due
    unfold exec execC4PendAutoClear
    exact when_eq_next
      (by simp only [alive, pending, class_, cast, loaded, Bool.false_eq_true, if_false, if_true, decide_eq_true due]; rfl)
  case cleared =>
    rintro s _ t src rfl alive listed class_ may
    unfold exec execPendClear
    refine when_eq_next alive ((pendWrite_of_listed 1024 listed).trans ?_)
    rw [if_pos (by simpa only [Bool.or_eq_true, decide_eq_true_eq] using class_), if_pos may]
  case kept =>
    rintro s _ t src rfl alive listed class_ event
    unfold exec execPendClear
    refine when_eq_next alive ((pendWrite_of_listed 1024 listed).trans ?_)
    rw [if_pos (by simpa only [Bool.or_eq_true, decide_eq_true_eq] using class_), if_neg (Bool.not_eq_true _ ▸ event)]
  case refused =>
    rintro s _ t src rfl alive listed other1 other4
    unfold exec execPendClear
    refine when_eq_next alive ((pendWrite_of_listed 1024 listed).trans (if_neg ?_))
    rw [decide_eq_false other1, decide_eq_false other4]
    decide
  case applied =>
    rintro s _ t src field value rfl alive listed open_ legal
    unfold exec execFltConfigRequest
    refine when_eq_next alive ((fltRequest_of_listed field.val value listed).trans (if_neg ?_))
    rw [open_, legal]
    decide
  case locked =>
    rintro s _ t src field value rfl alive listed locked
    unfold exec execFltConfigRequest
    refine when_eq_next alive ((fltRequest_of_listed field.val value listed).trans (if_pos ?_))
    rw [locked, Bool.true_or]
  case released =>
    rintro s _ t src value rfl alive listed on rfl
    unfold exec execInjWrite
    refine when_eq_next alive (if_neg ?_)
    rw [on, listed]
    decide
  case notEnabled =>
    rintro s _ t src value rfl alive off
    unfold exec execInjWrite
    refine when_eq_next alive (if_pos ?_)
    rw [off, Bool.not_false, Bool.true_or]
  case stopped =>
    rintro s _ t b rfl alive locked stop due
    unfold exec execTileLinkMastersStop
    exact when_eq_next (by simp only [alive, locked, stop, decide_eq_true due]; rfl)
  case hostKey =>
    rintro s _ t key byHost rfl alive rfl
    exact when_eq_next alive
  case goodKey =>
    rintro s _ t key byHost rfl alive rfl on runs before after due
    unfold exec execWdaKey
    exact when_eq_next alive (wdaService_of_good on runs before after due)
  case expired =>
    rintro s _ t rfl alive on runs late
    unfold exec execWdaExpire
    exact when_eq_next (by rw [alive, on, runs, decide_eq_true late]; rfl) (wdaFault_of_expiry _)

/-! ## Clocks, supplies and resets -/

theorem exec_clockMonitor_of_locked {s : State} {t : Time} (count : Nat) (powered : (s.at_ t).pwr.phase ≠ .por)
    (locked : (s.at_ t).pwr.pllLocked = true) :
    exec (.clockMonitor t count) s =
      .next (if 272 ≤ count && count ≤ 300 then clockGood (modPwr (fun p => { p with clkStopped := count == 0 }) (s.at_ t))
        else clockBad (modPwr (fun p => { p with clkStopped := count == 0 }) (s.at_ t))) := by
  unfold exec execClockMonitor
  exact when_eq_next (by rw [bne_iff_ne.mpr powered, locked]; rfl)

theorem exec_kclkCheck_of_alive {s : State} {t : Time} (period : Time) (alive : hubAlive (s.at_ t) = true) :
    exec (.kclkCheck t period) s =
      .next ((if (decide (3200 * period < 193359375) || decide (197265625 < 3200 * period)) || decide (us 100 < period) then
        raiseLevel 0x005 else calm 0x005) (s.at_ t)) := by
  unfold exec execKclkCheck
  exact when_eq_next alive

/-- A period from nominal to 1 % above it (R496). -/
theorem period_in_range (period : Nat) (least : 61035 ≤ period) (most : period ≤ 61645) :
    ¬((3200 * period < 193359375 ∨ 197265625 < 3200 * period) ∨ 200000 < period) := by
  omega

theorem exec_holdupTestEnd_of_testing {s : State} {t : Time} (current : Nat) (dt : Time) (fell : Bool) (up : hubUp (s.at_ t) = true)
    (testing : (s.at_ t).pwr.testing = true) {ok : Bool} (passed : (!fell || decide (806000000 ≤ current * dt)) = ok) :
    exec (.holdupTestEnd t current dt fell) s =
      .next (if ok then { s.at_ t with pwr := { (s.at_ t).pwr with testing := false, holdRun := true, holdOk := ok, holdAt := (s.at_ t).now } }
        else raise 0x01C
          { s.at_ t with pwr := { (s.at_ t).pwr with testing := false, holdRun := true, holdOk := ok, holdAt := (s.at_ t).now } }) := by
  subst passed
  unfold exec execHoldupTestEnd
  exact when_eq_next (by rw [up, testing]; rfl)

/-- Settles O52: each event by the phase of the supply and by what it measures. -/
theorem powerAndClockEvents : Obligations.PowerAndClockEvents := by
  refine ⟨?pll, ?good, ?bad, ?slow, ?inRange, ?pinLong, ?pinEnds, ?pinShort, ?devrst, ?release, ?por, ?vlog, ?fail, ?holds, ?flushed, ?floor,
    ?plinth, ?holdup, ?passed, ?failed, ?tset, ?intrusion, ?studio⟩
  case pll =>
    rintro s _ t rfl powered
    exact when_eq_next (bne_iff_ne.mpr powered)
  case good =>
    rintro s _ t count rfl powered locked least most
    rw [exec_clockMonitor_of_locked count powered locked, if_pos]
    rw [decide_eq_true least, decide_eq_true most]
    rfl
  case bad =>
    rintro s _ t count rfl powered locked out
    rw [exec_clockMonitor_of_locked count powered locked, if_neg]
    rw [Bool.and_eq_true, decide_eq_true_eq, decide_eq_true_eq]
    omega
  case slow =>
    rintro s _ t period rfl alive slow
    rw [exec_kclkCheck_of_alive period alive, if_pos]
    rw [decide_eq_true slow, Bool.or_true]
  case inRange =>
    rintro s _ t period rfl alive least most
    rw [exec_kclkCheck_of_alive period alive, if_neg]
    simp only [Bool.or_eq_true, decide_eq_true_eq]
    exact period_in_range period least most
  case pinLong =>
    rintro s _ t perst held low rfl high long
    unfold exec execResetPin
    exact (if_neg (Bool.not_eq_true _ ▸ high)).trans (if_pos long)
  case pinEnds =>
    rintro s _ t perst held low rfl known
    unfold exec execResetPin
    exact if_pos known
  case pinShort =>
    rintro s _ t perst held low rfl high short
    unfold exec execResetPin
    exact (if_neg (Bool.not_eq_true _ ▸ high)).trans ((if_neg (Nat.not_le.mpr (Nat.lt_trans short (by decide)))).trans (if_pos short))
  case devrst =>
    rintro s _ t rfl alive
    exact when_eq_next alive
  case release =>
    rintro s _ t rfl held pins locked due content
    unfold exec execHubResetRelease
    refine when_eq_next ?_
    have may : ((s.at_ t).pwr.cause != 4 || decide (2 ≤ (s.at_ t).pwr.clkGood)) = true := by
      rw [Bool.or_eq_true, bne_iff_ne, decide_eq_true_eq]
      exact content
    rw [held, pins, locked, decide_eq_true due, may]
    rfl
  case por =>
    rintro s _ t straps rfl cold pins
    unfold exec execPorRelease
    exact when_eq_next (by rw [cold, pins]; rfl)
  case vlog =>
    rintro s _ t vhold held rfl off high long
    unfold exec execVlogGood
    exact when_eq_next (by rw [off, decide_eq_true high, decide_eq_true long]; rfl)
  case fail =>
    rintro s _ t vhold rfl alive steady low
    unfold exec execPowerFail
    exact when_eq_next (by rw [alive, steady, decide_eq_true low]; rfl)
  case holds =>
    rintro s _ t vhold rfl high
    unfold exec execPowerFail
    refine when_of_fails _ _ ?_
    rw [decide_eq_false (Nat.not_lt.mpr high), Bool.and_false]
  case flushed =>
    rintro s _ t rfl alive failing
    unfold exec execFlushDone
    exact when_eq_next (by rw [failing, alive]; rfl)
  case floor =>
    rintro s _ t vhold rfl alive failing low
    unfold exec execFlushFloor
    exact when_eq_next (by rw [failing, alive, decide_eq_true low]; rfl)
  case plinth =>
    rintro s _ t vkeep rfl off low
    unfold exec execPlinthLoss
    exact when_eq_next (by rw [off, decide_eq_true low]; rfl)
  case holdup =>
    rintro s _ t vhold rfl up idle due high
    have time : (!(s.at_ t).pwr.holdRun || decide ((s.at_ t).pwr.holdAt + sec 86400 ≤ (s.at_ t).now)) = true := by
      rw [Bool.or_eq_true, Bool.not_eq_true', decide_eq_true_eq]
      exact due
    unfold exec execHoldupTest
    exact when_eq_next (by rw [up, idle, time, decide_eq_true high]; rfl)
  case passed =>
    rintro s _ t current dt fell rfl up testing enough
    refine exec_holdupTestEnd_of_testing current dt fell up testing (ok := true) ?_
    rw [Bool.or_eq_true, Bool.not_eq_true', decide_eq_true_eq]
    exact enough
  case failed =>
    rintro s _ t current dt fell rfl up testing rfl short
    rw [exec_holdupTestEnd_of_testing current dt true up testing (ok := false), if_neg Bool.false_ne_true]
    rw [Bool.not_true, Bool.false_or, decide_eq_false_iff_not, Nat.not_le]
    exact short
  case tset =>
    rintro s _ t rfl up locked
    unfold exec execTsetUpdate
    exact when_eq_next (by rw [up, locked]; rfl)
  case intrusion =>
    rintro s _ t rfl
    rfl
  case studio =>
    rintro s _ t rfl up running down free
    unfold exec execStudioRunning
    exact when_eq_next (by rw [up, running, down, free]; rfl)

end Sys2Proof.Machine
end

section
/-! Firmware and the store: loads, APPLY and the good mark (R527 to R529, R569), erases, programs, patina and wear (R530 to R536). -/

namespace Sys2Proof.Machine

open Sys2Proof

-- One proof at a time: the check compiles every file as one text, within a limit of memory.
set_option Elab.async false

/-! ## Firmware -/

theorem fwWord_of_short {w : Word} {s : State} (window : s.nvs.load.windowOpen = true) (short : s.nvs.load.word.length + 1 < 256) :
    fwWord w s = modLoad (fun l => { l with word := s.nvs.load.word ++ [w] }) s := by
  have count : (s.nvs.load.word ++ [w]).length < 256 := by rwa [List.length_append]
  unfold fwWord
  rw [if_neg (by rw [window]; decide)]
  exact if_pos count

/-- The 256th word puts the chunk where NVS_FWOFF says, if it lies whole in the slot there (R529). -/
theorem fwWord_of_whole {w : Word} {s : State} {off : Nat} (window : s.nvs.load.windowOpen = true)
    (whole : 256 ≤ s.nvs.load.word.length + 1) (place : off = bits (reg s 0x2C0C) 0 24) (aligned : off % 1024 = 0)
    (inside : off + 1024 ≤ slotSize s.nvs.load.kind) :
    fwWord w s = modLoad (fun l => { l with
      word := []
      chunks := insertK off (s.nvs.load.word ++ [w]) l.chunks
      done := (insertK off (s.nvs.load.word ++ [w]) l.chunks).length }) s := by
  have count : ¬(s.nvs.load.word ++ [w]).length < 256 := by
    rw [List.length_append]
    exact Nat.not_lt.mpr whole
  unfold fwWord
  rw [if_neg (by rw [window]; decide), ← place]
  dsimp only
  rw [if_neg count, decide_eq_true aligned, decide_eq_true inside]
  rfl

theorem exec_fwLoadEnd_of_erased {s : State} {t : Time} (image : List Byte) (readOk : Bool) {i : Fin 2} (up : hubUp (s.at_ t) = true)
    (target : (s.at_ t).nvs.load.target = some i) (closed : (s.at_ t).nvs.load.windowOpen = false) (erased : slotErased (s.at_ t) = true) :
    exec (.fwLoadEnd t image readOk) s =
      .next (endLoad i (if (s.at_ t).nvs.load.window then chunkBytes (reg (s.at_ t) 0x2C08) (s.at_ t).nvs.load.chunks
        else if readOk then some (image.take (reg (s.at_ t) 0x2C08)) else none) (s.at_ t)) := by
  unfold exec execFwLoadEnd
  simp only [target]
  exact when_eq_next (by rw [up, closed, erased]; rfl)

/-- Settles O55: GO, OPEN and the chunk port by SRC and the state of the load; the others by the slots. -/
theorem firmwareEvents : Obligations.FirmwareEvents := by
  refine ⟨?goHost, ?goClose, ?goBusy, ?openWindow, ?openHost, ?word, ?chunk, ?closed, ?endHost, ?endWindow, ?apply, ?noTrial, ?good⟩
  case goHost =>
    rintro s _ t rfl up host
    exact when_eq_next up (if_pos (by rw [host]; rfl))
  case goClose =>
    rintro s _ t rfl up window open_
    unfold exec execFwGo
    exact when_eq_next up ((if_neg (by rw [window]; decide)).trans (if_pos open_))
  case goBusy =>
    rintro s _ t rfl up window closed target
    unfold exec execFwGo
    exact when_eq_next up
      ((if_neg (by rw [window]; decide)).trans ((if_neg (Bool.not_eq_true _ ▸ closed)).trans (if_pos target)))
  case openWindow =>
    rintro s _ t rfl up window
    exact when_eq_next up (if_pos window)
  case openHost =>
    rintro s _ t rfl up host
    exact when_eq_next up (if_neg (Bool.not_eq_true _ ▸ host))
  case word =>
    rintro s _ t word rfl up window short
    exact when_eq_next up (fwWord_of_short window short)
  case chunk =>
    rintro s _ t word off rfl up window whole place aligned inside
    exact when_eq_next up (fwWord_of_whole window whole place aligned inside)
  case closed =>
    rintro s _ t word rfl up closed
    exact when_eq_next up (if_pos (by rw [closed]; rfl))
  case endHost =>
    rintro s _ t image readOk i rfl up target closed erased host
    rw [exec_fwLoadEnd_of_erased image readOk up target closed erased, host, if_neg Bool.false_ne_true]
  case endWindow =>
    rintro s _ t image readOk i rfl up target closed erased window
    rw [exec_fwLoadEnd_of_erased image readOk up target closed erased, window, if_pos rfl]
  case apply =>
    rintro s _ t rfl up trial
    exact when_eq_next up (if_pos (bne_iff_ne.mpr trial))
  case noTrial =>
    rintro s _ t rfl up trial
    exact when_eq_next up (if_neg (by rw [trial]; decide))
  case good =>
    rintro s _ t studio i rfl up due running
    unfold exec execGoodMark
    refine when_eq_next (by rw [up, due]; rfl) ?_
    unfold goodMark
    simp only [running]

/-! ## The store -/

theorem exec_storeEraseDone_of_intent {s : State} {t : Time} {block : Nat} (failed : Bool) {b purpose : Nat}
    (alive : hubAlive (s.at_ t) = true) (steady : (s.at_ t).pwr.failing = false)
    (intent : (s.at_ t).nvs.store.intents.find? (fun x => x.1 == block) = some (b, purpose)) {p : Nat}
    (mapped : p = lookupD (s.at_ t).nvs.store.map b b) {replaced : Bool}
    (judged : (failed || decide (100000 ≤ lookupD (s.at_ t).nvs.store.erases p 0 + 1) && (s.at_ t).nvs.store.reserve != 0) = replaced) :
    exec (.storeEraseDone t block failed) s =
      .next ((if replaced then replaceBlock b else id) (modStore
        (fun x => { x with erases := insertK p (lookupD (s.at_ t).nvs.store.erases p 0 + 1) x.erases }) (eraseDone b purpose (s.at_ t)))) := by
  subst mapped judged
  unfold exec execStoreEraseDone
  simp only [intent]
  refine when_eq_next (by rw [alive, steady]; rfl) ?_
  split <;> rfl

theorem exec_storeWriteDone_of_job {s : State} {t : Time} (failed : Bool) {j : StoreJob} (alive : hubAlive (s.at_ t) = true)
    (free : blockHeld (s.at_ t) 0x0A8 = false) (job : nextJob (s.at_ t).nvs.store.jobs = some j) :
    exec (.storeWriteDone t failed) s =
      .next (if failed then replaceBlock ((freeW (s.at_ t)).1.toNat % 2048) (freeW (s.at_ t)).2 else serveJob j (s.at_ t)) := by
  unfold exec execStoreWriteDone
  simp only [job]
  exact when_eq_next (by rw [alive, free]; rfl)

/-- Settles O56: erases by what the block has counted, programs by whether they failed, wear by the reserve and the day. -/
theorem storeEvents : Obligations.StoreEvents := by
  refine ⟨?counted, ?noReserve, ?failed, ?worn, ?served, ?again, ?patina, ?firstWear, ?nextWear, ?enough⟩
  case counted =>
    rintro s _ t block failed b purpose p rfl alive steady intent mapped rfl below
    refine exec_storeEraseDone_of_intent false alive steady intent mapped (replaced := false) ?_
    rw [decide_eq_false (Nat.not_le.mpr below)]
    rfl
  case noReserve =>
    rintro s _ t block failed b purpose p rfl alive steady intent mapped rfl above none_
    refine exec_storeEraseDone_of_intent false alive steady intent mapped (replaced := false) ?_
    rw [none_, bne_self_eq_false, Bool.and_false]
    rfl
  case failed =>
    rintro s _ t block failed b purpose p rfl alive steady intent mapped rfl
    exact exec_storeEraseDone_of_intent true alive steady intent mapped (replaced := true) (Bool.true_or _)
  case worn =>
    rintro s _ t block failed b purpose p rfl alive steady intent mapped above left
    refine exec_storeEraseDone_of_intent failed alive steady intent mapped (replaced := true) ?_
    rw [decide_eq_true above, bne_iff_ne.mpr left]
    exact Bool.or_true _
  case served =>
    rintro s _ t failed j rfl alive free job rfl
    rw [exec_storeWriteDone_of_job false alive free job, if_neg Bool.false_ne_true]
  case again =>
    rintro s _ t failed j rfl alive free job rfl
    rw [exec_storeWriteDone_of_job true alive free job, if_pos rfl]
  case patina =>
    rintro s _ t rfl up
    unfold exec execPatinaWrite
    exact when_eq_next up
  case firstWear =>
    rintro s _ t rfl up low first
    unfold exec execStorewear
    exact when_eq_next (by simp only [up, decide_eq_true low, first]; rfl)
  case nextWear =>
    rintro s _ t b rfl up low last due
    unfold exec execStorewear
    exact when_eq_next (by simp only [up, decide_eq_true low, last, decide_eq_true due]; rfl)
  case enough =>
    rintro s _ t rfl enough
    unfold exec execStorewear
    refine when_of_fails _ _ ?_
    rw [decide_eq_false (Nat.not_lt.mpr enough), Bool.and_false, Bool.false_and]

end Sys2Proof.Machine
end

section
/-! What Studio may ask at the gate (R16, R520, R545), and the recorder's own events (R542 to R550, R553, R571). -/

namespace Sys2Proof.Machine

open Sys2Proof

-- One proof at a time: the check compiles every file as one text, within a limit of memory.
set_option Elab.async false

/-! ## The gate -/

/-- The areas of GATE_PATINARD that an index may name. -/
theorem exec_gatePatinard_of_held {s : State} (t : Time) {area index : Nat}
    (held : area = 0 ∨ area = 5 ∨ (area = 1 ∧ index < 96) ∨ (area = 2 ∧ index < 12) ∨ (area = 3 ∧ index < 2048) ∨
      (area = 4 ∧ index < 8640)) : exec (.gatePatinard t area index) s = .next (s.at_ t) := by
  unfold exec execGatePatinard
  refine when_of_fails _ _ ?_
  obtain rfl | rfl | ⟨rfl, below⟩ | ⟨rfl, below⟩ | ⟨rfl, below⟩ | ⟨rfl, below⟩ := held
  · exact Bool.and_false _
  · exact Bool.and_false _
  all_goals simp only [decide_eq_true below, Bool.not_true, Bool.and_false]

theorem exec_gatePatinard_of_beyond {s : State} {t : Time} {area index : Nat} (open_ : gateOpen (s.at_ t) = true)
    (beyond : 5 < area ∨ (area = 1 ∧ 96 ≤ index) ∨ (area = 2 ∧ 12 ≤ index) ∨ (area = 3 ∧ 2048 ≤ index) ∨ (area = 4 ∧ 8640 ≤ index)) :
    exec (.gatePatinard t area index) s = .next (gateRefuse (s.at_ t)) := by
  unfold exec execGatePatinard
  refine when_eq_next ?_
  obtain above | ⟨rfl, above⟩ | ⟨rfl, above⟩ | ⟨rfl, above⟩ | ⟨rfl, above⟩ := beyond
  · obtain ⟨n, rfl⟩ : ∃ n, area = n + 6 := ⟨area - 6, by omega⟩
    rw [open_]
    rfl
  all_goals simp only [open_, decide_eq_false (Nat.not_lt.mpr above), Bool.not_false, Bool.and_true]

/-- Settles O57: each request by what the cast claims and by what the lists hold. -/
theorem gateRequests : Obligations.GateRequests := by
  refine ⟨?modem, ?unclaimed, ?stage, ?stageEnds, ?queued, ?none_, ?config, ?clear, ?otherClass, ?open_, ?noArea, ?within, ?beyond, ?started,
    ?noWork⟩
  case modem =>
    rintro s _ t k opened c rfl gate channel claimed
    unfold exec execGateModemset
    refine when_eq_next gate ?_
    simp only [channel, claimed]
  case unclaimed =>
    rintro s _ t k opened rfl gate unclaimed
    unfold exec execGateModemset
    refine when_eq_next gate ?_
    rw [unclaimed]
    cases asFin 96 k <;> rfl
  case stage =>
    rintro s _ t begins cls rfl gate staging least most rfl
    unfold exec execGateStage
    exact when_eq_next (by rw [gate, staging, decide_eq_true least, decide_eq_true most]; rfl)
  case stageEnds =>
    rintro s _ t begins cls rfl rfl
    unfold exec execGateStage when
    exact ite_self _
  case queued =>
    rintro s _ t n rfl gate open_ some_ held
    unfold exec execGateStorerec
    refine when_eq_next gate (if_neg ?_)
    rw [open_, decide_eq_false some_, decide_eq_false (Nat.not_lt.mpr held)]
    decide
  case none_ =>
    rintro s _ t n rfl gate bad
    unfold exec execGateStorerec
    refine when_eq_next gate (if_pos ?_)
    simpa only [Bool.or_eq_true, decide_eq_true_eq, or_assoc] using bad
  case config =>
    rintro s _ t req src field value rfl gate rfl
    exact when_eq_next gate
  case clear =>
    rintro s _ t req src rfl gate rfl listed class_
    unfold exec execGateFltreq
    exact when_eq_next gate (if_pos (by rw [listed, class_]; rfl))
  case otherClass =>
    rintro s _ t req src rfl gate rfl other
    unfold exec execGateFltreq
    exact when_eq_next gate (if_neg (by rw [beq_eq_false_iff_ne.mpr other, Bool.and_false]; decide))
  case open_ =>
    rintro s _ t area index rfl area0
    exact exec_gatePatinard_of_held t (area0.imp_right .inl)
  case noArea =>
    rintro s _ t area index rfl gate above
    exact exec_gatePatinard_of_beyond gate (.inl above)
  case within =>
    rintro s _ t area index rfl within
    exact exec_gatePatinard_of_held t (.inr (.inr within))
  case beyond =>
    rintro s _ t area index rfl gate beyond
    exact exec_gatePatinard_of_beyond gate (.inr beyond)
  case started =>
    rintro s _ t w x rfl gate work op claimed unmarked unended
    unfold exec execGateStarted
    refine when_eq_next gate ?_
    simp only [work]
    rw [if_neg (by rw [op, claimed]; decide), if_neg (by rw [unmarked, unended]; decide)]
  case noWork =>
    rintro s _ t w rfl gate none_
    unfold exec execGateStarted
    refine when_eq_next gate ?_
    simp only [none_]

/-! ## The recorder -/

/-- Settles O58: each event by the queue, the open record, or the record that a SEQ names. -/
theorem recorderEvents : Obligations.RecorderEvents := by
  refine ⟨?taken, ?edge, ?sealed, ?stall, ?hour, ?off, ?on, ?delivered, ?lost, ?selected, ?loaded, ?missing⟩
  case taken =>
    rintro s _ t e rest rfl alive running queue other
    unfold exec execRecEventTake
    simp only [queue]
    refine when_eq_next (by rw [alive, running]; rfl) (congrArg dropNote ((if_neg ?_).trans ?_))
    · rw [decide_eq_false other]
      exact Bool.false_ne_true
    · simp only [decide_eq_true_eq]
  case edge =>
    rintro s _ t e rest rfl alive running queue edge thrift
    unfold exec execRecEventTake
    simp only [queue]
    refine when_eq_next (by rw [alive, running]; rfl) (congrArg dropNote ((if_pos ?_).trans ?_))
    · rw [decide_eq_true edge]
      exact thrift
    · simp only [decide_eq_true_eq]
  case sealed =>
    rintro s _ t rfl alive due
    unfold exec execRecordSealTime
    exact when_eq_next (by rw [alive, due]; rfl)
  case stall =>
    rintro s _ t b rfl alive full due
    unfold exec execRecorderStall
    exact when_eq_next (by simp only [alive, full, decide_eq_true due]; rfl)
  case hour =>
    rintro s _ t rate24 bytes24 rate1 bytes1 rfl alive due
    unfold exec execThriftEvaluation
    exact when_eq_next (by rw [alive, decide_eq_true due]; rfl)
  case off =>
    rintro s _ t on rfl alive rfl
    exact when_eq_next alive
  case on =>
    rintro s _ t on rfl alive rfl
    exact when_eq_next alive
  case delivered =>
    rintro s _ t r rfl up on runs found
    unfold exec execEq0Deliver
    refine when_eq_next (by rw [up, on, runs]; rfl) ?_
    simp only [found]
  case lost =>
    rintro s _ t r rfl up on runs gone later
    unfold exec execEq0Deliver
    refine when_eq_next (by rw [up, on, runs]; rfl) ?_
    simp only [gone, later]
  case selected =>
    rintro s _ t seq rfl alive
    exact when_eq_next alive
  case loaded =>
    rintro s _ t r rfl alive busy found
    unfold exec execRecRdwinLoaded
    refine when_eq_next (by rw [alive, busy]; rfl) ?_
    simp only [found]
  case missing =>
    rintro s _ t rfl alive busy none_
    unfold exec execRecRdwinLoaded
    refine when_eq_next (by rw [alive, busy]; rfl) ?_
    simp only [none_]

end Sys2Proof.Machine
end

section
/-! Which setup, store, supply and plinth rows change their own group alone (R427, R494, R503, R509, R516, R517, R535, R553, R569 to R573). -/

namespace Sys2Proof.Machine

open Sys2Proof

-- One proof at a time: the check compiles every file as one text, within a limit of memory.
set_option Elab.async false

/-! ## Groups -/

/-- The groups of a state that a row may change, each as a state with that group as it is in another. -/
def graftRecd (z a : State) : State := { a with recd := z.recd }
def graftNvs (z a : State) : State := { a with nvs := z.nvs }
def graftPwr (z a : State) : State := { a with pwr := z.pwr }
def graftPlinth (z a : State) : State := { a with plinth := z.plinth }
def graftImg (z a : State) : State := { a with img := z.img }
def graftFlt (z a : State) : State := { a with flt := z.flt }
def graftSec (z a : State) : State := { a with sec := z.sec, recd := z.recd }
def graftTrim (z a : State) : State := { a with nvs := z.nvs, recd := z.recd, tile := z.tile }

/-- A row whose effect stays in a group changes that group alone, whether its condition holds or not. -/
theorem eq_graft_of_when (graft : State → State → State) (self : ∀ s, graft s s = s) {c : Bool} {f : State → State} {a z : State}
    (answer : when c f a = .next z) (effect : f a = graft (f a) a) : z = graft z a := by
  obtain rfl | rfl := eq_or_eq_of_when answer
  · exact effect
  · exact (self _).symm

theorem eq_graft_ite (graft : State → State → State) {c : Prop} [Decidable c] {x y s : State} (left : x = graft x s)
    (right : y = graft y s) : (if c then x else y) = graft (if c then x else y) s := by
  split
  · exact left
  · exact right

/-! ## Effects -/

theorem recordEvt_eq_graftRecd (e : RecEvt) (s : State) : recordEvt e s = graftRecd (recordEvt e s) s := by
  unfold recordEvt
  exact eq_graft_ite graftRecd rfl (eq_graft_ite graftRecd rfl rfl)

theorem recordRefused_eq_graftSec (off requester : Nat) (s : State) :
    recordRefused off requester s = graftSec (recordRefused off requester s) s := by
  unfold recordRefused record recordArgs
  rw [recordEvt_eq_graftRecd]
  rfl

theorem secStart_eq_graftSec (op : Nat) (slot : Fin 4) (confirm requester : Nat) (s : State) :
    secStart op slot confirm requester s = graftSec (secStart op slot confirm requester s) s := by
  unfold secStart
  exact eq_graft_ite graftSec (recordRefused_eq_graftSec _ _ s) (eq_graft_ite graftSec rfl rfl)

theorem modSrc_eq_graftFlt (id : Nat) (f : FltSt → FltSt) (s : State) : modSrc id f s = graftFlt (modSrc id f s) s := by
  unfold modSrc
  split <;> rfl

theorem injSet_eq_graftFlt (id : Nat) (v : Fin 4) (s : State) : injSet id v s = graftFlt (injSet id v s) s := by
  unfold injSet
  exact eq_graft_ite graftFlt rfl (modSrc_eq_graftFlt _ _ s)

theorem modFw_eq_graftNvs (kind : Nat) (f : Fw → Fw) (s : State) : modFw kind f s = graftNvs (modFw kind f s) s := by
  unfold modFw
  exact eq_graft_ite graftNvs rfl rfl

theorem beginLoad_eq_graftNvs (window : Bool) (s : State) : beginLoad window s = graftNvs (beginLoad window s) s := by
  unfold beginLoad
  dsimp only
  split
  · rfl
  · split
    · rfl
    · rw [modFw_eq_graftNvs]
      rfl

theorem fwOpen_eq_graftNvs (s : State) : fwOpen s = graftNvs (fwOpen s) s := by
  unfold fwOpen
  exact eq_graft_ite graftNvs (beginLoad_eq_graftNvs true s) rfl

theorem fwWord_eq_graftNvs (w : Word) (s : State) : fwWord w s = graftNvs (fwWord w s) s := by
  unfold fwWord
  exact eq_graft_ite graftNvs rfl (eq_graft_ite graftNvs rfl rfl)

/-! ## Trimming -/

theorem eq_graftTrim_trans {a b z : State} (first : b = graftTrim b a) (second : z = graftTrim z b) : z = graftTrim z a := by
  refine second.trans ?_
  rw [first]
  rfl

theorem mgtTrim_eq_graftTrim (k : Fin 96) (on : Bool) (s : State) : mgtTrim k on s = graftTrim (mgtTrim k on s) s := by
  unfold mgtTrim
  exact eq_graft_ite graftTrim rfl rfl

theorem mgtSend_eq_graftTrim (t : Fin 12) (kind : TKind) (c : Fin 8) (s : State) : mgtSend t kind c s = graftTrim (mgtSend t kind c s) s := by
  unfold mgtSend
  exact eq_graft_ite graftTrim rfl rfl

theorem recordTrim_eq_graftTrim (ev source reason : Nat) (v : Word) (s : State) :
    recordTrim ev source reason v s = graftTrim (recordTrim ev source reason v s) s := by
  unfold recordTrim record recordArgs
  rw [recordEvt_eq_graftRecd]
  rfl

/-- The end of trimming reaches the armed channel, a record and the tile's MGT slot (R119, R121). -/
theorem disarm_eq_graftTrim (s : State) : disarm s = graftTrim (disarm s) s := by
  unfold disarm
  split
  · rfl
  · next a _ =>
    have recorded : recordTrim 2 (srcOf 1 a.k.val) 0 0 (disarmQuiet s) = graftTrim (recordTrim 2 (srcOf 1 a.k.val) 0 0 (disarmQuiet s)) s :=
      eq_graftTrim_trans (b := disarmQuiet s) rfl (recordTrim_eq_graftTrim ..)
    have trimmed := eq_graftTrim_trans recorded (mgtTrim_eq_graftTrim a.k false _)
    dsimp only
    split
    · exact eq_graftTrim_trans trimmed (mgtSend_eq_graftTrim ..)
    · exact trimmed

/-! ## Rows -/

/-- Settles O20: each row is a guarded effect that stays in its group. -/
theorem registerRowsChangeTheirGroup : Obligations.RegisterRowsChangeTheirGroup := by
  have recd {c f a z} := @eq_graft_of_when graftRecd (fun _ => rfl) c f a z
  have nvs {c f a z} := @eq_graft_of_when graftNvs (fun _ => rfl) c f a z
  have pwr {c f a z} := @eq_graft_of_when graftPwr (fun _ => rfl) c f a z
  have plinth {c f a z} := @eq_graft_of_when graftPlinth (fun _ => rfl) c f a z
  have sec {c f a z} := @eq_graft_of_when graftSec (fun _ => rfl) c f a z
  have img {c f a z} := @eq_graft_of_when graftImg (fun _ => rfl) c f a z
  have flt {c f a z} := @eq_graft_of_when graftFlt (fun _ => rfl) c f a z
  refine ⟨?rdseq, ?rdwin, ?rdsel, ?nvsWin, ?chunk, ?open_, ?patina, ?trim, ?pll, ?vlog, ?holdup, ?tset, ?intrusion, ?loss, ?program, ?revoke,
    ?token, ?clrintr, ?stage, ?trapEnd, ?c4, ?inj⟩
  case rdseq =>
    intro t seq s z answer
    exact recd answer rfl
  case rdwin =>
    intro t s z answer
    unfold exec execRecRdwinLoaded at answer
    refine recd answer ?_
    split <;> rfl
  case rdsel =>
    intro t value s z answer
    exact nvs answer rfl
  case nvsWin =>
    intro t s z answer
    unfold exec execNvsRdwinLoaded at answer
    exact nvs answer rfl
  case chunk =>
    intro t word s z answer
    unfold exec execFwChunk at answer
    exact nvs answer (fwWord_eq_graftNvs word _)
  case open_ =>
    intro t s z answer
    unfold exec execFwOpen at answer
    exact nvs answer (fwOpen_eq_graftNvs _)
  case patina =>
    intro t s z answer
    unfold exec execPatinaWrite at answer
    exact nvs answer rfl
  case trim =>
    intro t s z answer
    unfold exec execTrimTimeout at answer
    exact eq_graft_of_when graftTrim (fun _ => rfl) answer (disarm_eq_graftTrim _)
  case pll =>
    intro t s z answer
    unfold exec execCclkPllLock at answer
    exact pwr answer rfl
  case vlog =>
    intro t vhold held s z answer
    unfold exec execVlogGood at answer
    exact pwr answer rfl
  case holdup =>
    intro t vhold s z answer
    unfold exec execHoldupTest at answer
    exact pwr answer rfl
  case tset =>
    intro t s z answer
    unfold exec execTsetUpdate at answer
    exact plinth answer rfl
  case intrusion =>
    intro t s z answer
    cases answer
    rfl
  case loss =>
    intro t vkeep s z answer
    unfold exec execPlinthLoss at answer
    exact plinth answer rfl
  case program =>
    intro t slot confirm s z answer
    unfold exec execSecProgram at answer
    exact sec answer (secStart_eq_graftSec ..)
  case revoke =>
    intro t slot confirm s z answer
    unfold exec execSecRevoke at answer
    exact sec answer (secStart_eq_graftSec ..)
  case token =>
    intro t confirm s z answer
    unfold exec execSecToken at answer
    exact sec answer (secStart_eq_graftSec ..)
  case clrintr =>
    intro t confirm s z answer
    unfold exec execSecClrintr at answer
    exact sec answer (secStart_eq_graftSec ..)
  case stage =>
    intro t begins cls s z answer
    unfold exec execGateStage at answer
    refine img answer ?_
    cases begins <;> rfl
  case trapEnd =>
    intro t src s z answer
    unfold exec execTrapHandlerEnd at answer
    exact flt answer (modSrc_eq_graftFlt ..)
  case c4 =>
    intro t src s z answer
    unfold exec execC4PendAutoClear at answer
    exact flt answer (modSrc_eq_graftFlt ..)
  case inj =>
    intro t src value s z answer
    unfold exec execInjWrite at answer
    exact flt answer (injSet_eq_graftFlt ..)

end Sys2Proof.Machine
end
